-- ==== Sys2Proof/Word.lean ====
section
/-! DEFINITION. Word types of the GX9 (spec/00_scope.md R5, R6; spec/04 R67) and their plainest arithmetic. -/

namespace Sys2Proof

/-- An instruction word: 32 bits (R67). -/
abbrev IWord := BitVec 32
/-- A scalar register or a 64-bit address (R130). -/
abbrev Word := BitVec 64
/-- One byte of memory. -/
abbrev Byte := BitVec 8
/-- A register number of any of the files g, v and p (R71). -/
abbrev Reg := BitVec 5

/-- `sext(x, n)` of R80 for a field of `n` bits. -/
abbrev sext {n : Nat} (x : BitVec n) : Word := x.signExtend 64
/-- `zext(x, n)` of R80 for a field of `n` bits. -/
abbrev zext {n : Nat} (x : BitVec n) : Word := x.setWidth 64

/-- 1 for true, 0 for false, as the comparisons of R130 write it. -/
def ofBool (b : Bool) : Word := if b then 1 else 0

/-- Bits `[hi:lo]` of a number (R5, R80). -/
def bitsOf (x hi lo : Nat) : Nat := (x >>> lo) % 2 ^ (hi + 1 - lo)

end Sys2Proof
end

