-- ==== Sys2Proof/Syntax.lean ====
section
/-! DEFINITION. The GX9's instructions and steps as syntax: one constructor per row of spec/opcode_table.json.
The 188 rows with an encoding carry the fields of the encoding (spec/04_formats_opcode_map.md R68, R69, in the
order of the row's fields); the 85 rows without one are the steps of the device's other agents and of the outside
world, and carry what names the occurrence (log entry 4). -/

namespace Sys2Proof

/-- The state of one vertical bus after bring-up repair: tower, bus, working wires (R399). -/
structure BusReport where
  tower : Nat
  bus : Nat
  wires : Nat
deriving DecidableEq, Repr

/-- One physical erase block as a stack reports it at phase 0x05 (R15, R332): its erase count and the logical
block it backs, if any. -/
structure WearReport where
  stack : Nat
  block : Nat
  count : Nat
  logical : Option Nat
deriving DecidableEq, Repr

/-- A response flit as it reaches a thread (R337, R342): first element served, virtual line, source position, age, and the late
cause found on the way, if any (R358, R402–R404, R407). -/
structure Response where
  elem : Nat
  va : Nat
  src : Nat
  age : Nat
  found : Option Nat
deriving DecidableEq, Repr

/-- An access in flight over a link that is lost: its agent, the address not delivered, and whether a write of it is in
doubt (R346, R391). -/
structure LinkHit where
  ag : Nat
  va : Nat
  doubt : Bool
deriving DecidableEq, Repr

/-- Where LAUNCH_ADMIT puts one launch cluster: a physical cluster (32w + c) and, for each launch core, its
physical core and the scalar cores of its threads (R314). -/
structure Placement where
  cluster : Nat
  cores : List (Nat × List Nat)
deriving DecidableEq, Repr

/-- A flit offered for injection: source and destination positions y × 6 + x and a request number (R338, R339). -/
structure FlitReq where
  plane : Nat
  src : Nat
  dst : Nat
  req : Nat
deriving DecidableEq, Repr

/-- How an access to the host ended (R407). -/
inductive HostError where
  | missing | unsupported | aborted | poisoned | releaseUnacked | marked
deriving DecidableEq, Repr

/-- What the patrol scrubber found on a line (R402). -/
inductive ScrubFound where
  | clean | corrected | uncorrectable
deriving DecidableEq, Repr

/-- Every row of spec/opcode_table.json. -/
inductive Instr where
  /-- ADD (R130). -/
  | add (d a b : Reg)
  /-- SUB (R130). -/
  | sub (d a b : Reg)
  /-- AND (R130). -/
  | and (d a b : Reg)
  /-- OR (R130). -/
  | or (d a b : Reg)
  /-- XOR (R130). -/
  | xor (d a b : Reg)
  /-- SLL (R130). -/
  | sll (d a b : Reg)
  /-- SRL (R130). -/
  | srl (d a b : Reg)
  /-- SRA (R130). -/
  | sra (d a b : Reg)
  /-- SLT (R130). -/
  | slt (d a b : Reg)
  /-- SLTU (R130). -/
  | sltu (d a b : Reg)
  /-- MUL (R130). -/
  | mul (d a b : Reg)
  /-- MULH (R130). -/
  | mulh (d a b : Reg)
  /-- DIV (R131). -/
  | div (d a b : Reg)
  /-- DIVU (R131). -/
  | divu (d a b : Reg)
  /-- REM (R131). -/
  | rem (d a b : Reg)
  /-- REMU (R131). -/
  | remu (d a b : Reg)
  /-- ADDI (R132). -/
  | addi (d a : Reg) (imm : BitVec 16)
  /-- ANDI (R132). -/
  | andi (d a : Reg) (imm : BitVec 16)
  /-- ORI (R132). -/
  | ori (d a : Reg) (imm : BitVec 16)
  /-- XORI (R132). -/
  | xori (d a : Reg) (imm : BitVec 16)
  /-- SLTI (R132). -/
  | slti (d a : Reg) (imm : BitVec 16)
  /-- SLTIU (R132). -/
  | sltiu (d a : Reg) (imm : BitVec 16)
  /-- LUI (R132). -/
  | lui (d : Reg) (imm : BitVec 16)
  /-- LSI (R132). -/
  | lsi (d a : Reg) (imm : BitVec 16)
  /-- SLLI (R133). -/
  | slli (d a : Reg) (sh : BitVec 6)
  /-- SRLI (R133). -/
  | srli (d a : Reg) (sh : BitVec 6)
  /-- SRAI (R133). -/
  | srai (d a : Reg) (sh : BitVec 6)
  /-- SEL (R134). -/
  | sel (d a b : Reg)
  /-- FADD (R136). -/
  | fadd (d a b : Reg) (fmt rm : BitVec 2)
  /-- FSUB (R136). -/
  | fsub (d a b : Reg) (fmt rm : BitVec 2)
  /-- FMUL (R136). -/
  | fmul (d a b : Reg) (fmt rm : BitVec 2)
  /-- FMADD (R136). -/
  | fmadd (d a b : Reg) (fmt rm : BitVec 2)
  /-- FLT (R136). -/
  | flt (d a b : Reg) (fmt : BitVec 2)
  /-- FCVT (R137). -/
  | fcvt (d a : Reg) (dir : Bool) (fsrc : BitVec 4) (fmt rm : BitVec 2)
  /-- BEQ (R138). -/
  | beq (a b : Reg) (off : BitVec 16)
  /-- BNE (R138). -/
  | bne (a b : Reg) (off : BitVec 16)
  /-- BLT (R138). -/
  | blt (a b : Reg) (off : BitVec 16)
  /-- BGE (R138). -/
  | bge (a b : Reg) (off : BitVec 16)
  /-- JAL (R139). -/
  | jal (d : Reg) (off : BitVec 21)
  /-- JALR (R139). -/
  | jalr (a : Reg) (off : BitVec 16)
  /-- JR (R139). -/
  | jr (a : Reg) (off : BitVec 16)
  /-- BPANY (R140). -/
  | bpany (a : Reg) (off : BitVec 16)
  /-- BPALL (R140). -/
  | bpall (a : Reg) (off : BitVec 16)
  /-- LOOPV (R141). -/
  | loopv (a : Reg) (n : BitVec 16)
  /-- LDB (R206). -/
  | ldb (d a : Reg) (off : BitVec 13)
  /-- LDH (R206). -/
  | ldh (d a : Reg) (off : BitVec 13)
  /-- LDW (R206). -/
  | ldw (d a : Reg) (off : BitVec 13)
  /-- LDD (R206). -/
  | ldd (d a : Reg) (off : BitVec 13)
  /-- LDBS (R206). -/
  | ldbs (d a : Reg) (off : BitVec 13)
  /-- LDHS (R206). -/
  | ldhs (d a : Reg) (off : BitVec 13)
  /-- LDWS (R206). -/
  | ldws (d a : Reg) (off : BitVec 13)
  /-- STB (R207). -/
  | stb (a b : Reg) (off : BitVec 13)
  /-- STH (R207). -/
  | sth (a b : Reg) (off : BitVec 13)
  /-- STW (R207). -/
  | stw (a b : Reg) (off : BitVec 13)
  /-- STD (R207). -/
  | std (a b : Reg) (off : BitVec 13)
  /-- LDP (R208). -/
  | ldp (d a : Reg) (off : BitVec 13)
  /-- LDP_HEAL (R208). -/
  | ldpHeal (d a : Reg) (off : BitVec 13)
  /-- PEQ (R209). -/
  | peq (d a b : Reg)
  /-- AMOSWAP (R225). -/
  | amoswap (d a b : Reg) (acq rel : Bool) (scope : BitVec 2) (w : Bool)
  /-- AMOADD (R225). -/
  | amoadd (d a b : Reg) (acq rel : Bool) (scope : BitVec 2) (w : Bool)
  /-- AMOAND (R225). -/
  | amoand (d a b : Reg) (acq rel : Bool) (scope : BitVec 2) (w : Bool)
  /-- AMOOR (R225). -/
  | amoor (d a b : Reg) (acq rel : Bool) (scope : BitVec 2) (w : Bool)
  /-- AMOXOR (R225). -/
  | amoxor (d a b : Reg) (acq rel : Bool) (scope : BitVec 2) (w : Bool)
  /-- AMOMIN (R225). -/
  | amomin (d a b : Reg) (acq rel : Bool) (scope : BitVec 2) (w : Bool)
  /-- AMOMAX (R225). -/
  | amomax (d a b : Reg) (acq rel : Bool) (scope : BitVec 2) (w : Bool)
  /-- AMOCAS (R225). -/
  | amocas (d a b : Reg) (acq rel : Bool) (scope : BitVec 2) (w : Bool)
  /-- TICKET (R227). -/
  | ticket (d a b : Reg) (acq rel : Bool) (scope : BitVec 2) (w : Bool)
  /-- WAITA (R228). -/
  | waita (d a b : Reg) (acq rel : Bool) (scope : BitVec 2) (w : Bool)
  /-- WAITA_WAKE (R228). -/
  | waitaWake (ag : Nat)
  /-- FENCE (R230). -/
  | fence (mask : BitVec 5) (kind : BitVec 2) (acq rel : Bool) (scope : BitVec 2)
  /-- BARRIER (R231). -/
  | barrier (mask : BitVec 5) (acq rel : Bool) (scope : BitVec 2)
  /-- BARRIER_COMPLETE (R231). -/
  | barrierComplete (ag : Nat)
  /-- VSETVLI (R157). -/
  | vsetvli (d a : Reg) (fmt : BitVec 4) (grp tail : BitVec 2)
  /-- VSETVL (R157). -/
  | vsetvl (d a b : Reg)
  /-- VRETAG (R117). -/
  | vretag (d a : Reg) (fmt : BitVec 4) (grp : BitVec 2)
  /-- VSAVE (R126). -/
  | vsave (d a : Reg)
  /-- VRESTORE (R127). -/
  | vrestore (d a : Reg)
  /-- VSPILL (R125). -/
  | vspill (d a : Reg)
  /-- VADD (R163). -/
  | vadd (d a b p : Reg)
  /-- VSUB (R163). -/
  | vsub (d a b p : Reg)
  /-- VQADD (R163). -/
  | vqadd (d a b p : Reg)
  /-- VQSUB (R163). -/
  | vqsub (d a b p : Reg)
  /-- VMUL (R163). -/
  | vmul (d a b p : Reg)
  /-- VMULH (R163). -/
  | vmulh (d a b p : Reg)
  /-- VMACC (R163). -/
  | vmacc (d a b p : Reg)
  /-- VAND (R163). -/
  | vand (d a b p : Reg)
  /-- VOR (R163). -/
  | vor (d a b p : Reg)
  /-- VXOR (R163). -/
  | vxor (d a b p : Reg)
  /-- VSLL (R163). -/
  | vsll (d a b p : Reg)
  /-- VSRL (R163). -/
  | vsrl (d a b p : Reg)
  /-- VSRA (R163). -/
  | vsra (d a b p : Reg)
  /-- VMIN (R163). -/
  | vmin (d a b p : Reg)
  /-- VMAX (R163). -/
  | vmax (d a b p : Reg)
  /-- VFADD (R164). -/
  | vfadd (d a b p : Reg) (rm : BitVec 2)
  /-- VFSUB (R164). -/
  | vfsub (d a b p : Reg) (rm : BitVec 2)
  /-- VFMUL (R164). -/
  | vfmul (d a b p : Reg) (rm : BitVec 2)
  /-- VFDIV (R164). -/
  | vfdiv (d a b p : Reg) (rm : BitVec 2)
  /-- VFSQRT (R164). -/
  | vfsqrt (d a p : Reg) (rm : BitVec 2)
  /-- VFMA (R164). -/
  | vfma (d a b p : Reg) (rm : BitVec 2)
  /-- VFMS (R164). -/
  | vfms (d a b p : Reg) (rm : BitVec 2)
  /-- VFMIN (R164). -/
  | vfmin (d a b p : Reg) (rm : BitVec 2)
  /-- VFMAX (R164). -/
  | vfmax (d a b p : Reg) (rm : BitVec 2)
  /-- VFABS (R164). -/
  | vfabs (d a p : Reg) (rm : BitVec 2)
  /-- VFNEG (R164). -/
  | vfneg (d a p : Reg) (rm : BitVec 2)
  /-- VFSGNJ (R164). -/
  | vfsgnj (d a b p : Reg) (rm : BitVec 2)
  /-- VFRECIP (R164). -/
  | vfrecip (d a p : Reg) (rm : BitVec 2)
  /-- VFRSQRT (R164). -/
  | vfrsqrt (d a p : Reg) (rm : BitVec 2)
  /-- VFCLASS (R165). -/
  | vfclass (d a p : Reg) (rm : BitVec 2)
  /-- VCMPEQ (R166). -/
  | vcmpeq (d a b p : Reg)
  /-- VCMPNE (R166). -/
  | vcmpne (d a b p : Reg)
  /-- VCMPLT (R166). -/
  | vcmplt (d a b p : Reg)
  /-- VCMPLE (R166). -/
  | vcmple (d a b p : Reg)
  /-- VPAND (R167). -/
  | vpand (d a b p : Reg)
  /-- VPOR (R167). -/
  | vpor (d a b p : Reg)
  /-- VPXOR (R167). -/
  | vpxor (d a b p : Reg)
  /-- VPANDN (R167). -/
  | vpandn (d a b p : Reg)
  /-- VSLIDEUP (R173). -/
  | vslideup (d a b p : Reg)
  /-- VSLIDEDN (R173). -/
  | vslidedn (d a b p : Reg)
  /-- VPERM (R174). -/
  | vperm (d a b p : Reg)
  /-- VBCAST (R175). -/
  | vbcast (d a p : Reg)
  /-- VCOMPRESS (R176). -/
  | vcompress (d a p : Reg)
  /-- VREDSUM (R178). -/
  | vredsum (d a b p : Reg)
  /-- VFREDSUM (R101). -/
  | vfredsum (d a b p : Reg) (rm : BitVec 2)
  /-- VFREDOSUM (R101). -/
  | vfredosum (d a b p : Reg) (rm : BitVec 2)
  /-- VREDMAX (R178). -/
  | vredmax (d a b p : Reg)
  /-- VSCAN (R179). -/
  | vscan (d a b p : Reg)
  /-- VPRUNE (R180). -/
  | vprune (d a b p : Reg)
  /-- VMVS (R177). -/
  | vmvs (d a b : Reg)
  /-- VCVT (R168). -/
  | vcvt (d a p : Reg) (rm : BitVec 2)
  /-- VCVTEF (R169). -/
  | vcvtef (d a b p : Reg) (rm : BitVec 2)
  /-- VDQBX (R170). -/
  | vdqbx (d a p : Reg)
  /-- VNSAT (R171). -/
  | vnsat (d a p : Reg)
  /-- VQBX (R172). -/
  | vqbx (d a : Reg) (k : BitVec 3) (rm : BitVec 2)
  /-- VLD (R211). -/
  | vld (d a s p : Reg) (ord : BitVec 2)
  /-- VLDS (R211). -/
  | vlds (d a i p : Reg) (ord : BitVec 2)
  /-- VLDFF (R214). -/
  | vldff (d a p : Reg) (ord : BitVec 2)
  /-- VLDX (R215). -/
  | vldx (d a i p : Reg) (ls : Bool) (ord : BitVec 2)
  /-- VST (R211). -/
  | vst (d a s p : Reg) (ord : BitVec 2)
  /-- VSTS (R211). -/
  | vsts (d a i p : Reg) (ord : BitVec 2)
  /-- VSTX (R216). -/
  | vstx (d a i p : Reg) (ls : Bool) (ord : BitVec 2)
  /-- VSCADD (R217). -/
  | vscadd (d a i p : Reg) (ls : Bool) (ord : BitVec 2)
  /-- VSLD (R222). -/
  | vsld (d : Reg) (h : BitVec 3) (p : Reg) (ord : BitVec 2)
  /-- VSST (R222). -/
  | vsst (d : Reg) (h : BitVec 3) (p : Reg) (ord : BitVec 2)
  /-- VGSLD (R224). -/
  | vgsld (d : Reg) (h : BitVec 3) (p : Reg) (ord : BitVec 2)
  /-- VGSLD_MEET (R31). -/
  | vgsldMeet (ag : Nat)
  /-- VSTRIP (R221). -/
  | vstrip (h : BitVec 3) (i : Reg)
  /-- VSADD (R269). -/
  | vsadd (d a b : BitVec 3) (rm : BitVec 2)
  /-- VSMUL (R269). -/
  | vsmul (d a b : BitVec 3) (rm : BitVec 2)
  /-- VSDOT (R270). -/
  | vsdot (d : Reg) (a b : BitVec 3) (rm : BitVec 2)
  /-- VSPLD (R272). -/
  | vspld (d : BitVec 3) (a b : Reg)
  /-- VSPST (R273). -/
  | vspst (d : Reg) (a : BitVec 3) (b : Reg)
  /-- MLDT_A (R259). -/
  | mldtA (d a : Reg)
  /-- MLDT_B (R259). -/
  | mldtB (d a : Reg)
  /-- MLDTFF_A (R259). -/
  | mldtffA (d a : Reg)
  /-- MLDTFF_B (R259). -/
  | mldtffB (d a : Reg)
  /-- MST (R261). -/
  | mst (acc : BitVec 2) (a : Reg)
  /-- MMA (R263). -/
  | mma (acc : BitVec 2)
  /-- MMAS (R264). -/
  | mmas (acc : BitVec 2)
  /-- MZERO (R262). -/
  | mzero (acc : BitVec 2)
  /-- ACC_ROW_COMPLETE (R265). -/
  | accRowComplete (cl acc row : Nat)
  /-- VMRD (R267). -/
  | vmrd (d : Reg) (acc : BitVec 2) (b p : Reg) (rm : BitVec 2)
  /-- VMWR (R267). -/
  | vmwr (d : Reg) (acc : BitVec 2) (b p : Reg)
  /-- XCOPY (R284). -/
  | xcopy (d a b : Reg) (acq rel : Bool) (scope : BitVec 2)
  /-- XCOPY_EXECUTE (R284). -/
  | xcopyExecute (cmd : Nat)
  /-- XSTREAM (R288). -/
  | xstream (a : Reg) (acq : Bool) (scope : BitVec 2)
  /-- XSTREAM_BIND (R288). -/
  | xstreamBind (cmd : Nat)
  /-- XSBAR (R289). -/
  | xsbar (mask : BitVec 5) (acq : Bool) (scope : BitVec 2)
  /-- XSBAR_DRAIN (R289). -/
  | xsbarDrain (ag : Nat)
  /-- XGATHER (R274). -/
  | xgather (a : Reg) (acq rel : Bool) (scope : BitVec 2)
  /-- XGATHER_EXECUTE (R275). -/
  | xgatherExecute (cmd : Nat)
  /-- XBIN (R274). -/
  | xbin (a : Reg) (acq rel : Bool) (scope : BitVec 2)
  /-- XBIN_EXECUTE (R276). -/
  | xbinExecute (cmd : Nat)
  /-- XMOVE (R291). -/
  | xmove (d a b : Reg) (acq rel : Bool) (scope : BitVec 2)
  /-- XMOVE_EXECUTE (R291). -/
  | xmoveExecute (cmd : Nat)
  /-- MOVED_ACCESS_RETRY (R251). -/
  | movedAccessRetry (cl line : Nat)
  /-- XHEAL (R293). -/
  | xheal (a : Reg) (acq rel : Bool) (scope : BitVec 2)
  /-- XHEAL_EXECUTE (R293). -/
  | xhealExecute (cmd : Nat)
  /-- XRECLAIM (R294). -/
  | xreclaim (a : Reg) (acq rel : Bool) (scope : BitVec 2)
  /-- XRECLAIM_EXECUTE (R294). -/
  | xreclaimExecute (cmd : Nat)
  /-- XINST (R295). -/
  | xinst (d a b : Reg) (acq rel : Bool) (scope : BitVec 2)
  /-- XINST_EXECUTE (R295). -/
  | xinstExecute (cmd : Nat)
  /-- BLOCK_ERASE (R332). -/
  | blockErase (stack block : Nat)
  /-- XPIN (R299). -/
  | xpin (d a b : Reg) (acq rel : Bool) (scope : BitVec 2)
  /-- XPIN_EXECUTE (R299). -/
  | xpinExecute (cmd : Nat)
  /-- XWEAR (R300). -/
  | xwear (d a : Reg)
  /-- XWEAR_EXECUTE (R300). -/
  | xwearExecute (cmd : Nat)
  /-- XSWEEP (R303). -/
  | xsweep (a : Reg) (acq rel : Bool) (scope : BitVec 2)
  /-- XSWEEP_EXECUTE (R304). -/
  | xsweepExecute (cmd : Nat)
  /-- SWEEP_BATCH (R304). -/
  | sweepBatch (cmd : Nat)
  /-- CWAIT (R308). -/
  | cwait (d a b : Reg) (acq rel : Bool) (scope : BitVec 2)
  /-- CWAIT_WAKE (R308). -/
  | cwaitWake (ag : Nat)
  /-- CWAKE (R306). -/
  | cwake (d a b : Reg) (acq rel : Bool) (scope : BitVec 2)
  /-- LAUNCH (R313). -/
  | launch (d a : Reg)
  /-- LAUNCH_TABLE_ENTRY_FREE (R313). -/
  | launchTableEntryFree (ag : Nat)
  /-- FORK (R316). -/
  | fork (mask : BitVec 8)
  /-- FORK_BOUND (R34). -/
  | forkBound (ag : Nat)
  /-- JOIN (R316). -/
  | join (mask : BitVec 8)
  /-- JOIN_COMPLETE (R316). -/
  | joinComplete (ag : Nat)
  /-- YIELD (R318). -/
  | yield
  /-- EXIT (R317). -/
  | exit
  /-- ID (R145). -/
  | id (d : Reg) (sel : BitVec 8)
  /-- GANG (R320). -/
  | gang (d : Reg) (n : BitVec 8)
  /-- GANG_COMPLETE (R320). -/
  | gangComplete (ag : Nat)
  /-- WAITT (R319). -/
  | waitt (a : Reg)
  /-- WAITT_EXPIRE (R39). -/
  | waittExpire (ag : Nat)
  /-- TRAP (R147). -/
  | trap (k : BitVec 12)
  /-- ERET (R356). -/
  | eret
  /-- KGET (R149). -/
  | kget (d : Reg) (k : BitVec 12)
  /-- KSET (R150). -/
  | kset (a : Reg) (k : BitVec 12)
  /-- L2WAYS_WRITE (R188). -/
  | l2waysWrite (ag : Nat)
  /-- TLBINV (R151). -/
  | tlbinv (d a : Reg)
  /-- CFLUSH (R152). -/
  | cflush (d a : Reg)
  /-- WFI (R153). -/
  | wfi (a : Reg)
  /-- WFI_WAKE (R153). -/
  | wfiWake (ag : Nat)
  /-- HINT (R79). -/
  | hint (n : BitVec 26)
  /-- ASYNC_EVENT_DELIVER (R359). -/
  | asyncEventDeliver (ag : Nat)
  /-- ILLEGAL_INSN (R77). -/
  | illegalInsn (w : IWord)
  /-- POWER_ON (R15). -/
  | powerOn
  /-- FIRMWARE_VERIFIED (R15). -/
  | firmwareVerified (ok : Bool)
  /-- FABRIC_TRAINED (R15). -/
  | fabricTrained (ok : Bool)
  /-- VERTICAL_BUSES_REPAIRED (R15). -/
  | verticalBusesRepaired (failed : BitVec 12) (buses : List BusReport)
  /-- DRAM_INITIALISED (R15). -/
  | dramInitialised (failed : BitVec 12)
  /-- GRANARY_ONLINE (R15). -/
  | granaryOnline (ok : BitVec 4) (wear : List WearReport)
  /-- TIME_ALIGNED (R38). -/
  | timeAligned (failed : BitVec 12) (skew : List Nat)
  /-- READY (R15). -/
  | ready
  /-- ARBITER_GRANT (R41). -/
  | arbiterGrant (core : Nat)
  /-- BEAT_WRITE (R26). -/
  | beatWrite (ag : Nat)
  /-- ROW_STALL_PREEMPT (R116). -/
  | rowStallPreempt (core : Nat)
  /-- VQUEUE_ROOM (R21). -/
  | vqueueRoom (ag : Nat)
  /-- VECTOR_COMMIT (R357). -/
  | vectorCommit (ag : Nat)
  /-- MEMORY_RESPONSE_ARRIVAL (R26). -/
  | memoryResponseArrival (ag : Nat) (r : Response)
  /-- HOME_ACCESS_PERFORM (R233). -/
  | homeAccessPerform (idx : Nat)
  /-- L1_FILL (R190). -/
  | l1Fill (cl asid va : Nat)
  /-- WRITEBACK_APPLY (R244). -/
  | writebackApply (cl line : Nat)
  /-- PAGE_WALK (R197). -/
  | pageWalk (tower asid va : Nat)
  /-- PAGER_ANSWER (R363). -/
  | pagerAnswer (slot : Nat)
  /-- HANDLE_RUNAHEAD_READ (R223). -/
  | handleRunaheadRead (ag h : Nat)
  /-- PORT_HANDOFF (R198). -/
  | portHandoff (cl : Nat)
  /-- STAGING_FILL (R201). -/
  | stagingFill (tower unit : Nat)
  /-- OLDTKT_UPDATE (R290). -/
  | oldtktUpdate (tower : Nat)
  /-- ENGINE_QUEUE_ROOM (R281). -/
  | engineQueueRoom (ag : Nat)
  /-- LAUNCH_ADMIT (R314). -/
  | launchAdmit (l : Nat) (place : List Placement)
  /-- LAUNCH_END (R315). -/
  | launchEnd (l : Nat)
  /-- LAUNCH_STOP (R365). -/
  | launchStop (l cause : Nat)
  /-- LAUNCH_TIMEOUT (R37). -/
  | launchTimeout (l : Nat)
  /-- BUDGET_WARN (R359). -/
  | budgetWarn (ag : Nat)
  /-- WATCHDOG (R360). -/
  | watchdog (ag : Nat)
  /-- PREEMPT (R323). -/
  | preempt (ag : Nat)
  /-- CONTEXT_RESTORE (R326). -/
  | contextRestore (ag slot : Nat)
  /-- SWEEP_CONTEXT_SAVE (R327). -/
  | sweepContextSave (core : Nat)
  /-- FLIT_ROUTE (R338). -/
  | flitRoute (plane : Nat) (inj : List FlitReq)
  /-- FLIT_AGE_STEP (R338). -/
  | flitAgeStep
  /-- INJRATE_WINDOW (R340). -/
  | injrateWindow
  /-- REQUEST_RESEND (R406). -/
  | requestResend (req : FlitReq)
  /-- PLANE_FAIL (R406). -/
  | planeFail (plane : Nat)
  /-- LINK_DOWN (R407). -/
  | linkDown (link : Nat) (hit : List LinkHit)
  /-- LINK_UP (R407). -/
  | linkUp (link : Nat)
  /-- INBOUND_WRITE (R346). -/
  | inboundWrite (src pa : Nat) (data : List Byte)
  /-- HOST_READ (R347). -/
  | hostRead (fn off len : Nat)
  /-- HOST_TIMEOUT (R407). -/
  | hostTimeout (ag va : Nat) (kind : HostError)
  /-- KILL (R365). -/
  | kill (v : Word)
  /-- ATTCTL (R349). -/
  | attctl (v : Word)
  /-- ATTESTATION_REPORT_READY (R349). -/
  | attestationReportReady
  /-- APER (R344). -/
  | aper (n : Nat) (v : BitVec 128)
  /-- VFCFG (R347). -/
  | vfcfg (fn : Nat) (v : Word)
  /-- REGISTER_WRITE (R193). -/
  | registerWrite (off : Nat) (v : Word)
  /-- BUS_RETRAIN (R399). -/
  | busRetrain (tower bus : Nat)
  /-- BUS_RETRAIN_DONE (R399). -/
  | busRetrainDone (tower bus wires : Nat)
  /-- BUS_TEST (R401). -/
  | busTest (tower bus : Nat) (pass : Bool)
  /-- PATROL_SCRUB (R402). -/
  | patrolScrub (line : Nat) (found : ScrubFound)
  /-- MCHECK (R408). -/
  | mcheck (tower : Nat)
  /-- TOWER_LOST (R408). -/
  | towerLost (tower : Nat)
  /-- GRANARY_STACK_FAILED (R382). -/
  | granaryStackFailed (stack : Nat)
deriving DecidableEq, Repr

end Sys2Proof
end

