-- ==== Sys2Proof/WellFormed.lean ====
section
/-! DEFINITION. Which field values the decode of spec/04 R77, spec/07 R154 and the entries' own zero and range
rules accept. A word whose fields fail these checks is ILLEGAL_INSN at step 1 of R368. The checks of the
executing stage's kind (R77 item 9) are the machine's, not the word's. -/

namespace Sys2Proof

/-- The control registers KGET may name (R154). -/
def creg.listed (k : Nat) : Bool :=
  k ≤ 0x005 || (0x010 ≤ k && k ≤ 0x017) || (0x020 ≤ k && k ≤ 0x027) || k == 0x030 || k == 0x031 || k == 0x040 ||
  k == 0x041 || (0x100 ≤ k && k ≤ 0x103) || (0x180 ≤ k && k ≤ 0x185)

/-- The registers that are R in both modes: KSET of one raises ILLEGAL_INSN at decode (R154). -/
def creg.readOnly (k : Nat) : Bool :=
  k == 0x000 || k == 0x003 || k == 0x005 || k == 0x040 || k == 0x041 || k == 0x101

/-- A format code that R75 assigns. -/
def fmtCode.ok (f : BitVec 4) : Bool := f.toNat ≤ 12

namespace Instr

/-- The field ranges of R74–R76 and R154, per form; every other form admits every value of its fields. -/
def wellFormed : Instr → Bool
  | .fcvt _ _ _ fsrc _ _ => 3 ≤ fsrc.toNat && fsrc.toNat ≤ 8
  | .loopv _ n => 1 ≤ n.toNat && n.toNat ≤ 32
  | .fence _ kind _ _ _ => kind != 3
  | .barrier mask _ _ _ => mask.toNat ≤ 3
  | .vsetvli _ _ fmt _ tail => fmtCode.ok fmt && tail != 3
  | .vretag _ _ fmt _ => fmtCode.ok fmt
  | .vqbx _ _ k _ => k != 0
  | .vldx _ _ _ _ ls ord => !ls || ord == 0
  | .vstx _ _ _ _ ls ord => !ls || ord == 0
  | .vscadd _ _ _ _ ls ord => !ls || ord == 0
  | .fork mask => mask != 0 && mask.getLsbD 0 == false
  | .join mask => mask != 0 && mask.getLsbD 0 == false
  | .id _ c => c.toNat ≤ 7
  | .gang _ n => 2 ≤ n.toNat && n.toNat ≤ 4
  | .kget _ k => creg.listed k.toNat
  | .kset _ k => creg.listed k.toNat && !creg.readOnly k.toNat
  | .tlbinv d _ => d.toNat ≤ 1
  | .cflush d _ => d.toNat ≤ 2
  | _ => true

end Instr

end Sys2Proof
end

