-- ==== Sys2Proof/Decode.lean ====
section
/-! DEFINITION. The decoder, total on every 32-bit word (spec/04_formats_opcode_map.md R67–R70, R77; the entries'
own zero fields), and after it the encoder, written from the same layouts. A word that is no instruction is
refused by `none`, and the machine's step then takes ILLEGAL_INSN for it (R77, R78). -/

namespace Sys2Proof

/-- The `len` bits of a word from bit `lo` up (R5, R68). -/
def bits (w : IWord) (lo len : Nat) : BitVec len := w.extractLsb' lo len
/-- One bit of a word, as a flag. -/
abbrev bit (w : IWord) (lo : Nat) : Bool := bits w lo 1 = 1

/-- Major 0x01 (R70). -/
def decode01 (w : IWord) : Option Instr :=
  if bits w 0 11 = 0 then some (.add (bits w 21 5) (bits w 16 5) (bits w 11 5))
  else if bits w 0 11 = 1 then some (.sub (bits w 21 5) (bits w 16 5) (bits w 11 5))
  else if bits w 0 11 = 2 then some (.and (bits w 21 5) (bits w 16 5) (bits w 11 5))
  else if bits w 0 11 = 3 then some (.or (bits w 21 5) (bits w 16 5) (bits w 11 5))
  else if bits w 0 11 = 4 then some (.xor (bits w 21 5) (bits w 16 5) (bits w 11 5))
  else if bits w 0 11 = 5 then some (.sll (bits w 21 5) (bits w 16 5) (bits w 11 5))
  else if bits w 0 11 = 6 then some (.srl (bits w 21 5) (bits w 16 5) (bits w 11 5))
  else if bits w 0 11 = 7 then some (.sra (bits w 21 5) (bits w 16 5) (bits w 11 5))
  else if bits w 0 11 = 8 then some (.slt (bits w 21 5) (bits w 16 5) (bits w 11 5))
  else if bits w 0 11 = 9 then some (.sltu (bits w 21 5) (bits w 16 5) (bits w 11 5))
  else if bits w 0 11 = 0xa then some (.mul (bits w 21 5) (bits w 16 5) (bits w 11 5))
  else if bits w 0 11 = 0xb then some (.mulh (bits w 21 5) (bits w 16 5) (bits w 11 5))
  else if bits w 0 11 = 0xc then some (.div (bits w 21 5) (bits w 16 5) (bits w 11 5))
  else if bits w 0 11 = 0xd then some (.divu (bits w 21 5) (bits w 16 5) (bits w 11 5))
  else if bits w 0 11 = 0xe then some (.rem (bits w 21 5) (bits w 16 5) (bits w 11 5))
  else if bits w 0 11 = 0xf then some (.remu (bits w 21 5) (bits w 16 5) (bits w 11 5))
  else none

/-- Major 0x02 (R70). -/
def decode02 (w : IWord) : Option Instr :=
  some (.addi (bits w 21 5) (bits w 16 5) (bits w 0 16))

/-- Major 0x03 (R70). -/
def decode03 (w : IWord) : Option Instr :=
  some (.andi (bits w 21 5) (bits w 16 5) (bits w 0 16))

/-- Major 0x04 (R70). -/
def decode04 (w : IWord) : Option Instr :=
  some (.ori (bits w 21 5) (bits w 16 5) (bits w 0 16))

/-- Major 0x05 (R70). -/
def decode05 (w : IWord) : Option Instr :=
  some (.xori (bits w 21 5) (bits w 16 5) (bits w 0 16))

/-- Major 0x06 (R70). -/
def decode06 (w : IWord) : Option Instr :=
  some (.slti (bits w 21 5) (bits w 16 5) (bits w 0 16))

/-- Major 0x07 (R70). -/
def decode07 (w : IWord) : Option Instr :=
  some (.sltiu (bits w 21 5) (bits w 16 5) (bits w 0 16))

/-- Major 0x08 (R70). -/
def decode08 (w : IWord) : Option Instr :=
  if bits w 16 5 = 0 then some (.lui (bits w 21 5) (bits w 0 16))
  else none

/-- Major 0x09 (R70). -/
def decode09 (w : IWord) : Option Instr :=
  some (.lsi (bits w 21 5) (bits w 16 5) (bits w 0 16))

/-- Major 0x0A (R70). -/
def decode0A (w : IWord) : Option Instr :=
  if bits w 6 10 = 0 then some (.slli (bits w 21 5) (bits w 16 5) (bits w 0 6))
  else if bits w 6 10 = 1 then some (.srli (bits w 21 5) (bits w 16 5) (bits w 0 6))
  else if bits w 6 10 = 2 then some (.srai (bits w 21 5) (bits w 16 5) (bits w 0 6))
  else none

/-- Major 0x0B (R70). -/
def decode0B (w : IWord) : Option Instr :=
  if bits w 0 11 = 0 then some (.sel (bits w 21 5) (bits w 16 5) (bits w 11 5))
  else none

/-- Major 0x0C (R70). -/
def decode0C (w : IWord) : Option Instr :=
  if bits w 7 4 = 0 ∧ bits w 0 3 = 0 then some (.fadd (bits w 21 5) (bits w 16 5) (bits w 11 5) (bits w 5 2) (bits w 3 2))
  else if bits w 7 4 = 0 ∧ bits w 0 3 = 1 then some (.fsub (bits w 21 5) (bits w 16 5) (bits w 11 5) (bits w 5 2) (bits w 3 2))
  else if bits w 7 4 = 0 ∧ bits w 0 3 = 2 then some (.fmul (bits w 21 5) (bits w 16 5) (bits w 11 5) (bits w 5 2) (bits w 3 2))
  else if bits w 7 4 = 0 ∧ bits w 0 3 = 3 then some (.fmadd (bits w 21 5) (bits w 16 5) (bits w 11 5) (bits w 5 2) (bits w 3 2))
  else if bits w 7 4 = 0 ∧ bits w 3 2 = 0 ∧ bits w 0 3 = 4 then some (.flt (bits w 21 5) (bits w 16 5) (bits w 11 5) (bits w 5 2))
  else if bits w 7 4 = 0 ∧ bits w 0 3 = 5 then some (.fcvt (bits w 21 5) (bits w 16 5) (bit w 15) (bits w 11 4) (bits w 5 2) (bits w 3 2))
  else none

/-- Major 0x0D (R70). -/
def decode0D (w : IWord) : Option Instr :=
  some (.beq (bits w 21 5) (bits w 16 5) (bits w 0 16))

/-- Major 0x0E (R70). -/
def decode0E (w : IWord) : Option Instr :=
  some (.bne (bits w 21 5) (bits w 16 5) (bits w 0 16))

/-- Major 0x0F (R70). -/
def decode0F (w : IWord) : Option Instr :=
  some (.blt (bits w 21 5) (bits w 16 5) (bits w 0 16))

/-- Major 0x10 (R70). -/
def decode10 (w : IWord) : Option Instr :=
  some (.bge (bits w 21 5) (bits w 16 5) (bits w 0 16))

/-- Major 0x11 (R70). -/
def decode11 (w : IWord) : Option Instr :=
  some (.jal (bits w 21 5) (bits w 0 21))

/-- Major 0x12 (R70). -/
def decode12 (w : IWord) : Option Instr :=
  if bits w 16 5 = 0 then some (.jalr (bits w 21 5) (bits w 0 16))
  else if bits w 16 5 = 1 then some (.jr (bits w 21 5) (bits w 0 16))
  else if bits w 16 5 = 2 then some (.bpany (bits w 21 5) (bits w 0 16))
  else if bits w 16 5 = 3 then some (.bpall (bits w 21 5) (bits w 0 16))
  else if bits w 16 5 = 4 then some (.loopv (bits w 21 5) (bits w 0 16))
  else none

/-- Major 0x13 (R70). -/
def decode13 (w : IWord) : Option Instr :=
  if bits w 0 3 = 0 then some (.ldb (bits w 21 5) (bits w 16 5) (bits w 3 13))
  else if bits w 0 3 = 1 then some (.ldh (bits w 21 5) (bits w 16 5) (bits w 3 13))
  else if bits w 0 3 = 2 then some (.ldw (bits w 21 5) (bits w 16 5) (bits w 3 13))
  else if bits w 0 3 = 3 then some (.ldd (bits w 21 5) (bits w 16 5) (bits w 3 13))
  else if bits w 0 3 = 4 then some (.ldbs (bits w 21 5) (bits w 16 5) (bits w 3 13))
  else if bits w 0 3 = 5 then some (.ldhs (bits w 21 5) (bits w 16 5) (bits w 3 13))
  else if bits w 0 3 = 6 then some (.ldws (bits w 21 5) (bits w 16 5) (bits w 3 13))
  else none

/-- Major 0x14 (R70). -/
def decode14 (w : IWord) : Option Instr :=
  if bits w 0 3 = 0 then some (.stb (bits w 21 5) (bits w 16 5) (bits w 3 13))
  else if bits w 0 3 = 1 then some (.sth (bits w 21 5) (bits w 16 5) (bits w 3 13))
  else if bits w 0 3 = 2 then some (.stw (bits w 21 5) (bits w 16 5) (bits w 3 13))
  else if bits w 0 3 = 3 then some (.std (bits w 21 5) (bits w 16 5) (bits w 3 13))
  else none

/-- Major 0x15 (R70). -/
def decode15 (w : IWord) : Option Instr :=
  if bits w 0 3 = 0 then some (.ldp (bits w 21 5) (bits w 16 5) (bits w 3 13))
  else if bits w 0 3 = 1 then some (.ldpHeal (bits w 21 5) (bits w 16 5) (bits w 3 13))
  else none

/-- Major 0x16 (R70). -/
def decode16 (w : IWord) : Option Instr :=
  if bits w 0 11 = 0 then some (.peq (bits w 21 5) (bits w 16 5) (bits w 11 5))
  else none

/-- Major 0x17 (R70). -/
def decode17 (w : IWord) : Option Instr :=
  if bits w 0 6 = 0 then some (.amoswap (bits w 21 5) (bits w 16 5) (bits w 11 5) (bit w 10) (bit w 9) (bits w 7 2) (bit w 6))
  else if bits w 0 6 = 1 then some (.amoadd (bits w 21 5) (bits w 16 5) (bits w 11 5) (bit w 10) (bit w 9) (bits w 7 2) (bit w 6))
  else if bits w 0 6 = 2 then some (.amoand (bits w 21 5) (bits w 16 5) (bits w 11 5) (bit w 10) (bit w 9) (bits w 7 2) (bit w 6))
  else if bits w 0 6 = 3 then some (.amoor (bits w 21 5) (bits w 16 5) (bits w 11 5) (bit w 10) (bit w 9) (bits w 7 2) (bit w 6))
  else if bits w 0 6 = 4 then some (.amoxor (bits w 21 5) (bits w 16 5) (bits w 11 5) (bit w 10) (bit w 9) (bits w 7 2) (bit w 6))
  else if bits w 0 6 = 5 then some (.amomin (bits w 21 5) (bits w 16 5) (bits w 11 5) (bit w 10) (bit w 9) (bits w 7 2) (bit w 6))
  else if bits w 0 6 = 6 then some (.amomax (bits w 21 5) (bits w 16 5) (bits w 11 5) (bit w 10) (bit w 9) (bits w 7 2) (bit w 6))
  else if bits w 0 6 = 7 then some (.amocas (bits w 21 5) (bits w 16 5) (bits w 11 5) (bit w 10) (bit w 9) (bits w 7 2) (bit w 6))
  else none

/-- Major 0x18 (R70). -/
def decode18 (w : IWord) : Option Instr :=
  if bits w 0 6 = 0 then some (.ticket (bits w 21 5) (bits w 16 5) (bits w 11 5) (bit w 10) (bit w 9) (bits w 7 2) (bit w 6))
  else if bits w 0 6 = 1 then some (.waita (bits w 21 5) (bits w 16 5) (bits w 11 5) (bit w 10) (bit w 9) (bits w 7 2) (bit w 6))
  else none

/-- Major 0x19 (R70). -/
def decode19 (w : IWord) : Option Instr :=
  if bits w 11 8 = 0 ∧ bits w 0 7 = 0 then some (.fence (bits w 21 5) (bits w 19 2) (bit w 10) (bit w 9) (bits w 7 2))
  else if bits w 19 2 = 0 ∧ bits w 11 8 = 0 ∧ bits w 0 7 = 1 then some (.barrier (bits w 21 5) (bit w 10) (bit w 9) (bits w 7 2))
  else none

/-- Major 0x1A (R70). -/
def decode1A (w : IWord) : Option Instr :=
  if bits w 13 3 = 0 ∧ bits w 0 5 = 0 then some (.vsetvli (bits w 21 5) (bits w 16 5) (bits w 9 4) (bits w 7 2) (bits w 5 2))
  else if bits w 13 3 = 1 ∧ bits w 7 1 = 0 ∧ bits w 5 2 = 0 ∧ bits w 0 5 = 0 then some (.vsetvl (bits w 21 5) (bits w 16 5) (bits w 8 5))
  else if bits w 13 3 = 2 ∧ bits w 5 2 = 0 ∧ bits w 0 5 = 0 then some (.vretag (bits w 21 5) (bits w 16 5) (bits w 9 4) (bits w 7 2))
  else if bits w 13 3 = 3 ∧ bits w 9 4 = 0 ∧ bits w 8 1 = 0 ∧ bits w 7 1 = 0 ∧ bits w 5 2 = 0 ∧ bits w 0 5 = 0 then some (.vsave (bits w 21 5) (bits w 16 5))
  else if bits w 13 3 = 4 ∧ bits w 9 4 = 0 ∧ bits w 8 1 = 0 ∧ bits w 7 1 = 0 ∧ bits w 5 2 = 0 ∧ bits w 0 5 = 0 then some (.vrestore (bits w 21 5) (bits w 16 5))
  else if bits w 13 3 = 5 ∧ bits w 9 4 = 0 ∧ bits w 8 1 = 0 ∧ bits w 7 1 = 0 ∧ bits w 5 2 = 0 ∧ bits w 0 5 = 0 then some (.vspill (bits w 21 5) (bits w 16 5))
  else none

/-- Major 0x1B (R70). -/
def decode1B (w : IWord) : Option Instr :=
  if bits w 0 6 = 0 then some (.vadd (bits w 21 5) (bits w 16 5) (bits w 11 5) (bits w 6 5))
  else if bits w 0 6 = 4 then some (.vsub (bits w 21 5) (bits w 16 5) (bits w 11 5) (bits w 6 5))
  else if bits w 0 6 = 8 then some (.vqadd (bits w 21 5) (bits w 16 5) (bits w 11 5) (bits w 6 5))
  else if bits w 0 6 = 0xc then some (.vqsub (bits w 21 5) (bits w 16 5) (bits w 11 5) (bits w 6 5))
  else if bits w 0 6 = 0x10 then some (.vmul (bits w 21 5) (bits w 16 5) (bits w 11 5) (bits w 6 5))
  else if bits w 0 6 = 0x14 then some (.vmulh (bits w 21 5) (bits w 16 5) (bits w 11 5) (bits w 6 5))
  else if bits w 0 6 = 0x18 then some (.vmacc (bits w 21 5) (bits w 16 5) (bits w 11 5) (bits w 6 5))
  else if bits w 0 6 = 0x1c then some (.vand (bits w 21 5) (bits w 16 5) (bits w 11 5) (bits w 6 5))
  else if bits w 0 6 = 0x20 then some (.vor (bits w 21 5) (bits w 16 5) (bits w 11 5) (bits w 6 5))
  else if bits w 0 6 = 0x24 then some (.vxor (bits w 21 5) (bits w 16 5) (bits w 11 5) (bits w 6 5))
  else if bits w 0 6 = 0x28 then some (.vsll (bits w 21 5) (bits w 16 5) (bits w 11 5) (bits w 6 5))
  else if bits w 0 6 = 0x2c then some (.vsrl (bits w 21 5) (bits w 16 5) (bits w 11 5) (bits w 6 5))
  else if bits w 0 6 = 0x30 then some (.vsra (bits w 21 5) (bits w 16 5) (bits w 11 5) (bits w 6 5))
  else if bits w 0 6 = 0x34 then some (.vmin (bits w 21 5) (bits w 16 5) (bits w 11 5) (bits w 6 5))
  else if bits w 0 6 = 0x38 then some (.vmax (bits w 21 5) (bits w 16 5) (bits w 11 5) (bits w 6 5))
  else none

/-- Major 0x1C (R70). -/
def decode1C (w : IWord) : Option Instr :=
  if bits w 2 4 = 0 then some (.vfadd (bits w 21 5) (bits w 16 5) (bits w 11 5) (bits w 6 5) (bits w 0 2))
  else if bits w 2 4 = 1 then some (.vfsub (bits w 21 5) (bits w 16 5) (bits w 11 5) (bits w 6 5) (bits w 0 2))
  else if bits w 2 4 = 2 then some (.vfmul (bits w 21 5) (bits w 16 5) (bits w 11 5) (bits w 6 5) (bits w 0 2))
  else if bits w 2 4 = 3 then some (.vfdiv (bits w 21 5) (bits w 16 5) (bits w 11 5) (bits w 6 5) (bits w 0 2))
  else if bits w 11 5 = 0 ∧ bits w 2 4 = 4 then some (.vfsqrt (bits w 21 5) (bits w 16 5) (bits w 6 5) (bits w 0 2))
  else if bits w 2 4 = 5 then some (.vfma (bits w 21 5) (bits w 16 5) (bits w 11 5) (bits w 6 5) (bits w 0 2))
  else if bits w 2 4 = 6 then some (.vfms (bits w 21 5) (bits w 16 5) (bits w 11 5) (bits w 6 5) (bits w 0 2))
  else if bits w 2 4 = 7 then some (.vfmin (bits w 21 5) (bits w 16 5) (bits w 11 5) (bits w 6 5) (bits w 0 2))
  else if bits w 2 4 = 8 then some (.vfmax (bits w 21 5) (bits w 16 5) (bits w 11 5) (bits w 6 5) (bits w 0 2))
  else if bits w 11 5 = 0 ∧ bits w 2 4 = 9 then some (.vfabs (bits w 21 5) (bits w 16 5) (bits w 6 5) (bits w 0 2))
  else if bits w 11 5 = 0 ∧ bits w 2 4 = 0xa then some (.vfneg (bits w 21 5) (bits w 16 5) (bits w 6 5) (bits w 0 2))
  else if bits w 2 4 = 0xb then some (.vfsgnj (bits w 21 5) (bits w 16 5) (bits w 11 5) (bits w 6 5) (bits w 0 2))
  else if bits w 11 5 = 0 ∧ bits w 2 4 = 0xc then some (.vfrecip (bits w 21 5) (bits w 16 5) (bits w 6 5) (bits w 0 2))
  else if bits w 11 5 = 0 ∧ bits w 2 4 = 0xd then some (.vfrsqrt (bits w 21 5) (bits w 16 5) (bits w 6 5) (bits w 0 2))
  else if bits w 11 5 = 0 ∧ bits w 2 4 = 0xe then some (.vfclass (bits w 21 5) (bits w 16 5) (bits w 6 5) (bits w 0 2))
  else none

/-- Major 0x1D (R70). -/
def decode1D (w : IWord) : Option Instr :=
  if bits w 0 6 = 0 then some (.vcmpeq (bits w 21 5) (bits w 16 5) (bits w 11 5) (bits w 6 5))
  else if bits w 0 6 = 4 then some (.vcmpne (bits w 21 5) (bits w 16 5) (bits w 11 5) (bits w 6 5))
  else if bits w 0 6 = 8 then some (.vcmplt (bits w 21 5) (bits w 16 5) (bits w 11 5) (bits w 6 5))
  else if bits w 0 6 = 0xc then some (.vcmple (bits w 21 5) (bits w 16 5) (bits w 11 5) (bits w 6 5))
  else if bits w 0 6 = 0x10 then some (.vpand (bits w 21 5) (bits w 16 5) (bits w 11 5) (bits w 6 5))
  else if bits w 0 6 = 0x14 then some (.vpor (bits w 21 5) (bits w 16 5) (bits w 11 5) (bits w 6 5))
  else if bits w 0 6 = 0x18 then some (.vpxor (bits w 21 5) (bits w 16 5) (bits w 11 5) (bits w 6 5))
  else if bits w 0 6 = 0x1c then some (.vpandn (bits w 21 5) (bits w 16 5) (bits w 11 5) (bits w 6 5))
  else none

/-- Major 0x1E (R70). -/
def decode1E (w : IWord) : Option Instr :=
  if bits w 2 4 = 0 ∧ bits w 0 2 = 0 then some (.vslideup (bits w 21 5) (bits w 16 5) (bits w 11 5) (bits w 6 5))
  else if bits w 2 4 = 1 ∧ bits w 0 2 = 0 then some (.vslidedn (bits w 21 5) (bits w 16 5) (bits w 11 5) (bits w 6 5))
  else if bits w 2 4 = 2 ∧ bits w 0 2 = 0 then some (.vperm (bits w 21 5) (bits w 16 5) (bits w 11 5) (bits w 6 5))
  else if bits w 11 5 = 0 ∧ bits w 2 4 = 3 ∧ bits w 0 2 = 0 then some (.vbcast (bits w 21 5) (bits w 16 5) (bits w 6 5))
  else if bits w 11 5 = 0 ∧ bits w 2 4 = 4 ∧ bits w 0 2 = 0 then some (.vcompress (bits w 21 5) (bits w 16 5) (bits w 6 5))
  else if bits w 2 4 = 5 ∧ bits w 0 2 = 0 then some (.vredsum (bits w 21 5) (bits w 16 5) (bits w 11 5) (bits w 6 5))
  else if bits w 2 4 = 6 then some (.vfredsum (bits w 21 5) (bits w 16 5) (bits w 11 5) (bits w 6 5) (bits w 0 2))
  else if bits w 2 4 = 7 then some (.vfredosum (bits w 21 5) (bits w 16 5) (bits w 11 5) (bits w 6 5) (bits w 0 2))
  else if bits w 2 4 = 8 ∧ bits w 0 2 = 0 then some (.vredmax (bits w 21 5) (bits w 16 5) (bits w 11 5) (bits w 6 5))
  else if bits w 2 4 = 9 ∧ bits w 0 2 = 0 then some (.vscan (bits w 21 5) (bits w 16 5) (bits w 11 5) (bits w 6 5))
  else if bits w 2 4 = 0xa ∧ bits w 0 2 = 0 then some (.vprune (bits w 21 5) (bits w 16 5) (bits w 11 5) (bits w 6 5))
  else if bits w 6 5 = 0 ∧ bits w 2 4 = 0xb ∧ bits w 0 2 = 0 then some (.vmvs (bits w 21 5) (bits w 16 5) (bits w 11 5))
  else none

/-- Major 0x21 (R70). -/
def decode21 (w : IWord) : Option Instr :=
  if bits w 11 5 = 0 ∧ bits w 5 1 = 0 ∧ bits w 2 3 = 0 then some (.vcvt (bits w 21 5) (bits w 16 5) (bits w 6 5) (bits w 0 2))
  else if bits w 5 1 = 0 ∧ bits w 2 3 = 1 then some (.vcvtef (bits w 21 5) (bits w 16 5) (bits w 11 5) (bits w 6 5) (bits w 0 2))
  else if bits w 11 5 = 0 ∧ bits w 5 1 = 0 ∧ bits w 2 3 = 2 ∧ bits w 0 2 = 0 then some (.vdqbx (bits w 21 5) (bits w 16 5) (bits w 6 5))
  else if bits w 11 5 = 0 ∧ bits w 5 1 = 0 ∧ bits w 2 3 = 3 ∧ bits w 0 2 = 0 then some (.vnsat (bits w 21 5) (bits w 16 5) (bits w 6 5))
  else if bits w 11 5 = 0 ∧ bits w 6 5 = 0 ∧ bits w 5 1 = 1 then some (.vqbx (bits w 21 5) (bits w 16 5) (bits w 2 3) (bits w 0 2))
  else none

/-- Major 0x22 (R70). -/
def decode22 (w : IWord) : Option Instr :=
  if bits w 3 3 = 0 ∧ bits w 2 1 = 0 then some (.vld (bits w 21 5) (bits w 16 5) (bits w 11 5) (bits w 6 5) (bits w 0 2))
  else if bits w 3 3 = 1 ∧ bits w 2 1 = 0 then some (.vlds (bits w 21 5) (bits w 16 5) (bits w 11 5) (bits w 6 5) (bits w 0 2))
  else if bits w 11 5 = 0 ∧ bits w 3 3 = 2 ∧ bits w 2 1 = 0 then some (.vldff (bits w 21 5) (bits w 16 5) (bits w 6 5) (bits w 0 2))
  else if bits w 3 3 = 3 then some (.vldx (bits w 21 5) (bits w 16 5) (bits w 11 5) (bits w 6 5) (bit w 2) (bits w 0 2))
  else none

/-- Major 0x23 (R70). -/
def decode23 (w : IWord) : Option Instr :=
  if bits w 3 3 = 0 ∧ bits w 2 1 = 0 then some (.vst (bits w 21 5) (bits w 16 5) (bits w 11 5) (bits w 6 5) (bits w 0 2))
  else if bits w 3 3 = 1 ∧ bits w 2 1 = 0 then some (.vsts (bits w 21 5) (bits w 16 5) (bits w 11 5) (bits w 6 5) (bits w 0 2))
  else if bits w 3 3 = 2 then some (.vstx (bits w 21 5) (bits w 16 5) (bits w 11 5) (bits w 6 5) (bit w 2) (bits w 0 2))
  else if bits w 3 3 = 3 then some (.vscadd (bits w 21 5) (bits w 16 5) (bits w 11 5) (bits w 6 5) (bit w 2) (bits w 0 2))
  else none

/-- Major 0x24 (R70). -/
def decode24 (w : IWord) : Option Instr :=
  if bits w 19 2 = 0 ∧ bits w 11 5 = 0 ∧ bits w 2 4 = 0 then some (.vsld (bits w 21 5) (bits w 16 3) (bits w 6 5) (bits w 0 2))
  else if bits w 19 2 = 0 ∧ bits w 11 5 = 0 ∧ bits w 2 4 = 2 then some (.vsst (bits w 21 5) (bits w 16 3) (bits w 6 5) (bits w 0 2))
  else if bits w 19 2 = 0 ∧ bits w 11 5 = 0 ∧ bits w 2 4 = 4 then some (.vgsld (bits w 21 5) (bits w 16 3) (bits w 6 5) (bits w 0 2))
  else none

/-- Major 0x25 (R70). -/
def decode25 (w : IWord) : Option Instr :=
  if bits w 19 7 = 0 ∧ bits w 0 11 = 0 then some (.vstrip (bits w 16 3) (bits w 11 5))
  else none

/-- Major 0x26 (R70). -/
def decode26 (w : IWord) : Option Instr :=
  if bits w 24 2 = 0 ∧ bits w 19 2 = 0 ∧ bits w 14 2 = 0 ∧ bits w 2 9 = 0 then some (.vsadd (bits w 21 3) (bits w 16 3) (bits w 11 3) (bits w 0 2))
  else if bits w 24 2 = 0 ∧ bits w 19 2 = 0 ∧ bits w 14 2 = 0 ∧ bits w 2 9 = 1 then some (.vsmul (bits w 21 3) (bits w 16 3) (bits w 11 3) (bits w 0 2))
  else if bits w 19 2 = 0 ∧ bits w 14 2 = 0 ∧ bits w 2 9 = 2 then some (.vsdot (bits w 21 5) (bits w 16 3) (bits w 11 3) (bits w 0 2))
  else if bits w 24 2 = 0 ∧ bits w 2 9 = 3 ∧ bits w 0 2 = 0 then some (.vspld (bits w 21 3) (bits w 16 5) (bits w 11 5))
  else if bits w 19 2 = 0 ∧ bits w 2 9 = 4 ∧ bits w 0 2 = 0 then some (.vspst (bits w 21 5) (bits w 16 3) (bits w 11 5))
  else none

/-- Major 0x27 (R70). -/
def decode27 (w : IWord) : Option Instr :=
  if bits w 0 16 = 0 then some (.mldtA (bits w 21 5) (bits w 16 5))
  else if bits w 0 16 = 4 then some (.mldtB (bits w 21 5) (bits w 16 5))
  else if bits w 0 16 = 1 then some (.mldtffA (bits w 21 5) (bits w 16 5))
  else if bits w 0 16 = 5 then some (.mldtffB (bits w 21 5) (bits w 16 5))
  else if bits w 23 3 = 0 ∧ bits w 0 16 = 2 then some (.mst (bits w 21 2) (bits w 16 5))
  else none

/-- Major 0x28 (R70). -/
def decode28 (w : IWord) : Option Instr :=
  if bits w 23 3 = 0 ∧ bits w 0 21 = 0 then some (.mma (bits w 21 2))
  else if bits w 23 3 = 0 ∧ bits w 0 21 = 1 then some (.mmas (bits w 21 2))
  else if bits w 23 3 = 0 ∧ bits w 0 21 = 2 then some (.mzero (bits w 21 2))
  else none

/-- Major 0x29 (R70). -/
def decode29 (w : IWord) : Option Instr :=
  if bits w 18 3 = 0 ∧ bits w 2 4 = 0 then some (.vmrd (bits w 21 5) (bits w 16 2) (bits w 11 5) (bits w 6 5) (bits w 0 2))
  else if bits w 18 3 = 0 ∧ bits w 2 4 = 1 ∧ bits w 0 2 = 0 then some (.vmwr (bits w 21 5) (bits w 16 2) (bits w 11 5) (bits w 6 5))
  else none

/-- Major 0x2A (R70). -/
def decode2A (w : IWord) : Option Instr :=
  if bits w 0 7 = 0 then some (.xcopy (bits w 21 5) (bits w 16 5) (bits w 11 5) (bit w 10) (bit w 9) (bits w 7 2))
  else if bits w 21 5 = 0 ∧ bits w 11 5 = 0 ∧ bits w 9 1 = 0 ∧ bits w 0 7 = 1 then some (.xstream (bits w 16 5) (bit w 10) (bits w 7 2))
  else if bits w 16 5 = 0 ∧ bits w 11 5 = 0 ∧ bits w 9 1 = 0 ∧ bits w 0 7 = 2 then some (.xsbar (bits w 21 5) (bit w 10) (bits w 7 2))
  else none

/-- Major 0x2B (R70). -/
def decode2B (w : IWord) : Option Instr :=
  if bits w 21 5 = 0 ∧ bits w 11 5 = 0 ∧ bits w 0 7 = 0 then some (.xgather (bits w 16 5) (bit w 10) (bit w 9) (bits w 7 2))
  else if bits w 21 5 = 0 ∧ bits w 11 5 = 0 ∧ bits w 0 7 = 1 then some (.xbin (bits w 16 5) (bit w 10) (bit w 9) (bits w 7 2))
  else none

/-- Major 0x2C (R70). -/
def decode2C (w : IWord) : Option Instr :=
  if bits w 0 7 = 0 then some (.xmove (bits w 21 5) (bits w 16 5) (bits w 11 5) (bit w 10) (bit w 9) (bits w 7 2))
  else if bits w 21 5 = 0 ∧ bits w 11 5 = 0 ∧ bits w 0 7 = 1 then some (.xheal (bits w 16 5) (bit w 10) (bit w 9) (bits w 7 2))
  else if bits w 21 5 = 0 ∧ bits w 11 5 = 0 ∧ bits w 0 7 = 2 then some (.xreclaim (bits w 16 5) (bit w 10) (bit w 9) (bits w 7 2))
  else none

/-- Major 0x2D (R70). -/
def decode2D (w : IWord) : Option Instr :=
  if bits w 0 7 = 0 then some (.xinst (bits w 21 5) (bits w 16 5) (bits w 11 5) (bit w 10) (bit w 9) (bits w 7 2))
  else if bits w 0 7 = 1 then some (.xpin (bits w 21 5) (bits w 16 5) (bits w 11 5) (bit w 10) (bit w 9) (bits w 7 2))
  else if bits w 11 5 = 0 ∧ bits w 10 1 = 0 ∧ bits w 9 1 = 0 ∧ bits w 7 2 = 0 ∧ bits w 0 7 = 2 then some (.xwear (bits w 21 5) (bits w 16 5))
  else none

/-- Major 0x2E (R70). -/
def decode2E (w : IWord) : Option Instr :=
  if bits w 21 5 = 0 ∧ bits w 11 5 = 0 ∧ bits w 0 7 = 0 then some (.xsweep (bits w 16 5) (bit w 10) (bit w 9) (bits w 7 2))
  else if bits w 0 7 = 1 then some (.cwait (bits w 21 5) (bits w 16 5) (bits w 11 5) (bit w 10) (bit w 9) (bits w 7 2))
  else if bits w 0 7 = 2 then some (.cwake (bits w 21 5) (bits w 16 5) (bits w 11 5) (bit w 10) (bit w 9) (bits w 7 2))
  else none

/-- Major 0x30 (R70). -/
def decode30 (w : IWord) : Option Instr :=
  if bits w 11 5 = 0 ∧ bits w 3 8 = 0 ∧ bits w 0 3 = 0 then some (.launch (bits w 21 5) (bits w 16 5))
  else if bits w 21 5 = 0 ∧ bits w 16 5 = 0 ∧ bits w 11 5 = 0 ∧ bits w 0 3 = 1 then some (.fork (bits w 3 8))
  else if bits w 21 5 = 0 ∧ bits w 16 5 = 0 ∧ bits w 11 5 = 0 ∧ bits w 0 3 = 2 then some (.join (bits w 3 8))
  else if bits w 21 5 = 0 ∧ bits w 16 5 = 0 ∧ bits w 11 5 = 0 ∧ bits w 3 8 = 0 ∧ bits w 0 3 = 3 then some .yield
  else if bits w 21 5 = 0 ∧ bits w 16 5 = 0 ∧ bits w 11 5 = 0 ∧ bits w 3 8 = 0 ∧ bits w 0 3 = 4 then some .exit
  else if bits w 16 5 = 0 ∧ bits w 11 5 = 0 ∧ bits w 0 3 = 5 then some (.id (bits w 21 5) (bits w 3 8))
  else if bits w 16 5 = 0 ∧ bits w 11 5 = 0 ∧ bits w 0 3 = 6 then some (.gang (bits w 21 5) (bits w 3 8))
  else if bits w 21 5 = 0 ∧ bits w 11 5 = 0 ∧ bits w 3 8 = 0 ∧ bits w 0 3 = 7 then some (.waitt (bits w 16 5))
  else none

/-- Major 0x31 (R70). -/
def decode31 (w : IWord) : Option Instr :=
  if bits w 21 5 = 0 ∧ bits w 16 5 = 0 ∧ bits w 0 4 = 0 then some (.trap (bits w 4 12))
  else if bits w 21 5 = 0 ∧ bits w 16 5 = 0 ∧ bits w 4 12 = 0 ∧ bits w 0 4 = 1 then some .eret
  else if bits w 16 5 = 0 ∧ bits w 0 4 = 2 then some (.kget (bits w 21 5) (bits w 4 12))
  else if bits w 21 5 = 0 ∧ bits w 0 4 = 3 then some (.kset (bits w 16 5) (bits w 4 12))
  else if bits w 4 12 = 0 ∧ bits w 0 4 = 4 then some (.tlbinv (bits w 21 5) (bits w 16 5))
  else if bits w 4 12 = 0 ∧ bits w 0 4 = 5 then some (.cflush (bits w 21 5) (bits w 16 5))
  else if bits w 21 5 = 0 ∧ bits w 4 12 = 0 ∧ bits w 0 4 = 6 then some (.wfi (bits w 16 5))
  else none

/-- Major 0x3E (R70). -/
def decode3E (w : IWord) : Option Instr :=
  some (.hint (bits w 0 26))

/-- The form a word names by its major opcode and selectors, zero fields checked (R70, R77 items 1 to 4). -/
def decodeForm (w : IWord) : Option Instr :=
  match (bits w 26 6).toNat with
  | 0x01 => decode01 w
  | 0x02 => decode02 w
  | 0x03 => decode03 w
  | 0x04 => decode04 w
  | 0x05 => decode05 w
  | 0x06 => decode06 w
  | 0x07 => decode07 w
  | 0x08 => decode08 w
  | 0x09 => decode09 w
  | 0x0A => decode0A w
  | 0x0B => decode0B w
  | 0x0C => decode0C w
  | 0x0D => decode0D w
  | 0x0E => decode0E w
  | 0x0F => decode0F w
  | 0x10 => decode10 w
  | 0x11 => decode11 w
  | 0x12 => decode12 w
  | 0x13 => decode13 w
  | 0x14 => decode14 w
  | 0x15 => decode15 w
  | 0x16 => decode16 w
  | 0x17 => decode17 w
  | 0x18 => decode18 w
  | 0x19 => decode19 w
  | 0x1A => decode1A w
  | 0x1B => decode1B w
  | 0x1C => decode1C w
  | 0x1D => decode1D w
  | 0x1E => decode1E w
  | 0x21 => decode21 w
  | 0x22 => decode22 w
  | 0x23 => decode23 w
  | 0x24 => decode24 w
  | 0x25 => decode25 w
  | 0x26 => decode26 w
  | 0x27 => decode27 w
  | 0x28 => decode28 w
  | 0x29 => decode29 w
  | 0x2A => decode2A w
  | 0x2B => decode2B w
  | 0x2C => decode2C w
  | 0x2D => decode2D w
  | 0x2E => decode2E w
  | 0x30 => decode30 w
  | 0x31 => decode31 w
  | 0x3E => decode3E w
  | _ => none

/-- The instruction a word is, or none: the form and then its field ranges (R77). -/
def decode (w : IWord) : Option Instr :=
  match decodeForm w with
  | some i => if i.wellFormed then some i else none
  | none => none

/-- The instruction the decoder reads from a table row's word: one 32-bit word, stored little-endian (R67), so the
row's bits are the word's bits. -/
def decodeTableWord (_nbits w : Nat) : Option Instr := decode (BitVec.ofNat 32 w)

/-- A field placed at bit `lo` of a word (R68). -/
def put {n : Nat} (lo : Nat) (x : BitVec n) : IWord := x.setWidth 32 <<< lo

/-- The word of an instruction (R68, R69): its fixed bits and its fields; a step without an encoding has none. -/
def encode? : Instr → Option IWord
  | .add d a b => some (0x04000000#32 ||| put 21 d ||| put 16 a ||| put 11 b)
  | .sub d a b => some (0x04000001#32 ||| put 21 d ||| put 16 a ||| put 11 b)
  | .and d a b => some (0x04000002#32 ||| put 21 d ||| put 16 a ||| put 11 b)
  | .or d a b => some (0x04000003#32 ||| put 21 d ||| put 16 a ||| put 11 b)
  | .xor d a b => some (0x04000004#32 ||| put 21 d ||| put 16 a ||| put 11 b)
  | .sll d a b => some (0x04000005#32 ||| put 21 d ||| put 16 a ||| put 11 b)
  | .srl d a b => some (0x04000006#32 ||| put 21 d ||| put 16 a ||| put 11 b)
  | .sra d a b => some (0x04000007#32 ||| put 21 d ||| put 16 a ||| put 11 b)
  | .slt d a b => some (0x04000008#32 ||| put 21 d ||| put 16 a ||| put 11 b)
  | .sltu d a b => some (0x04000009#32 ||| put 21 d ||| put 16 a ||| put 11 b)
  | .mul d a b => some (0x0400000A#32 ||| put 21 d ||| put 16 a ||| put 11 b)
  | .mulh d a b => some (0x0400000B#32 ||| put 21 d ||| put 16 a ||| put 11 b)
  | .div d a b => some (0x0400000C#32 ||| put 21 d ||| put 16 a ||| put 11 b)
  | .divu d a b => some (0x0400000D#32 ||| put 21 d ||| put 16 a ||| put 11 b)
  | .rem d a b => some (0x0400000E#32 ||| put 21 d ||| put 16 a ||| put 11 b)
  | .remu d a b => some (0x0400000F#32 ||| put 21 d ||| put 16 a ||| put 11 b)
  | .addi d a imm => some (0x08000000#32 ||| put 21 d ||| put 16 a ||| put 0 imm)
  | .andi d a imm => some (0x0C000000#32 ||| put 21 d ||| put 16 a ||| put 0 imm)
  | .ori d a imm => some (0x10000000#32 ||| put 21 d ||| put 16 a ||| put 0 imm)
  | .xori d a imm => some (0x14000000#32 ||| put 21 d ||| put 16 a ||| put 0 imm)
  | .slti d a imm => some (0x18000000#32 ||| put 21 d ||| put 16 a ||| put 0 imm)
  | .sltiu d a imm => some (0x1C000000#32 ||| put 21 d ||| put 16 a ||| put 0 imm)
  | .lui d imm => some (0x20000000#32 ||| put 21 d ||| put 0 imm)
  | .lsi d a imm => some (0x24000000#32 ||| put 21 d ||| put 16 a ||| put 0 imm)
  | .slli d a sh => some (0x28000000#32 ||| put 21 d ||| put 16 a ||| put 0 sh)
  | .srli d a sh => some (0x28000040#32 ||| put 21 d ||| put 16 a ||| put 0 sh)
  | .srai d a sh => some (0x28000080#32 ||| put 21 d ||| put 16 a ||| put 0 sh)
  | .sel d a b => some (0x2C000000#32 ||| put 21 d ||| put 16 a ||| put 11 b)
  | .fadd d a b fmt rm => some (0x30000000#32 ||| put 21 d ||| put 16 a ||| put 11 b ||| put 5 fmt ||| put 3 rm)
  | .fsub d a b fmt rm => some (0x30000001#32 ||| put 21 d ||| put 16 a ||| put 11 b ||| put 5 fmt ||| put 3 rm)
  | .fmul d a b fmt rm => some (0x30000002#32 ||| put 21 d ||| put 16 a ||| put 11 b ||| put 5 fmt ||| put 3 rm)
  | .fmadd d a b fmt rm => some (0x30000003#32 ||| put 21 d ||| put 16 a ||| put 11 b ||| put 5 fmt ||| put 3 rm)
  | .flt d a b fmt => some (0x30000004#32 ||| put 21 d ||| put 16 a ||| put 11 b ||| put 5 fmt)
  | .fcvt d a dir fsrc fmt rm => some (0x30000005#32 ||| put 21 d ||| put 16 a ||| put 15 (BitVec.ofBool dir) ||| put 11 fsrc ||| put 5 fmt ||| put 3 rm)
  | .beq a b off => some (0x34000000#32 ||| put 21 a ||| put 16 b ||| put 0 off)
  | .bne a b off => some (0x38000000#32 ||| put 21 a ||| put 16 b ||| put 0 off)
  | .blt a b off => some (0x3C000000#32 ||| put 21 a ||| put 16 b ||| put 0 off)
  | .bge a b off => some (0x40000000#32 ||| put 21 a ||| put 16 b ||| put 0 off)
  | .jal d off => some (0x44000000#32 ||| put 21 d ||| put 0 off)
  | .jalr a off => some (0x48000000#32 ||| put 21 a ||| put 0 off)
  | .jr a off => some (0x48010000#32 ||| put 21 a ||| put 0 off)
  | .bpany a off => some (0x48020000#32 ||| put 21 a ||| put 0 off)
  | .bpall a off => some (0x48030000#32 ||| put 21 a ||| put 0 off)
  | .loopv a n => some (0x48040000#32 ||| put 21 a ||| put 0 n)
  | .ldb d a off => some (0x4C000000#32 ||| put 21 d ||| put 16 a ||| put 3 off)
  | .ldh d a off => some (0x4C000001#32 ||| put 21 d ||| put 16 a ||| put 3 off)
  | .ldw d a off => some (0x4C000002#32 ||| put 21 d ||| put 16 a ||| put 3 off)
  | .ldd d a off => some (0x4C000003#32 ||| put 21 d ||| put 16 a ||| put 3 off)
  | .ldbs d a off => some (0x4C000004#32 ||| put 21 d ||| put 16 a ||| put 3 off)
  | .ldhs d a off => some (0x4C000005#32 ||| put 21 d ||| put 16 a ||| put 3 off)
  | .ldws d a off => some (0x4C000006#32 ||| put 21 d ||| put 16 a ||| put 3 off)
  | .stb a b off => some (0x50000000#32 ||| put 21 a ||| put 16 b ||| put 3 off)
  | .sth a b off => some (0x50000001#32 ||| put 21 a ||| put 16 b ||| put 3 off)
  | .stw a b off => some (0x50000002#32 ||| put 21 a ||| put 16 b ||| put 3 off)
  | .std a b off => some (0x50000003#32 ||| put 21 a ||| put 16 b ||| put 3 off)
  | .ldp d a off => some (0x54000000#32 ||| put 21 d ||| put 16 a ||| put 3 off)
  | .ldpHeal d a off => some (0x54000001#32 ||| put 21 d ||| put 16 a ||| put 3 off)
  | .peq d a b => some (0x58000000#32 ||| put 21 d ||| put 16 a ||| put 11 b)
  | .amoswap d a b acq rel scope w => some (0x5C000000#32 ||| put 21 d ||| put 16 a ||| put 11 b ||| put 10 (BitVec.ofBool acq) ||| put 9 (BitVec.ofBool rel) ||| put 7 scope ||| put 6 (BitVec.ofBool w))
  | .amoadd d a b acq rel scope w => some (0x5C000001#32 ||| put 21 d ||| put 16 a ||| put 11 b ||| put 10 (BitVec.ofBool acq) ||| put 9 (BitVec.ofBool rel) ||| put 7 scope ||| put 6 (BitVec.ofBool w))
  | .amoand d a b acq rel scope w => some (0x5C000002#32 ||| put 21 d ||| put 16 a ||| put 11 b ||| put 10 (BitVec.ofBool acq) ||| put 9 (BitVec.ofBool rel) ||| put 7 scope ||| put 6 (BitVec.ofBool w))
  | .amoor d a b acq rel scope w => some (0x5C000003#32 ||| put 21 d ||| put 16 a ||| put 11 b ||| put 10 (BitVec.ofBool acq) ||| put 9 (BitVec.ofBool rel) ||| put 7 scope ||| put 6 (BitVec.ofBool w))
  | .amoxor d a b acq rel scope w => some (0x5C000004#32 ||| put 21 d ||| put 16 a ||| put 11 b ||| put 10 (BitVec.ofBool acq) ||| put 9 (BitVec.ofBool rel) ||| put 7 scope ||| put 6 (BitVec.ofBool w))
  | .amomin d a b acq rel scope w => some (0x5C000005#32 ||| put 21 d ||| put 16 a ||| put 11 b ||| put 10 (BitVec.ofBool acq) ||| put 9 (BitVec.ofBool rel) ||| put 7 scope ||| put 6 (BitVec.ofBool w))
  | .amomax d a b acq rel scope w => some (0x5C000006#32 ||| put 21 d ||| put 16 a ||| put 11 b ||| put 10 (BitVec.ofBool acq) ||| put 9 (BitVec.ofBool rel) ||| put 7 scope ||| put 6 (BitVec.ofBool w))
  | .amocas d a b acq rel scope w => some (0x5C000007#32 ||| put 21 d ||| put 16 a ||| put 11 b ||| put 10 (BitVec.ofBool acq) ||| put 9 (BitVec.ofBool rel) ||| put 7 scope ||| put 6 (BitVec.ofBool w))
  | .ticket d a b acq rel scope w => some (0x60000000#32 ||| put 21 d ||| put 16 a ||| put 11 b ||| put 10 (BitVec.ofBool acq) ||| put 9 (BitVec.ofBool rel) ||| put 7 scope ||| put 6 (BitVec.ofBool w))
  | .waita d a b acq rel scope w => some (0x60000001#32 ||| put 21 d ||| put 16 a ||| put 11 b ||| put 10 (BitVec.ofBool acq) ||| put 9 (BitVec.ofBool rel) ||| put 7 scope ||| put 6 (BitVec.ofBool w))
  | .fence mask kind acq rel scope => some (0x64000000#32 ||| put 21 mask ||| put 19 kind ||| put 10 (BitVec.ofBool acq) ||| put 9 (BitVec.ofBool rel) ||| put 7 scope)
  | .barrier mask acq rel scope => some (0x64000001#32 ||| put 21 mask ||| put 10 (BitVec.ofBool acq) ||| put 9 (BitVec.ofBool rel) ||| put 7 scope)
  | .vsetvli d a fmt grp tail => some (0x68000000#32 ||| put 21 d ||| put 16 a ||| put 9 fmt ||| put 7 grp ||| put 5 tail)
  | .vsetvl d a b => some (0x68002000#32 ||| put 21 d ||| put 16 a ||| put 8 b)
  | .vretag d a fmt grp => some (0x68004000#32 ||| put 21 d ||| put 16 a ||| put 9 fmt ||| put 7 grp)
  | .vsave d a => some (0x68006000#32 ||| put 21 d ||| put 16 a)
  | .vrestore d a => some (0x68008000#32 ||| put 21 d ||| put 16 a)
  | .vspill d a => some (0x6800A000#32 ||| put 21 d ||| put 16 a)
  | .vadd d a b p => some (0x6C000000#32 ||| put 21 d ||| put 16 a ||| put 11 b ||| put 6 p)
  | .vsub d a b p => some (0x6C000004#32 ||| put 21 d ||| put 16 a ||| put 11 b ||| put 6 p)
  | .vqadd d a b p => some (0x6C000008#32 ||| put 21 d ||| put 16 a ||| put 11 b ||| put 6 p)
  | .vqsub d a b p => some (0x6C00000C#32 ||| put 21 d ||| put 16 a ||| put 11 b ||| put 6 p)
  | .vmul d a b p => some (0x6C000010#32 ||| put 21 d ||| put 16 a ||| put 11 b ||| put 6 p)
  | .vmulh d a b p => some (0x6C000014#32 ||| put 21 d ||| put 16 a ||| put 11 b ||| put 6 p)
  | .vmacc d a b p => some (0x6C000018#32 ||| put 21 d ||| put 16 a ||| put 11 b ||| put 6 p)
  | .vand d a b p => some (0x6C00001C#32 ||| put 21 d ||| put 16 a ||| put 11 b ||| put 6 p)
  | .vor d a b p => some (0x6C000020#32 ||| put 21 d ||| put 16 a ||| put 11 b ||| put 6 p)
  | .vxor d a b p => some (0x6C000024#32 ||| put 21 d ||| put 16 a ||| put 11 b ||| put 6 p)
  | .vsll d a b p => some (0x6C000028#32 ||| put 21 d ||| put 16 a ||| put 11 b ||| put 6 p)
  | .vsrl d a b p => some (0x6C00002C#32 ||| put 21 d ||| put 16 a ||| put 11 b ||| put 6 p)
  | .vsra d a b p => some (0x6C000030#32 ||| put 21 d ||| put 16 a ||| put 11 b ||| put 6 p)
  | .vmin d a b p => some (0x6C000034#32 ||| put 21 d ||| put 16 a ||| put 11 b ||| put 6 p)
  | .vmax d a b p => some (0x6C000038#32 ||| put 21 d ||| put 16 a ||| put 11 b ||| put 6 p)
  | .vfadd d a b p rm => some (0x70000000#32 ||| put 21 d ||| put 16 a ||| put 11 b ||| put 6 p ||| put 0 rm)
  | .vfsub d a b p rm => some (0x70000004#32 ||| put 21 d ||| put 16 a ||| put 11 b ||| put 6 p ||| put 0 rm)
  | .vfmul d a b p rm => some (0x70000008#32 ||| put 21 d ||| put 16 a ||| put 11 b ||| put 6 p ||| put 0 rm)
  | .vfdiv d a b p rm => some (0x7000000C#32 ||| put 21 d ||| put 16 a ||| put 11 b ||| put 6 p ||| put 0 rm)
  | .vfsqrt d a p rm => some (0x70000010#32 ||| put 21 d ||| put 16 a ||| put 6 p ||| put 0 rm)
  | .vfma d a b p rm => some (0x70000014#32 ||| put 21 d ||| put 16 a ||| put 11 b ||| put 6 p ||| put 0 rm)
  | .vfms d a b p rm => some (0x70000018#32 ||| put 21 d ||| put 16 a ||| put 11 b ||| put 6 p ||| put 0 rm)
  | .vfmin d a b p rm => some (0x7000001C#32 ||| put 21 d ||| put 16 a ||| put 11 b ||| put 6 p ||| put 0 rm)
  | .vfmax d a b p rm => some (0x70000020#32 ||| put 21 d ||| put 16 a ||| put 11 b ||| put 6 p ||| put 0 rm)
  | .vfabs d a p rm => some (0x70000024#32 ||| put 21 d ||| put 16 a ||| put 6 p ||| put 0 rm)
  | .vfneg d a p rm => some (0x70000028#32 ||| put 21 d ||| put 16 a ||| put 6 p ||| put 0 rm)
  | .vfsgnj d a b p rm => some (0x7000002C#32 ||| put 21 d ||| put 16 a ||| put 11 b ||| put 6 p ||| put 0 rm)
  | .vfrecip d a p rm => some (0x70000030#32 ||| put 21 d ||| put 16 a ||| put 6 p ||| put 0 rm)
  | .vfrsqrt d a p rm => some (0x70000034#32 ||| put 21 d ||| put 16 a ||| put 6 p ||| put 0 rm)
  | .vfclass d a p rm => some (0x70000038#32 ||| put 21 d ||| put 16 a ||| put 6 p ||| put 0 rm)
  | .vcmpeq d a b p => some (0x74000000#32 ||| put 21 d ||| put 16 a ||| put 11 b ||| put 6 p)
  | .vcmpne d a b p => some (0x74000004#32 ||| put 21 d ||| put 16 a ||| put 11 b ||| put 6 p)
  | .vcmplt d a b p => some (0x74000008#32 ||| put 21 d ||| put 16 a ||| put 11 b ||| put 6 p)
  | .vcmple d a b p => some (0x7400000C#32 ||| put 21 d ||| put 16 a ||| put 11 b ||| put 6 p)
  | .vpand d a b p => some (0x74000010#32 ||| put 21 d ||| put 16 a ||| put 11 b ||| put 6 p)
  | .vpor d a b p => some (0x74000014#32 ||| put 21 d ||| put 16 a ||| put 11 b ||| put 6 p)
  | .vpxor d a b p => some (0x74000018#32 ||| put 21 d ||| put 16 a ||| put 11 b ||| put 6 p)
  | .vpandn d a b p => some (0x7400001C#32 ||| put 21 d ||| put 16 a ||| put 11 b ||| put 6 p)
  | .vslideup d a b p => some (0x78000000#32 ||| put 21 d ||| put 16 a ||| put 11 b ||| put 6 p)
  | .vslidedn d a b p => some (0x78000004#32 ||| put 21 d ||| put 16 a ||| put 11 b ||| put 6 p)
  | .vperm d a b p => some (0x78000008#32 ||| put 21 d ||| put 16 a ||| put 11 b ||| put 6 p)
  | .vbcast d a p => some (0x7800000C#32 ||| put 21 d ||| put 16 a ||| put 6 p)
  | .vcompress d a p => some (0x78000010#32 ||| put 21 d ||| put 16 a ||| put 6 p)
  | .vredsum d a b p => some (0x78000014#32 ||| put 21 d ||| put 16 a ||| put 11 b ||| put 6 p)
  | .vfredsum d a b p rm => some (0x78000018#32 ||| put 21 d ||| put 16 a ||| put 11 b ||| put 6 p ||| put 0 rm)
  | .vfredosum d a b p rm => some (0x7800001C#32 ||| put 21 d ||| put 16 a ||| put 11 b ||| put 6 p ||| put 0 rm)
  | .vredmax d a b p => some (0x78000020#32 ||| put 21 d ||| put 16 a ||| put 11 b ||| put 6 p)
  | .vscan d a b p => some (0x78000024#32 ||| put 21 d ||| put 16 a ||| put 11 b ||| put 6 p)
  | .vprune d a b p => some (0x78000028#32 ||| put 21 d ||| put 16 a ||| put 11 b ||| put 6 p)
  | .vmvs d a b => some (0x7800002C#32 ||| put 21 d ||| put 16 a ||| put 11 b)
  | .vcvt d a p rm => some (0x84000000#32 ||| put 21 d ||| put 16 a ||| put 6 p ||| put 0 rm)
  | .vcvtef d a b p rm => some (0x84000004#32 ||| put 21 d ||| put 16 a ||| put 11 b ||| put 6 p ||| put 0 rm)
  | .vdqbx d a p => some (0x84000008#32 ||| put 21 d ||| put 16 a ||| put 6 p)
  | .vnsat d a p => some (0x8400000C#32 ||| put 21 d ||| put 16 a ||| put 6 p)
  | .vqbx d a k rm => some (0x84000020#32 ||| put 21 d ||| put 16 a ||| put 2 k ||| put 0 rm)
  | .vld d a s p ord => some (0x88000000#32 ||| put 21 d ||| put 16 a ||| put 11 s ||| put 6 p ||| put 0 ord)
  | .vlds d a i p ord => some (0x88000008#32 ||| put 21 d ||| put 16 a ||| put 11 i ||| put 6 p ||| put 0 ord)
  | .vldff d a p ord => some (0x88000010#32 ||| put 21 d ||| put 16 a ||| put 6 p ||| put 0 ord)
  | .vldx d a i p ls ord => some (0x88000018#32 ||| put 21 d ||| put 16 a ||| put 11 i ||| put 6 p ||| put 2 (BitVec.ofBool ls) ||| put 0 ord)
  | .vst d a s p ord => some (0x8C000000#32 ||| put 21 d ||| put 16 a ||| put 11 s ||| put 6 p ||| put 0 ord)
  | .vsts d a i p ord => some (0x8C000008#32 ||| put 21 d ||| put 16 a ||| put 11 i ||| put 6 p ||| put 0 ord)
  | .vstx d a i p ls ord => some (0x8C000010#32 ||| put 21 d ||| put 16 a ||| put 11 i ||| put 6 p ||| put 2 (BitVec.ofBool ls) ||| put 0 ord)
  | .vscadd d a i p ls ord => some (0x8C000018#32 ||| put 21 d ||| put 16 a ||| put 11 i ||| put 6 p ||| put 2 (BitVec.ofBool ls) ||| put 0 ord)
  | .vsld d h p ord => some (0x90000000#32 ||| put 21 d ||| put 16 h ||| put 6 p ||| put 0 ord)
  | .vsst d h p ord => some (0x90000008#32 ||| put 21 d ||| put 16 h ||| put 6 p ||| put 0 ord)
  | .vgsld d h p ord => some (0x90000010#32 ||| put 21 d ||| put 16 h ||| put 6 p ||| put 0 ord)
  | .vstrip h i => some (0x94000000#32 ||| put 16 h ||| put 11 i)
  | .vsadd d a b rm => some (0x98000000#32 ||| put 21 d ||| put 16 a ||| put 11 b ||| put 0 rm)
  | .vsmul d a b rm => some (0x98000004#32 ||| put 21 d ||| put 16 a ||| put 11 b ||| put 0 rm)
  | .vsdot d a b rm => some (0x98000008#32 ||| put 21 d ||| put 16 a ||| put 11 b ||| put 0 rm)
  | .vspld d a b => some (0x9800000C#32 ||| put 21 d ||| put 16 a ||| put 11 b)
  | .vspst d a b => some (0x98000010#32 ||| put 21 d ||| put 16 a ||| put 11 b)
  | .mldtA d a => some (0x9C000000#32 ||| put 21 d ||| put 16 a)
  | .mldtB d a => some (0x9C000004#32 ||| put 21 d ||| put 16 a)
  | .mldtffA d a => some (0x9C000001#32 ||| put 21 d ||| put 16 a)
  | .mldtffB d a => some (0x9C000005#32 ||| put 21 d ||| put 16 a)
  | .mst acc a => some (0x9C000002#32 ||| put 21 acc ||| put 16 a)
  | .mma acc => some (0xA0000000#32 ||| put 21 acc)
  | .mmas acc => some (0xA0000001#32 ||| put 21 acc)
  | .mzero acc => some (0xA0000002#32 ||| put 21 acc)
  | .vmrd d acc b p rm => some (0xA4000000#32 ||| put 21 d ||| put 16 acc ||| put 11 b ||| put 6 p ||| put 0 rm)
  | .vmwr d acc b p => some (0xA4000004#32 ||| put 21 d ||| put 16 acc ||| put 11 b ||| put 6 p)
  | .xcopy d a b acq rel scope => some (0xA8000000#32 ||| put 21 d ||| put 16 a ||| put 11 b ||| put 10 (BitVec.ofBool acq) ||| put 9 (BitVec.ofBool rel) ||| put 7 scope)
  | .xstream a acq scope => some (0xA8000001#32 ||| put 16 a ||| put 10 (BitVec.ofBool acq) ||| put 7 scope)
  | .xsbar mask acq scope => some (0xA8000002#32 ||| put 21 mask ||| put 10 (BitVec.ofBool acq) ||| put 7 scope)
  | .xgather a acq rel scope => some (0xAC000000#32 ||| put 16 a ||| put 10 (BitVec.ofBool acq) ||| put 9 (BitVec.ofBool rel) ||| put 7 scope)
  | .xbin a acq rel scope => some (0xAC000001#32 ||| put 16 a ||| put 10 (BitVec.ofBool acq) ||| put 9 (BitVec.ofBool rel) ||| put 7 scope)
  | .xmove d a b acq rel scope => some (0xB0000000#32 ||| put 21 d ||| put 16 a ||| put 11 b ||| put 10 (BitVec.ofBool acq) ||| put 9 (BitVec.ofBool rel) ||| put 7 scope)
  | .xheal a acq rel scope => some (0xB0000001#32 ||| put 16 a ||| put 10 (BitVec.ofBool acq) ||| put 9 (BitVec.ofBool rel) ||| put 7 scope)
  | .xreclaim a acq rel scope => some (0xB0000002#32 ||| put 16 a ||| put 10 (BitVec.ofBool acq) ||| put 9 (BitVec.ofBool rel) ||| put 7 scope)
  | .xinst d a b acq rel scope => some (0xB4000000#32 ||| put 21 d ||| put 16 a ||| put 11 b ||| put 10 (BitVec.ofBool acq) ||| put 9 (BitVec.ofBool rel) ||| put 7 scope)
  | .xpin d a b acq rel scope => some (0xB4000001#32 ||| put 21 d ||| put 16 a ||| put 11 b ||| put 10 (BitVec.ofBool acq) ||| put 9 (BitVec.ofBool rel) ||| put 7 scope)
  | .xwear d a => some (0xB4000002#32 ||| put 21 d ||| put 16 a)
  | .xsweep a acq rel scope => some (0xB8000000#32 ||| put 16 a ||| put 10 (BitVec.ofBool acq) ||| put 9 (BitVec.ofBool rel) ||| put 7 scope)
  | .cwait d a b acq rel scope => some (0xB8000001#32 ||| put 21 d ||| put 16 a ||| put 11 b ||| put 10 (BitVec.ofBool acq) ||| put 9 (BitVec.ofBool rel) ||| put 7 scope)
  | .cwake d a b acq rel scope => some (0xB8000002#32 ||| put 21 d ||| put 16 a ||| put 11 b ||| put 10 (BitVec.ofBool acq) ||| put 9 (BitVec.ofBool rel) ||| put 7 scope)
  | .launch d a => some (0xC0000000#32 ||| put 21 d ||| put 16 a)
  | .fork mask => some (0xC0000001#32 ||| put 3 mask)
  | .join mask => some (0xC0000002#32 ||| put 3 mask)
  | .yield => some (0xC0000003#32)
  | .exit => some (0xC0000004#32)
  | .id d sel => some (0xC0000005#32 ||| put 21 d ||| put 3 sel)
  | .gang d n => some (0xC0000006#32 ||| put 21 d ||| put 3 n)
  | .waitt a => some (0xC0000007#32 ||| put 16 a)
  | .trap k => some (0xC4000000#32 ||| put 4 k)
  | .eret => some (0xC4000001#32)
  | .kget d k => some (0xC4000002#32 ||| put 21 d ||| put 4 k)
  | .kset a k => some (0xC4000003#32 ||| put 16 a ||| put 4 k)
  | .tlbinv d a => some (0xC4000004#32 ||| put 21 d ||| put 16 a)
  | .cflush d a => some (0xC4000005#32 ||| put 21 d ||| put 16 a)
  | .wfi a => some (0xC4000006#32 ||| put 16 a)
  | .hint n => some (0xF8000000#32 ||| put 0 n)
  | .waitaWake _ => none
  | .barrierComplete _ => none
  | .vgsldMeet _ => none
  | .accRowComplete _ _ _ => none
  | .xcopyExecute _ => none
  | .xstreamBind _ => none
  | .xsbarDrain _ => none
  | .xgatherExecute _ => none
  | .xbinExecute _ => none
  | .xmoveExecute _ => none
  | .movedAccessRetry _ _ => none
  | .xhealExecute _ => none
  | .xreclaimExecute _ => none
  | .xinstExecute _ => none
  | .blockErase _ _ => none
  | .xpinExecute _ => none
  | .xwearExecute _ => none
  | .xsweepExecute _ => none
  | .sweepBatch _ => none
  | .cwaitWake _ => none
  | .launchTableEntryFree _ => none
  | .forkBound _ => none
  | .joinComplete _ => none
  | .gangComplete _ => none
  | .waittExpire _ => none
  | .l2waysWrite _ => none
  | .wfiWake _ => none
  | .powerOn => none
  | .firmwareVerified _ => none
  | .fabricTrained _ => none
  | .verticalBusesRepaired _ _ => none
  | .dramInitialised _ => none
  | .granaryOnline _ _ => none
  | .timeAligned _ _ => none
  | .ready => none
  | .arbiterGrant _ => none
  | .beatWrite _ => none
  | .rowStallPreempt _ => none
  | .vqueueRoom _ => none
  | .vectorCommit _ => none
  | .memoryResponseArrival _ _ => none
  | .homeAccessPerform _ => none
  | .l1Fill _ _ _ => none
  | .writebackApply _ _ => none
  | .pageWalk _ _ _ => none
  | .pagerAnswer _ => none
  | .handleRunaheadRead _ _ => none
  | .portHandoff _ => none
  | .stagingFill _ _ => none
  | .oldtktUpdate _ => none
  | .engineQueueRoom _ => none
  | .launchAdmit _ _ => none
  | .launchEnd _ => none
  | .launchStop _ _ => none
  | .launchTimeout _ => none
  | .budgetWarn _ => none
  | .watchdog _ => none
  | .asyncEventDeliver _ => none
  | .preempt _ => none
  | .contextRestore _ _ => none
  | .sweepContextSave _ => none
  | .flitRoute _ _ => none
  | .flitAgeStep => none
  | .injrateWindow => none
  | .requestResend _ => none
  | .planeFail _ => none
  | .linkDown _ _ => none
  | .linkUp _ => none
  | .inboundWrite _ _ _ => none
  | .hostRead _ _ _ => none
  | .hostTimeout _ _ _ => none
  | .kill _ => none
  | .attctl _ => none
  | .attestationReportReady => none
  | .aper _ _ => none
  | .vfcfg _ _ => none
  | .registerWrite _ _ => none
  | .busRetrain _ _ => none
  | .busRetrainDone _ _ _ => none
  | .busTest _ _ _ => none
  | .patrolScrub _ _ => none
  | .mcheck _ => none
  | .towerLost _ => none
  | .illegalInsn _ => none
  | .granaryStackFailed _ => none

/-- The word that trap registers report for an instruction (R353); ILLEGAL_INSN reports the word itself (R78), and a
step without a word reports 0. -/
def wordOf (i : Instr) : IWord :=
  match i with
  | .illegalInsn w => w
  | j => (encode? j).getD 0

/-- The word of an instruction that has one, and 0 otherwise (R67). -/
def encode (i : Instr) : IWord := (encode? i).getD 0

end Sys2Proof
end

