-- ==== Sys2Proof/Config.lean ====
section
/-! DEFINITION. What the spec leaves open: the free values, constants without a value (log entries 5, 6, 20, 62). -/

namespace Sys2Proof.Config

/-- A free choice between two outcomes the spec allows; the argument is the machine's counter `fresh`,
so each choice is a choice of its own (log entry 5). -/
opaque freeBit : Nat → Bool

/-- A free number: which of several pending pieces, items or updates comes next (R103, R275, R276, R284, R293; log entry 5). -/
opaque freeNat : Nat → Nat

/-- A free row of 64 bytes (R127, R218; log entry 5). -/
opaque freeRow : Nat → BitVec 512

/-- A byte read from a peer device or from host memory through a bridge frame (R345): the target is outside
the device (log entry 20). Arguments: `fresh`, the target address. -/
opaque peerByte : Nat → Nat → BitVec 8

/-- The L2 ways that repair has retired in a tower, bit w for way w (R367): the spec names no rule that says which
(log entry 62). -/
opaque retiredWays : Nat → BitVec 16

/-- The digest of the running firmware, the device public key and the signature over the first 96 bytes of
an attestation report (R349): the firmware image and the keys are not in the spec (log entry 20). -/
opaque firmwareDigest : BitVec 256
opaque identityKey : BitVec 512
opaque sign : BitVec 768 → BitVec 512

end Sys2Proof.Config
end

