-- ==== Sys2Proof/Machine/State.lean ====
section
/-! DEFINITION. The state of the GX9 as plain data: every piece INVENTORY.md lists under '## State'. Units there are
many of (towers, clusters, cores, stacks) are lists keyed by the unit's number in which an unlisted unit is at its
reset value (log entry 4). -/

namespace Sys2Proof.Machine

/-- Data keyed by number; a key that is not listed reads as the default its reader names (log entry 4). -/
abbrev KV (α : Type) := List (Nat × α)

/-- What executes: a control thread, a sequencer kind of R32, a sweep context (R304), a resident dispatcher (R348). -/
inductive Kind where
  | thread | mcc | copy | stream | gleaner | lamplighter | install | sweep | dispatcher
deriving DecidableEq, Repr

/-- A vector register: tag, tail, length, image, mapped rows, and the scale row of a block group (R110, R111, R118). -/
structure VReg where
  tag : BitVec 6
  tail : BitVec 2
  wlen : BitVec 11
  image : BitVec 4096
  rows : BitVec 8
  scale : BitVec 512
  scaleRow : Bool
deriving DecidableEq, Repr

/-- A vector register at task start (R111). -/
def VReg.fresh : VReg :=
  { tag := 0, tail := 1, wlen := 0, image := 0, rows := 0, scale := 0, scaleRow := false }

/-- A strip handle (R198, R220, R223, R288). `port` is its address-generator port; `ahead` holds the elements read
ahead, each with its index; `aheadLen` is L of R223; `startTime` is the start of an XSTREAM (R288), `win` the identity of the agent whose
windows its addresses mean, where that is another's than its thread's (R182). -/
structure Handle where
  base : Word
  stride0 : Word
  stride1 : Word
  stride2 : Word
  count0 : BitVec 32
  count1 : BitVec 32
  count2 : BitVec 32
  fmt : BitVec 8
  cursor : Word
  remaining : Word
  port : Option Nat
  ahead : List (Nat × BitVec 64)
  aheadLen : Nat
  startTime : Nat
  win : Option Nat := none
deriving DecidableEq, Repr

/-- A handle that was never bound: remaining 0 (R221). -/
def Handle.unbound : Handle :=
  { base := 0, stride0 := 0, stride1 := 0, stride2 := 0, count0 := 0, count1 := 0, count2 := 0, fmt := 0, cursor := 0,
    remaining := 0, port := none, ahead := [], aheadLen := 0, startTime := 0 }

/-- A write range (R240): `base` is the address of its first element; those that follow stand `stride` above it one after another, or,
where `down`, below it. -/
structure WRange where
  base : Nat
  stride : Nat
  count : Nat
  width : Nat
  home : Bool
  down : Bool := false
deriving DecidableEq, Repr

/-- A store of the thread to an aligned 8-byte word that some stream need not see yet (R204, R248, log entry 7): the stream
it was made in, whether it stands in the cluster L1 and whether at the home, the word, the bits stored, what stood there before
in the L1 (`old`) and at the home (`was`), what it stored, the streams that see it for sure (bit 12: the engines), whether it was
one atomic step of read and write, the greatest scope released since, whether another agent has read the word since, and, for a
store of an engine, one more than its command's number. -/
structure Loose where
  stream : Nat
  inL1 : Bool
  home : Bool
  word : Nat
  mask : BitVec 64
  old : BitVec 64
  was : BitVec 64
  new : BitVec 64
  seen : BitVec 13
  atomic : Bool
  rel : Option Nat
  shown : Bool := false
  cmd : Nat := 0
deriving DecidableEq, Repr

/-- A pending asynchronous event (R359). -/
structure Pending where
  code : Nat
  val : Word
  val2 : Word
deriving DecidableEq, Repr

/-- The wait or stall an agent stands in (R321, R313, R316, R281, R115, R31, R333). -/
inductive Wait where
  | waita | barrier | cwait | fork | join | gang | waitt | wfi | table | queue | gangLoad | vqueue
  | update | wear
deriving DecidableEq, Repr

/-- Where an agent stands: no instance bound; executing; in the wait of the named instruction; saved and off its core
(R323, R324), with the address of its area; with a fault record posted (R361), its save made when `saved`; ended, with the cause. -/
inductive Status where
  | free
  | running
  | waiting (w : Wait) (i : Instr)
  | saved
  | paged (isSaved : Bool) (cause : Nat)
  | ended (cause : Nat)
deriving DecidableEq, Repr

/-- A hold of XSBAR (R289): the streams held until every command of the thread accepted before `upTo` has completed, and
the scope of the acquire that follows, if any. -/
structure Hold where
  streams : BitVec 13
  upTo : Nat
  acq : Option Nat
deriving DecidableEq, Repr

/-- A reassembly entry (R337, R342): first element served, virtual and physical line, source position, what its consumption raises
(0: nothing) and its KTVAL2, data. -/
structure Reassembly where
  elem : Nat
  va : Nat
  line : Nat
  src : Nat
  age : Nat
  cause : Nat
  val2 : Word := 0
  data : BitVec 512
deriving DecidableEq, Repr

/-- The control registers of thread scope (R154), each a whole 64-bit word. -/
structure Regs where
  vl : Word
  vtype : Word
  vstart : Word
  vhigh : Word
  vdirty : Word
  fflags : Word
  frm : Word
  seed : Word
  fidxNv : Word
  fidxDz : Word
  fidxOf : Word
  fidxUf : Word
  fidxNx : Word
  slen : Vector Word 8
  loopAddr : Word
  loopCtl : Word
  kstatus : Word
  kcause : Word
  kepc : Word
  ktval : Word
  ktval2 : Word
  kvec : Word
deriving DecidableEq, Repr

/-- The control registers at the start of an instance (R89, R91, R105, R106, R108, R109, R120–R122, R128, R144,
R351–R354). -/
def Regs.fresh (vecbase : Word) : Regs :=
  { vl := 0, vtype := 0xC20, vstart := 0, vhigh := 0, vdirty := 0, fflags := 0, frm := 0, seed := 0,
    fidxNv := -1, fidxDz := -1, fidxOf := -1, fidxUf := -1, fidxNx := -1, slen := Vector.replicate 8 0,
    loopAddr := 0, loopCtl := 0, kstatus := 0x10, kcause := 0, kepc := 0, ktval := 0, ktval2 := 0, kvec := vecbase }

/-- A line that a load in the queue waits for: the first element it serves, that element's address, its first and last beat. -/
structure Awaited where
  elem : Nat
  va : Nat
  lo : Nat
  hi : Nat
deriving DecidableEq, Repr

/-- What a late trap at a load in the queue, or at a store in flight, goes back to (R346, R357, R358): the clock at which it was issued, its
address and stream, the scalar and control
registers, handles and replayed words before it, with the results of XWEARs then still to come, and the vector and predicate registers
after it. -/
structure Checkpoint where
  issued : Nat
  pc : Word
  stream : Nat
  g : Vector Word 32
  wear : List (Nat × Nat)
  regs : Regs
  handles : Vector Handle 8
  v : Vector VReg 32
  p : Vector (BitVec 1024) 32
  replay : Vector IWord 32
deriving DecidableEq, Repr

/-- A load whose elements may still be read (R204, R412): its destination group, and the elements, each with its address and its
place in the pattern. -/
structure LateLoad where
  vd : Nat
  fmt : Nat
  group : Nat
  items : List (Nat × Word × Nat)
deriving DecidableEq, Repr

/-- A vector instruction in the queue of R21: its class (R24: 0 FMA, 1 ALU/permute, 2 memory), the bits of its widest
operand's elements and its beats (R25), how many of them have issued and been written, the pipe it took, the registers it
reads and writes (v0–v31, then p0–p31), whether its results are usable only after its last beat (R26), whether a vector
configuration instruction ends its convoy after it, the number of its convoy (R28), the clock since which it has been ready at
the head of its pipe (R41), and the lines a load waits for, each with the first element it serves, that element's address, and its first and last beat
(R331); a load's checkpoint, and what it may still read; how many elements past its own beat's an instruction reads of some
registers, the elements it makes of so many written ones where their widths differ, and how many it takes together (R26); and whether it
uses FRM, SEED, FFLAGS and the FIDX registers (R150). -/
structure VToken where
  pipe : Nat
  beats : Nat
  issued : Nat
  written : Nat
  bits : Nat := 8
  on : Option Nat := none
  reads : BitVec 64 := 0
  writes : BitVec 64 := 0
  whole : Bool := false
  closed : Bool := false
  convoy : Nat := 0
  since : Option Nat := none
  awaits : List Awaited := []
  snap : Option Checkpoint := none
  late : Option LateLoad := none
  far : BitVec 64 := 0
  reach : Nat := 0
  ratio : Nat × Nat := (1, 1)
  block : Nat := 1
  rounds : Bool := false
deriving DecidableEq, Repr

/-- A scalar load, atomic or ticket before which a vector store that follows may still be performed, for nothing orders the two streams
(R204, R412): the instruction, its address, the values of its other operands, and whether it has written the word. -/
structure LateRead where
  instr : Instr
  va : Word
  b : Word := 0
  cmp : Word := 0
  wrote : Bool := false
deriving DecidableEq, Repr

/-- A store or atomic of the thread in flight to another device or the host (R345, R346, R391): the instruction, what a late trap at it goes
back to, and the bytes sent, each with its target and the address there. -/
structure Unacked where
  instr : Instr
  snap : Checkpoint
  bytes : List (Nat × Nat)
deriving DecidableEq, Repr

/-- An agent: a control thread, a sequencer instance, a sweep context or a dispatcher, with everything R34, R67, R110,
R119, R143, R154, R198, R240, R242, R320, R342 and R359 give it. `id` is the slot of R325 or R361 (log entry 4); `stall` is
the clock since which the next instruction has waited for rows (R116); `allNext` says that the next acquire selects every line (R245);
`cut` is the element before which a pre-emption cuts the next elementwise instruction (R162, R323); `postedAt` is the fault region
in which its record was posted (R361, R363); `linkHit` is the access in flight that a link going down has ended: the pc, its
address, and its KTVAL2, with the port and whether a write of it is in doubt (R346, R391); `seat` is the scalar core a dispatcher
runs on (R348); `lateRead` is the last scalar load or atomic that a later vector store may still precede (R412); `unacked` are the stores
in flight to other devices and the host, oldest first (R346). -/
structure Agent where
  id : Nat
  kind : Kind
  launch : Nat
  stage : Nat
  thread : Nat
  core : Nat
  cluster : Nat
  asid : Nat
  status : Status
  g : Vector Word 32
  pc : Word
  v : Vector VReg 32
  p : Vector (BitVec 1024) 32
  regs : Regs
  replay : Vector IWord 32
  handles : Vector Handle 8
  ranges : List WRange
  overflow : Bool
  mark : Nat
  fenceRanges : List (Nat × WRange)
  loose : List Loose
  holds : List Hold
  pending : List Pending
  waitSince : Nat
  gang : BitVec 8
  gangAsk : Nat
  anchorCore : Bool
  anchorCluster : Bool
  anchorTower : Bool
  barriers : Vector Nat 4
  wearRegs : List (Nat × Nat)
  reassembly : List Reassembly
  vqueue : List VToken
  budgetWarned : Bool
  stall : Option Nat
  allNext : Bool
  cut : Option Nat
  postedAt : Nat
  linkHit : Option (Word × Nat × Word)
  seat : Option Nat
  lateRead : Option LateRead
  unacked : List Unacked
deriving DecidableEq, Repr

/-- An agent with nothing bound to it, every register as at the start of an instance (R34, R111, R221; p1–p31: log
entry 2). -/
def Agent.fresh (id : Nat) (kind : Kind) : Agent :=
  { id := id, kind := kind, launch := 0, stage := 0, thread := 0, core := 0, cluster := 0, asid := 0, status := .free,
    g := Vector.replicate 32 0, pc := 0, v := Vector.replicate 32 VReg.fresh, p := Vector.replicate 32 0,
    regs := Regs.fresh 0, replay := Vector.replicate 32 0, handles := Vector.replicate 8 Handle.unbound, ranges := [],
    overflow := false, mark := 0, fenceRanges := [], loose := [], holds := [], pending := [], waitSince := 0, gang := 0,
    gangAsk := 0, anchorCore := false, anchorCluster := false, anchorTower := false, barriers := Vector.replicate 4 0,
    wearRegs := [], reassembly := [], vqueue := [], budgetWarned := false, stall := none,
    allNext := false, cut := none, postedAt := 0, linkHit := none, seat := none, lateRead := none, unacked := [] }

/-- A line of a cluster L1 (R190, R243): the physical line it holds, the address space and virtual line it was filled
through, the marked physical lines it was filled through (R294), its bytes, valid and dirty masks, the threads with
dirty bytes, stamps that order last use and, for each of these threads, its first dirtying, the bytes filled later through another
address space or virtual line, each with that name, and the dirty bytes an uncorrectable error has poisoned (R404). -/
structure L1Line where
  pline : Nat
  asid : Nat
  vline : Nat
  via : List Nat
  data : BitVec 512
  valid : BitVec 64
  dirty : BitVec 64
  threads : List Nat
  used : Nat
  dirtied : KV Nat
  fills : List (Nat × Nat × BitVec 64) := []
  bad : BitVec 64 := 0
deriving DecidableEq, Repr

/-- A tile buffer of an MCC (R256, R259): the format, K, sparseness, rows granted, and for each row its element bytes,
scale words and metadata as read. -/
structure Tile where
  loaded : Bool
  fmt : Nat
  k : Nat
  sparse : Bool
  rows : List (BitVec 8192 × BitVec 256 × BitVec 512)
deriving DecidableEq, Repr

/-- The empty tile buffer. -/
def Tile.empty : Tile := { loaded := false, fmt := 0, k := 0, sparse := false, rows := [] }

/-- A translation held in a TLB (R197): address space, virtual base, size, and the leaf entry. -/
structure TlbEntry where
  asid : Nat
  vbase : Nat
  size : Nat
  leaf : Word
deriving DecidableEq, Repr

/-- The state of a cluster: L1 (R190), MCC (R256), address-generator ports and the handles waiting for one (R198), TLB (R197).
`acc` is keyed by accumulator × 128 + row, +0 where not listed; `accBusy` holds the rows an operation is still
changing, with the clock at whose end it completes (R265). -/
structure Cluster where
  l1 : List L1Line
  mccOwner : Option Nat
  tileA : Tile
  tileB : Tile
  acc : KV (BitVec 2048)
  accBusy : List (Nat × Nat × Nat)
  ports : KV (Nat × Nat)
  portQueue : List (Nat × Nat)
  tlb : List TlbEntry
deriving DecidableEq, Repr

/-- A cluster with everything empty. -/
def Cluster.fresh : Cluster :=
  { l1 := [], mccOwner := none, tileA := Tile.empty, tileB := Tile.empty, acc := [], accBusy := [], ports := [],
    portQueue := [], tlb := [] }

/-- The state of a vector core beside its threads: arbiter credits of its five queues (R41), the clock at which the burst of each
pipe ends (R330; 0 FMA-A, 1 FMA-B, 2 ALU/permute, 3 memory), the command whose sweep it hosts (R303), and the TLBs of its lane quads (R197; keyed by quad). -/
structure Core where
  credit : List Int
  busy : KV Nat
  sweep : Option Nat
  sweepSaved : Bool
  tlb : KV (List TlbEntry)
deriving DecidableEq, Repr

/-- A core at reset. -/
def Core.fresh : Core :=
  { credit := [0, 0, 0, 0, 0], busy := [], sweep := none, sweepSaved := false, tlb := [] }

/-- What a published range covers (R241): everything, a virtual range of an address space, or a physical range. -/
inductive Cover where
  | all
  | range (r : WRange)
  | physical (base len : Nat)
deriving DecidableEq, Repr

/-- An entry of a tower's range table (R241). -/
structure RangeEntry where
  cover : Cover
  home : Bool
  scope : Nat
  cluster : Nat
  asid : Nat
  epoch : Nat
deriving DecidableEq, Repr

/-- A vertical bus (R399): working wires; being retrained. -/
structure Bus where
  wires : Nat
  retraining : Bool
deriving DecidableEq, Repr

/-- The state of a tower (R187, R197, R201, R241, R290, R340, R399, R402). `staging` lists the units held, the least
recently used first; `pins` counts pins per unit (R299). -/
structure Tower where
  l2ways : Word
  oldtkt : Word
  injrate : Word
  deflcnt : Word
  injected : KV Nat
  ranges : List RangeEntry
  epoch : Nat
  floor : Nat
  tlb : List TlbEntry
  staging : List Nat
  pins : KV Nat
  buses : KV Bus
  cecount : Word
  skew : Nat
  retiredWays : BitVec 16
deriving DecidableEq, Repr

/-- A tower at reset: stg 4, ways 0 (R187). -/
def Tower.fresh : Tower :=
  { l2ways := 0x400, oldtkt := 0, injrate := 0, deflcnt := 0, injected := [], ranges := [], epoch := 0, floor := 0,
    tlb := [], staging := [], pins := [], buses := [], cecount := 0, skew := 0, retiredWays := 0 }

/-- A Granary stack (R295–R297, R332): erase counts, the physical block behind each logical block, erased spares,
blocks awaiting erasure. A logical block not listed is backed by the physical block of its number; a block not listed
has count 0 (log entry 2). -/
structure Stack where
  counts : KV Nat
  backing : KV Nat
  spares : List Nat
  awaiting : List Nat
  retired : List Nat
deriving DecidableEq, Repr

/-- A stack before its wear table is reported. -/
def Stack.fresh : Stack := { counts := [], backing := [], spares := [], awaiting := [], retired := [] }

/-- A stage entry of a launch (R311). -/
structure StageEntry where
  present : Bool
  entry : Word
  kind : Nat
  stack : Nat
deriving DecidableEq, Repr

/-- A launch in the launch table (R311–R315): its identifier, the physical line of its record, the record's fields, its
state, placement, and the stages started. `faults` lists the instances that ended by a fault and that no JOIN has reported
yet: stage, cluster, KCAUSE (R364). `away` is the target of the record and the address there, where it stands in a bridge frame (R345). -/
structure Launch where
  ident : Nat
  record : Nat
  clusters : Nat
  cores : Nat
  threads : Nat
  prio : Nat
  asid : Nat
  weight : Nat
  startTime : Nat
  budget : Nat
  preds : List Nat
  args : Vector Word 8
  stages : Vector StageEntry 8
  accepted : Nat
  admitted : Option Nat
  place : List Placement
  started : BitVec 8
  faults : List (Nat × Nat × Word)
  away : Option (Nat × Nat) := none
deriving DecidableEq, Repr

/-- What a queued engine command does (R274, R284, R288, R291, R293, R294, R295, R299, R300, R303), with the fields
of its record as read at issue (R280). -/
inductive Work where
  | copy (dst src rowbytes rows : Nat) (sstride dstride : Int) (done start chan : Nat)
  | stream (h : Handle) (port target handle start : Nat)
  | gather (src idx dst count width done : Nat)
  | bin (key count buckets counter bucket slots done : Nat)
  | move (dst src len done : Nat)
  | heal (rbase rlen lo hi done : Nat)
  | reclaim (base len list n done : Nat)
  | install (dst src len rec flag : Nat) (fval : Word)
  | pin (base len : Nat) (unpin : Bool) (done : Nat)
  | wear (addr reg : Nat)
  | sweep (hdr n fmt skip : Nat) (body : List IWord) (args : Vector Word 8) (pol wt count host : Nat) (bodyAt : Word)
deriving DecidableEq, Repr

/-- Progress of a sweep (R304): sweep being run from 1, next line, skip word and the line it was read at, elements
written back awake in this sweep, and whether the first sweep resumes (R396). -/
structure SweepPos where
  begun : Bool
  sw : Nat
  line : Nat
  skipWord : Word
  skipLine : Option Nat
  awake : Nat
  resumed : Bool
deriving DecidableEq, Repr

/-- Progress of an install (R295, R296, R332): bytes of the range reached, and the fields of its record so far: bytes
switched, blocks switched, their highest count, status and fault, and the address at which it stopped. -/
structure InstallPos where
  done : Nat
  bytes : Nat
  erased : Nat
  wear : Nat
  status : Nat
  fault : Nat
  line : Nat
deriving DecidableEq, Repr

/-- An accepted engine command (R281): acceptance order, engine (1 copy, 2 Gleaner, 3 Lamplighter, 4 install, 5 stream
dispatcher), its tower or stack, the issuer, the placement its windows mean, its kind, mode, launch and address space, flags, record
address, channel, and its progress: for a copy, a gather, a bin, a move or a heal the items left,
once it has begun, and what it has performed so far; `memo` holds a bin's tickets whose item is not written yet, each with
its slot, a move's greatest ticket, a heal's start (each under 0), the source words of a copy read and not yet written whole; `hit` is the
cause and address with which a link that went down stops it (R391). -/
structure Cmd where
  id : Nat
  engine : Nat
  unit : Nat
  issuer : Nat
  place : Nat
  kind : Kind
  user : Bool
  launch : Nat
  asid : Nat
  acq : Bool
  rel : Bool
  scope : Nat
  recAddr : Nat
  work : Work
  chan : Option Nat
  started : Bool
  pos : SweepPos
  inst : InstallPos
  left : Option (List Nat) := none
  tally : Nat × Nat := (0, 0)
  memo : List (Nat × Nat) := []
  hit : Option (Nat × Nat) := none
deriving DecidableEq, Repr

/-- A scatter-add update that has not reached its bank yet (R103, R217): the agent, stream order, resolved location,
format and value. -/
structure BankAdd where
  agent : Nat
  loc : Nat
  fmt : Nat
  val : BitVec 64
deriving DecidableEq, Repr

/-- A flit on the fabric (R337–R339): plane, the plane it travels on, source, destination, position, age, request, whether
it was injected before its tower's DEFLCNT was last written (R340), and the router it came from (R406). -/
structure Flit where
  plane : Nat
  src : Nat
  dst : Nat
  pos : Nat
  age : Nat
  req : Nat
  stale : Bool := false
  came : Nat := src
deriving DecidableEq, Repr

/-- A write that left the device through an aperture (R345): the agent it comes from, target code, target
address, byte, and the address at which the agent wrote it. -/
structure Sent where
  agent : Nat
  tgt : Nat
  addr : Nat
  byte : Byte
  va : Nat := 0
deriving DecidableEq, Repr

/-- The registers of the host's physical function and the boot state (R14, R193, R325, R344, R347, R349, R354, R362,
R405). -/
structure Device where
  phase : Nat
  failphase : Nat
  towerok : BitVec 12
  granaryok : BitVec 4
  astbase : Word
  ctxbase : Word
  vecbase : Word
  fltbase : Word
  errbase : Word
  errhead : Word
  linkstat : Word
  apers : KV (BitVec 128)
  vfcfg : KV Word
  nonce : BitVec 256
  attctl : Bool
  report : BitVec 1280
  planesOff : BitVec 4
deriving DecidableEq, Repr

/-- An error that the next read of a line, or of an aligned word of a window, meets (R387, R402, R404, R407): the line's or word's
number, the cause it raises, its KTVAL2. -/
structure Latent where
  unit : Nat
  cause : Nat
  val2 : Word
deriving DecidableEq, Repr

/-- The next occurrence in the machine, where it is not simply the next instruction of the current agent (log entry 4). -/
inductive Sched where
  | event (i : Instr)
  | switch (agent : Nat)
  | elapse (cycles : Nat)
deriving DecidableEq, Repr

/-- The whole machine. `mem` is all storage but registers and caches, in the canonical form of Laws/Memory; `marks` and
`poison` are the metadata bits of lines that are set (R199, R402), by line number; beside them the poisoned words of windows (R404).
`latent` are the errors that no access has met yet; `hdrErrors` the header errors logged, with plane, segment and clock (R406). -/
structure State where
  cur : Agent
  others : List Agent
  sched : List Sched
  mem : List Host.Cell
  marks : List Nat
  poison : List Nat
  latent : List Latent
  hdrErrors : List (Nat × (Nat × Nat) × Nat)
  towers : KV Tower
  clusters : KV Cluster
  cores : KV Core
  granary : KV Stack
  launches : KV Launch
  cmds : List Cmd
  nextCmd : Nat
  bank : List BankAdd
  flits : List Flit
  sent : List Sent
  dev : Device
  clock : Nat
  timeZero : Nat
  fabricClock : Nat
  fresh : Nat
deriving DecidableEq, Repr

/-- Why the machine stops. -/
inductive Fault where
  /-- Raised by step while BOOTSTAT's phase is 0xFF: bring-up has failed and the device has stopped (R16). Safe. -/
  | bringUpFailed (phase : Nat)
deriving DecidableEq, Repr

/-- Why a step has no meaning. -/
inductive Refusal where
  /-- Raised by an arm of exec that has no meaning yet. Safe. -/
  | notModelled (mnemonic : String)
deriving DecidableEq, Repr

/-- The device's registers at reset. -/
def Device.reset : Device :=
  { phase := 0, failphase := 0, towerok := 0, granaryok := 0, astbase := 0, ctxbase := 0, vecbase := 0, fltbase := 0,
    errbase := 0, errhead := 0, linkstat := 0, apers := [], vfcfg := [], nonce := 0, attctl := false, report := 0,
    planesOff := 0 }

/-- The machine right after reset: nothing bound, BOOTSTAT 0 (R14), memory empty (log entries 2–5). -/
def State.reset : State :=
  { cur := Agent.fresh 0 .thread, others := [], sched := [], mem := [], marks := [], poison := [], latent := [], hdrErrors := [], towers := [],
    clusters := [], cores := [], granary := [], launches := [], cmds := [], nextCmd := 0, bank := [], flits := [],
    sent := [], dev := Device.reset, clock := 0, timeZero := 0, fabricClock := 0, fresh := 0 }

end Sys2Proof.Machine
end

