-- ==== Sys2Proof/Machine/Data.lean ====
section
/-! DEFINITION. The plain operations on the state's data: keyed lists, memory bytes, registers, units, the physical
placement of an agent, TIME, and the monad the meanings are written in. -/

namespace Sys2Proof.Machine

/-- The value of key `k`, `d` where it is not listed. -/
def kvGet {α : Type} (d : α) : KV α → Nat → α
  | [], _ => d
  | (j, x) :: rest, k => if j = k then x else kvGet d rest k

/-- Keys ascending; the value of `k` becomes `x`. -/
def kvSet {α : Type} : KV α → Nat → α → KV α
  | [], k, x => [(k, x)]
  | (j, y) :: rest, k, x =>
    if k = j then (k, x) :: rest else if k < j then (k, x) :: (j, y) :: rest else (j, y) :: kvSet rest k x

/-- Key `k` removed. -/
def kvDel {α : Type} (m : KV α) (k : Nat) : KV α := m.filter (fun e => e.1 != k)

/-- Is `k` listed? -/
def kvHas {α : Type} (m : KV α) (k : Nat) : Bool := m.any (fun e => e.1 == k)

/-! ## Memory bytes. An unlisted address reads as 0 (log entries 2, 3). -/

/-- The byte at location `a`. -/
def memByte : List Host.Cell → Nat → Byte
  | [], _ => 0
  | (b, x) :: rest, a => if b = a then x else if a < b then 0 else memByte rest a

/-- The byte at location `a` becomes `x`, the canonical form kept: locations ascend and no listed byte is 0. -/
def memPut : List Host.Cell → Nat → Byte → List Host.Cell
  | [], a, x => if x = 0 then [] else [(a, x)]
  | (b, y) :: rest, a, x =>
    if a = b then (if x = 0 then rest else (a, x) :: rest)
    else if a < b then (if x = 0 then (b, y) :: rest else (a, x) :: (b, y) :: rest)
    else (b, y) :: memPut rest a x

/-- The canonical form: locations strictly rise and no entry equals what an unlisted location reads as. -/
def Memory.wf : List Host.Cell → Bool
  | [] => true
  | [(_, x)] => x != 0
  | (a, x) :: (b, y) :: rest => x != 0 && a < b && Memory.wf ((b, y) :: rest)

/-- The bytes at `a`, `a + 1`, …, `a + n − 1`. -/
def memBytes (m : List Host.Cell) (a : Nat) : Nat → List Byte
  | 0 => []
  | n + 1 => memByte m a :: memBytes m (a + 1) n

/-- The bytes `xs` written from `a` upward. -/
def memPuts (m : List Host.Cell) (a : Nat) : List Byte → List Host.Cell
  | [] => m
  | x :: xs => memPuts (memPut m a x) (a + 1) xs

/-- The little-endian value of bytes (R6). -/
def leNat : List Byte → Nat
  | [] => 0
  | x :: xs => x.toNat + 256 * leNat xs

/-- The `n` little-endian bytes of a value (R6). -/
def leBytes : Nat → Nat → List Byte
  | 0, _ => []
  | n + 1, x => BitVec.ofNat 8 x :: leBytes n (x / 256)

/-- The `n`-byte little-endian value at location `a`. -/
def memNat (m : List Host.Cell) (a n : Nat) : Nat := leNat (memBytes m a n)
/-- `n` little-endian bytes of `x` written at location `a`. -/
def memPutNat (m : List Host.Cell) (a n x : Nat) : List Host.Cell := memPuts m a (leBytes n x)

/-! ## Fields of words and wide values -/

/-- Bits `[hi:lo]` of a 64-bit value (R80). -/
def wbits (x : Word) (hi lo : Nat) : Nat := bitsOf x.toNat hi lo
/-- `x` with bits `[hi:lo]` replaced by the low bits of `v`. -/
def wput (x : Word) (hi lo v : Nat) : Word :=
  let m : Word := BitVec.ofNat 64 ((2 ^ (hi + 1 - lo) - 1) <<< lo)
  (x &&& ~~~m) ||| (BitVec.ofNat 64 (v <<< lo) &&& m)
/-- Byte `i` of a wide value. -/
def byteOf {n : Nat} (x : BitVec n) (i : Nat) : Byte := (x >>> (8 * i)).setWidth 8
/-- Byte `i` of a wide value replaced. -/
def putByte {n : Nat} (x : BitVec n) (i : Nat) (b : Byte) : BitVec n :=
  (x &&& ~~~((0xFF#n) <<< (8 * i))) ||| ((b.setWidth n) <<< (8 * i))
/-- The `len` bits of a wide value from bit `lo` on, as a number. -/
def field {n : Nat} (x : BitVec n) (lo len : Nat) : Nat := (x.toNat >>> lo) % 2 ^ len
/-- The `len` bits from bit `lo` on replaced by the low bits of `v`. -/
def putField {n : Nat} (x : BitVec n) (lo len v : Nat) : BitVec n :=
  let m : BitVec n := BitVec.ofNat n ((2 ^ len - 1) <<< lo)
  (x &&& ~~~m) ||| BitVec.ofNat n ((v % 2 ^ len) <<< lo)
/-- The smallest multiple count: `ceil(a / b)`. -/
def ceilDiv (a b : Nat) : Nat := (a + b - 1) / b
/-- A signed 64-bit value as an integer. -/
def sint (x : Word) : Int := x.toInt
/-- An integer modulo 2^64. -/
def toWord (x : Int) : Word := BitVec.ofInt 64 x
/-- A number modulo 2^64. -/
def nw (x : Nat) : Word := BitVec.ofNat 64 x

/-! ## Where an agent stands (R325, R361; log entry 4) -/

/-- Sequencers of the further stages of one kind in a launch (R40, log entry 4): the `r`-th one beyond the first at the seat
`id` of R361. -/
def furtherSeat (id r : Nat) : Nat := if r = 0 then id else 9728 + 808 * (r - 1) + (id - 6144)

/-- The slot of R361 at which an agent stands. -/
def seatOf (id : Nat) : Nat := if 9728 ≤ id ∧ id < 15384 then 6144 + (id - 9728) % 808 else id

/-- The cluster of a slot; a dispatcher's is the first of the lowest standing tower (R348), tower 0 where none stands
(DESIGN CHOICE: log entry 58). -/
def seatCluster (towerok : BitVec 12) (id : Nat) : Nat :=
  if id < 6144 then id / 16
  else if id < 6528 then id - 6144
  else if id < 6912 then id - 6528
  else if id < 6924 then 32 * (id - 6912)
  else if id < 6936 then 32 * (id - 6924)
  else if id < 6948 then 32 * (id - 6936)
  else if 8192 ≤ id then (id - 8192) / 4
  else 32 * ((List.range 12).find? (fun k => towerok.getLsbD k)).getD 0

/-- The physical cluster `32w + c` of a thread or of a per-cluster sequencer; for another agent, cluster 0 of its tower. -/
def placeCluster (towerok : BitVec 12) (id : Nat) : Nat := seatCluster towerok (seatOf id)

/-- The tower of an agent; 12 + j for the install engine of stack j (R33, R236). A dispatcher stands on the lowest
standing tower (R348). -/
def placeTower (towerok : BitVec 12) (id : Nat) : Nat :=
  if 6948 ≤ seatOf id ∧ seatOf id < 6952 then 12 + (seatOf id - 6948) else placeCluster towerok id / 32

/-- The physical core `4g + k` of a thread or sweep context. -/
def placeCore (id : Nat) : Nat := if 8192 ≤ id then id - 8192 else id / 4

namespace State

/-- A tower, cluster, core or stack of the machine. -/
def tower (s : State) (w : Nat) : Tower := kvGet Tower.fresh s.towers w
def cluster (s : State) (g : Nat) : Cluster := kvGet Cluster.fresh s.clusters g
def core (s : State) (k : Nat) : Core := kvGet Core.fresh s.cores k
def stack (s : State) (j : Nat) : Stack := kvGet Stack.fresh s.granary j
def setTower (s : State) (w : Nat) (t : Tower) : State := { s with towers := kvSet s.towers w t }
def setCluster (s : State) (g : Nat) (c : Cluster) : State := { s with clusters := kvSet s.clusters g c }
def setCore (s : State) (k : Nat) (c : Core) : State := { s with cores := kvSet s.cores k c }
def setStack (s : State) (j : Nat) (x : Stack) : State := { s with granary := kvSet s.granary j x }

/-- The tower, cluster and core on which the current agent stands. -/
def myTower (s : State) : Nat := placeTower s.dev.towerok s.cur.id
def myCluster (s : State) : Nat := placeCluster s.dev.towerok s.cur.id
def myCore (s : State) : Nat := placeCore s.cur.id

/-- TIME of tower `w` (R38, R155): 0 until phase 0x06 completes. -/
def time (s : State) (w : Nat) : Nat :=
  if s.dev.phase < 6 ∨ s.dev.phase = 0xFF then 0 else s.clock - s.timeZero + (s.tower w).skew

/-- Does tower `w` stand (R14)? -/
def towerUp (s : State) (w : Nat) : Bool := s.dev.towerok.getLsbD w

/-- Scalar register n; g0 reads 0 (R71, R80). -/
def g (s : State) (n : Reg) : Word := if n = 0 then 0 else s.cur.g[n.toNat]'n.isLt
/-- SetG(n, x): discarded when n = 0 (R80). -/
def setG (s : State) (n : Reg) (x : Word) : State :=
  if n = 0 then s else { s with cur := { s.cur with g := s.cur.g.set n.toNat x n.isLt } }
/-- Predicate n; p0 reads as all ones (R119). -/
def p (s : State) (n : Reg) : BitVec 1024 := if n = 0 then BitVec.allOnes 1024 else s.cur.p[n.toNat]'n.isLt
/-- The pc of the current agent. -/
def setPc (s : State) (x : Word) : State := { s with cur := { s.cur with pc := x } }
/-- The control registers of the current agent. -/
def regs (s : State) : Regs := s.cur.regs
def setRegs (s : State) (r : Regs) : State := { s with cur := { s.cur with regs := r } }

end State

/-! ## The monad of the meanings -/

/-- A trap: cause (R367), KTVAL (the instruction's word where none is named, R353), KTVAL2, and the sub-fields of KCAUSE
(R352). `next`: KEPC holds the next instruction's address (R147). -/
structure Trap where
  cause : Nat
  val : Option Word := none
  val2 : Word := 0
  strm : Nat := 6
  hnd : Nat := 0
  hops : Nat := 0
  vec : Bool := false
  late : Bool := false
  next : Bool := false
deriving DecidableEq, Repr

/-- Why a meaning does not run to its end: it traps, it waits, the launch stops (R365), or the step of a unit is not
enabled in this state and changes nothing. -/
inductive Stop where
  | trap (t : Trap)
  | wait (w : Wait)
  | stop (cause : Nat)
  | idle
deriving DecidableEq, Repr

/-- The monad of the meanings: the state is kept at a stop. -/
abbrev Exec (α : Type) := EStateM Stop State α

/-- Traps with a cause. -/
def trap {α : Type} (cause : Nat) (val : Option Word := none) (val2 : Word := 0) (strm : Nat := 6) : Exec α :=
  throw (.trap { cause := cause, val := val, val2 := val2, strm := strm })

/-- The step is not enabled. -/
def idle {α : Type} : Exec α := throw .idle
/-- Continues only where the step is enabled. -/
def need (b : Bool) : Exec Unit := if b then pure () else throw .idle

/-- Register reads and writes in the monad. -/
def getG (n : Reg) : Exec Word := do return (← get).g n
def putG (n : Reg) (x : Word) : Exec Unit := modify (fun s => s.setG n x)
def getCur : Exec Agent := do return (← get).cur
def getRegs : Exec Regs := do return (← get).cur.regs
def modCur (f : Agent → Agent) : Exec Unit := modify (fun s => { s with cur := f s.cur })
def modRegs (f : Regs → Regs) : Exec Unit := modify (fun s => s.setRegs (f s.cur.regs))
def modTower (w : Nat) (f : Tower → Tower) : Exec Unit := modify (fun s => s.setTower w (f (s.tower w)))
def modCluster (g : Nat) (f : Cluster → Cluster) : Exec Unit := modify (fun s => s.setCluster g (f (s.cluster g)))
def modCore (k : Nat) (f : Core → Core) : Exec Unit := modify (fun s => s.setCore k (f (s.core k)))
def modStack (j : Nat) (f : Stack → Stack) : Exec Unit := modify (fun s => s.setStack j (f (s.stack j)))
def modDev (f : Device → Device) : Exec Unit := modify (fun s => { s with dev := f s.dev })

/-- A free choice (log entry 5). -/
def drawBit : Exec Bool := do
  let s ← get
  set { s with fresh := s.fresh + 1 }
  return Config.freeBit s.fresh
/-- A free number below n (log entry 5). -/
def drawBelow (n : Nat) : Exec Nat := do
  if n ≤ 1 then return 0
  let s ← get
  set { s with fresh := s.fresh + 1 }
  return Config.freeNat s.fresh % n
/-- A free row of bytes (log entry 5). -/
def drawRow : Exec (BitVec 512) := do
  let s ← get
  set { s with fresh := s.fresh + 1 }
  return Config.freeRow s.fresh

/-- Runs `f` on each element in order. -/
def each {α : Type} (xs : List α) (f : α → Exec Unit) : Exec Unit :=
  match xs with
  | [] => pure ()
  | x :: rest => do f x; each rest f

/-- Maps `f` over a list in order. -/
def eachGet {α β : Type} (xs : List α) (f : α → Exec β) : Exec (List β) :=
  match xs with
  | [] => pure []
  | x :: rest => do
    let y ← f x
    let ys ← eachGet rest f
    return y :: ys

/-- Folds `f` over a list in order. -/
def eachFold {α β : Type} (xs : List α) (z : β) (f : β → α → Exec β) : Exec β :=
  match xs with
  | [] => pure z
  | x :: rest => do
    let z ← f z x
    eachFold rest z f

/-- The list in a free order (log entry 5). -/
def shuffle {α : Type} : Nat → List α → Exec (List α)
  | 0, xs => pure xs
  | n + 1, xs => do
    let k ← drawBelow xs.length
    match xs[k]? with
    | none => pure xs
    | some x => do
      let rest ← shuffle n (xs.eraseIdx k)
      return x :: rest

/-- Runs `x`; when it stops, the stop is the answer and the state stays as the stop left it. -/
def attempt {α : Type} (x : Exec α) : Exec (Except Stop α) := fun s =>
  match x s with
  | .ok a s' => .ok (.ok a) s'
  | .error e s' => .ok (.error e) s'

/-! ## Agents -/

/-- The agent with identity `id`, wherever it stands. -/
def State.agent? (s : State) (id : Nat) : Option Agent :=
  if s.cur.id = id then some s.cur else s.others.find? (fun a => a.id == id)

/-- Every agent. -/
def State.agents (s : State) : List Agent := s.cur :: s.others

/-- Makes agent `id` the current one; nothing where there is none. -/
def State.focus (s : State) (id : Nat) : State :=
  if s.cur.id = id then s
  else match s.others.find? (fun a => a.id == id) with
    | none => s
    | some a => { s with cur := a, others := s.cur :: s.others.filter (fun b => b.id != id) }

/-- Agent `a` put in place of the one of its identity, or added. -/
def State.putAgent (s : State) (a : Agent) : State :=
  if s.cur.id = a.id then { s with cur := a }
  else if s.others.any (fun b => b.id == a.id)
    then { s with others := s.others.map (fun b => if b.id = a.id then a else b) }
  else { s with others := s.others ++ [a] }

/-- Runs `x` with agent `id` as the current one, then gives the turn back; not enabled where there is no such agent. -/
def asAgent {α : Type} (id : Nat) (x : Exec α) : Exec α := fun s =>
  match s.agent? id with
  | none => .error .idle s
  | some _ =>
    match x (s.focus id) with
    | .ok a s' => .ok a (s'.focus s.cur.id)
    | .error e s' => .error e (s'.focus s.cur.id)

/-- An event's meaning: where it stops, nothing more happens; a launch stop is handled by its own step. -/
def eventStep (x : Exec Unit) (s : State) : State :=
  match x s with
  | .ok _ s' => s'
  | .error _ s' => s'

end Sys2Proof.Machine
end

