-- ==== Sys2Proof/Machine/Flags.lean ====
section
/-! DEFINITION. Number formats, rounding, exact arithmetic and the event flags of spec/05 (R81–R107). A computation
gives bits and a set of events; events are a number whose bits are FFLAGS' (R105): 16 nv, 8 dz, 4 of, 2 uf, 1 nx. -/

namespace Sys2Proof.Machine

/-- Format codes (R75). -/
abbrev Fmt := Nat
def Fmt.isInt (f : Fmt) : Bool := f ≤ 4
def Fmt.isFloat (f : Fmt) : Bool := 5 ≤ f && f ≤ 10
def Fmt.isBlock (f : Fmt) : Bool := f == 11 || f == 12
/-- Width in bits (R75). -/
def Fmt.bits (f : Fmt) : Nat :=
  match f with
  | 0 => 8 | 1 => 8 | 2 => 16 | 3 => 32 | 4 => 64 | 5 => 64 | 6 => 32 | 7 => 16 | 8 => 16 | 9 => 8 | 10 => 8
  | 11 => 8 | 12 => 4 | _ => 8
/-- Width in whole bytes, for a format other than BX4. -/
def Fmt.bytes (f : Fmt) : Nat := f.bits / 8
/-- Is an integer format signed (R81)? -/
def Fmt.signed (f : Fmt) : Bool := f != 1
/-- Exponent bits, fraction bits and bias (R83). -/
def Fmt.expBits (f : Fmt) : Nat := match f with | 5 => 11 | 6 => 8 | 7 => 5 | 8 => 8 | 9 => 4 | _ => 5
def Fmt.fracBits (f : Fmt) : Nat := match f with | 5 => 52 | 6 => 23 | 7 => 10 | 8 => 7 | 9 => 3 | _ => 2
def Fmt.bias (f : Fmt) : Nat := 2 ^ (f.expBits - 1) - 1
/-- The canonical NaN (R83). -/
def Fmt.nan (f : Fmt) : Nat :=
  if f = 9 then 0x7F else (2 ^ f.expBits - 1) * 2 ^ f.fracBits + 2 ^ (f.fracBits - 1)
/-- The bits of the largest finite magnitude (R83). -/
def Fmt.maxFinite (f : Fmt) : Nat := if f = 9 then 0x7E else (2 ^ f.expBits - 1) * 2 ^ f.fracBits - 1
/-- The bits of the sign. -/
def Fmt.signBit (f : Fmt) : Nat := 2 ^ (f.bits - 1)
/-- The infinity of a sign; in E4M3, which has none, the largest finite value of the sign (R83, R88; log entry 10). -/
def Fmt.inf (f : Fmt) (neg : Bool) : Nat :=
  (if f = 9 then f.maxFinite else (2 ^ f.expBits - 1) * 2 ^ f.fracBits) + if neg then f.signBit else 0

/-- The events of FFLAGS (R105). -/
abbrev Events := Nat
def evNV : Events := 16
def evDZ : Events := 8
def evOF : Events := 4
def evUF : Events := 2
def evNX : Events := 1

/-- A value as an encoding denotes it (R84, R93): NaN, an infinity, or (−1)^neg × m × 2^e. -/
inductive Val where
  | nan
  | inf (neg : Bool)
  | fin (neg : Bool) (m : Nat) (e : Int)
deriving DecidableEq, Repr

def Val.isNan : Val → Bool | .nan => true | _ => false
def Val.isZero : Val → Bool | .fin _ 0 _ => true | _ => false
def Val.neg : Val → Bool | .nan => false | .inf n => n | .fin n _ _ => n
def Val.negate : Val → Val | .nan => .nan | .inf n => .inf (!n) | .fin n m e => .fin (!n) m e
def Val.abs : Val → Val | .nan => .nan | .inf _ => .inf false | .fin _ m e => .fin false m e

/-- The value of floating-point bits (R84). -/
def decodeFloat (f : Fmt) (x : Nat) : Val :=
  let fr := x % 2 ^ f.fracBits
  let e := (x / 2 ^ f.fracBits) % 2 ^ f.expBits
  let neg := x / f.signBit % 2 == 1
  if e = 0 then .fin neg fr (1 - (f.bias : Int) - f.fracBits)
  else if f = 9 then
    if e = 15 ∧ fr = 7 then .nan else .fin neg (2 ^ 3 + fr) ((e : Int) - f.bias - 3)
  else if e = 2 ^ f.expBits - 1 then if fr = 0 then .inf neg else .nan
  else .fin neg (2 ^ f.fracBits + fr) ((e : Int) - f.bias - f.fracBits)

/-- The integer an integer format's bits denote (R81). -/
def decodeInt (f : Fmt) (x : Nat) : Int :=
  if f.signed ∧ 2 ^ (f.bits - 1) ≤ x then (x : Int) - 2 ^ f.bits else x

/-- The value of a block element under its selected exponent (R93, R94). -/
def decodeBlock (f : Fmt) (scale x : Nat) : Val :=
  let neg := if f = 11 then x / 128 % 2 == 1 else x / 8 % 2 == 1
  let sel := if f = 11 then x / 64 % 2 else x / 4 % 2
  let m := if f = 11 then x % 64 else x % 4
  let e := if sel = 0 then scale % 256 else scale / 256 % 256
  if e = 255 then .nan
  else if e = 0 then .fin neg 0 0
  else .fin neg m ((e : Int) - 127 - if f = 11 then 5 else 1)

/-- The number of bits of a number: 0 for 0. -/
def bitLen (m : Nat) : Nat := if m = 0 then 0 else m.log2 + 1

/-- Rounding modes (R87, R91). -/
abbrev Mode := Nat
def modeRNE : Mode := 0
def modeRTZ : Mode := 1
def modeRDN : Mode := 2
def modeRUP : Mode := 3
def modeSR : Mode := 4

/-- Does a magnitude `lo + (rem + ε) / 2^shift` round away from zero (R87, R89)? `sticky` says ε > 0; `u` is the draw. -/
def roundsUp (mode : Mode) (u : Nat) (neg : Bool) (lo rem shift : Nat) (sticky : Bool) : Bool :=
  let inexact := rem != 0 || sticky
  match mode with
  | 0 =>
    if shift = 0 then false
    else if rem * 2 = 2 ^ shift then sticky || lo % 2 == 1 else 2 ^ shift < rem * 2
  | 1 => false
  | 2 => neg && inexact
  | 3 => !neg && inexact
  | _ => u * 2 ^ shift < rem * 2 ^ 24 || (inexact && sticky && u * 2 ^ shift == rem * 2 ^ 24)

/-- The bits of a finite magnitude `r × 2^q` that the format holds. -/
def packFloat (f : Fmt) (neg : Bool) (r : Nat) (q : Int) : Nat :=
  let s := if neg then f.signBit else 0
  let r' := if 2 ^ (f.fracBits + 1) ≤ r then r / 2 else r
  let q' := if 2 ^ (f.fracBits + 1) ≤ r then q + 1 else q
  if r' < 2 ^ f.fracBits then s + r'
  else s + (q' + f.bias + f.fracBits).toNat * 2 ^ f.fracBits + (r' - 2 ^ f.fracBits)

/-- The result where the rounded magnitude is beyond the largest finite value (R88). -/
def overflow (f : Fmt) (mode : Mode) (neg : Bool) : Nat :=
  let s := if neg then f.signBit else 0
  if f = 9 then s + f.maxFinite
  else match mode with
    | 1 => s + f.maxFinite
    | 2 => if neg then f.inf true else f.maxFinite
    | 3 => if neg then s + f.maxFinite else f.inf false
    | _ => f.inf neg

/-- Round(x, f, m) of R80 for the exact magnitude `(m + ε) × 2^e` of a sign: bits and events (R83, R87–R89, R92, R105).
`fz` flushes a subnormal result; `u` is the draw of R89. A caller with ε > 0 gives `m` at least 24 bits more than the
format's precision. -/
def roundMag (f : Fmt) (mode : Mode) (u : Nat) (fz neg : Bool) (m : Nat) (e : Int) (sticky : Bool) : Nat × Events :=
  if m = 0 ∧ sticky = false then (if neg then f.signBit else 0, 0)
  else
    let top := e + bitLen m - 1
    let emin : Int := 1 - f.bias
    let q := max top emin - f.fracBits
    let shift := (q - e).toNat
    let m' := if q < e then m * 2 ^ (e - q).toNat else m
    let lo := m' >>> shift
    let rem := m' % 2 ^ shift
    let inexact := rem != 0 || sticky
    let r := if roundsUp mode u neg lo rem shift sticky then lo + 1 else lo
    let r2 := if 2 ^ (f.fracBits + 1) ≤ r then r / 2 else r
    let q2 := if 2 ^ (f.fracBits + 1) ≤ r then q + 1 else q
    let isOver := (2 ^ f.fracBits ≤ r2) && (
      let ex := q2 + f.bias + f.fracBits
      if f = 9 then 15 < ex || (ex == 15 && r2 == 15) else (2 ^ f.expBits - 1 : Nat) ≤ ex)
    if isOver then (overflow f mode neg, evOF + evNX)
    else
      let tiny := r2 < 2 ^ f.fracBits
      if fz && tiny && r2 != 0 && 5 ≤ f && f ≤ 8 then (if neg then f.signBit else 0, evUF + evNX)
      else (packFloat f neg r2 q2, if inexact then (if tiny then evUF + evNX else evNX) else 0)

/-- What rounding needs beside the value: mode, draw, flush (R73, R89, R92). -/
structure Rnd where
  mode : Mode
  u : Nat
  fz : Bool
deriving DecidableEq, Repr

/-- Nearest even, no flush: MMA, MST, scatter-add and residuals (R92, R100, R103, R169). -/
def rndRNE : Rnd := { mode := modeRNE, u := 0, fz := false }

/-- A value rounded into a floating-point format (R85, R88, R92). -/
def roundVal (f : Fmt) (r : Rnd) : Val → Nat × Events
  | .nan => (f.nan, 0)
  | .inf n => (f.inf n, if f = 9 then evNV else 0)
  | .fin n m e => roundMag f r.mode r.u r.fz n m e false

/-- A subnormal operand of FP64, FP32, FP16 or BF16 read as a zero of its sign under fz (R92). -/
def flushIn (f : Fmt) (fz : Bool) (x : Nat) : Nat :=
  if fz && 5 ≤ f && f ≤ 8 && (x / 2 ^ f.fracBits) % 2 ^ f.expBits == 0 then x / f.signBit % 2 * f.signBit else x

/-- Exact sum of finite values, as sign, magnitude and exponent; a zero's sign under R86 and R87. -/
def addFin (mode : Mode) (n1 : Bool) (m1 : Nat) (e1 : Int) (n2 : Bool) (m2 : Nat) (e2 : Int) : Bool × Nat × Int :=
  let e := if m1 = 0 then e2 else if m2 = 0 then e1 else min e1 e2
  let a := if m1 = 0 then 0 else m1 * 2 ^ (e1 - e).toNat
  let b := if m2 = 0 then 0 else m2 * 2 ^ (e2 - e).toNat
  if n1 = n2 then (n1, a + b, e)
  else if a = b then (mode == modeRDN, 0, e)
  else if b < a then (n1, a - b, e) else (n2, b - a, e)

/-- a + b exactly (R86). -/
def addVal (mode : Mode) : Val → Val → Val × Events
  | .inf n, .inf k => if n = k then (.inf n, 0) else (.nan, evNV)
  | .nan, _ => (.nan, 0)
  | _, .nan => (.nan, 0)
  | .inf n, _ => (.inf n, 0)
  | _, .inf n => (.inf n, 0)
  | .fin n1 m1 e1, .fin n2 m2 e2 => let (n, m, e) := addFin mode n1 m1 e1 n2 m2 e2; (.fin n m e, 0)

/-- a × b exactly (R86). -/
def mulVal : Val → Val → Val × Events
  | .inf n, .fin k m _ => if m = 0 then (.nan, evNV) else (.inf (n != k), 0)
  | .fin k m _, .inf n => if m = 0 then (.nan, evNV) else (.inf (n != k), 0)
  | .nan, _ => (.nan, 0)
  | _, .nan => (.nan, 0)
  | .inf n, .inf k => (.inf (n != k), 0)
  | .fin n1 m1 e1, .fin n2 m2 e2 => (.fin (n1 != n2) (m1 * m2) (e1 + e2), 0)

/-- A rounded result with the events of the operation. -/
def roundOp (f : Fmt) (r : Rnd) (x : Val × Events) : Nat × Events :=
  let (b, ev) := roundVal f r x.1
  (b, ev ||| x.2)

/-- a + b, rounded once. -/
def fAdd (f : Fmt) (r : Rnd) (a b : Val) : Nat × Events := roundOp f r (addVal r.mode a b)
/-- a − b, rounded once. -/
def fSub (f : Fmt) (r : Rnd) (a b : Val) : Nat × Events := roundOp f r (addVal r.mode a b.negate)
/-- a × b, rounded once. -/
def fMul (f : Fmt) (r : Rnd) (a b : Val) : Nat × Events := roundOp f r (mulVal a b)
/-- c + a × b, rounded once (R85: an invalid product raises NV whatever the addend). -/
def fMulAdd (f : Fmt) (r : Rnd) (a b c : Val) : Nat × Events :=
  let (p, ev) := mulVal a b
  let (x, ev') := addVal r.mode p c
  roundOp f r (x, ev ||| ev')

/-- a / b, correctly rounded (R86). -/
def fDiv (f : Fmt) (r : Rnd) : Val → Val → Nat × Events
  | .nan, _ => (f.nan, 0)
  | _, .nan => (f.nan, 0)
  | .inf _, .inf _ => (f.nan, evNV)
  | .inf n, .fin k _ _ => roundVal f { r with u := 0 } (.inf (n != k))
  | .fin n _ _, .inf k => (if n != k then f.signBit else 0, 0)
  | .fin n m1 e1, .fin k m2 e2 =>
    if m2 = 0 then if m1 = 0 then (f.nan, evNV) else (f.inf (n != k), evDZ)
    else if m1 = 0 then (if n != k then f.signBit else 0, 0)
    else
      let sh := 128 + bitLen m2
      let a := m1 <<< sh
      roundMag f r.mode r.u r.fz (n != k) (a / m2) (e1 - e2 - sh) (a % m2 != 0)

/-- Newton steps of the integer square root, from above. -/
def isqrtStep (n : Nat) : Nat → Nat → Nat
  | 0, x => x
  | k + 1, x => let y := (x + n / x) / 2; if y < x then isqrtStep n k y else x
/-- floor(√n). -/
def isqrt (n : Nat) : Nat := if n = 0 then 0 else isqrtStep n (n.log2 + 2) (2 ^ (n.log2 / 2 + 1))

/-- √a, correctly rounded (R86). -/
def fSqrt (f : Fmt) (r : Rnd) : Val → Nat × Events
  | .nan => (f.nan, 0)
  | .inf n => if n then (f.nan, evNV) else (f.inf false, 0)
  | .fin n m e =>
    if m = 0 then (if n then f.signBit else 0, 0)
    else if n then (f.nan, evNV)
    else
      let sh := 256 + (e % 2).toNat
      let a := m <<< sh
      let q := isqrt a
      roundMag f r.mode r.u r.fz false q ((e - sh) / 2) (q * q != a)

/-- 1 / √a, correctly rounded (R86): √(2^k / a) with enough bits. -/
def fRsqrt (f : Fmt) (r : Rnd) : Val → Nat × Events
  | .nan => (f.nan, 0)
  | .inf n => if n then (f.nan, evNV) else (0, 0)
  | .fin n m e =>
    if m = 0 then (f.inf n, evDZ)
    else if n then (f.nan, evNV)
    else
      let m' := m <<< (e % 2).toNat
      let e' := e - e % 2
      let sh := 2 * (160 + bitLen m')
      let a := (1 <<< sh) / m'
      let q := isqrt a
      roundMag f r.mode r.u r.fz false q (-(sh : Int) / 2 - e' / 2) (q * q * m' != 1 <<< sh)

/-- An ordering of the non-NaN values: −1, 0, 1. −0 equals +0. -/
def cmpVal : Val → Val → Int
  | .inf a, .inf b => if a = b then 0 else if a then -1 else 1
  | .inf a, _ => if a then -1 else 1
  | _, .inf b => if b then 1 else -1
  | .fin n1 m1 e1, .fin n2 m2 e2 =>
    let (n, m, _) := addFin modeRNE n1 m1 e1 (!n2) m2 e2
    if m = 0 then 0 else if n then -1 else 1
  | _, _ => 0

/-- vfmin and vfmax (R86): a NaN operand gives way, −0 is below +0. -/
def minMaxVal (wantMax : Bool) (a b : Val) : Val :=
  if a.isNan then b else if b.isNan then a
  else
    let c := cmpVal a b
    let aLess := if c = 0 then a.neg && !b.neg else c < 0
    if aLess == wantMax then b else a

/-- A finite value rounded to an integer (R87, R90), with whether it is exact. -/
def roundInt (r : Rnd) (neg : Bool) (m : Nat) (e : Int) : Int × Bool :=
  let shift := (-e).toNat
  let m' := if 0 ≤ e then m <<< e.toNat else m
  let lo := m' >>> shift
  let rem := m' % 2 ^ shift
  let k := if roundsUp r.mode r.u neg lo rem shift false then lo + 1 else lo
  (if neg then -(k : Int) else k, rem == 0)

/-- The least and greatest value of an integer format. -/
def Fmt.intMin (f : Fmt) : Int := if f.signed then -(2 ^ (f.bits - 1)) else 0
def Fmt.intMax (f : Fmt) : Int := if f.signed then 2 ^ (f.bits - 1) - 1 else 2 ^ f.bits - 1

/-- The bits of an integer in a format, modulo 2^w. -/
def intBits (f : Fmt) (x : Int) : Nat := (x % 2 ^ f.bits).toNat

/-- A value converted to an integer format (R90). -/
def valToInt (f : Fmt) (r : Rnd) : Val → Nat × Events
  | .nan => (0, evNV)
  | .inf n => (intBits f (if n then f.intMin else f.intMax), evNV)
  | .fin n m e =>
    let (k, exact) := roundInt r n m e
    if k < f.intMin then (intBits f f.intMin, evNV)
    else if f.intMax < k then (intBits f f.intMax, evNV)
    else (intBits f k, if exact then 0 else evNX)

/-- An integer as a value. -/
def intVal (x : Int) : Val := .fin (x < 0) x.natAbs 0

/-- The draw of R89. -/
def srDraw (seed pc : Word) (i : Nat) : Nat :=
  let x := seed ^^^ (pc * 0x9B6C3A5D2E71F0C3) ^^^ nw i
  let x := x ^^^ (x >>> 31)
  let x := x * 0xD2A98B265F14C7E9
  let x := x ^^^ (x >>> 29)
  wbits x 63 40

/-- The mode a rounding field selects (R73, R91). -/
def modeOf (frm : Word) (rm : BitVec 2) : Mode :=
  match rm.toNat with
  | 0 => wbits frm 2 0
  | 1 => modeRNE
  | 2 => modeRTZ
  | _ => modeSR

/-- What an instruction rounds with: its mode, the draw of element `i` at its address, FRM.fz (R73, R89, R92). -/
def State.rnd (s : State) (rm : BitVec 2) (i : Nat) : Rnd :=
  { mode := modeOf s.regs.frm rm, u := srDraw s.regs.seed s.cur.pc i, fz := s.regs.frm.getLsbD 3 }

/-- FFLAGS events set, without an index (R107, R131). -/
def State.raise (s : State) (ev : Events) : State :=
  s.setRegs { s.regs with fflags := s.regs.fflags ||| nw ev }

/-- The lower of an index register and an index. -/
def lowerTo (x : Word) (i : Nat) : Word := if i < x.toNat then nw i else x

/-- Flag(e, i) of R80 for a set of events: FFLAGS set and each index register lowered to `i` (R106). -/
def State.flag (s : State) (ev : Events) (i : Nat) : State :=
  if ev = 0 then s
  else
    let r := s.regs
    s.setRegs { r with
      fflags := r.fflags ||| nw ev,
      fidxNv := if ev / 16 % 2 = 1 then lowerTo r.fidxNv i else r.fidxNv,
      fidxDz := if ev / 8 % 2 = 1 then lowerTo r.fidxDz i else r.fidxDz,
      fidxOf := if ev / 4 % 2 = 1 then lowerTo r.fidxOf i else r.fidxOf,
      fidxUf := if ev / 2 % 2 = 1 then lowerTo r.fidxUf i else r.fidxUf,
      fidxNx := if ev % 2 = 1 then lowerTo r.fidxNx i else r.fidxNx }

/-- Scatter-add's update in a format: RNE without flushing for floats, wrapping for integers (R103, R217). -/
def scatterAdd (f : Fmt) (old x : Nat) : Nat :=
  if f.isFloat then (fAdd f rndRNE (decodeFloat f old) (decodeFloat f x)).1 else (old + x) % 2 ^ f.bits

/-! ## Promotion (R98) -/

/-- Is every value of the integer format held by the float format (row 5)? -/
def intHeld (i f : Fmt) : Bool :=
  match i with
  | 0 => 5 ≤ f && f ≤ 8
  | 1 => 5 ≤ f && f ≤ 8
  | 2 => f == 5 || f == 6
  | 3 => f == 5
  | _ => false

/-- Row 3: the wider of two integer formats. -/
def promoteInts (a b : Fmt) : Fmt :=
  if a ≤ 1 ∧ b ≤ 1 then 2 else max a b

/-- Row 4: the float format that holds both. -/
def promoteFloats (a b : Fmt) : Fmt :=
  let lo := min a b; let hi := max a b
  if lo = 7 ∧ hi = 8 then 6 else if lo = 9 ∧ hi = 10 then 7 else lo

/-- The operation format of two operand formats (R98). -/
def promote (a b : Fmt) : Fmt :=
  let a := if a.isBlock then 6 else a
  let b := if b.isBlock then 6 else b
  if a = b then a
  else if a.isInt ∧ b.isInt then promoteInts a b
  else if a.isFloat ∧ b.isFloat then promoteFloats a b
  else
    let i := if a.isInt then a else b
    let f := if a.isInt then b else a
    if intHeld i f then f else if intHeld i 6 then 6 else 5

end Sys2Proof.Machine
end

