-- ==== Sys2Proof/Machine/Operands.lean ====
section
/-! DEFINITION. Vector operands (spec/06, R98–R99, R110–R123, R157, R160–R162): tags and groups, Elem and SetElem, the
checks of R368 steps 3 to 6, rows of the pool, tails, descriptors, and the elementwise form. -/

namespace Sys2Proof.Machine

/-! ## Fields -/

/-- The format and the group of a tag (R75). -/
def tagFmt (t : BitVec 6) : Fmt := t.toNat / 4
def tagGroup (t : BitVec 6) : Nat := 2 ^ (t.toNat % 4)
/-- The tag of a format and a group. -/
def mkTag (f : Fmt) (g : Nat) : BitVec 6 := BitVec.ofNat 6 (4 * f + g.log2)

/-- VL, dlen, VSTART, and the fields of VTYPE (R108, R109, R120). -/
def Regs.len (r : Regs) : Nat := wbits r.vl 10 0
def Regs.dlen (r : Regs) : Nat := wbits r.vl 26 16
def Regs.start (r : Regs) : Nat := wbits r.vstart 10 0
def Regs.fmt (r : Regs) : Fmt := wbits r.vtype 12 9
def Regs.group (r : Regs) : Nat := 2 ^ wbits r.vtype 8 7
def Regs.tail (r : Regs) : Nat := wbits r.vtype 6 5
/-- VL with both fields (R109). -/
def mkVl (len dlen : Nat) : Word := nw (len + 65536 * dlen)

/-- VLMAX of a format and group (R109). -/
def vlmaxOf (f : Fmt) (g : Nat) : Nat := min (4096 * g / f.bits) 1024
def Regs.vlmax (r : Regs) : Nat := vlmaxOf r.fmt r.group
/-- The elements one register holds (R111). -/
def capacity (f : Fmt) : Nat := 4096 / f.bits

/-- VRLEN (R123). -/
def Regs.vrlen (r : Regs) : Nat :=
  64 + 64 * ceilDiv (r.len * r.fmt.bits) 512 + if r.fmt.isBlock then 64 else 0

/-- Vector register n of the current agent. -/
def State.v (s : State) (n : Nat) : VReg := if h : n < 32 then s.cur.v[n] else VReg.fresh
def State.setV (s : State) (n : Nat) (r : VReg) : State :=
  if h : n < 32 then { s with cur := { s.cur with v := s.cur.v.set n r h } } else s
def State.tag (s : State) (n : Reg) : BitVec 6 := (s.v n.toNat).tag

/-- VSTART ← x. -/
def setVstart (x : Nat) : Exec Unit := modRegs (fun r => { r with vstart := nw x })

/-! ## Reading elements (R112, R113, R118) -/

/-- The bits of element `i` of the group at `v` in format `f` with group `g` (R113): what a member does not hold, and
what lies beyond a member's wlen under tail 01 or 10, reads as zero. -/
def State.elemBits (s : State) (v : Nat) (f : Fmt) (g i : Nat) : Nat :=
  let c := capacity f
  let j := i / c; let k := i % c
  if g ≤ j then 0
  else
    let r := s.v (v + j)
    if r.wlen.toNat ≤ k ∧ r.tail ≠ 0 then 0
    else if r.rows.getLsbD (k * f.bits / 512) then field r.image (k * f.bits) f.bits else 0

/-- Element `i` of the group at `v` at its own tag. -/
def State.elem (s : State) (v : Nat) (i : Nat) : Nat :=
  let t := (s.v v).tag
  s.elemBits v (tagFmt t) (tagGroup t) i

/-- The scale word of block `b` of the block group at `v` (R118); a block beyond the group's capacity has none (R113), nor has one
at or beyond the 32 words of a scale row, whose elements read with word 0 (DESIGN CHOICE: log entry 64). -/
def State.scaleWord (s : State) (v b : Nat) : Nat :=
  let r := s.v v
  let f := tagFmt r.tag
  let m := s.v (v + 32 * b / capacity f)
  if r.scaleRow = false ∨ tagGroup r.tag * capacity f ≤ 32 * b then 0
  else if m.wlen.toNat ≤ 32 * b % capacity f ∧ m.tail ≠ 0 then 0
  else field r.scale (16 * b) 16

/-- The scale word element `i` of the block group at `v` is read with: 0 where the element itself reads as zero bytes (R113). -/
def State.elemScale (s : State) (v i : Nat) : Nat :=
  let c := capacity (tagFmt (s.v v).tag)
  let m := s.v (v + i / c)
  if m.wlen.toNat ≤ i % c ∧ m.tail ≠ 0 then 0 else s.scaleWord v (i / 32)

/-- The value element `i` of the group at `v` denotes, at its own tag. -/
def State.elemVal (s : State) (v i : Nat) : Val :=
  let f := tagFmt (s.v v).tag
  let x := s.elem v i
  if f.isInt then intVal (decodeInt f x)
  else if f.isBlock then decodeBlock f (s.elemScale v i) x
  else decodeFloat f x

/-- An operand in a floating-point operation format (R98, R92): exact, but an INT64 under row 5, which is rounded; a
subnormal operand of a flushed format reads as zero under fz. -/
def State.operand (s : State) (v i : Nat) (r : Rnd) : Val × Events :=
  let f := tagFmt (s.v v).tag
  if f = 4 then
    let (b, ev) := roundVal 5 r (s.elemVal v i)
    (decodeFloat 5 b, ev)
  else if f.isFloat then (decodeFloat f (flushIn f r.fz (s.elem v i)), 0)
  else (s.elemVal v i, 0)

/-- An operand in an integer operation format: the integer it denotes. -/
def State.intOperand (s : State) (v i : Nat) : Int := decodeInt (tagFmt (s.v v).tag) (s.elem v i)

/-- An element as the bits of a format that holds it exactly (R98): used where an operand's bits are kept. -/
def State.bitsIn (s : State) (v i : Nat) (f : Fmt) : Nat :=
  let t := tagFmt (s.v v).tag
  if t = f then s.elem v i
  else if f.isInt then intBits f (s.intOperand v i)
  else (roundVal f rndRNE (s.elemVal v i)).1

/-! ## The checks of R368 -/

/-- Step 3: a vector source's number against its own tag group (R112). -/
def checkSource (v : Reg) : Exec Unit := do
  let t := (← get).tag v
  if v.toNat % tagGroup t ≠ 0 then trap 0x41 (some (zext v)) (zext t) else pure ()

/-- Step 4: TAG_MISMATCH with the tags of R160. -/
def mismatch {α : Type} (va vb vd : Option Reg) : Exec α := do
  let s ← get
  let t (r : Option Reg) : Nat := match r with | none => 0 | some v => (s.tag v).toNat
  trap 0x05 none (nw (t va + 64 * t vb + 4096 * t vd + 262144 * s.regs.fmt))

/-- The destination group of a result format (R112), if a group suffices. -/
def Regs.destGroup (r : Regs) (f : Fmt) : Option Nat :=
  [1, 2, 4, 8].find? (fun g => r.vlmax * f.bits ≤ 4096 * g)

/-- Step 5: the destination group of a result format (R112). -/
def needGroup (f : Fmt) : Exec Nat := do
  match (← getRegs).destGroup f with
  | none => trap 0x42
  | some g => return g
/-- Step 5: a destination's alignment to its group (R112). -/
def checkAlign (vd : Reg) (f : Fmt) (g : Nat) : Exec Unit :=
  if vd.toNat % g ≠ 0 then trap 0x41 (some (zext vd)) (zext (mkTag f g)) else pure ()
/-- Step 5 for a form with one destination. -/
def checkDest (vd : Reg) (f : Fmt) : Exec Nat := do
  let g ← needGroup f
  checkAlign vd f g
  return g

/-- Step 5 for a load: vd against VTYPE's group (R210). -/
def checkLoadDest (vd : Reg) : Exec Nat := do
  let r ← getRegs
  if vd.toNat % r.group ≠ 0 then trap 0x41 (some (zext vd)) (zext (mkTag r.fmt r.group)) else return r.group

/-- Step 6: VSTART_BAD. -/
def vstartBad {α : Type} : Exec α := do trap 0x49 (some (← getRegs).vstart)
/-- Step 6 for a form that starts only at VSTART 0 (R162). -/
def needStartZero : Exec Unit := do if (← getRegs).start ≠ 0 then vstartBad else pure ()

/-- Does a destination group overlap a source group at another register number or element width (R162)? -/
def State.overlaps (s : State) (vd : Reg) (f : Fmt) (g : Nat) (v : Reg) : Bool :=
  let t := s.tag v
  let a := vd.toNat; let b := v.toNat
  a < b + tagGroup t && b < a + g && (a != b || f.bits != (tagFmt t).bits)

/-- Step 6 for an elementwise form: where its groups overlap it starts only at VSTART 0, and no pre-emption cuts it (R162). -/
def checkRestart (vd : Reg) (f : Fmt) (g : Nat) (srcs : List Reg) : Exec Unit := do
  let s ← get
  if srcs.any (fun v => s.overlaps vd f g v) then do
    if s.regs.start ≠ 0 then vstartBad
    modCur (fun a => { a with cut := none })

/-! ## Rows (R115) -/

/-- The rows a thread holds: mapped rows and scale rows. -/
def rowCount (r : VReg) : Nat :=
  ((List.range 8).filter (fun k => r.rows.getLsbD k)).length + if r.scaleRow then 1 else 0
def Agent.rowsHeld (a : Agent) : Nat := a.v.toList.foldl (fun n r => n + rowCount r) 0
/-- The rows free in the pool of the current agent's core. -/
def State.rowsFree (s : State) : Nat :=
  768 - (s.agents.filter (fun a => placeCore a.id == s.myCore && (a.kind == .thread || a.kind == .sweep))).foldl
    (fun n a => n + a.rowsHeld) 0

/-- The row flags of the rows of a member that hold its elements `lo` to `hi − 1`, of `w` bits. -/
def rowMask (w lo hi : Nat) : BitVec 8 :=
  if hi ≤ lo then 0
  else
    let a := lo * w / 512; let b := ceilDiv (hi * w) 512
    BitVec.ofNat 8 (2 ^ b - 2 ^ a)

/-- The rows of member `j` that hold elements `lo` to `hi − 1` of the group. -/
def memberRows (f : Fmt) (j lo hi : Nat) : BitVec 8 :=
  let c := capacity f
  rowMask f.bits (min (lo - j * c) c) (min (hi - j * c) c)

/-- The rows an instruction that writes elements `lo` to `hi − 1` needs beyond those mapped, with the scale row of a
block group (R115). -/
def State.rowsWanted (s : State) (vd : Nat) (f : Fmt) (g lo hi : Nat) : Nat :=
  (List.range g).foldl (fun n j =>
    let m := memberRows f j lo hi &&& ~~~(s.v (vd + j)).rows
    n + ((List.range 8).filter (fun k => m.getLsbD k)).length) 0 + if f.isBlock && !(s.v vd).scaleRow then 1 else 0

/-- The instruction stalls, and is tried again, where the pool cannot meet its whole request (R115); since when is kept
for R116. -/
def needRows (want : Nat) : Exec Unit := do
  let s ← get
  if want ≠ 0 ∧ s.rowsFree < want then do
    modCur (fun a => { a with stall := some (a.stall.getD s.clock) })
    throw .idle
  else modCur (fun a => { a with stall := none })

/-- The rows of elements `lo` to `hi` − 1 of a group mapped, with the scale row of a block group. -/
def State.mapRows (s : State) (vd : Nat) (f : Fmt) (g lo hi : Nat) : State :=
  (List.range g).foldl (fun s j =>
    let r := s.v (vd + j)
    s.setV (vd + j) { r with rows := r.rows ||| memberRows f j lo hi, scaleRow := r.scaleRow || (j == 0 && f.isBlock) }) s

/-- Rows taken from the pool for an instruction that writes elements `lo` to `hi − 1` (R115). -/
def takeRows (vd : Nat) (f : Fmt) (g lo hi : Nat) : Exec Unit := do
  needRows ((← get).rowsWanted vd f g lo hi)
  modify (fun s => s.mapRows vd f g lo hi)

/-- Rows taken in one request for an instruction that writes two groups (R115). -/
def takeRowsTwo (vd : Nat) (f : Fmt) (g : Nat) (vb : Nat) (f' : Fmt) (g' lo hi : Nat) : Exec Unit := do
  let s ← get
  needRows (s.rowsWanted vd f g lo hi + (s.mapRows vd f g lo hi).rowsWanted vb f' g' lo hi)
  modify (fun s => (s.mapRows vd f g lo hi).mapRows vb f' g' lo hi)

/-- The rows a register needs from the pool to take new contents: those it maps that are unmapped now (R115). -/
def newRows (old new : VReg) : Nat :=
  ((List.range 8).filter (fun k => new.rows.getLsbD k && !old.rows.getLsbD k)).length +
    if new.scaleRow && !old.scaleRow then 1 else 0

/-! ## Pre-emption at an element (R162, R323) -/

/-- The element before which a pre-emption cuts an elementwise form of the current strip, if one does. -/
def State.cutAt (s : State) : Option Nat :=
  s.cur.cut.bind (fun k => if s.regs.start < k ∧ k < s.regs.len then some k else none)

/-! ## Writing a group (R111, R114, R118, R121, R122) -/

/-- An image with elements of `w` bits set. -/
def setElems (img : BitVec 4096) (w : Nat) (xs : List (Nat × Nat)) : BitVec 4096 :=
  xs.foldl (fun m (k, x) => putField m (k * w) w x) img

/-- The image with every bit of mapped-row positions whose row flag is clear made zero. -/
def clearRows (img : BitVec 4096) (rows : BitVec 8) : BitVec 4096 :=
  (List.range 8).foldl (fun m k => if rows.getLsbD k then m else putField m (512 * k) 512 0) img

/-- One member of a written group: the elements set, the tail applied, the descriptor of R111. -/
def writeMember (r : VReg) (f : Fmt) (g j len tail : Nat) (xs : List (Nat × Nat)) : VReg :=
  let c := capacity f
  let img := setElems r.image f.bits (xs.filterMap (fun (i, x) => if i / c = j then some (i % c, x) else none))
  let k := min (len - j * c) c
  let img := if tail = 0 then img else img &&& BitVec.ofNat 4096 (2 ^ (k * f.bits) - 1)
  let rows := if tail = 2 then r.rows &&& rowMask f.bits 0 k else r.rows
  { r with image := clearRows img rows, rows := rows, tag := mkTag f g, tail := BitVec.ofNat 2 tail,
           wlen := BitVec.ofNat 11 k, scaleRow := r.scaleRow && (f.isBlock && j == 0),
           scale := if f.isBlock && j == 0 then r.scale else 0 }

/-- One member of a group of which a pre-emption leaves the rest to be written (R160, R162): the elements set, its tail and
descriptor as they were. -/
def writePart (r : VReg) (f : Fmt) (j : Nat) (xs : List (Nat × Nat)) : VReg :=
  let c := capacity f
  { r with image := setElems r.image f.bits (xs.filterMap (fun (i, x) => if i / c = j then some (i % c, x) else none)) }

/-- VHIGH after registers up to `reg` are written, with rows below `rows` mapped (R121). -/
def noteHigh (r : Regs) (reg rows : Nat) : Regs :=
  { r with vhigh := nw (max (wbits r.vhigh 4 0) reg + 32 + 512 * max (wbits r.vhigh 12 9) rows) }

/-- One plus the highest flag set. -/
def highRow (m : BitVec 8) : Nat := bitLen m.toNat

/-- The rows of a member that the tail writes: those mapped that hold elements from `k` on, under tail 01 and 10 (R114, R122). -/
def tailRows (r : VReg) (f : Fmt) (tail k : Nat) : BitVec 8 :=
  if tail = 0 then 0 else r.rows &&& ~~~ BitVec.ofNat 8 (2 ^ (k * f.bits / 512) - 1)

/-- A group of `g` registers at `vd` written in format `f` with length `len`, elements `lo` upward taking the values
`xs`; rows have been taken. Tail, descriptors, VHIGH and VDIRTY follow; of a cut form none but the tag of a block format, with which a save
keeps the scale words written so far (R126, R162; DESIGN CHOICE: log entry 74). -/
def writeGroup (vd : Nat) (f : Fmt) (g lo len : Nat) (xs : List (Nat × Nat)) : Exec Unit := modify (fun s =>
  let tail := s.regs.tail
  (List.range g).foldl (fun s j =>
    let old := s.v (vd + j)
    let new : VReg := if s.cutAt.isSome then { writePart old f j xs with tag := if f.isBlock then mkTag f g else old.tag }
      else writeMember old f g j len tail xs
    let touched := memberRows f j lo len
    let zeroed : BitVec 8 := if s.cutAt.isSome then 0 else tailRows new f tail (min (len - j * capacity f) (capacity f))
    let s := s.setV (vd + j) new
    let r := noteHigh s.regs (vd + j) (highRow touched)
    let r := if new.tag ≠ old.tag ∨ touched ||| zeroed ≠ 0 ∨ new.image ≠ old.image
      then { r with vdirty := r.vdirty ||| nw (2 ^ (vd + j)) } else r
    s.setRegs r) s)

/-- The scale row of `vd` is written, which marks the register dirty (R118, R122). -/
def State.setScale (s : State) (vd : Nat) (x : BitVec 512) : State :=
  let r := s.v vd
  let s := s.setV vd { r with scale := x }
  if r.scaleRow then s.setRegs { s.regs with vdirty := s.regs.vdirty ||| nw (2 ^ vd) } else s

/-- A scale row's words set (R118). -/
def writeScales (vd : Nat) (ws : List (Nat × Nat)) : Exec Unit := modify (fun s =>
  if ws = [] then s
  else s.setScale vd (ws.foldl (fun m (b, w) => putField m (16 * b) 16 w) (s.v vd).scale))

/-- The scale words of blocks wholly beyond the length become zero under tail 01 and 10 (R114, R118). -/
def trimScales (vd len : Nat) : Exec Unit := modify (fun s =>
  if s.regs.tail = 0 ∨ s.cutAt.isSome then s
  else s.setScale vd ((s.v vd).scale &&& BitVec.ofNat 512 (2 ^ (16 * ceilDiv len 32) - 1)))

/-- A predicate written: bits in `xs`, then the tail from `len` on (R114, R119); p0 ignores writes. -/
def writePred (pd : Reg) (len : Nat) (xs : List (Nat × Bool)) : Exec Unit := modify (fun s =>
  if pd = 0 then s
  else
    let x := xs.foldl (fun m (i, b) => putField m i 1 (if b then 1 else 0)) (s.p pd)
    let x := if s.regs.tail = 0 ∨ s.cutAt.isSome then x else x &&& BitVec.ofNat 1024 (2 ^ len - 1)
    let s := { s with cur := { s.cur with p := s.cur.p.set pd.toNat x pd.isLt } }
    s.setRegs { s.regs with vdirty := s.regs.vdirty ||| nw (2 ^ (32 + pd.toNat)) })

/-- The active elements from VSTART to VL − 1 (R72). -/
def State.actives (s : State) (pred : Reg) : List Nat :=
  let m := s.p pred
  ((List.range s.regs.len).drop s.regs.start).filter (fun i => m.getLsbD i)

/-- The active elements an elementwise form processes now: those from VSTART to VL − 1 (R72), or up to the cut (R162). -/
def State.stripElems (s : State) (pred : Reg) : List Nat :=
  match s.cutAt with
  | none => s.actives pred
  | some k => (s.actives pred).filter (fun i => decide (i < k))

/-- The end of an elementwise form: VSTART becomes 0, or holds the element at which it was cut (R160, R162). -/
def endStrip : Exec Unit := do setVstart ((← get).cutAt.getD 0)

/-- The active elements from 0 to VL − 1, for a form that does not start elsewhere. -/
def State.allActives (s : State) (pred : Reg) : List Nat :=
  let m := s.p pred
  (List.range s.regs.len).filter (fun i => m.getLsbD i)

/-- Flags merged with their element indices (R107). -/
def flags (xs : List (Nat × Events)) : Exec Unit := modify (fun s => xs.foldl (fun s (i, e) => s.flag e i) s)

/-- A result group written from VSTART with the values and events of its active elements; VSTART ← 0 (R160). -/
def writeResult (vd : Reg) (f : Fmt) (g : Nat) (rs : List (Nat × Nat × Events)) : Exec Unit := do
  let r ← getRegs
  takeRows vd.toNat f g r.start r.len
  writeGroup vd.toNat f g r.start r.len (rs.map (fun (i, x, _) => (i, x)))
  flags (rs.map (fun (i, _, e) => (i, e)))
  endStrip

/-- The elementwise form of R160, once its sources and operation format have been checked: result format `f`, element
function `op`. -/
def elementwise (vd pred : Reg) (f : Fmt) (srcs : List Reg) (op : State → Nat → Nat × Events) : Exec Unit := do
  let g ← checkDest vd f
  checkRestart vd f g srcs
  let s ← get
  writeResult vd f g ((s.stripElems pred).map (fun i => (i, op s i)))

/-! ## The addresses of vector memory instructions (R211, R222) -/

/-- The bytes of an element's access; two BX4 elements share a byte (R93). -/
def elemBytes (f : Fmt) : Nat := max (Fmt.bits f / 8) 1
/-- The address of element `i` of contiguous elements (R211). -/
def unitAddr (f : Fmt) (base : Word) (i : Nat) : Word := base + nw (i * Fmt.bits f / 8)

/-- The format of a handle's elements. -/
def Handle.format (h : Handle) : Fmt := h.fmt.toNat

/-- Where element `e` of a handle's pattern stands (R222, R288); a block pattern steps by the element's width (R220). -/
def Handle.addr (h : Handle) (e : Nat) : Word :=
  if h.format.isBlock then unitAddr h.format h.base e
  else if h.count1 ≤ 1 ∧ h.count2 ≤ 1 then h.base + nw e * h.stride0
  else
    let c0 := max h.count0.toNat 1; let c1 := max h.count1.toNat 1
    h.base + nw (e % c0) * h.stride0 + nw (e / c0 % c1) * h.stride1 + nw (e / (c0 * c1)) * h.stride2

/-- May a pre-emption cut the instruction between elements (R162, R323): is it an elementwise form of majors 0x1B to 0x1D or
0x21, or vbcast, vmrd or vmwr (R267)? -/
def cuttable (i : Instr) : Bool :=
  let m := (wordOf i).toNat / 2 ^ 26
  (decide (0x1B ≤ m ∧ m ≤ 0x1D) || m == 0x21) || (i matches .vbcast ..) || (i matches .vmrd ..) || (i matches .vmwr ..)

/-! ## What an instruction reads and writes (R24–R26) -/

/-- The vector registers and predicates an instruction of the queue reads, those it writes, and whether its results are
usable only after its last beat (R26). -/
structure VUse where
  srcs : List Reg := []
  preds : List Reg := []
  dst : List Reg := []
  pdst : List Reg := []
  whole : Bool := false
deriving DecidableEq, Repr

/-- The index and value registers of a sparse register (R128). -/
def sparsePair (k : BitVec 3) : List Reg := [BitVec.ofNat 5 (16 + 2 * k.toNat), BitVec.ofNat 5 (17 + 2 * k.toNat)]

/-- An elementwise form of two sources and of one. -/
def VUse.two (d a b p : Reg) : VUse := { srcs := [a, b], preds := [p], dst := [d] }
def VUse.one (d a p : Reg) : VUse := { srcs := [a], preds := [p], dst := [d] }
/-- A form that reads its destination too. -/
def VUse.acc (d a b p : Reg) : VUse := { srcs := [a, b, d], preds := [p], dst := [d] }
/-- A compare and a predicate operation. -/
def VUse.cmp (d a b p : Reg) : VUse := { srcs := [a, b], preds := [p], pdst := [d] }
def VUse.pred (d a b p : Reg) : VUse := { preds := [a, b, p], pdst := [d] }
/-- A form whose result crosses lanes (R26). -/
def VUse.cross (u : VUse) : VUse := { u with whole := true }
/-- A load, a load with an index, a store. -/
def VUse.load (d p : Reg) : VUse := { preds := [p], dst := [d] }
def VUse.store (d p : Reg) : VUse := { srcs := [d], preds := [p] }

/-- The uses of each instruction of the vector queue (R160–R180, R203–R224, R264, R268–R273); none for the others. -/
def usesOf : Instr → VUse
  | .vretag d a _ _ => { srcs := [a], dst := [d] }
  | .vspill d _ => { srcs := [d] }
  | .vadd d a b p | .vsub d a b p | .vqadd d a b p | .vqsub d a b p | .vmul d a b p | .vmulh d a b p => .two d a b p
  | .vmacc d a b p => .acc d a b p
  | .vand d a b p | .vor d a b p | .vxor d a b p | .vsll d a b p | .vsrl d a b p | .vsra d a b p => .two d a b p
  | .vmin d a b p | .vmax d a b p => .two d a b p
  | .vfadd d a b p _ | .vfsub d a b p _ | .vfmul d a b p _ | .vfdiv d a b p _ | .vfmin d a b p _ | .vfmax d a b p _ =>
    .two d a b p
  | .vfsgnj d a b p _ => .two d a b p
  | .vfma d a b p _ | .vfms d a b p _ => .acc d a b p
  | .vfsqrt d a p _ | .vfabs d a p _ | .vfneg d a p _ | .vfrecip d a p _ | .vfrsqrt d a p _ | .vfclass d a p _ => .one d a p
  | .vcmpeq d a b p | .vcmpne d a b p | .vcmplt d a b p | .vcmple d a b p => .cmp d a b p
  | .vpand d a b p | .vpor d a b p | .vpxor d a b p | .vpandn d a b p => .pred d a b p
  | .vslideup d a _ p | .vslidedn d a _ p => (VUse.one d a p).cross
  | .vperm d a b p => (VUse.two d a b p).cross
  | .vbcast d _ p => .load d p
  | .vcompress d a p => (VUse.one d a p).cross
  | .vredsum d a b p | .vfredsum d a b p _ | .vfredosum d a b p _ | .vredmax d a b p =>
    (if a = 0 then VUse.one d b p else VUse.two d a b p).cross
  | .vscan d a b p => (if b = 0 then VUse.one d a p else VUse.two d a b p).cross
  | .vprune d a b p => { srcs := [a], preds := [p], dst := [d], pdst := [b], whole := true }
  | .vcvt d a p _ | .vdqbx d a p | .vnsat d a p => .one d a p
  | .vcvtef d a b p _ => { srcs := [a], preds := [p], dst := [d, b] }
  | .vqbx d a _ _ => { srcs := [a], dst := [d] }
  | .vld d _ _ p _ | .vlds d _ _ p _ | .vldff d _ p _ => .load d p
  | .vldx d _ i p _ _ => { srcs := [i], preds := [p], dst := [d] }
  | .vst d _ _ p _ | .vsts d _ _ p _ => .store d p
  | .vstx d _ i p _ _ | .vscadd d _ i p _ _ => { srcs := [d, i], preds := [p] }
  | .vsld d _ p _ | .vgsld d _ p _ => .load d p
  | .vsst d _ p _ => .store d p
  | .vsadd d a b _ | .vsmul d a b _ =>
    { srcs := sparsePair a ++ sparsePair b, dst := sparsePair d, whole := true }
  | .vsdot d a b _ => { srcs := sparsePair a ++ sparsePair b, dst := [d], whole := true }
  | .vspld d _ _ => { dst := sparsePair d, whole := true }
  | .vspst _ a _ => { srcs := sparsePair a }
  | .vmrd d _ _ p _ => .load d p
  | .vmwr d _ _ p => .store d p
  | _ => {}

/-- The registers of the group at `v` under its own tag, as bits of a use mask. -/
def State.groupBits (s : State) (v : Reg) : BitVec 64 :=
  BitVec.ofNat 64 ((2 ^ tagGroup (s.tag v) - 1) <<< v.toNat)

/-- The registers named, as a use mask: v0–v31, then p1–p31. -/
def State.useBits (s : State) (vs ps : List Reg) : BitVec 64 :=
  vs.foldl (fun m v => m ||| s.groupBits v) 0 |||
    (ps.filter (fun p => p != 0)).foldl (fun m p => m ||| BitVec.ofNat 64 (2 ^ (32 + p.toNat))) 0

/-- The bits of an element of the widest among groups as they are tagged (R25). -/
def State.widest (s : State) (vs : List Reg) : Nat := vs.foldl (fun n v => max n (tagFmt (s.tag v)).bits) 0

end Sys2Proof.Machine
end

