-- ==== Sys2Proof/Machine/Memory.lean ====
section
/-! DEFINITION. Memory as spec/09 gives it: the virtual map (R181, R182), the physical map (R192), the walk (R193–R197),
forwarding marks (R199, R200), the cluster L1 (R190, R243, R244, R251), windows (R183–R188), bridge frames (R345),
poison (R402, R403), and reads and writes in a stream (R203–R205). Every location of the machine has one number: a
physical address as it is, and beyond 2^43 the CSPs, Commons, TSPs and lane slices (log entry 6). -/

namespace Sys2Proof.Machine

/-- An address fault (R202): cause, KTVAL where it is not the address accessed, KTVAL2, hops, late, and the line in which a table
entry's or a mark's read meets an error (R402). -/
structure AFault where
  cause : Nat
  val : Option Word := none
  val2 : Word := 0
  hops : Nat := 0
  late : Bool := false
  found : Option Nat := none
deriving DecidableEq, Repr

/-- What an access does (R196): it decides the permission needed and the cause reported. `wait` reads only (WAITA,
CWAIT); `probe` checks no permission. -/
inductive Acc where
  | load | store | atomic | fetch | wait | probe
deriving DecidableEq, Repr

/-- Who accesses: identity (for placement), whether a sequencer and of which kind, address space, user mode, and the agent whose
windows are meant, where that is another (R182). -/
structure Ctx where
  id : Nat
  kind : Kind
  asid : Nat
  user : Bool
  win : Option Nat := none
deriving DecidableEq, Repr

/-- What stands at a location. -/
inductive Cls where
  | dram | flash | window
  | bridge (tgt addr : Nat)
deriving DecidableEq, Repr

/-- A location with what stands there. -/
structure Place where
  loc : Nat
  cls : Cls
deriving DecidableEq, Repr

/-- Does the agent run in user mode (R129)? Sequencers always do; a dispatcher never does, whatever KSTATUS.mode holds (DESIGN CHOICE:
log entry 71). -/
def Agent.user (a : Agent) : Bool := a.kind != .dispatcher && a.regs.kstatus.getLsbD 0 == false

/-- The context of the current agent's own accesses. -/
def State.ctx (s : State) : Ctx :=
  { id := s.cur.id, kind := s.cur.kind, asid := s.cur.asid, user := s.cur.user }

/-- The context of an access of the current agent in a stream: a handle that a command of another thread has bound means that thread's
windows (R182, R288). -/
def State.streamCtx (s : State) (st : Nat) : Ctx :=
  if 4 ≤ st ∧ st < 12 then { s.ctx with win := (s.cur.handles.toList[st - 4]?).bind (fun h => h.win) } else s.ctx

/-! ## The physical map (R192) -/

/-- The DRAM range of a tower is 48 GiB at k × 2^36. -/
def dramTower (pa : Nat) : Option Nat :=
  if pa / 2 ^ 36 ≤ 11 ∧ pa % 2 ^ 36 < 0xC00000000 then some (pa / 2 ^ 36) else none
/-- The flash of stack j is the TiB at 2^42 + j × 2^40. -/
def flashStack (pa : Nat) : Option Nat :=
  if 2 ^ 42 ≤ pa ∧ pa < 2 ^ 43 then some ((pa - 2 ^ 42) / 2 ^ 40) else none
/-- The staging cache is the top 2 GiB × stg of a tower's DRAM (R189). -/
def State.inStaging (s : State) (pa : Nat) : Bool :=
  match dramTower pa with
  | none => false
  | some k => 0xC00000000 - 2 ^ 31 * wbits (s.tower k).l2ways 12 8 ≤ pa % 2 ^ 36
/-- The enabled aperture that holds `pa`, as target code and target address (R344, R345). -/
def State.bridge? (s : State) (pa : Nat) : Option (Nat × Nat) :=
  s.dev.apers.findSome? (fun e =>
    let lb := field e.2 30 13 * 2 ^ 30
    if e.2.getLsbD 0 ∧ lb ≤ pa ∧ pa < lb + field e.2 48 8 * 2 ^ 30 then
      some (field e.2 56 8, field e.2 64 64 + (pa - lb)) else none)
/-- The home slice of a DRAM line (R191). -/
def homeSlice (pa : Nat) : Nat := Nat.xor (bitsOf pa 14 6) (bitsOf pa 23 15)

/-! ## Translation (R193–R197) -/

def isMarked (s : State) (pline : Nat) : Bool := s.marks.contains pline
/-- Is the line poisoned, or will its next read find it so (R402)? -/
def isPoisoned (s : State) (pline : Nat) : Bool :=
  s.poison.contains pline || s.latent.any (fun e => e.unit == pline && (e.cause == 0x71 || e.cause == 0x73))

/-- A table entry as a walker reads it at its home: never through an L1, never through a mark (R196). -/
def readEntry (s : State) (pa : Nat) : Except AFault Word :=
  if flashStack pa ≠ none ∨ dramTower pa = none ∨ s.inStaging pa then .error { cause := 0x12, val2 := nw pa }
  else if (s.bridge? pa).isSome then .error { cause := 0x24, val2 := nw pa }
  else if s.towerUp (pa / 2 ^ 36) = false ∧ s.dev.phase = 7 then .error { cause := 0x1F, late := true }
  else if isMarked s (pa / 64) then .error { cause := 0x12, val2 := nw pa }
  else if isPoisoned s (pa / 64) then .error { cause := 0x17, val2 := nw pa, found := some (pa / 64) }
  else .ok (nw (memNat s.mem pa 8))

/-- The cause of a missing entry (R202); WAITA and CWAIT, which only read, report a load's (DESIGN CHOICE: log entry 70). -/
def missingCause : Acc → Nat
  | .store => 0x11
  | .atomic => 0x11
  | .fetch => 0x13
  | .load => 0x10
  | .wait => 0x10
  | .probe => 0x10

/-- The index of an address at a level (R194). -/
def levelIndex (va level : Nat) : Nat :=
  if level = 4 then bitsOf va 55 48 else (va >>> (12 + 9 * level)) % 512

/-- Is the entry well formed at its level (R195)? `base` says it is the base entry of its group of sixteen. -/
def entryOk (e : Word) (level : Nat) (base : Bool) : Bool :=
  let ppn := wbits e 51 12
  wbits e 63 52 == 0 && wbits e 11 8 == 0 && ppn < 2 ^ 31 &&
  (e.getLsbD 7 == false || (flashStack (ppn * 4096)).isSome) &&
  (if e.getLsbD 1 then
    level ≤ 2 && (level != 2 || ppn % 2 ^ 18 == 0) && (level != 1 || ppn % 2 ^ 9 == 0) &&
    (e.getLsbD 6 == false || (level == 0 && base && ppn % 16 == 0))
  else level != 0 && e.getLsbD 6 == false)

/-- The bytes a leaf maps (R194, R196). -/
def leafSize (e : Word) (level : Nat) : Nat :=
  if level = 2 then 2 ^ 30 else if level = 1 then 2 ^ 21 else if e.getLsbD 6 then 2 ^ 16 else 2 ^ 12

/-- The walk from a level's table downward: the leaf and the size of its page (R194–R196). `lv` counts levels left. -/
def walkFrom (s : State) (acc : Acc) (va : Nat) : Nat → Nat → Except AFault (Word × Nat)
  | 0, table => do
    let idx := levelIndex va 0
    let base ← readEntry s (table + 8 * (idx - idx % 16))
    if base.getLsbD 0 ∧ entryOk base 0 true = false then throw { cause := 0x12, val2 := nw (table + 8 * (idx - idx % 16)) }
    else if base.getLsbD 0 ∧ base.getLsbD 6 then return (base, 2 ^ 16)
    else do
      let e ← if idx % 16 = 0 then pure base else readEntry s (table + 8 * idx)
      if e.getLsbD 0 = false then throw { cause := missingCause acc, val2 := 0 }
      else if entryOk e 0 (idx % 16 == 0) then return (e, 2 ^ 12)
      else throw { cause := 0x12, val2 := nw (table + 8 * idx) }
  | lv + 1, table => do
    let pa := table + 8 * levelIndex va (lv + 1)
    let e ← readEntry s pa
    if e.getLsbD 0 = false then throw { cause := missingCause acc, val2 := nw (lv + 1) }
    else if entryOk e (lv + 1) false = false then throw { cause := 0x12, val2 := nw pa }
    else if e.getLsbD 1 then return (e, leafSize e (lv + 1))
    else walkFrom s acc va lv (wbits e 42 12 * 4096)

/-- The whole walk, from the address-space table (R193). -/
def walk (s : State) (acc : Acc) (asid va : Nat) : Except AFault (Word × Nat) := do
  let pa := wbits s.dev.astbase 63 12 * 4096 + 8 * asid
  let e ← readEntry s pa
  if e.getLsbD 0 = false then throw { cause := 0x12, val2 := nw pa }
  else walkFrom s acc va 4 (wbits e 42 12 * 4096)

/-- Is it an entry for the address? -/
def TlbEntry.covers (t : TlbEntry) (asid va : Nat) : Bool := t.asid == asid && t.vbase ≤ va && va < t.vbase + t.size

/-- The translations an agent's accesses may use, those nearest to it first: of its core's lane quads, of its cluster, of its
tower (R197). A command's accesses use those of the agent that issued it; a sequencer other than the MCC has its tower's alone, so one of the
install engine none (DESIGN CHOICE: log entry 8). -/
def State.heldTlb (s : State) (c : Ctx) : List TlbEntry :=
  let t := placeTower s.dev.towerok c.id
  if 12 ≤ t then []
  else match c.kind with
    | .thread => ((s.core (placeCore c.id)).tlb.map (fun e => e.2)).flatten ++
        (s.cluster (placeCluster s.dev.towerok c.id)).tlb ++ (s.tower t).tlb
    | .mcc => (s.cluster (placeCluster s.dev.towerok c.id)).tlb ++ (s.tower t).tlb
    | _ => (s.tower t).tlb

/-- The held translation of an address, else the walk's (R197, R151; log entry 8). -/
def findLeaf (s : State) (c : Ctx) (acc : Acc) (va : Nat) : Except AFault (Word × Nat) :=
  match (s.heldTlb c).find? (fun t => t.covers c.asid va) with
  | some t => .ok (t.leaf, t.size)
  | none => walk s acc c.asid va

/-- The permission check of R196. -/
def permitted (acc : Acc) (user : Bool) (leaf : Word) : Option Nat :=
  let r := leaf.getLsbD 2; let w := leaf.getLsbD 3; let x := leaf.getLsbD 4; let u := leaf.getLsbD 5
  let g := leaf.getLsbD 7
  let deny (b : Bool) : Option Nat := if b && (!user || u) then none else some 0x15
  match acc with
  | .probe => none
  | .load => deny r
  | .fetch => deny x
  | .store => if g then some 0x14 else deny w
  | .atomic => if g then some 0x14 else deny (r && w)
  | .wait => if g then some 0x26 else deny r

/-- The frame a leaf gives an address, checked against the physical map (R189, R192, R195, R345). -/
def frameOf (s : State) (leaf : Word) (size va : Nat) : Except AFault Place :=
  let pa := (wbits leaf 51 12 * 4096) / size * size + va % size
  if leaf.getLsbD 7 then
    match flashStack pa with
    | none => .error { cause := 0x12, val2 := nw pa }
    | some j => if s.dev.granaryok.getLsbD j then .ok { loc := pa, cls := .flash } else .error { cause := 0x19 }
  else
    match dramTower pa with
    | none => .error { cause := 0x12, val2 := nw pa }
    | some k =>
      if s.inStaging pa then .error { cause := 0x12, val2 := nw pa }
      else match s.bridge? pa with
        | some (t, a) => .ok { loc := pa, cls := .bridge t a }
        | none =>
          if s.towerUp k = false ∧ s.dev.phase = 7 then .error { cause := 0x1F, late := true }
          else .ok { loc := pa, cls := .dram }

/-- A window access (R182, R281, R381): the location, or the range fault. -/
def windowOf (s : State) (c : Ctx) (va : Nat) : Except AFault Place :=
  let off := va % 2 ^ 44
  let id := c.win.getD c.id
  let t := placeTower s.dev.towerok id
  let seq := c.kind != .thread && c.kind != .dispatcher && c.kind != .sweep
  match bitsOf va 47 44 with
  | 0 =>
    if seq then .error { cause := 0x28 }
    else if off < 2 ^ 18 then .ok { loc := 2 ^ 44 + placeCore id * 2 ^ 18 + off, cls := .window }
    else .error { cause := 0x1A, val2 := 0x40000 }
  | 1 =>
    if seq ∧ c.kind ≠ .mcc then .error { cause := 0x28 }
    else if off < 2 ^ 22 then .ok { loc := 2 ^ 45 + placeCluster s.dev.towerok id * 2 ^ 22 + off, cls := .window }
    else .error { cause := 0x1B, val2 := 0x400000 }
  | 2 =>
    let size := 2 ^ 23 * wbits (s.tower t).l2ways 3 0
    if off < size then
      if (s.tower t).retiredWays.getLsbD (15 - off / 2 ^ 23) then .error { cause := 0x27 }
      else .ok { loc := 2 ^ 46 + t * 2 ^ 26 + off, cls := .window }
    else .error { cause := 0x1C, val2 := nw size }
  | _ => .error { cause := 0x12 }

/-- Is the address in the window region (R182)? -/
def isWindow (va : Word) : Bool := wbits va 63 48 == 0xFE

/-- Does an access through link port `t` end with REMOTE_LINK (R346, R391): it is the one in flight that the link ended, or the
link is down and no access in flight over it was cut later? Its KTVAL2. -/
def State.linkFault (s : State) (c : Ctx) (va : Word) (t : Nat) : Option Word :=
  let down : Option Word := if s.dev.linkstat.getLsbD t then none else some (nw t)
  match ((s.cur :: s.others).find? (fun a => a.id == c.id)).bind (fun a => a.linkHit.filter (fun h => h.1 == a.pc)) with
  | none => down
  | some (_, at_, val2) =>
    if wbits val2 3 0 ≠ t then down else if at_ / 64 = va.toNat / 64 then some val2 else none

/-- The translation of one byte address (R181–R196). A leaf that fails the permission check and also names a bad frame reports PROTECT
(R195 gives no order; DESIGN CHOICE: log entry 68). -/
def translate (s : State) (c : Ctx) (acc : Acc) (va : Word) : Except AFault Place :=
  if wbits va 63 56 ≠ 0 ∨ wbits va 55 48 = 0xFF then .error { cause := 0x12 }
  else if isWindow va then if acc = .fetch then .error { cause := 0x20 } else windowOf s c va.toNat
  else do
    let (leaf, size) ← findLeaf s c acc va.toNat
    match permitted acc c.user leaf with
    | some cause => throw { cause := cause, val2 := if cause = 0x15 then leaf else 0 }
    | none =>
      let pl ← frameOf s leaf size va.toNat
      match pl.cls with
      | .bridge t _ =>
        if acc = .fetch then throw { cause := 0x21 }
        else if (acc = .atomic ∨ acc = .wait) ∧ (t = 0x10 ∨ t = 0x11) then throw { cause := 0x62 }
        else if t = 0xFF then throw { cause := 0x67 }
        else if t < 16 then
          match s.linkFault c va t with
          | some val2 =>
            throw { cause := 0x61, val2 := if acc = .store ∨ acc = .atomic then val2 else nw t, late := true }
          | none => return pl
        else return pl
      | _ => return pl

/-- Does a hop's address reach a leaf that names no DRAM outside staging ranges and bridge frames (R200)? -/
def offDram (s : State) (c : Ctx) (acc : Acc) (n : Word) : Bool :=
  match findLeaf s c acc n.toNat with
  | .error _ => false
  | .ok (leaf, size) =>
    let pa := (wbits leaf 51 12 * 4096) / size * size + n.toNat % size
    leaf.getLsbD 7 || (dramTower pa).isNone || s.inStaging pa || (s.bridge? pa).isSome

/-- The line an access reaches through forwarding marks (R200): the line's virtual and physical place, the hops, and the
marked physical lines passed. `n` counts the hops left; a hop beyond them is FWD_CHAIN_LONG. -/
def resolveFrom (s : State) (c : Ctx) (acc : Acc) (a : Word) : Nat → Nat → Word → Place → List Nat →
    Except AFault (Word × Place × Nat × List Nat)
  | left, hops, ln, pl, via =>
    if pl.cls ≠ .dram ∨ isMarked s (pl.loc / 64) = false then .ok (ln, pl, hops, via)
    else if isPoisoned s (pl.loc / 64) then .error { cause := 0x30, val2 := ln, hops := hops, found := some (pl.loc / 64) }
    else match left with
      | 0 => .error { cause := 0x31, val2 := ln, hops := hops }
      | left + 1 =>
        let n := nw (memNat s.mem (pl.loc / 64 * 64) 8)
        if wbits n 5 0 ≠ 0 ∨ wbits n 63 56 ≠ 0 ∨ 0xFE ≤ wbits n 55 48 then
          .error { cause := 0x32, val2 := n, hops := hops }
        else match translate s c acc n with
          | .error f => .error (if offDram s c acc n then { cause := 0x32, val2 := n, hops := hops }
              else { f with val2 := n, hops := hops + 1 })
          | .ok pl' =>
            if pl'.cls ≠ .dram then .error { cause := 0x32, val2 := n, hops := hops }
            else resolveFrom s c acc a left (hops + 1) n pl' (pl.loc / 64 :: via)

/-- Resolve of R200 for the line that holds `a`. -/
def resolve (s : State) (c : Ctx) (acc : Acc) (a : Word) : Except AFault (Word × Place × Nat × List Nat) := do
  let ln := a &&& ~~~63
  let pl ← translate s c acc a
  resolveFrom s c acc a 3 0 ln { pl with loc := pl.loc / 64 * 64 } []

/-! ## The error log (R405) -/

/-- The router position of a tower, Granary stack (12 + j) or I/O die (16 + d), as y × 6 + x (R9). -/
def position (u : Nat) : Nat :=
  if u < 12 then u / 4 * 6 + 1 + u % 4
  else match u with
    | 12 => 0
    | 13 => 12
    | 14 => 5
    | 15 => 17
    | 16 => 6
    | _ => 11

/-- An entry of the error log: nothing where ERRBASE is 0 (R405). -/
def State.logError (s : State) (cause unit : Nat) (what detail : Word) : State :=
  let base := wbits s.dev.errbase 42 17 * 2 ^ 17
  if base = 0 then s
  else
    let at_ := base + 32 * (s.dev.errhead.toNat % 4096)
    let pos := position unit
    let m := memPutNat s.mem at_ 8 (s.time (if unit < 12 then unit else 0))
    let m := memPutNat m (at_ + 8) 8 (cause + 256 * (pos % 6 + 8 * (pos / 6)))
    let m := memPutNat (memPutNat m (at_ + 16) 8 what.toNat) (at_ + 24) 8 detail.toNat
    { s with mem := m, dev := { s.dev with errhead := s.dev.errhead + 1 } }

/-! ## Errors of stored data (R387, R402–R404) -/

/-- The unit of storage that an error hits: a line, or an aligned word of a window (R404). -/
def errorUnit (loc : Nat) : Nat := if loc < 2 ^ 43 then loc / 64 else loc / 8

/-- A location of a unit. -/
def unitLoc (u : Nat) : Nat := if u < 2 ^ 37 then 64 * u else 8 * u

/-- The tower, or 12 + stack, at which a location stands. -/
def homeUnit (loc : Nat) : Nat :=
  if loc < 2 ^ 43 then (match dramTower loc with | some k => k | none => 12 + (loc - 2 ^ 42) / 2 ^ 40)
  else if loc < 2 ^ 45 then (loc - 2 ^ 44) / 2 ^ 25
  else if loc < 2 ^ 46 then (loc - 2 ^ 45) / 2 ^ 27
  else if loc < 2 ^ 47 then (loc - 2 ^ 46) / 2 ^ 26
  else (loc - 2 ^ 47) / 2 ^ 25

/-- The cause that the consumption of a poisoned unit raises (R403, R404). -/
def poisonCause (loc : Nat) : Nat :=
  if loc < 2 ^ 42 then 0x72 else if loc < 2 ^ 43 then 0x7C
  else if loc < 2 ^ 45 then 0x76 else if loc < 2 ^ 46 then 0x75 else if loc < 2 ^ 47 then 0x73 else 0x77

/-- Is the cause an uncorrectable error of stored data, which poisons (R402, R404)? -/
def poisons (cause : Nat) : Bool := cause == 0x71 || (0x73 ≤ cause && cause ≤ 0x77) || cause == 0x7C

/-- The units that an error poisons: its own, of flash the lines filled from its 64 KiB unit (R402, R404). -/
def Latent.units (e : Latent) : List Nat :=
  if e.cause = 0x7C then (List.range 1024).map (fun i => e.unit / 1024 * 1024 + i) else [e.unit]

/-- An access has met an error: what it leaves is poison, and an entry of the log (R402, R404, R405). -/
def State.foundError (s : State) (e : Latent) : State :=
  let s := { s with latent := s.latent.erase e }
  if poisons e.cause then
    let s := { s with poison := e.units.filter (fun u => !s.poison.contains u) ++ s.poison }
    s.logError e.cause (homeUnit (unitLoc e.unit)) (nw (unitLoc e.unit / 64 * 64)) 0
  else s

/-- A read of a unit finds the error that stands there, if one does (R402). -/
def State.foundIn (s : State) (unit : Option Nat) : State :=
  match unit.bind (fun u => s.latent.find? (fun e => e.unit == u)) with
  | none => s
  | some e => s.foundError e

/-- The errors that poison and that a read of the units which pass a test meets are found (R402, R404). -/
def State.findWhere (s : State) (p : Nat → Bool) : State :=
  (s.latent.filter (fun e => p e.unit && poisons e.cause)).foldl State.foundError s

/-- The errors in the lines of `n` bytes of memory are found (R402). -/
def State.findLines (s : State) (pa n : Nat) : State :=
  s.findWhere (fun u => decide (pa / 64 ≤ u ∧ u ≤ (pa + n - 1) / 64))

/-- Neither poison nor an error is left in the units that pass a test: their data are written anew (R403). -/
def State.cleanUnits (s : State) (p : Nat → Bool) : State :=
  { s with poison := s.poison.filter (fun u => !p u), latent := s.latent.filter (fun e => !p e.unit) }

/-- KTVAL of a fault that a response brings: the physical line for the errors of lines and units, else the address accessed
(R353, R402–R404). -/
def faultValue (cause line : Nat) (va : Word) : Word :=
  if (0x71 ≤ cause ∧ cause ≤ 0x77) ∨ cause = 0x7C then nw (64 * line) else va

/-! ## The cluster L1 (R190, R243, R244) -/

/-- The bytes of a mask as a list of byte numbers. -/
def maskBytes (m : BitVec 64) : List Nat := (List.range 64).filter (fun i => m.getLsbD i)

/-- Bytes `data` where `mask` has them, put into memory at the line. -/
def putMasked (mem : List Host.Cell) (line : Nat) (data : BitVec 512) (mask : BitVec 64) : List Host.Cell :=
  (maskBytes mask).foldl (fun m i => memPut m (64 * line + i) (byteOf data i)) mem

/-- The line of cluster `g` that holds physical line `pl`. -/
def State.l1? (s : State) (g pl : Nat) : Option L1Line := (s.cluster g).l1.find? (fun l => l.pline == pl)

/-- A stamp above every stamp of the cluster's lines. -/
def State.stamp (s : State) (g : Nat) : Nat :=
  (s.cluster g).l1.foldl (fun n l => l.dirtied.foldl (fun n e => max n e.2) (max n l.used)) 0 + 1

/-- Cluster `g`'s line of the same number replaced. -/
def State.l1Set (s : State) (g : Nat) (l : L1Line) : State :=
  let c := s.cluster g
  s.setCluster g { c with l1 := c.l1.map (fun x => if x.pline = l.pline then l else x) }

/-- Cluster `g`'s line removed. -/
def State.l1Drop (s : State) (g pl : Nat) : State :=
  let c := s.cluster g
  s.setCluster g { c with l1 := c.l1.filter (fun x => x.pline != pl) }

/-- Where a write-back to a marked line goes: the marks are followed with the w check in the line's own address space;
a failing hop gives the fault (R251). -/
def forwardLine (s : State) (g asid line : Nat) : Except AFault Nat := do
  let c : Ctx := { id := 16 * g, kind := .thread, asid := asid, user := false }
  let (_, pl, _, _) ← resolveFrom s c .store 0 3 0 0 { loc := 64 * line, cls := .dram } []
  return pl.loc / 64

/-- `x` with the bits of mask `m` taken from `y`. -/
def mix (x y m : BitVec 64) : BitVec 64 := (x &&& ~~~m) ||| (y &&& m)
/-- The aligned word that holds a location. -/
def memWord (m : List Host.Cell) (loc : Nat) : BitVec 64 := BitVec.ofNat 64 (memNat m (loc / 8 * 8) 8)

/-- Every agent that stands in cluster `g` changed. -/
def State.inCluster (s : State) (g : Nat) (f : Agent → Agent) : State :=
  let f (a : Agent) : Agent := if placeCluster s.dev.towerok a.id = g then f a else a
  { s with cur := f s.cur, others := s.others.map f }

/-- Stores of an L1 line that now stand at its home `line` too, after those that stood there: `mem` is what stood there before
(R204). -/
def standHome (mem : List Host.Cell) (pline line : Nat) (ls : List Loose) : List Loose :=
  let hit (e : Loose) : Bool := e.inL1 && !e.home && e.word / 8 == pline
  let es := (ls.filter hit).map (fun e => { e with home := true, inL1 := pline == line, word := 8 * line + e.word % 8 })
  let before (e : Loose) (i : Nat) : BitVec 64 :=
    ((es.take i).filter (fun x => x.word == e.word)).foldl (fun v x => mix v x.new x.mask) (memWord mem (8 * e.word))
  ls.filter (fun e => !hit e) ++ es.zipIdx.map (fun (e, i) => { e with was := before e i &&& e.mask })

/-- Stores that stood at a home line alone stand in the L1 too, once it has filled the bytes of `mask` from there (R190, R204). -/
def standL1 (line : Nat) (mask : BitVec 64) (ls : List Loose) : List Loose :=
  ls.map (fun e =>
    if e.home && e.word / 8 == line then
      let bits := (List.range 8).foldl (fun (m : BitVec 64) i =>
        if mask.getLsbD (e.word % 8 * 8 + i) then m ||| BitVec.ofNat 64 (0xFF <<< (8 * i)) else m) 0
      if bits &&& e.mask = 0 then e else { e with inL1 := true, old := mix e.old e.was bits &&& e.mask }
    else e)

/-- The write-back of an L1 line: its dirty bytes with their mask, applied at the home or through the line's mark (R244,
R251); a mask of all 64 bytes clears poison, poisoned bytes carry it (R403, R404). The line stays, clean; its poisoned bytes become
invalid, so that a later load finds them at the home (DESIGN CHOICE: log entry 72). -/
def State.writeBack (s : State) (g : Nat) (l : L1Line) : State :=
  if l.dirty = 0 then s
  else
    let s := s.l1Set g { l with dirty := 0, threads := [], dirtied := [], bad := 0, valid := l.valid &&& ~~~l.bad }
    let put (s : State) (line : Nat) : State :=
      let s := if l.dirty = BitVec.allOnes 64 then s.cleanUnits (fun u => u == line) else s
      { s.inCluster g (fun a => { a with loose := standHome s.mem l.pline line a.loose }) with
        mem := putMasked s.mem line l.data l.dirty
        poison := if l.bad = 0 ∨ s.poison.contains line then s.poison else line :: s.poison }
    if isMarked s l.pline then
      match forwardLine s g l.asid l.pline with
      | .ok line => put s line
      | .error f => s.logError f.cause (g / 32) (nw (64 * l.pline)) f.val2
    else put s l.pline

/-- Writes back and invalidates the line, if the cluster holds it (R226, R152). -/
def State.flushLine (s : State) (g pl : Nat) : State :=
  match s.l1? g pl with
  | none => s
  | some l => (s.writeBack g l).l1Drop g pl

/-- The line that gives way to a fill of its set: where all eight ways hold valid lines, the least recently used (R190, R253). -/
def State.victim (s : State) (g pl : Nat) : Option L1Line :=
  let set := (s.cluster g).l1.filter (fun x => x.pline % 1024 == pl % 1024 && x.valid != 0)
  if set.length < 8 then none
  else set.foldl (fun (b : Option L1Line) x =>
    match b with
    | none => some x
    | some y => if x.used < y.used then some x else b) none

/-- A line put into the L1, in a way that holds nothing valid where there is one; else a line is evicted first, its dirty bytes written
back (R190, R253). -/
def State.l1Insert (s : State) (g : Nat) (l : L1Line) : State :=
  let s := match s.victim g l.pline with
    | none => s
    | some v => s.flushLine g v.pline
  let c := s.cluster g
  s.setCluster g { c with l1 := l :: c.l1.filter (fun x => x.pline % 1024 != l.pline % 1024 || x.valid != 0) }

/-- The lines of the cluster in which the thread has dirty bytes (R155, R190). -/
def State.dirtyLines (s : State) (g id : Nat) : List L1Line :=
  (s.cluster g).l1.filter (fun l => l.threads.contains id)

/-- DIRTYN (R155). -/
def State.dirtyN (s : State) : Nat := (s.dirtyLines s.myCluster s.cur.id).length

/-- The oldest dirty line of a thread that has 64 (R190). -/
def State.oldestDirty (s : State) (g id : Nat) : Option L1Line :=
  let mine := s.dirtyLines g id
  if mine.length < 64 then none
  else mine.foldl (fun (b : Option L1Line) x =>
    match b with
    | none => some x
    | some y => if kvGet 0 x.dirtied id < kvGet 0 y.dirtied id then some x else b) none

/-- Before a store makes a thread's dirty lines 65, its oldest dirty line is written back (R190). -/
def State.limitDirty (s : State) (g id pl : Nat) : State :=
  if (s.dirtyLines g id).any (fun l => l.pline == pl) then s
  else match s.oldestDirty g id with
    | none => s
    | some l => s.writeBack g l

/-- Is a write-back of the line under way on its own account (R190, R234): it gives way to a fill of its set, or it is the oldest dirty
line of a thread that has 64? -/
def State.leaves (s : State) (g : Nat) (l : L1Line) : Bool :=
  (s.victim g l.pline).any (fun v => v.pline == l.pline) || l.threads.any (fun id => (s.oldestDirty g id).any (fun v => v.pline == l.pline))

/-- Writes back every dirty line of the thread; the lines stay valid and clean (R238 step 2, R152 kind 1). -/
def State.writeBackThread (s : State) (g id : Nat) : State :=
  (s.dirtyLines g id).foldl (fun s l => s.writeBack g l) s

/-- The 64 bytes of a line at its home. -/
def State.homeLine (s : State) (line : Nat) : BitVec 512 :=
  BitVec.ofNat 512 (memNat s.mem (64 * line) 64)

/-- The line with the bytes it lacks filled from `home` through the virtual line `vline` of an address space, and through
the marked lines `via` (R190, R243, R251, R294). -/
def L1Line.fill (l : L1Line) (home : BitVec 512) (asid vline : Nat) (via : List Nat) : L1Line :=
  let d := (List.range 64).foldl (fun d i => if l.valid.getLsbD i then d else putByte d i (byteOf home i)) l.data
  let kept := (l.fills.map (fun e => (e.1, e.2.1, e.2.2 &&& l.valid))).filter (fun e => e.2.2 != 0)
  { l with data := d, valid := BitVec.allOnes 64, via := l.via ++ via.filter (fun m => !l.via.contains m),
           fills := if l.asid = asid ∧ l.vline = vline then kept else (asid, vline, ~~~l.valid) :: kept }

/-- The bytes of the line filled through a virtual line that passes a test (R243). -/
def L1Line.filledThrough (l : L1Line) (p : Nat → Nat → Bool) : BitVec 64 :=
  let later := l.fills.foldl (fun m e => m ||| e.2.2) 0
  (if p l.asid l.vline then ~~~later else 0) ||| (l.fills.filter (fun e => p e.1 e.2.1)).foldl (fun m e => m ||| e.2.2) 0

/-! ## Streams of one thread (R203, R204) -/

/-- The code of a stream in KCAUSE.strm (R352): 0 scalar, 1 handle, 2 unit-stride, 3 gather, 4 scatter, 5 fetch, 7
engine. Streams are numbered 0 scalar, 1 unit-stride, 2 gather, 3 scatter, 4 + h handle h; 12 an engine's, 16 fetch. -/
def streamCode (st : Nat) : Nat :=
  if st = 0 then 0 else if st = 1 then 2 else if st = 2 then 3 else if st = 3 then 4
  else if st = 16 then 5 else if st = 12 then 7 else 1

/-- The trap an address fault raises in a stream (R202, R352). -/
def AFault.trap (f : AFault) (va : Word) (st : Nat) : Stop :=
  .trap { cause := f.cause, val := some (f.val.getD va), val2 := f.val2, strm := streamCode st,
          hnd := if 4 ≤ st ∧ st < 12 then st - 4 else 0, hops := f.hops, late := f.late }

/-- An address computation whose fault traps, and leaves found the error it has met. -/
def orTrap {α : Type} (va : Word) (st : Nat) (x : Except AFault α) : Exec α :=
  match x with
  | .ok a => pure a
  | .error f => do
    modify (fun s => s.foundIn f.found)
    throw (f.trap va st)

/-- The first access to a window anchors the thread (R183). -/
def anchor (va : Word) : Exec Unit :=
  if isWindow va then
    match wbits va 47 44 with
    | 0 => modCur (fun a => { a with anchorCore := true })
    | 1 => modCur (fun a => { a with anchorCluster := true })
    | _ => modCur (fun a => { a with anchorTower := true })
  else pure ()

/-! ### What the thread's streams see of one another's stores (R204, R205, R248; log entry 7). `Agent.loose` lists the
stores not yet seen by every stream, in the order in which they are performed: a stream sees those before some point of
the list, a point that only moves forward, and a store of it is put in at or after that point. -/

/-- The bits of `n` bytes from byte `o` of a word. -/
def byteBits (o n : Nat) : BitVec 64 := BitVec.ofNat 64 ((2 ^ (8 * n) - 1) <<< (8 * o))
/-- The mask of one stream. The engines are number 12; 13 marks their completion words (R249). -/
def streamBit (st : Nat) : BitVec 13 := 1#13 <<< (if st = 13 then 12 else st)
/-- Every stream of a thread (R203). -/
def threadStreams : BitVec 13 := 0xFFF

/-- Does the entry store to the word, as it stands in the L1 or at the home? -/
def Loose.at (e : Loose) (inL1 : Bool) (word : Nat) : Bool := (if inL1 then e.inL1 else e.home) && e.word == word
/-- What stood there before it. -/
def Loose.before (e : Loose) (inL1 : Bool) : BitVec 64 := if inL1 then e.old else e.was
/-- Does stream `st` see the entry for sure? Instruction fetch, which belongs to no stream, where all of them do. -/
def Loose.sure (st : Nat) (e : Loose) : Bool :=
  if st = 16 then e.seen &&& threadStreams == threadStreams else e.seen.getLsbD st

/-- A word as it stood before the listed stores, given what stands now; a store whose bytes have been overwritten since by
another agent is not undone. -/
def undo (inL1 : Bool) (es : List Loose) (now : BitVec 64) : BitVec 64 :=
  es.foldr (fun e v => if v &&& e.mask = e.new &&& e.mask then mix v (e.before inL1) e.mask else v) now

/-- How many of the stores a stream sees at least: those up to the last that it sees for sure. -/
def seenCount (sure : Loose → Bool) (es : List Loose) : Nat :=
  es.zipIdx.foldl (fun n e => if sure e.1 then e.2 + 1 else n) 0

/-- The first `k` of the stores that pass `p` are seen by stream `st`. -/
def markSeen (p : Loose → Bool) (st : Nat) : Nat → List Loose → List Loose
  | _, [] => []
  | 0, es => es
  | k + 1, e :: es =>
    if p e then { e with seen := e.seen ||| streamBit st } :: markSeen p st k es else e :: markSeen p st (k + 1) es

/-- A stream that sees a command's completion word sees what the command stored before it (R249). -/
def seeCommands (st : Nat) : List Loose → List Loose
  | [] => []
  | e :: es =>
    (if 12 ≤ e.stream ∧ es.any (fun x => x.stream == 13 && x.cmd == e.cmd && x.sure st) then { e with seen := e.seen ||| streamBit st }
     else e) :: seeCommands st es

/-- The agent's stream `st` has seen the first `k` of its listed stores that pass `p`, and had seen fewer for sure. -/
def noteSeen (p : Loose → Bool) (st k : Nat) : Exec Unit := modCur (fun a =>
  if seenCount (Loose.sure st) (a.loose.filter p) < k then { a with loose := seeCommands st (markSeen p st k a.loose) }
  else a)

/-- How many of the listed stores an access sees: a free choice from those it sees for sure up to all of them. -/
def pickPoint (sure : Loose → Bool) (es : List Loose) : Exec Nat := do
  return es.length - (← drawBelow (es.length - seenCount sure es + 1))

/-- The other agents' stores that pass `p` have been read by this one: in an L1, where they share it. -/
def noteShown (inL1 : Bool) (p : Loose → Bool) : Exec Unit := modify (fun s =>
  if s.others.all (fun a => a.loose.isEmpty) then s
  else { s with others := s.others.map (fun (a : Agent) =>
    if inL1 && placeCluster s.dev.towerok a.id != s.myCluster then a
    else { a with loose := a.loose.map (fun e => if p e then { e with shown := true } else e) }) })

/-- An aligned word as stream `st` sees it, given what stands there now (R204). -/
def seeWord (st : Nat) (inL1 : Bool) (word : Nat) (now : BitVec 64) : Exec (BitVec 64) := do
  let es := (← getCur).loose.filter (fun e => e.at inL1 word)
  let k ← pickPoint (Loose.sure st) es
  noteSeen (fun e => e.at inL1 word) st k
  noteShown inL1 (fun e => e.at inL1 word)
  return undo inL1 (es.drop k) now

/-- The later stores of the word after a store of `new` is put before them: what they overwrite of it, and the bits of it
they leave standing. -/
def putBefore (inL1 : Bool) (p : Loose → Bool) (new : BitVec 64) : BitVec 64 → List Loose → List Loose × BitVec 64
  | m, [] => ([], m)
  | m, e :: es =>
    if p e then
      let (rest, m') := putBefore inL1 p new (m &&& ~~~e.mask) es
      let under := mix (e.before inL1) new (e.mask &&& m)
      ((if inL1 then { e with old := under } else { e with was := under }) :: rest, m')
    else
      let (rest, m') := putBefore inL1 p new m es
      (e :: rest, m')

/-- The list with `x` put in after the first `k` stores that pass `p`; at its end where there are no more of them. The bits
of `x` that stand. -/
def insertStore (inL1 : Bool) (p : Loose → Bool) (x : Loose) : Nat → List Loose → List Loose × BitVec 64
  | _, [] => ([x], x.mask)
  | 0, es =>
    if es.any p then
      let (rest, m) := putBefore inL1 p x.new x.mask es
      (x :: rest, m)
    else (es ++ [x], x.mask)
  | k + 1, e :: es =>
    let (rest, m) := insertStore inL1 p x (if p e then k else k + 1) es
    (e :: rest, m)

/-- A store of stream `st` to bits `mask` of a word, put in after the first `k` stores listed for the word: what the word
then holds (R204). -/
def putWord (st : Nat) (inL1 : Bool) (word : Nat) (mask new now : BitVec 64) (atomic : Bool) (k : Nat) (cmd : Nat := 0) :
    Exec (BitVec 64) := do
  let p (e : Loose) : Bool := e.at inL1 word
  let ls := (← getCur).loose
  let old := undo inL1 ((ls.filter p).drop k) now &&& mask
  let x : Loose := { stream := st, inL1 := inL1, home := !inL1, word := word, mask := mask, old := old, was := old,
                     new := new &&& mask, seen := streamBit st, atomic := atomic, rel := none, cmd := cmd }
  let (ls', m) := insertStore inL1 p x k ls
  modCur (fun a => { a with loose := ls' })
  return mix now new m

/-- A store of stream `st` to bits `mask` of a word: what the word then holds. No store comes before an atomic step that has
been performed. -/
def storeWord (st : Nat) (inL1 : Bool) (word : Nat) (mask new now : BitVec 64) : Exec (BitVec 64) := do
  let es := (← getCur).loose.filter (fun e => e.at inL1 word)
  let k ← pickPoint (fun e => e.sure st || e.atomic) es
  putWord st inL1 word mask new now false k

/-- The bytes of a word from byte `o` on. -/
def wordBytes (x : BitVec 64) (o n : Nat) : List Byte := (List.range n).map (fun i => byteOf x (o + i))
/-- Bytes placed from byte `o` of a word. -/
def bytesWord (o : Nat) (xs : List Byte) : BitVec 64 := BitVec.ofNat 64 (leNat xs <<< (8 * o))

/-- `n` bytes at a location inside one aligned word of memory as stream `st` sees them. -/
def seeBytes (st loc n : Nat) : Exec (List Byte) := do
  return wordBytes (← seeWord st false (loc / 8) (memWord (← get).mem loc)) (loc % 8) n

/-- Bytes stored by stream `st` at a location inside one aligned word of memory; a whole word of a window stored is poisoned no
longer (R404). -/
def putBytes (st loc : Nat) (xs : List Byte) : Exec Unit := do
  let o := loc % 8
  let y ← storeWord st false (loc / 8) (byteBits o xs.length) (bytesWord o xs) (memWord (← get).mem loc)
  modify (fun s =>
    let s := if 2 ^ 44 ≤ loc ∧ xs.length = 8 then s.cleanUnits (fun u => u == loc / 8) else s
    { s with mem := memPuts s.mem loc (wordBytes y o xs.length) })

/-- The stores listed for a line of memory in the part of a line seen at one moment (R205, R215). -/
def undoLine (es : List Loose) (now : BitVec 512) : BitVec 512 :=
  es.foldr (fun e v =>
    let o := 64 * (e.word % 8)
    if field v o 64 % 2 ^ 64 &&& e.mask.toNat = (e.new &&& e.mask).toNat then
      putField v o 64 (mix (BitVec.ofNat 64 (field v o 64)) e.was e.mask).toNat
    else v) now

/-- A line of memory as stream `st` sees it in one access (R260, R215). -/
def seeLine (st line : Nat) : Exec (BitVec 512) := do
  let p (e : Loose) : Bool := e.home && e.word / 8 == line
  let es := (← getCur).loose.filter p
  let k ← pickPoint (Loose.sure st) es
  noteSeen p st k
  noteShown false p
  return undoLine (es.drop k) ((← get).homeLine line)

/-! ## Accesses. An access of n bytes is cut at every aligned 8-byte word (R205). -/

/-- The pieces of `n` bytes from `a` that each lie in one aligned 8-byte word: offset and length. -/
def pieces (a : Nat) : Nat → Nat → List (Nat × Nat)
  | 0, _ => []
  | _, 0 => []
  | fuel + 1, n =>
    let k := min n (8 - a % 8)
    (a, k) :: pieces (a + k) fuel (n - k)

/-- A late trap of an access in a stream, with the hops it resolved (R352, R358); that of a peer's marked line is none (R345). -/
def lateStop (cause line : Nat) (va val2 : Word) (st hops : Nat) : Stop :=
  .trap { cause := cause, val := some (faultValue cause line va), val2 := val2, strm := streamCode st, late := cause != 0x12,
          hops := hops, hnd := if 4 ≤ st ∧ st < 12 then st - 4 else 0 }

/-- The data at a location are consumed: a late trap where they are poisoned, or where this access finds an error in them (R387,
R403, R404, R407). -/
def checkPoison (st : Nat) (va : Word) (loc : Nat) (hops : Nat := 0) : Exec Unit := do
  let s ← get
  match s.latent.find? (fun e => e.unit == errorUnit loc) with
  | some e => do
    set (s.foundError e)
    throw (lateStop e.cause (loc / 64) va e.val2 st hops)
  | none =>
    if s.poison.contains (errorUnit loc) then throw (lateStop (poisonCause loc) (loc / 64) va 0 st hops)

/-- The data of `n` bytes at a location are consumed. -/
def checkSpan (st : Nat) (va : Word) (loc n : Nat) (hops : Nat := 0) : Exec Unit := do
  let s ← get
  if s.latent.isEmpty && s.poison.isEmpty then pure ()
  else each ((List.range ((loc % 8 + n + 7) / 8))) (fun i =>
    checkPoison st (if i = 0 then va else (va &&& ~~~7) + nw (8 * i)) (loc / 8 * 8 + 8 * i) hops)

/-- A write reaches a line at a peer (R345): it faults where the line is marked there, or its home has failed (R367). -/
def checkSend (st : Nat) (va : Word) (loc : Nat) : Exec Unit := do
  match (← get).latent.find? (fun e => e.unit == errorUnit loc && (e.cause == 0x12 || e.cause == 0x6A)) with
  | none => pure ()
  | some _ => checkPoison st va loc

/-- The bytes a bridge frame returns (R345; log entry 20). -/
def bridgeRead (addr n : Nat) : Exec (List Byte) := do
  let s ← get
  set { s with fresh := s.fresh + 1 }
  return (List.range n).map (fun i => Config.peerByte s.fresh (addr + i))

/-- A write that leaves the device through a bridge frame (R345); `va` is the address at which it is written, where that is not
the place of an atomic step. -/
def bridgeWrite (id tgt addr : Nat) (xs : List Byte) (va : Nat := 0) : Exec Unit :=
  modify (fun s => { s with sent := s.sent ++ xs.zipIdx.map (fun (b, i) =>
    { agent := id, tgt := tgt, addr := addr + i, byte := b, va := va }) })

/-- The use of a line moves it to the recent end of its set's order. -/
def touchLine (g pl : Nat) : Exec Unit := modify (fun s =>
  match s.l1? g pl with
  | none => s
  | some l => s.l1Set g { l with used := s.stamp g })

/-! ### The staging cache (R189, R201) -/

/-- The units a tower's staging cache holds at most. -/
def Tower.stagingUnits (t : Tower) : Nat := wbits t.l2ways 12 8 * 2 ^ 15

/-- A unit brought into the staging cache, or moved to its recent end; a full cache replaces the least recently used
unpinned unit (R201). -/
def Tower.fillUnit (t : Tower) (u : Nat) : Tower :=
  let rest := t.staging.filter (fun v => v != u)
  if rest.length < t.stagingUnits then { t with staging := rest ++ [u] }
  else match rest.find? (fun v => kvGet 0 t.pins v == 0) with
    | none => t
    | some v => { t with staging := rest.filter (fun x => x != v) ++ [u] }

/-- A read of flash goes through the staging cache of the reading tower: the unit is used, or fetched (R201). The cache of
no size keeps nothing. -/
def readStaged (c : Ctx) (pl : Place) : Exec Unit := do
  let s ← get
  let t := placeTower s.dev.towerok c.id
  if pl.cls = .flash ∧ t < 12 ∧ (s.tower t).stagingUnits ≠ 0 then modTower t (fun t => t.fillUnit (pl.loc / 65536))

/-- The L1 line that holds `va` for reading, its missing bytes filled from the home that Resolve reaches (R190, R200,
R251): the physical line. -/
def l1Load (c : Ctx) (g : Nat) (acc : Acc) (st : Nat) (va : Word) (pl : Place) (off n : Nat) : Exec Nat := do
  let s ← get
  let line := pl.loc / 64
  let full (l : L1Line) : Bool := (List.range n).all (fun i => l.valid.getLsbD (off + i))
  let refill (line : Nat) (l : L1Line) (pl : Place) (hops : Nat) (via : List Nat) : Exec Unit := do
    checkPoison st va pl.loc hops
    readStaged c pl
    modify (fun s => (s.l1Set g (l.fill (s.homeLine (pl.loc / 64)) c.asid (va.toNat / 64) (via.filter (fun m => m != line)))).inCluster g
      (fun a => if line = pl.loc / 64 then { a with loose := standL1 line (~~~l.valid) a.loose } else a))
  match s.l1? g line with
  | some l =>
    if full l then return line
    let (_, pl', hops, via) ← orTrap va st (resolve s c acc va)
    refill line l pl' hops via
    return line
  | none =>
    let (_, pl', hops, via) ← orTrap va st (resolve s c acc va)
    let line' := pl'.loc / 64
    match s.l1? g line' with
    | some l =>
      if full l then return line'
      refill line' l pl' hops via
      return line'
    | none =>
      checkPoison st va pl'.loc hops
      readStaged c pl'
      modify (fun s => (s.l1Insert g {
        pline := line', asid := c.asid, vline := va.toNat / 64, via := via, data := s.homeLine line',
        valid := BitVec.allOnes 64, dirty := 0, threads := [], used := s.stamp g,
        dirtied := [] }).inCluster g (fun a => { a with loose := standL1 line' (BitVec.allOnes 64) a.loose }))
      return line'

/-- The aligned word of an L1 line that holds byte `off` of it. -/
def L1Line.word (l : L1Line) (off : Nat) : BitVec 64 := BitVec.ofNat 64 (field l.data (64 * (off / 8)) 64)

/-- One piece read on the L1 path (R190, R233). A fault is reported at the piece's own address (R205). -/
def loadPiece (c : Ctx) (acc : Acc) (st : Nat) (a k : Nat) : Exec (List Byte) := do
  let s ← get
  let va : Word := nw a
  let pl ← orTrap va st (translate s c acc va)
  let g := placeCluster s.dev.towerok c.id
  match pl.cls with
  | .bridge _ addr => do
    checkPoison st va pl.loc
    bridgeRead addr k
  | .window => do
    checkPoison st va pl.loc
    seeBytes st pl.loc k
  | _ => do
    let off := wbits va 5 0
    let line ← l1Load c g acc st va pl off k
    touchLine g line
    match (← get).l1? g line with
    | none => pure []
    | some l => do
      if (l.bad >>> off) &&& BitVec.ofNat 64 (2 ^ k - 1) ≠ 0 then throw (lateStop 0x74 line va 0 st 0)
      return wordBytes (← seeWord st true (8 * line + off / 8) (l.word off)) (off % 8) k

/-- One piece read at its home, window or bridge frame (R190, R233). -/
def homePiece (c : Ctx) (acc : Acc) (st : Nat) (a k : Nat) : Exec (List Byte) := do
  let s ← get
  let va : Word := nw a
  let pl ← orTrap va st (translate s c acc va)
  match pl.cls with
  | .bridge _ addr => do
    checkPoison st va pl.loc
    bridgeRead addr k
  | .window => do
    checkPoison st va pl.loc
    seeBytes st pl.loc k
  | _ => do
    let (_, pl', hops, _) ← orTrap va st (resolve s c acc va)
    checkPoison st va pl'.loc hops
    readStaged c pl'
    seeBytes st (pl'.loc + wbits va 5 0) k

/-- An access waits while an XSBAR holds its stream (R289). -/
def passBar (st : Nat) : Exec Unit := do need (!(← getCur).holds.any (fun h => h.streams.getLsbD st))

/-- A load of `n` bytes at `va` on the L1 path (`home` false) or at the home, little-endian (R80 Read, R205). -/
def loadNat (home : Bool) (st : Nat) (va : Word) (n : Nat) : Exec Nat := do
  passBar st
  let c := (← get).streamCtx st
  let parts ← eachGet (pieces va.toNat n n) (fun (a, k) =>
    if home then homePiece c .load st a k else loadPiece c .load st a k)
  anchor va
  return leNat parts.flatten

/-- The L1 line that takes a store to `va`, allocated without reading where it is absent (R190, R200). -/
def l1Store (c : Ctx) (g : Nat) (st : Nat) (va : Word) (pl : Place) : Exec Nat := do
  let s ← get
  let line := pl.loc / 64
  if (s.l1? g line).isSome then return line
  let (_, pl', _, via) ← orTrap va st (resolve s c .store va)
  let line' := pl'.loc / 64
  if (s.l1? g line').isSome then return line'
  set (s.l1Insert g {
    pline := line', asid := c.asid, vline := va.toNat / 64, via := via, data := 0, valid := 0,
    dirty := 0, threads := [], used := s.stamp g, dirtied := [] })
  return line'

/-- Bytes put into an L1 line from byte `off` on; they are poisoned no longer. -/
def L1Line.put (l : L1Line) (off : Nat) (xs : List Byte) (mask : BitVec 64) : L1Line :=
  { l with data := xs.zipIdx.foldl (fun d (b, i) => putByte d (off + i) b) l.data, valid := l.valid ||| mask,
           bad := l.bad &&& ~~~mask }

/-- The aligned word at `va` where its L1 line is `l`, before a store of `new`: of the line where it holds the bytes, else of the home
that a load would reach (R190, R251); where none can, `new`, for no load then finds the bytes without the store. -/
def State.wordBehind (s : State) (c : Ctx) (va : Word) (l : L1Line) (off : Nat) (new : BitVec 64) : BitVec 64 :=
  let held : BitVec 64 := (List.range 8).foldl (fun m i =>
    if l.valid.getLsbD (off / 8 * 8 + i) then m ||| byteBits i 1 else m) 0
  let home := match resolve s c .load va with
    | .ok (_, pl, _, _) => memWord s.mem (pl.loc + off)
    | .error _ => new
  mix home (l.word off) held

/-- One piece stored on the L1 path: the thread's dirty-line limit is kept, the bytes become valid and dirty, the
thread joins the line's mask (R190). Where another stream's store stands at the home that this one need not follow, this one may
have been written back before it (R204). -/
def storePiece (c : Ctx) (st : Nat) (a : Nat) (xs : List Byte) : Exec Unit := do
  let s ← get
  let va : Word := nw a
  let pl ← orTrap va st (translate s c .store va)
  let g := placeCluster s.dev.towerok c.id
  match pl.cls with
  | .bridge t addr => do
    checkSend st va pl.loc
    bridgeWrite c.id t addr xs a
  | .window => putBytes st pl.loc xs
  | _ => do
    let line ← l1Store c g st va pl
    modify (fun s => s.limitDirty g c.id line)
    let s ← get
    match s.l1? g line with
    | none => pure ()
    | some l => do
      let off := wbits va 5 0
      let word := 8 * line + off / 8
      let bits := byteBits (off % 8) xs.length
      let new := bytesWord (off % 8) xs
      let mask : BitVec 64 := BitVec.ofNat 64 ((2 ^ xs.length - 1) <<< off)
      let hs := s.cur.loose.filter (fun e => e.at false word)
      let k ← pickPoint (fun e => e.sure st || e.atomic) hs
      if !isMarked s line && (hs.drop k).any (fun e => !e.inL1 && e.mask &&& bits != 0) then do
        let z ← putWord st false word bits new (memWord s.mem (8 * word)) false k
        modify (fun s => { s.l1Set g { l.put off xs mask with
            dirty := l.dirty &&& ~~~mask, threads := if l.dirty &&& ~~~mask = 0 then [] else l.threads, used := s.stamp g } with
          mem := memPuts s.mem (8 * word + off % 8) (wordBytes z (off % 8) xs.length) })
      else do
        let y ← storeWord st true word bits new (s.wordBehind c va l off new)
        modify (fun s => s.l1Set g { l.put off (wordBytes y (off % 8) xs.length) mask with
          dirty := l.dirty ||| mask,
          threads := if l.threads.contains c.id then l.threads else c.id :: l.threads,
          dirtied := if l.threads.contains c.id then l.dirtied else kvSet l.dirtied c.id (s.stamp g),
          used := s.stamp g })

/-- One piece stored at its home, window or bridge frame. -/
def homeStorePiece (c : Ctx) (acc : Acc) (st : Nat) (a : Nat) (xs : List Byte) : Exec Unit := do
  let s ← get
  let va : Word := nw a
  let pl ← orTrap va st (translate s c acc va)
  match pl.cls with
  | .bridge t addr => do
    checkSend st va pl.loc
    bridgeWrite c.id t addr xs a
  | .window => putBytes st pl.loc xs
  | _ => do
    let (_, pl', _, _) ← orTrap va st (resolve s c acc va)
    putBytes st (pl'.loc + wbits va 5 0) xs

/-- The pieces of a value to be stored. -/
def storePieces (a n x : Nat) : List (Nat × List Byte) :=
  (pieces a n n).map (fun (b, k) => (b, leBytes k (x / 256 ^ (b - a))))

/-- Does the agent's cluster L1 hold the line of an address? Then no Resolve is carried out for an access on the L1 path
(R200). -/
def State.l1Holds (s : State) (c : Ctx) (pl : Place) : Bool :=
  (pl.cls == .dram || pl.cls == .flash) && (s.l1? (placeCluster s.dev.towerok c.id) (pl.loc / 64)).isSome

/-- Every piece of an access translates and resolves, or the access traps before any of it is performed (R218, R23). -/
def checkAccess (home : Bool) (acc : Acc) (st : Nat) (va : Word) (n : Nat) : Exec Unit := do
  passBar st
  let s ← get
  let c := s.streamCtx st
  each (pieces va.toNat n n) (fun (a, _) => do
    let pl ← orTrap (nw a) st (translate s c acc (nw a))
    if home || !s.l1Holds c pl then do
      let _ ← orTrap (nw a) st (resolve s c acc (nw a))
      pure ())

/-- A store of the low `n` bytes of `x` at `va` (R80 Write). -/
def storeNat (home : Bool) (st : Nat) (va : Word) (n x : Nat) : Exec Unit := do
  checkAccess home .store st va n
  let c := (← get).streamCtx st
  each (storePieces va.toNat n x) (fun (a, xs) =>
    if home then homeStorePiece c .store st a xs else storePiece c st a xs)
  anchor va

/-- The pieces of `n` bytes from `a` that each lie in one 64-byte line: offset and length. -/
def linePieces (a : Nat) : Nat → Nat → List (Nat × Nat)
  | 0, _ => []
  | _, 0 => []
  | fuel + 1, n =>
    let k := min n (64 - a % 64)
    (a, k) :: linePieces (a + k) fuel (n - k)

/-- The lines that an instruction has read, each in one access: 0 and the line's number here, or one more than the target's code
and its number at that peer or host (R260). -/
abbrev LinesRead := List ((Nat × Nat) × Nat)

/-- A line read now, or as the instruction has read it before (R260). -/
def readLine (key : Nat × Nat) (read : Exec Nat) (seen : LinesRead) : Exec (Nat × LinesRead) :=
  match seen.lookup key with
  | some x => pure (x, seen)
  | none => do
    let x ← read
    return (x, (key, x) :: seen)

/-- The part of one line read at its home or window in one access (R260). -/
def linePiece (st a k : Nat) (seen : LinesRead) : Exec (List Byte × LinesRead) := do
  let s ← get
  let (_, pl, hops, _) ← orTrap (nw a) st (resolve s s.ctx .load (nw a))
  let part (x : Nat) : List Byte := leBytes k (x / 256 ^ (a % 64))
  match pl.cls with
  | .bridge t addr => do
    checkPoison st (nw a) pl.loc
    let (x, seen) ← readLine (t + 1, addr / 64) (do return leNat (← bridgeRead (addr / 64 * 64) 64)) seen
    return (part x, seen)
  | _ => do
    checkSpan st (nw a) (pl.loc + a % 64) k hops
    let (x, seen) ← readLine (0, pl.loc / 64) (do
      readStaged s.ctx pl
      return (← seeLine st (pl.loc / 64)).toNat) seen
    return (part x, seen)

/-- The parts of lines read one after another. -/
def lineParts (st : Nat) : List (Nat × Nat) → LinesRead → Exec (List Byte × LinesRead)
  | [], seen => pure ([], seen)
  | (a, k) :: rest, seen => do
    let (x, seen) ← linePiece st a k seen
    let (xs, seen) ← lineParts st rest seen
    return (x ++ xs, seen)

/-- `n` bytes at `va` read at homes, every 64-byte line of them wholly old or wholly new (R260). -/
def loadLines (st : Nat) (va : Word) (n : Nat) (seen : LinesRead) : Exec (Nat × LinesRead) := do
  passBar st
  let (xs, seen) ← lineParts st (linePieces va.toNat n n) seen
  anchor va
  return (leNat xs, seen)

/-- A word's access at the home can be performed: it passes its holds, translates, resolves and finds no poison (R226, R378,
R403). -/
def checkPlace (acc : Acc) (st : Nat) (va : Word) : Exec Unit := do
  passBar st
  let s ← get
  let (_, pl, hops, _) ← orTrap va st (resolve s s.ctx acc va)
  checkPoison st va (pl.loc + wbits va 5 0) hops

/-- The resolved place of a word accessed at its home by a scalar form, the issuing cluster's dirty bytes of the line written back
before (R204); `drop` tells whether its copy is invalidated too. -/
def homePlace (drop : Bool) (acc : Acc) (st : Nat) (va : Word) : Exec Place := do
  passBar st
  let s ← get
  let (_, pl, hops, _) ← orTrap va st (resolve s s.ctx acc va)
  if pl.cls = .dram then modify (fun s =>
    if drop then s.flushLine s.myCluster (pl.loc / 64)
    else match s.l1? s.myCluster (pl.loc / 64) with
      | none => s
      | some l => s.writeBack s.myCluster l)
  checkPoison st va (pl.loc + wbits va 5 0) hops
  match pl.cls with
  | .bridge t a => return { loc := pl.loc + wbits va 5 0, cls := .bridge t a }
  | _ => return { pl with loc := pl.loc + wbits va 5 0 }

/-- Before an atomic the issuing cluster's dirty bytes of the line are written back and its copy invalidated (R226): the
resolved place of the word. -/
def atomicPlace (acc : Acc) (st : Nat) (va : Word) : Exec Place := homePlace true acc st va

/-- The word of `n` bytes at a resolved place, read at its home (R226, R233). -/
def readPlace (st : Nat) (pl : Place) (n : Nat) : Exec Nat := do
  match pl.cls with
  | .bridge _ addr => return leNat (← bridgeRead addr n)
  | _ => return leNat (← seeBytes st pl.loc n)

/-- A wait has ended on the word at a location: every access issued after it, in any stream, follows the read (R321, R249). -/
def noteAwaited (loc : Nat) : Exec Unit := modCur (fun a =>
  let ls := a.loose.map (fun e =>
    if e.at false (loc / 8) && e.seen.getLsbD 0 then { e with seen := e.seen ||| threadStreams } else e)
  { a with loose := (List.range 12).foldl (fun ls st => seeCommands st ls) ls })

/-- The word of `n` bytes at a resolved place written at its home. -/
def writePlace (st : Nat) (pl : Place) (n x : Nat) : Exec Unit := do
  match pl.cls with
  | .bridge t addr => bridgeWrite (← getCur).id t addr (leBytes n x)
  | _ => putBytes st pl.loc (leBytes n x)

/-- One atomic step of read and write on `n` bytes inside one aligned word at a resolved place (R226, R217): `f` gives what is
written to its low `m` bytes, or none where the word stays. The value read. `va` is the word's address, where the instruction alone does
not tell it. -/
def updateAt (va st : Nat) (pl : Place) (n m : Nat) (f : Nat → Option Nat) : Exec Nat := do
  match pl.cls with
  | .bridge t addr => do
    let x := leNat (← bridgeRead addr n)
    match f x with
    | none => pure ()
    | some y => bridgeWrite (← getCur).id t addr (leBytes m y) va
    return x
  | _ => do
    let word := pl.loc / 8
    let o := pl.loc % 8
    let p (e : Loose) : Bool := e.at false word
    let es := (← getCur).loose.filter p
    let k ← pickPoint (fun e => e.sure st || e.atomic) es
    let now := memWord (← get).mem pl.loc
    let x := leNat (wordBytes (undo false (es.drop k) now) o n)
    noteShown false p
    match f x with
    | none =>
      noteSeen p st k
    | some y => do
      noteSeen p st k
      let z ← putWord st false word (byteBits o m) (bytesWord o (leBytes m y)) now true k
      modify (fun s => { s with mem := memPuts s.mem pl.loc (wordBytes z o m) })
    return x

/-- Such a step of an instruction that names the word's address. -/
def updatePlace (st : Nat) (pl : Place) (n m : Nat) (f : Nat → Option Nat) : Exec Nat := updateAt 0 st pl n m f

end Sys2Proof.Machine
end

