-- ==== Sys2Proof/Machine/Order.lean ====
section
/-! DEFINITION. What orders memory (spec/11, R229, R230): write ranges, range tables, releases, acquires, fences, and
the scatter-add updates on their way to the banks (R103, R217, R233). Scopes: 0 .clu, 1 .twr, 2 .dev, 3 .sys. -/

namespace Sys2Proof.Machine

/-! ## Write ranges (R240) -/

/-- Is the entry contiguous? -/
def WRange.contiguous (r : WRange) : Bool := r.stride == r.width && !r.down
/-- The address one stride past an entry's last element. -/
def WRange.next (r : WRange) : Nat :=
  if r.down then (nw r.base - nw (r.count * r.stride)).toNat else r.base + r.count * r.stride
/-- The same elements from the lowest on. -/
def WRange.upward (r : WRange) : WRange :=
  if r.down then { r with base := (nw r.base - nw ((r.count - 1) * r.stride)).toNat, down := false } else r
/-- One past the last byte of a contiguous range. -/
def WRange.stop (r : WRange) : Nat := r.base + (r.count - 1) * r.stride + r.width

/-- Does some element byte lie in the line (R240)? -/
def WRange.meets (r : WRange) (line : Nat) : Bool :=
  let r := r.upward
  let lo := 64 * line; let hi := lo + 64
  if r.count = 0 ∨ r.width = 0 ∨ hi ≤ r.base then false
  else if r.stride = 0 then lo < r.base + r.width
  else
    let j := min (r.count - 1) ((hi - 1 - r.base) / r.stride)
    lo < r.base + j * r.stride + r.width

/-- The entry two mergeable ranges become (R240), if they merge; `r` is the new one. -/
def WRange.merge (e r : WRange) : Option WRange :=
  if e.contiguous ∧ r.contiguous then
    if r.base ≤ e.stop ∧ e.base ≤ r.stop then
      let lo := min e.base r.base; let hi := max e.stop r.stop
      let w := if e.width = r.width ∧ e.width ≠ 0 ∧ (hi - lo) % e.width = 0 then e.width else 1
      some { base := lo, stride := w, count := (hi - lo) / w, width := w, home := e.home || r.home }
    else none
  else if e.stride = r.stride ∧ e.down = r.down ∧ e.width = r.width ∧ r.base = e.next then
    some { e with count := e.count + r.count, home := e.home || r.home }
  else none

/-- A range put into a buffer: merged into the first entry it merges with, else added; none where the buffer is full. -/
def addRange : List WRange → WRange → List WRange
  | [], r => [r]
  | e :: rest, r =>
    match e.merge r with
    | some x => x :: rest
    | none => e :: addRange rest r

/-- The streams performed at homes (R203): gather, scatter and the handles, and unit-stride on the MCC (R257). -/
def Agent.homeStreams (a : Agent) : BitVec 13 := if a.kind = .mcc then 0xFFE else 0xFFC

/-- The thread records a write range (R240); `st` is its stream, kept for the fences of R230 when it is a home stream. A
write to a window or to LS records nothing. -/
def record (st : Nat) (r : WRange) : Exec Unit :=
  if isWindow (nw r.base) || r.count == 0 then pure ()
  else modCur (fun a =>
    let rs := addRange a.ranges r
    let a := if rs.length ≤ 16 then { a with ranges := rs } else { a with overflow := true }
    if r.home && a.homeStreams.getLsbD st then { a with fenceRanges := (st, r) :: a.fenceRanges } else a)

/-- A contiguous span written by one access or command. -/
def spanRange (base len : Nat) (home : Bool) : WRange :=
  { base := base, stride := len, count := 1, width := len, home := home }

/-- A contiguous span of bytes. -/
def byteRange (base len : Nat) (home : Bool) : WRange :=
  { base := base, stride := 1, count := len, width := 1, home := home }

/-! ## Range tables (R241) -/

/-- An entry inserted into a tower's table: the epoch counter rises; a full table retires its oldest entry and its
floor becomes that entry's epoch. -/
def Tower.insert (t : Tower) (e : RangeEntry) : Tower :=
  let e := { e with epoch := t.epoch + 1 }
  let t := { t with epoch := t.epoch + 1 }
  if t.ranges.length < 256 then { t with ranges := t.ranges ++ [e] }
  else
    let old := match t.ranges with | [] => 0 | x :: _ => x.epoch
    { t with ranges := t.ranges.drop 1 ++ [e], floor := old }

/-- The scope value of an entry that acquires of every scope select (R250; log entry 11). -/
def everyScope : Nat := 4

/-- The towers into which a release of tower `w` at a scope publishes (R241). -/
def State.publishTowers (s : State) (w scope : Nat) : List Nat :=
  if scope ≤ 1 then (if w < 12 then [w] else []) else (List.range 12).filter (fun k => s.towerUp k)

/-- Entries published (R241): those of .clu only with home set. -/
def State.publish (s : State) (w scope : Nat) (es : List RangeEntry) : State :=
  let es := if scope = 0 then es.filter (fun e => e.home) else es
  (s.publishTowers w scope).foldl (fun s k => s.setTower k (es.foldl Tower.insert (s.tower k))) s

/-- The cluster number under which an agent publishes: its cluster, or for the install engine of stack j one of the
tower 12 + j it forms by itself (R236, R241). -/
def State.pubCluster (s : State) (id : Nat) : Nat :=
  let t := placeTower s.dev.towerok id
  if 12 ≤ t then 32 * t else placeCluster s.dev.towerok id

/-- Does an agent of cluster `b` lie within a scope of one of cluster `a` (R236)? -/
def within (scope a b : Nat) : Bool :=
  match scope with
  | 0 => a == b
  | 1 => a / 32 == b / 32
  | _ => true

/-! ## Scatter-add updates in flight (R103, R217) -/

/-- Where an update in flight is performed: through the mark of a line moved meanwhile (R251), nowhere where a hop fails. -/
def State.addLoc (s : State) (u : BankAdd) : Option Nat :=
  if u.loc < 2 ^ 43 ∧ isMarked s (u.loc / 64) then
    match s.agent? u.agent with
    | none => none
    | some a =>
      match forwardLine s (placeCluster s.dev.towerok a.id) a.asid (u.loc / 64) with
      | .ok line => some (64 * line + u.loc % 64)
      | .error _ => none
  else some u.loc

/-- The stores an agent keeps track of, with an update performed last (R204, R217). -/
def noteAdd (loc w old new : Nat) (ls : List Loose) : List Loose :=
  let o := loc % 8
  if ls.any (fun e => e.at false (loc / 8)) then
    ls ++ [{ stream := 3, inL1 := false, home := true, word := loc / 8, mask := byteBits o w,
             old := bytesWord o (leBytes w old), was := bytesWord o (leBytes w old), new := bytesWord o (leBytes w new), seen := streamBit 3, atomic := true, rel := none }]
  else ls

/-- An update reaches its bank: one atomic step at the home of its bytes (R103, R217); to a poisoned unit, or one in which it
finds an error, it is not applied (R402, R403). -/
def State.performAdd (s : State) (u : BankAdd) : State :=
  let s := s.foundIn ((s.addLoc u).map errorUnit)
  match (s.addLoc u).filter (fun loc => !s.poison.contains (errorUnit loc)) with
  | none => s
  | some loc =>
    let w := Fmt.bits u.fmt / 8
    let old := memNat s.mem loc w
    let new := scatterAdd u.fmt old u.val.toNat
    let note (a : Agent) : Agent := if a.id = u.agent then { a with loose := noteAdd loc w old new a.loose } else a
    { s with mem := memPutNat s.mem loc w new, cur := note s.cur, others := s.others.map note }

/-- Is the update one into a CSP, which takes an agent's updates in their order (R217)? -/
def BankAdd.inOrder (u : BankAdd) : Bool := 2 ^ 44 ≤ u.loc && u.loc < 2 ^ 45

/-- The updates that pass a test perform, in a free order but for those into a CSP (R103, R217). -/
def drainWhere (p : BankAdd → Bool) : Exec Unit := do
  let s ← get
  let mine := s.bank.filter p
  if mine.isEmpty then return
  let free := mine.filter (fun u => !u.inOrder)
  let order ← shuffle free.length free
  modify (fun s => { (order ++ mine.filter BankAdd.inOrder).foldl State.performAdd s with
    bank := s.bank.filter (fun u => !p u) })

/-- The updates of an agent perform. -/
def drainBank (id : Nat) : Exec Unit := drainWhere (fun u => u.agent == id)

/-! ## Releases and acquires (R237–R242) -/

/-- Run-ahead data of the handles are discarded (R223). -/
def Agent.dropAhead (a : Agent) : Agent := { a with handles := a.handles.map (fun h => { h with ahead := [] }) }

/-- Does the entry store to a window, where a FENCE alone lets the engines see it (R248)? -/
def Loose.window (e : Loose) : Bool := 2 ^ 40 ≤ e.word
/-- Nothing is left to be chosen about the store. -/
def Loose.final (e : Loose) : Bool := (e.window || 12 ≤ e.stream) && e.seen == BitVec.allOnes 13

/-- The list without the stores every stream and engine sees, and without those before them at the same word. -/
def settleLoose : List Loose → List Loose
  | [] => []
  | e :: es =>
    if e.final || es.any (fun x => x.word == e.word && x.final && (x.inL1 || !e.inL1) && (x.home || !e.home)) then settleLoose es
    else e :: settleLoose es

/-- Later accesses of every stream of the thread see every store listed (R238, R252). -/
def joinAll (ls : List Loose) : List Loose :=
  settleLoose (ls.map (fun e => { e with seen := e.seen ||| threadStreams }))

/-- The elements of the queued loads that pass a test have been read for good (R230, R238, R357). -/
def Agent.readDone (a : Agent) (p : VToken → Bool) : Agent :=
  { a with vqueue := a.vqueue.map (fun t => if p t then { t with late := none } else t) }

/-- Every store listed has been released at the scope (R238, R248). -/
def markReleased (scope : Nat) (ls : List Loose) : List Loose :=
  ls.map (fun e => { e with rel := some (max scope (e.rel.getD 0)) })

/-- A release at a scope (R238): earlier accesses perform, the thread's dirty bytes are written back, its write-range
buffer is published and cleared. The entry that an overflowed buffer publishes has its home bit set, which R240 leaves open (DESIGN CHOICE:
log entry 73). -/
def release (scope : Nat) : Exec Unit := do
  drainBank (← getCur).id
  modify (fun s =>
    let a := s.cur
    let s := s.writeBackThread s.myCluster a.id
    let c := s.pubCluster a.id
    let es : List RangeEntry :=
      if a.overflow then [{ cover := .all, home := true, scope := scope, cluster := c, asid := a.asid, epoch := 0 }]
      else a.ranges.map (fun r =>
        { cover := .range r, home := r.home, scope := scope, cluster := c, asid := a.asid, epoch := 0 })
    let s := s.publish s.myTower scope es
    let a := { s.cur with ranges := [], overflow := false, loose := joinAll (markReleased scope s.cur.loose) }
    { s with cur := a.readDone (fun _ => true) })

/-- The entries an acquire selects (R242). -/
def selected (t : Tower) (a : Agent) (cl scope : Nat) : List RangeEntry :=
  t.ranges.filter (fun e =>
    a.mark < e.epoch && (e.scope == everyScope || (within scope cl e.cluster && within e.scope e.cluster cl)) &&
    (match e.cover with | .physical _ _ => true | _ => e.asid == a.asid) && !(e.cluster == cl && !e.home))

/-- The bytes of an L1 line that an entry reaches (R242, R243). -/
def RangeEntry.reaches (e : RangeEntry) (l : L1Line) : BitVec 64 :=
  match e.cover with
  | .all => BitVec.allOnes 64
  | .range r => l.filledThrough (fun asid vline => asid == e.asid && r.meets vline)
  | .physical b n => if b < 64 * l.pline + 64 && 64 * l.pline < b + n then BitVec.allOnes 64 else 0

/-- A line after its clean bytes of a mask become invalid (R242). -/
def L1Line.dropClean (l : L1Line) (mask : BitVec 64) : L1Line := { l with valid := l.valid &&& (l.dirty ||| ~~~mask) }

/-- The effect of an acquire's selection on a cluster's lines. -/
def Cluster.acquire (c : Cluster) (all : Bool) (es : List RangeEntry) : Cluster :=
  let ls := c.l1.map (fun l =>
    l.dropClean (if all then BitVec.allOnes 64 else es.foldl (fun m e => m ||| e.reaches l) 0))
  { c with l1 := ls.filter (fun l => l.valid != 0) }

/-- After an access or a fence that joins streams `earlier` to `later`, accesses of `later` see every store that a stream of
`earlier` sees (R204, R219, R226, R230). -/
def joinSeen (earlier later : BitVec 13) (ls : List Loose) : List Loose :=
  ls.map (fun e => if e.seen &&& earlier != 0 then { e with seen := e.seen ||| later } else e)

/-- An acquire at a scope (R242, R223, R245). An agent on no compute tower has no L1 to change. -/
def invalidate (scope : Nat) : Exec Unit := modify (fun s =>
  let w := s.myTower
  if 12 ≤ w then s
  else
    let t := s.tower w
    let g := s.myCluster
    let es := selected t s.cur (s.pubCluster s.cur.id) scope
    let all := s.cur.allNext || s.cur.mark < t.floor || es.any (fun e => e.cover == .all)
    let s := s.setCluster g ((s.cluster g).acquire all es)
    { s with cur := { s.cur with mark := t.epoch, allNext := false }.dropAhead })

/-- An acquire at a scope, of an instruction whose accesses were made in the streams `own`: every later access is performed
after them (R219, R226, R242). -/
def acquire (own : BitVec 13) (scope : Nat) : Exec Unit := do
  if own.getLsbD 3 then drainBank (← getCur).id
  modify (fun s => { s with cur := { s.cur with loose := settleLoose (joinSeen own threadStreams s.cur.loose) } })
  invalidate scope

/-! ## Fences (R229, R230) -/

/-- The streams a mask names (R74): bit 0 scalar, 1 handles, 2 unit-stride, 3 gather, 4 scatter; none means all. -/
def streamSet (mask : BitVec 5) : BitVec 13 :=
  let m : BitVec 5 := if mask = 0 then -1 else mask
  (if m.getLsbD 0 then 1#13 else 0) ||| (if m.getLsbD 2 then 2#13 else 0) ||| (if m.getLsbD 3 then 4#13 else 0) |||
  (if m.getLsbD 4 then 8#13 else 0) ||| (if m.getLsbD 1 then 0xFF0#13 else 0)

/-- The accesses of the engines (R248). -/
def engineStreams : BitVec 13 := 0x1000

/-- The earlier and later streams of a fence (R230). -/
def fenceSides (mask : BitVec 5) (kind : BitVec 2) : BitVec 13 × BitVec 13 :=
  let m := streamSet mask
  match kind.toNat with
  | 1 => (1, m &&& ~~~1)
  | 2 => (m &&& ~~~1, 1)
  | _ => (m, m)

/-- After a fence, later accesses of `later` see every store that `earlier` has seen or made, and the engines may see its own
(R204, R230, R248). -/
def joinLoose (earlier later : BitVec 13) (ls : List Loose) : List Loose :=
  settleLoose (joinSeen earlier later (ls.map (fun e =>
    if earlier.getLsbD e.stream then { e with seen := e.seen ||| engineStreams } else e)))

/-- Writes back and invalidates the cluster's lines that a range meets (R230). -/
def State.flushRanges (s : State) (g : Nat) (rs : List WRange) : State :=
  ((s.cluster g).l1.filter (fun l =>
    l.filledThrough (fun asid vline => asid == s.cur.asid && rs.any (fun r => r.meets vline)) != 0)).foldl
    (fun s l => s.flushLine g l.pline) s

/-- The ordering of a fence between two sides (R230, R223). -/
def fenceOrder (earlier later : BitVec 13) : Exec Unit := do
  if earlier.getLsbD 3 then drainBank (← getCur).id
  modify (fun s =>
    let g := s.myCluster
    let a := { s.cur with loose := joinLoose earlier later s.cur.loose }
    let s := { s with cur := a.readDone (fun t => t.snap.any (fun c => earlier.getLsbD c.stream)) }
    let h := s.cur.homeStreams
    let s := if later &&& h != 0 then s.writeBackThread g s.cur.id else s
    let s := if earlier &&& h != 0 && later &&& ~~~h != 0 then
        let hit := s.cur.fenceRanges.filter (fun e => earlier.getLsbD e.1)
        let s := s.flushRanges g (hit.map (fun e => e.2))
        { s with cur := { s.cur with fenceRanges := s.cur.fenceRanges.filter (fun e => !earlier.getLsbD e.1) } }
      else s
    if later &&& 0xFF0#13 != 0 then { s with cur := s.cur.dropAhead } else s)

/-- Have the writes agent `id` sent to other devices and to the host been performed there (R236, R345)? -/
def State.arrived (s : State) (id : Nat) : Bool := s.sent.all (fun w => w.agent != id)

/-- A release and an acquire where their flags ask for them: `.acqrel` releases first (R237). A release at .sys waits for the
agent's writes to other devices and to the host (R236, R345). -/
def releaseIf (b : Bool) (scope : Nat) : Exec Unit :=
  if b then do
    let s ← get
    need (scope != 3 || s.arrived s.cur.id)
    release scope
  else pure ()
def acquireIf (b : Bool) (own : BitVec 13) (scope : Nat) : Exec Unit := if b then acquire own scope else pure ()

/-- The acquire and release an engine performs for a command: `rel` publishes the destination with home set at the
command's scope, in the issuer's address space (R247). -/
def publishCmd (s : State) (c : Cmd) (r : WRange) : State :=
  if c.rel then
    let w := if c.engine = 4 then 12 + c.unit else c.unit
    let cl := if c.engine = 4 then 32 * (12 + c.unit) else placeCluster s.dev.towerok c.place
    s.publish w c.scope [{ cover := .range { r with home := true }, home := true, scope := c.scope, cluster := cl,
                           asid := c.asid, epoch := 0 }]
  else s

end Sys2Proof.Machine
end

