-- ==== Sys2Proof/Machine/Context.lean ====
section
/-! DEFINITION. The vector save area (R124–R127), the save area of a thread (R325), saving and restoring (R324, R326,
R397), and the ports of a cluster (R198). -/

namespace Sys2Proof.Machine

/-! ## Ports (R198) -/

/-- Port and waiting place of a handle given up. -/
def Cluster.dropPort (c : Cluster) (id h : Nat) : Cluster :=
  { c with ports := c.ports.filter (fun e => e.2 != (id, h)), portQueue := c.portQueue.filter (fun e => e != (id, h)) }

/-- A handle of the current agent replaced. -/
def State.setHandle (s : State) (h : Nat) (x : Handle) : State :=
  if k : h < 8 then { s with cur := { s.cur with handles := s.cur.handles.set h x k } } else s
def State.handle (s : State) (h : Nat) : Handle := if k : h < 8 then s.cur.handles[h] else Handle.unbound

/-- The handle takes a free port of its cluster, or joins those that wait for one (R198, R221). -/
def State.takePort (s : State) (h : Nat) (want : Option Nat) : State :=
  let g := s.myCluster
  let c := s.cluster g
  match (List.range 16).find? (fun p => !kvHas c.ports p && (want == none || want == some p)) with
  | none => s.setCluster g { c with portQueue := c.portQueue ++ [(s.cur.id, h)] }
  | some p => (s.setCluster g { c with ports := kvSet c.ports p (s.cur.id, h) }).setHandle h
      { s.handle h with port := some p }

/-- The oldest handle of the cluster that waits for a port takes a free one (R198). -/
def State.handPort (s : State) (g : Nat) : State :=
  let c := s.cluster g
  match c.portQueue, (List.range 16).find? (fun p => !kvHas c.ports p) with
  | (id, h) :: rest, some p =>
    let s := s.setCluster g { c with portQueue := rest, ports := kvSet c.ports p (id, h) }
    match s.agent? id with
    | none => s
    | some a => if k : h < 8 then s.putAgent { a with handles := a.handles.set h { a.handles[h] with port := some p } k } else s
  | _, _ => s

/-- The ports of a cluster that have become free go to the handles that wait, the oldest first (R198). -/
def State.handPorts (s : State) (g : Nat) : State := (List.range 16).foldl (fun s _ => s.handPort g) s

/-- The handle's port is freed and it no longer waits for one. -/
def State.freePort (s : State) (h : Nat) : State :=
  let g := s.myCluster
  let s := s.setCluster g ((s.cluster g).dropPort s.cur.id h)
  s.setHandle h { s.handle h with port := none }

/-- The handle's port is freed and the oldest handle that waits takes it (R198). -/
def State.releasePort (s : State) (h : Nat) : State := (s.freePort h).handPort s.myCluster

/-- Every handle loses its run-ahead data and its port (R198, R324). -/
def State.dropHandles (s : State) : State :=
  (List.range 8).foldl (fun s h => (s.setHandle h { s.handle h with ahead := [] }).releasePort h) s

/-! ## The vector save area (R126) -/

/-- The first register of a block group is followed by its scale row (R126). -/
def hasScale (n : Nat) (tag : BitVec 6) : Bool := (tagFmt tag).isBlock && n % tagGroup tag == 0

/-- The image rows 0 to `rows` − 1 of a register as bytes, unmapped rows as zeros. -/
def rowBytes (r : VReg) (rows : Nat) : List Byte := leBytes (64 * rows) (clearRows r.image r.rows).toNat

/-- The registers and predicates a save keeps (R121, R122). -/
def savedRegs (vhigh vdirty : Word) : List Nat :=
  (List.range 32).filter (fun n => n ≤ wbits vhigh 4 0 && vdirty.getLsbD n)
def savedPreds (vdirty : Word) : List Nat := (List.range 32).filter (fun n => 1 ≤ n && vdirty.getLsbD (32 + n))

/-- The descriptor word of a register (R126). -/
def descriptor (r : VReg) : Nat := r.tag.toNat + 64 * r.tail.toNat + 256 * r.wlen.toNat

/-- The size of the area whose registers have these tags (R126). -/
def vareaSize (vhigh vdirty : Word) (tagOf : Nat → BitVec 6) : Nat :=
  192 + (savedRegs vhigh vdirty).foldl (fun n k => n + 64 * wbits vhigh 12 9 + if hasScale k (tagOf k) then 64 else 0) 0
    + 128 * (savedPreds vdirty).length

/-- The bytes of the vector save area of the current agent (R126). -/
def State.vareaBytes (s : State) : List Byte :=
  let r := s.regs
  let rows := wbits r.vhigh 12 9
  leBytes 8 1 ++ leBytes 8 r.vl.toNat ++ leBytes 8 r.vtype.toNat ++ leBytes 8 r.vstart.toNat ++ leBytes 8 r.vhigh.toNat
    ++ leBytes 8 r.vdirty.toNat ++ leBytes 8 (vareaSize r.vhigh r.vdirty (fun k => (s.v k).tag)) ++ leBytes 8 0
    ++ ((List.range 32).map (fun n => leBytes 4 (descriptor (s.v n)))).flatten
    ++ ((savedRegs r.vhigh r.vdirty).map (fun n => rowBytes (s.v n) rows ++
        (if hasScale n (s.v n).tag then leBytes 64 (s.v n).scale.toNat else []))).flatten
    ++ ((savedPreds r.vdirty).map (fun n => leBytes 128 (s.p (BitVec.ofNat 5 n)).toNat)).flatten

/-- The number in `n` bytes of an area from offset `o`. -/
def areaNat (xs : List Byte) (o n : Nat) : Nat := leNat ((xs.drop o).take n)

/-- A register that an area describes and does not store: unmapped, with tag 0x00 and its recorded length and tail (R127). -/
def areaDesc (d : Nat) : VReg := { VReg.fresh with tail := BitVec.ofNat 2 (d / 64), wlen := BitVec.ofNat 11 (d / 256) }

/-- A register as an area describes and stores it. -/
def areaReg (d : Nat) (rows : Nat) (body : List Byte) (scale : Option (List Byte)) : VReg :=
  { tag := BitVec.ofNat 6 d, tail := BitVec.ofNat 2 (d / 64), wlen := BitVec.ofNat 11 (d / 256),
    image := BitVec.ofNat 4096 (leNat body), rows := BitVec.ofNat 8 (2 ^ rows - 1),
    scale := match scale with | none => 0 | some b => BitVec.ofNat 512 (leNat b), scaleRow := scale.isSome }

/-- Is it an area of kind 0x01 whose recorded size agrees with its content (R127)? -/
def vareaOk (xs : List Byte) : Bool :=
  let vhigh := nw (areaNat xs 32 8); let vdirty := nw (areaNat xs 40 8)
  areaNat xs 0 1 == 1 && areaNat xs 48 8 == vareaSize vhigh vdirty (fun k => BitVec.ofNat 6 (areaNat xs (64 + 4 * k) 4))

/-- The stored registers and predicates of an area put into the current agent; the others become unmapped with tag 0x00,
or zero (R127). Values of VL, VTYPE, VSTART and VHIGH that no VSAVE writes are taken with the bits the registers have (DESIGN CHOICE: log entry
75). -/
def State.vareaLoad (s : State) (xs : List Byte) : State :=
  let vhigh := nw (areaNat xs 32 8); let vdirty := nw (areaNat xs 40 8)
  let rows := wbits vhigh 12 9
  let s := { s with cur := { s.cur with
    v := Vector.ofFn (fun n => areaDesc (areaNat xs (64 + 4 * n.val) 4)), p := Vector.replicate 32 0 } }
  let (s, o) := (savedRegs vhigh vdirty).foldl (fun (s, o) n =>
    let d := areaNat xs (64 + 4 * n) 4
    let sc := hasScale n (BitVec.ofNat 6 d)
    let body := (xs.drop o).take (64 * rows)
    let scale := if sc then some ((xs.drop (o + 64 * rows)).take 64) else none
    (s.setV n (areaReg d rows body scale), o + 64 * rows + if sc then 64 else 0)) (s, 192)
  let (s, _) := (savedPreds vdirty).foldl (fun ((s : State), o) n =>
    let x := BitVec.ofNat 1024 (areaNat xs o 128)
    ({ s with cur := { s.cur with p := if k : n < 32 then s.cur.p.set n x k else s.cur.p } }, o + 128)) (s, o)
  s.setRegs { s.regs with
    vl := nw (areaNat xs 8 8) &&& 0x7FF07FF, vtype := nw (areaNat xs 16 8) &&& 0x1FE0,
    vstart := nw (areaNat xs 24 8) &&& 0x7FF, vhigh := vhigh &&& 0x1E3F,
    vdirty := vdirty &&& 0xFFFFFFFEFFFFFFFF }

/-- The rows of the pool that a VRESTORE of the area needs beyond those mapped (R115, R127). -/
def State.vareaNew (s : State) (xs : List Byte) : Nat :=
  let vhigh := nw (areaNat xs 32 8); let vdirty := nw (areaNat xs 40 8)
  (savedRegs vhigh vdirty).foldl (fun n k => n + newRows (s.v k) { VReg.fresh with
    rows := BitVec.ofNat 8 (2 ^ wbits vhigh 12 9 - 1),
    scaleRow := hasScale k (BitVec.ofNat 6 (areaNat xs (64 + 4 * k) 4)) }) 0

/-- The rows a restore of the area takes from the pool. -/
def vareaRows (xs : List Byte) : Nat :=
  let vhigh := nw (areaNat xs 32 8); let vdirty := nw (areaNat xs 40 8)
  (savedRegs vhigh vdirty).foldl (fun n k => n + wbits vhigh 12 9 +
    if hasScale k (BitVec.ofNat 6 (areaNat xs (64 + 4 * k) 4)) then 1 else 0) 0

/-! ## The save area (R325) -/

/-- Where slot `n` of the save region stands. -/
def State.saveAddr (s : State) (slot : Nat) : Nat := wbits s.dev.ctxbase 42 16 * 65536 + 32768 * slot

/-- The slot of an agent in the save region: a thread's own, or that of a core's sweep context (R325, R327). -/
def saveSlot (id : Nat) : Nat := if 8192 ≤ id then 6144 + (id - 8192) else id

/-- Can the area be written and read (R397)? It must lie in the DRAM of standing towers, outside staging and bridges. -/
def State.areaUsable (s : State) (base : Nat) : Bool :=
  [base, base + 32767].all (fun a => match dramTower a with
    | none => false
    | some k => s.towerUp k && !s.inStaging a && (s.bridge? a).isNone) &&
  !((s.poison ++ s.latent.map (fun e => e.unit)).any (fun l => base ≤ 64 * l && 64 * l < base + 32768))

/-- The control registers at offset 320 of the area, in order (R325). -/
def Regs.saved (r : Regs) : List Word :=
  [r.fflags, r.frm, r.seed, r.fidxNv, r.fidxDz, r.fidxOf, r.fidxUf, r.fidxNx] ++ r.slen.toList ++
  [r.loopAddr, r.loopCtl, r.kstatus, r.kcause, r.kepc, r.ktval, r.ktval2, r.kvec]

/-- The bytes of a list, cut or filled with zeros to `n`. -/
def padTo (n : Nat) (xs : List Byte) : List Byte := xs.take n ++ List.replicate (n - xs.length) 0

/-- A handle's 64 bytes (R325). -/
def handleBytes (h : Handle) : List Byte :=
  leBytes 8 h.base.toNat ++ leBytes 8 h.stride0.toNat ++ leBytes 8 h.stride1.toNat ++ leBytes 8 h.stride2.toNat ++
  leBytes 4 h.count0.toNat ++ leBytes 4 h.count1.toNat ++ leBytes 4 h.count2.toNat ++ leBytes 4 h.fmt.toNat ++
  leBytes 8 h.cursor.toNat ++ leBytes 8 h.remaining.toNat

/-- Does a range fit its entry of the save area (R325)? One that does not is saved as an overflow of the buffer (log entry
52). -/
def WRange.fits (r : WRange) : Bool := decide (r.count < 2 ^ 32 ∧ r.width < 2 ^ 16)

/-- A write range's 32 bytes (R325), the stride as a signed number. -/
def rangeBytes (r : WRange) : List Byte :=
  leBytes 8 r.base ++ leBytes 8 (if r.down then 2 ^ 64 - r.stride else r.stride) ++ leBytes 4 r.count ++ leBytes 2 r.width ++
  leBytes 2 (1 + if r.home then 2 else 0) ++ leBytes 8 0

/-- A reassembly entry's 80 bytes in the layout of R337 (R342). -/
def reasmBytes (slot : Nat) (e : Reassembly) : List Byte :=
  leBytes 2 slot ++ leBytes 2 e.elem ++ leBytes 2 (e.age + 2048) ++ leBytes 1 e.src ++
  leBytes 1 (if e.cause = 0 then 0 else 1) ++ leBytes 8 (64 * e.line) ++ leBytes 64 e.data.toNat

/-- The bytes before offset 3072 of a thread's save area (R325). -/
def Agent.saveHead (a : Agent) (total : Nat) : List Byte :=
  let fl := (if a.overflow || a.ranges.any (fun r => !r.fits) then 1 else 0) + (if a.anchorCore then 2 else 0) + (if a.anchorCluster then 4 else 0)
    + (if a.anchorTower then 8 else 0) + 256 * a.gang.toNat
  leBytes 8 3 ++ leBytes 8 a.launch ++ leBytes 8 a.pc.toNat ++ leBytes 8 fl ++ leBytes 8 total ++ leBytes 24 0
    ++ (a.g.toList.map (fun x => leBytes 8 x.toNat)).flatten
    ++ padTo 256 (a.regs.saved.map (fun x => leBytes 8 x.toNat)).flatten
    ++ (a.handles.toList.map handleBytes).flatten
    ++ padTo 512 ((a.ranges.filter WRange.fits).map rangeBytes).flatten
    ++ leBytes 64 a.reassembly.length
    ++ padTo 1280 (a.reassembly.map (reasmBytes a.id)).flatten
    ++ padTo 128 (if wbits a.regs.loopCtl 5 0 = 0 then []
        else ((a.replay.toList.take (wbits a.regs.loopCtl 5 0)).map (fun w => leBytes 4 w.toNat)).flatten)

/-- The control registers read back (R325, R326). -/
def Regs.load (r : Regs) (xs : List Byte) : Regs :=
  let w (k : Nat) : Word := nw (areaNat xs (320 + 8 * k) 8)
  { r with
    fflags := w 0, frm := w 1, seed := w 2, fidxNv := w 3, fidxDz := w 4, fidxOf := w 5, fidxUf := w 6, fidxNx := w 7,
    slen := Vector.ofFn (fun k => w (8 + k.val)), loopAddr := w 16, loopCtl := w 17, kstatus := w 18, kcause := w 19,
    kepc := w 20, ktval := w 21, ktval2 := w 22, kvec := w 23 }

/-- A handle read back, without a port; its start time, and whose windows it means, are not in the area and stay with the thread (R39,
R182, R288; log entry 30). -/
def areaHandle (xs : List Byte) (start : Nat) (win : Option Nat) : Handle :=
  { base := nw (areaNat xs 0 8), stride0 := nw (areaNat xs 8 8), stride1 := nw (areaNat xs 16 8),
    stride2 := nw (areaNat xs 24 8), count0 := BitVec.ofNat 32 (areaNat xs 32 4),
    count1 := BitVec.ofNat 32 (areaNat xs 36 4), count2 := BitVec.ofNat 32 (areaNat xs 40 4),
    fmt := BitVec.ofNat 8 (areaNat xs 44 1), cursor := nw (areaNat xs 48 8), remaining := nw (areaNat xs 56 8),
    port := none, ahead := [], aheadLen := 0, startTime := start, win := win }

/-- A write range read back, where its valid bit is set. -/
def areaRange (xs : List Byte) : Option WRange :=
  if areaNat xs 22 2 % 2 = 1 then
    let stride := sint (nw (areaNat xs 8 8))
    some { base := areaNat xs 0 8, stride := stride.natAbs, count := areaNat xs 16 4, width := areaNat xs 20 2,
           home := areaNat xs 22 2 / 2 % 2 == 1, down := decide (stride < 0) }
  else none

/-- A reassembly entry read back. -/
def areaReasm (xs : List Byte) : Reassembly :=
  { elem := areaNat xs 2 2, va := 0, line := areaNat xs 8 8 / 64, src := areaNat xs 6 1, age := areaNat xs 4 2 % 1024,
    cause := if areaNat xs 7 1 = 1 then 0x72 else 0, data := BitVec.ofNat 512 (areaNat xs 16 64) }

/-- Everything of the area but the vector part read back into an agent (R326). A reassembly entry is kept when its
elem is at or above the saved VSTART (R342); a gang formed while the thread was off its core binds it (R320). -/
def Agent.loadHead (a : Agent) (xs : List Byte) (vstart : Nat) : Agent :=
  let fl := areaNat xs 24 8
  { a with
    pc := nw (areaNat xs 16 8), overflow := fl % 2 == 1, anchorCore := fl / 2 % 2 == 1 || a.gang != 0,
    anchorCluster := fl / 4 % 2 == 1, anchorTower := fl / 8 % 2 == 1,
    gang := if fl / 256 = 0 then a.gang else BitVec.ofNat 8 (fl / 256),
    g := Vector.ofFn (fun k => nw (areaNat xs (64 + 8 * k.val) 8)),
    regs := a.regs.load xs,
    handles := Vector.ofFn (fun k => areaHandle (xs.drop (576 + 64 * k.val)) a.handles[k].startTime a.handles[k].win),
    ranges := (List.range 16).filterMap (fun k => areaRange (xs.drop (1088 + 32 * k))),
    reassembly := ((List.range (areaNat xs 1600 1 % 32)).map (fun k => areaReasm (xs.drop (1664 + 80 * k)))).filter
      (fun e => vstart ≤ e.elem),
    replay := Vector.ofFn (fun k => BitVec.ofNat 32 (areaNat xs (2944 + 4 * k.val) 4)) }

/-- The current thread is saved (R324): its dirty bytes are written back, run-ahead and ports given up, the area written,
its rows returned. A response that brought an error, not poison, is not kept (R337). The status to take afterwards is `st`. An unusable area stops the launch (R397), an error met in it
is found (R402, R405). -/
def saveThread (st : Status) : Exec Unit := do
  drainBank (← getCur).id
  modify (fun s => (s.writeBackThread s.myCluster s.cur.id).dropHandles)
  modCur (fun a => { a with reassembly := a.reassembly.filter (fun e => e.cause == 0 || e.cause == 0x72) })
  let s ← get
  let base := s.saveAddr (saveSlot s.cur.id)
  if s.areaUsable base = false then do
    modify (fun s => s.findLines base 32768)
    throw (.stop 0x22)
  let va := s.vareaBytes
  let bytes := s.cur.saveHead (3072 + va.length) ++ va
  let a := s.cur
  set { s with
    mem := memPuts s.mem base bytes,
    cur := { a with v := Vector.replicate 32 VReg.fresh, p := Vector.replicate 32 0, status := st, vqueue := [],
                    reassembly := [], loose := joinAll a.loose, stall := none, cut := none, lateRead := none, unacked := [] } }

/-- The current thread is restored from its area (R326): it waits while the pool cannot hold the area's rows; a kind byte
other than 0x03, or poisoned data, stops the launch (R397). Handles with elements left take ports. -/
def restoreThread (slot : Nat) : Exec Unit := do
  let s ← get
  let base := s.saveAddr slot
  if s.areaUsable base = false then do
    modify (fun s => s.findLines base 32768)
    throw (.stop 0x25)
  let xs := memBytes s.mem base 32768
  if areaNat xs 0 1 ≠ 3 then throw (.stop 0x25)
  let va := xs.drop 3072
  if s.rowsFree < vareaRows va then throw .idle
  let s := s.vareaLoad va
  let s := { s with cur := s.cur.loadHead xs (wbits s.regs.vstart 10 0) }
  let s := (List.range 8).foldl (fun s h => if (s.handle h).remaining = 0 then s else s.takePort h none) s
  set { s with cur := { s.cur with status := .running } }

end Sys2Proof.Machine
end

