-- ==== Sys2Proof/Machine/Ops.lean ====
section
/-! DEFINITION. What every meaning is built on: taking an exception and returning from one (R350–R361), the pager
route, the end of an instance and the stop of a launch (R364, R365), and the frame of an instruction: the stage check of
R371, the end of the instruction (R141, R359), and the frame of the steps without encoding. -/

namespace Sys2Proof.Machine

/-! ## KSTATUS fields (R351) -/

def ksMode (k : Word) : Bool := k.getLsbD 0
def ksPmode (k : Word) : Bool := k.getLsbD 1
def ksIe (k : Word) : Bool := k.getLsbD 4
def ksPie (k : Word) : Bool := k.getLsbD 5
def ksIntrap (k : Word) : Bool := k.getLsbD 8
def ksBw (k : Word) : Bool := k.getLsbD 10
def ksStep (k : Word) : Bool := k.getLsbD 11
def bit1 (b : Bool) : Nat := if b then 1 else 0

/-- Is the current agent in supervisor mode (R129)? -/
def State.supervisor (s : State) : Bool := !s.cur.user

/-- The KCAUSE word of a trap (R352). -/
def Trap.word (t : Trap) (async : Bool) : Word :=
  nw (t.cause + 256 * t.hops + 1024 * bit1 async + 2048 * bit1 t.vec + 4096 * bit1 t.late + 8192 * t.strm +
    65536 * (if t.strm = 1 then t.hnd else 0))

/-- KTVAL of a trap raised by an instruction: the instruction's word where the rule names no value (R353). -/
def Trap.tval (t : Trap) (i : Instr) : Word := t.val.getD ((wordOf i).setWidth 64)

/-! ## Taking an exception and returning from one (R355, R356) -/

/-- The frame's offset in the CSP: the top 256 bytes, 64 for each scalar core (R355). -/
def frameOffset (id : Nat) : Nat := 0x3FF00 + 64 * (id % 4)
/-- The frame's location, and its address in the CSP window. -/
def frameLoc (id : Nat) : Nat := 2 ^ 44 + placeCore id * 2 ^ 18 + frameOffset id
def frameAddr (id : Nat) : Word := 0x00FE000000000000 + nw (frameOffset id)

/-- The handler's address for a cause (R354, R355). -/
def handlerAddr (kvec : Word) (cause : Nat) : Word :=
  nw (wbits kvec 55 9 * 512) + 64 * nw (bitsOf cause 6 4)

/-- What is owed of XWEAR when an exception is taken (R333): a result owed to one of g12–g15 is owed to its word of the frame, 32 past the
register's number; g12 itself is written anew. -/
def framed (ws : List (Nat × Nat)) : List (Nat × Nat) :=
  let hit (e : Nat × Nat) : Bool := decide (12 ≤ e.1 ∧ e.1 ≤ 15)
  ws.filter (fun e => decide (e.1 < 32 ∧ e.1 ≠ 12)) ++ (ws.filter hit).map (fun e => (e.1 + 32, e.2))

/-- What is owed after a return (R333, R356): what was owed to a word of the frame is owed to the register loaded from it. -/
def unframed (ws : List (Nat × Nat)) : List (Nat × Nat) :=
  ws.filter (fun e => decide (e.1 < 12 ∨ 15 < e.1 ∧ e.1 < 32)) ++ (ws.filter (fun e => decide (32 ≤ e.1))).map (fun e => (e.1 - 32, e.2))

/-- Taking an exception, the checks passed: older vector instructions have completed and younger ones are discarded (R23, R357), the frame is written, the trap registers and KSTATUS take their values, g12
holds the frame's address and the pc the handler's (R355). -/
def State.enter (s : State) (kcause ktval ktval2 kepc : Word) (cause : Nat) : State :=
  let f := frameLoc s.cur.id
  let s := s.cleanUnits (fun u => decide (f / 8 ≤ u ∧ u < f / 8 + 4))
  let m := memPutNat s.mem f 8 (s.g 12).toNat
  let m := memPutNat m (f + 8) 8 (s.g 13).toNat
  let m := memPutNat m (f + 16) 8 (s.g 14).toNat
  let m := memPutNat m (f + 24) 8 (s.g 15).toNat
  let k := s.regs.kstatus
  let k' := wput (wput (wput (wput (wput k 1 1 (bit1 (ksMode k))) 5 5 (bit1 (ksIe k))) 0 0 1) 4 4 0) 8 8 1
  let s := { s with mem := m, cur := { s.cur with
    anchorCore := true, reassembly := [], vqueue := [], stall := none, cut := none, lateRead := none, wearRegs := framed s.cur.wearRegs } }
  let s := s.setRegs { s.regs with
    kcause := kcause, ktval := ktval, ktval2 := ktval2, kepc := kepc &&& ~~~3, kstatus := k' }
  (s.setG 12 (frameAddr s.cur.id)).setPc (handlerAddr s.regs.kvec cause)

/-- Taking an exception (R355): a trap inside a handler, or with no handler, stops the launch. -/
def takeException (kcause ktval ktval2 kepc : Word) (cause : Nat) : Exec Unit := do
  let s ← get
  if ksIntrap s.regs.kstatus then throw (.stop 0x07)
  else if wbits s.regs.kvec 55 9 = 0 then throw (.stop 0x0E)
  else set ({ s with cur := { s.cur with status := .running } }.enter kcause ktval ktval2 kepc cause)

/-- Returning from an exception (R356): g12–g15 from the frame as it stands, the mode and ie that entry saved, intrap
clear, on at KEPC. -/
def State.leave (s : State) : State :=
  let f := frameLoc s.cur.id
  let k := s.regs.kstatus
  let k' := wput (wput (wput k 0 0 (bit1 (ksPmode k))) 4 4 (bit1 (ksPie k))) 8 8 0
  let epc := s.regs.kepc
  let s := (((s.setG 12 (nw (memNat s.mem f 8))).setG 13 (nw (memNat s.mem (f + 8) 8))).setG 14
    (nw (memNat s.mem (f + 16) 8))).setG 15 (nw (memNat s.mem (f + 24) 8))
  let s := { s with cur := { s.cur with wearRegs := unframed s.cur.wearRegs } }
  (s.setRegs { s.regs with kstatus := k' }).setPc epc

/-! ## The pager route (R361, R362) -/

/-- Is a cause one of the pager's (R350)? -/
def pagerCause (c : Nat) : Bool := c == 0x10 || c == 0x11 || c == 0x13

/-- The fault region's base; 0 disables the route (R362). -/
def State.faultBase (s : State) : Nat := wbits s.dev.fltbase 42 12 * 4096

/-- The eight words of a fault record (R362). -/
def faultRecord (launch asid : Nat) (kcause kepc ktval ktval2 : Word) (time : Nat) : List Byte :=
  leBytes 8 0 ++ leBytes 8 (launch % 16384 + 65536 * asid) ++ leBytes 8 kcause.toNat ++ leBytes 8 kepc.toNat ++
  leBytes 8 ktval.toNat ++ leBytes 8 ktval2.toNat ++ leBytes 8 time ++ leBytes 8 0

/-- An entry published at .dev for a write the device makes itself at a physical place (R241, R361). -/
def State.publishPhys (s : State) (base len : Nat) : State :=
  s.publish 0 2 [{ cover := .physical base len, home := true, scope := 2, cluster := s.pubCluster s.cur.id,
                   asid := s.cur.asid, epoch := 0 }]

/-- Can a write at these bytes of the fault region be performed (R362)? They lie in the DRAM of a standing tower, outside the
staging cache and the bridges; the pending bit and the count are read and written, which as an atomic is not applied to a
poisoned line (R403; log entry 63). -/
def State.faultPlaceOk (s : State) (a : Nat) (whole : Bool) : Bool :=
  (match dramTower a with
    | none => false
    | some k => s.towerUp k && !s.inStaging a && (s.bridge? a).isNone) && (whole || !isPoisoned s (a / 64))

/-- The fault record of the current agent posted for the pager, with its pending bit and the count (R361–R363, R385): no storage for it
stops the launch, and an error met there is found (R402, R405). `epc` is the pc of the access. -/
def postRecord (t : Trap) (tval epc : Word) : Exec Unit := do
  modify (fun s => { s with cur := { s.cur with postedAt := s.faultBase } })
  let s ← get
  let n := seatOf s.cur.id
  let base := s.faultBase
  let rec_ := base + 64 * n
  let bitAt := base + 0x70040 + n / 8
  let count := base + 0x70000
  if (s.faultPlaceOk rec_ true && s.faultPlaceOk bitAt false && s.faultPlaceOk count false) = false then do
    modify (fun s => (s.findLines bitAt 1).findLines count 8)
    throw (.stop 0x23)
  else do
    let m := memPuts s.mem rec_ (faultRecord s.cur.launch s.cur.asid (t.word false) epc tval t.val2 (s.time s.myTower))
    let m := memPut m bitAt (memByte m bitAt ||| BitVec.ofNat 8 (2 ^ (n % 8)))
    let m := memPutNat m count 8 (memNat m count 8 + 1)
    let s := { s.cleanUnits (fun u => u == rec_ / 64) with mem := m }
    set (((s.publishPhys rec_ 64).publishPhys bitAt 1).publishPhys count 8)

/-- The pager route of the current agent (R361): a thread is saved; the record, the pending bit and the count are written
and published. A record that cannot be written stops the launch. -/
def pagerRoute (t : Trap) (tval : Word) : Exec Unit := do
  let a ← getCur
  if a.kind = .thread then saveThread (.paged true t.cause) else modCur (fun a => { a with status := .paged false t.cause })
  postRecord t tval a.pc

/-- The pending bit of an agent's posted record cleared (R385). -/
def State.clearPendingBit (s : State) (a : Agent) : State :=
  let n := seatOf a.id
  let bitAt := a.postedAt + 0x70040 + n / 8
  { s with mem := memPut s.mem bitAt (memByte s.mem bitAt &&& ~~~(BitVec.ofNat 8 (2 ^ (n % 8)))) }

/-! ## The end of an instance and of a launch (R315, R317, R364, R365) -/

/-- The launch with an identifier. -/
def State.launch? (s : State) (l : Nat) : Option Launch := (s.launches.find? (fun e => e.1 == l)).map (fun e => e.2)

/-- A fault of an instance that a JOIN has to report (R364). -/
def State.noteFault (s : State) (l stage cluster : Nat) (kcause : Word) : State :=
  match s.launch? l with
  | none => s
  | some x => { s with launches := kvSet s.launches l { x with faults := x.faults ++ [(stage, cluster, kcause)] } }

/-- The current sequencer instance ends with its KCAUSE (R364); KEPC holds the word's address (R369). -/
def endInstance (kcause ktval ktval2 : Word) : Exec Unit := do
  modCur (fun a => { a with regs := { a.regs with
    kcause := kcause, ktval := ktval, ktval2 := ktval2, kepc := a.pc } })
  modCur (fun a => { a with status := .ended (wbits kcause 6 0) })
  modify (fun s => s.noteFault s.cur.launch s.cur.stage s.cur.cluster kcause)

/-- A trap of the current agent, by the routes of R350: the pager, the handler, or the end of a sequencer instance. -/
def takeTrap (t : Trap) (i : Instr) : Exec Unit := do
  modCur (fun a => { a with linkHit := none })
  let s ← get
  let tval := t.tval i
  if pagerCause t.cause && s.dev.fltbase != 0 && s.cur.kind != .dispatcher then pagerRoute t tval
  else match s.cur.kind with
    | .thread => takeException (t.word false) tval t.val2 (if t.next then s.cur.pc + 4 else s.cur.pc) t.cause
    | .dispatcher => takeException (t.word false) tval t.val2 (if t.next then s.cur.pc + 4 else s.cur.pc) t.cause
    | _ => endInstance (t.word false) tval t.val2

/-- The issuer and the launch of a command that runs on after its launch has gone (R365): none. -/
def noAgent : Nat := 2 ^ 20
def noLaunch : Nat := 2 ^ 14

/-- The state word of a launch record (R311), written at the record's physical line: at the target, where it stands in a bridge frame
(R345). -/
def State.writeState (s : State) (l : Launch) (st cause : Nat) : State :=
  let w := l.ident + cause * 2 ^ 48 + st * 2 ^ 60
  match l.away with
  | none => { s with mem := memPutNat s.mem l.record 8 w }
  | some (t, a) => { s with sent := s.sent ++ (leBytes 8 w).zipIdx.map (fun (b, i) =>
      { agent := noAgent, tgt := t, addr := a + i, byte := b, va := l.record }) }

/-- The record's weight byte as the scheduler reads it (R311, R322), at the target where the record stands in a bridge frame (R345). -/
def State.recordWeight (s : State) (l : Launch) : Nat :=
  match l.away with
  | none => memNat s.mem (l.record + 15) 1
  | some (_, a) => (Config.peerByte s.fresh (a + 15)).toNat
/-- The next reading of a target has a value of its own. -/
def State.weightRead (s : State) (l : Launch) : State := if l.away.isSome then { s with fresh := s.fresh + 1 } else s

/-- What the launch held is free again (R315): its agents, ports, MCCs and table entry. -/
def State.freeLaunch (s : State) (l : Nat) : State :=
  let gone (a : Agent) : Bool := a.launch == l && a.kind != .dispatcher && a.kind != .sweep && a.status != .free
  let ids := (s.agents.filter gone).map (fun a => a.id)
  let fixCluster (c : Cluster) : Cluster :=
    { c with ports := c.ports.filter (fun e => !ids.contains e.2.1),
             portQueue := c.portQueue.filter (fun e => !ids.contains e.1),
             mccOwner := if c.mccOwner = some l then none else c.mccOwner }
  let t : State := { s with
    cur := if gone s.cur then Agent.fresh s.cur.id s.cur.kind else s.cur,
    others := s.others.filter (fun a => !gone a),
    clusters := s.clusters.map (fun (k, c) => (k, fixCluster c)),
    cmds := s.cmds.map (fun c => if c.launch = l then { c with issuer := noAgent, launch := noLaunch } else c),
    launches := kvDel s.launches l }
  t.clusters.foldl (fun (u : State) e => u.handPorts e.1) t

/-- Have the commands agent `id` issued before number `n` completed? -/
def State.cmdsBefore (s : State) (id n : Nat) : Bool := s.cmds.all (fun c => c.issuer != id || decide (n ≤ c.id))

/-- The unfinished commands of an engine, in acceptance order. -/
def State.queue (s : State) (engine unit : Nat) : List Cmd :=
  s.cmds.filter (fun c => c.engine == engine && c.unit == unit)

/-- The lowest free copy channel of a tower: one no unfinished command has (R286). -/
def State.freeChannel (s : State) (unit : Nat) : Option Nat :=
  (List.range 8).find? (fun k => (s.queue 1 unit).all (fun c => c.chan != some k))

/-- Does a command wait for any channel, or, as an XRECLAIM, for none until it begins (R286, R294)? -/
def Work.isReclaim : Work → Bool
  | .reclaim _ _ _ _ _ => true
  | _ => false

/-- A channel that frees goes to the oldest command that waits for any (R286). -/
def State.handChannel (s : State) (unit : Nat) : State :=
  match (s.queue 1 unit).find? (fun c => c.chan.isNone && !c.work.isReclaim), s.freeChannel unit with
  | some c, some k => { s with cmds := s.cmds.map (fun (d : Cmd) => if d.id = c.id then { d with chan := some k } else d) }
  | _, _ => s

/-- The queued commands of a launch that have not begun are discarded; begun sweeps go on (R365). The channels that this frees go
to the oldest commands that wait for one (R286). -/
def State.dropCmds (s : State) (l : Nat) : State :=
  let gone (c : Cmd) : Bool := c.launch == l && !c.started
  (s.cmds.filter gone).foldl (fun s c => s.handChannel c.unit) { s with cmds := s.cmds.filter (fun c => !gone c) }

/-- The identity under which an exited thread is kept when its scalar core is bound again (R317, log entry 4). -/
def exitedId : Nat := 16384

/-- Have the writes a launch's instances sent to other devices and to the host been performed there (R236, R345)? -/
def State.launchArrived (s : State) (l : Nat) : Bool := s.agents.all (fun a => a.launch != l || s.arrived a.id)

/-- A release at .sys for every instance of the launch, once what it sent has arrived (R315, R365). -/
def releaseLaunch (l : Nat) : Exec Unit := do
  let s ← get
  each ((s.agents.filter (fun a => a.launch == l && a.status != .free && a.id < exitedId)).map (fun a => a.id))
    (fun id => asAgent id (release 3))

/-- What a command's engine accesses memory as (R246). -/
def Cmd.ctx (c : Cmd) : Ctx := { id := c.place, kind := c.kind, asid := c.asid, user := c.user }

/-- The number under which a command's writes to other devices and to the host wait for their acknowledgement (R345). -/
def cmdAgent (id : Nat) : Nat := 2 ^ 21 + id

/-- The completion of a waiting XRECLAIM that gives up (R294): status 4 at its word, through the issuer's translation; a word in a bridge
frame goes to the target (R345). -/
def giveUp (c : Cmd) : Exec Unit := do
  let s ← get
  match c.work with
  | .reclaim _ _ _ _ done =>
    match resolve s c.ctx .store (nw done) with
    | .ok (_, { cls := .bridge t addr, .. }, _, _) => bridgeWrite (cmdAgent c.id) t addr (leBytes 8 (4 * 2 ^ 60)) done
    | .ok (_, pl, _, _) => modify (fun s => { s with mem := memPutNat s.mem (pl.loc + done % 64) 8 (4 * 2 ^ 60) })
    | .error _ => pure ()
  | _ => pure ()

/-- The stop of a launch with a cause (R365): waiting reclaims give up, commands not begun are dropped, dirty bytes are
written back as by a release at .sys, which lasts until what the launch sent has arrived (log entry 36), the pending bits of its posted records are cleared (R385), state 4 is written, its
resources are freed. -/
def stopLaunch (l cause : Nat) : Exec Unit := do
  let s ← get
  if kvHas s.launches l then do
    each (s.cmds.filter (fun c => c.launch == l && !c.started)) giveUp
    modify (fun s => s.dropCmds l)
    modify (fun s => { s with sent := s.sent.filter (fun w => !s.agents.any (fun a => a.id == w.agent && a.launch == l)) })
    releaseLaunch l
    modify (fun s => (s.agents.filter (fun a => a.launch == l)).foldl (fun s a =>
      match a.status with
      | .paged _ _ => s.clearPendingBit a
      | _ => s) s)
    modify (fun s => match s.launch? l with
      | none => s
      | some x => (s.writeState x 4 cause).freeLaunch l)
  else modCur (fun a => { a with status := .ended cause })

/-- A computation whose trap, wait or stop takes effect: `i` is the instruction it belongs to. -/
def settle (i : Instr) (x : Exec Unit) (s : State) : State :=
  let fin (y : Exec Unit) (s : State) : State :=
    match y s with
    | .ok _ s' => s'
    | .error (.stop c) s' => eventStep (stopLaunch s'.cur.launch c) s'
    | .error _ s' => s'
  match x s with
  | .ok _ s' => s'
  | .error (.trap t) s' => fin (takeTrap t i) s'
  | .error (.wait w) s' =>
    { s' with cur := { s'.cur with status := .waiting w i, waitSince := s'.clock } }
  | .error (.stop c) s' => eventStep (stopLaunch s'.cur.launch c) s'
  | .error .idle s' => s'

/-! ## The frame of an instruction -/

/-- Who may execute a form (R33, R371, R282): the sequencer set; stage-0 threads only; the MCC only; threads and one
sequencer kind. -/
inductive Who where
  | any | threadOnly | only (k : Kind) | threadOr (k : Kind)
deriving DecidableEq, Repr

/-- Does a kind of instance execute the form? A resident dispatcher executes what a thread does; a sweep context executes
the body words that XSWEEP admitted (R303). -/
def Who.admits (c : Who) (k : Kind) : Bool :=
  let isThread := k == .thread || k == .dispatcher
  match c with
  | .any => true
  | .threadOnly => isThread || k == .sweep
  | .only j => k == j
  | .threadOr j => isThread || k == j

/-- How an instruction that completes continues: at the next word, at a target, or, for ERET, where the trap left off. -/
inductive Flow where
  | seq
  | jump (target : Word)
  | back
deriving DecidableEq, Repr

/-- The pc after a completed instruction that does not jump: the end test of LOOPV (R141). -/
def State.advance (s : State) : State :=
  let c := s.regs.loopCtl
  let len := wbits c 5 0
  if len ≠ 0 ∧ s.cur.pc = s.regs.loopAddr + 4 * nw (len - 1) then
    if s.g (BitVec.ofNat 5 (wbits c 10 6)) ≠ 0 then s.setPc s.regs.loopAddr
    else (s.setRegs { s.regs with loopCtl := 0 }).setPc (s.cur.pc + 4)
  else s.setPc (s.cur.pc + 4)

/-- An event becomes pending, the lowest code first (R359). -/
def addPending (ps : List Pending) (p : Pending) : List Pending :=
  match ps with
  | [] => [p]
  | q :: rest => if p.code < q.code then p :: q :: rest else q :: addPending rest p

/-- A completed instruction in user mode under single step makes STEP pending (R359). -/
def State.stepTrap (s : State) (i : Instr) : State :=
  if s.cur.kind = .thread ∧ ksMode s.regs.kstatus = false ∧ ksStep s.regs.kstatus then
    { s with cur := { s.cur with
      pending := addPending s.cur.pending { code := 0x09, val := (wordOf i).setWidth 64, val2 := 0 } } }
  else s

/-- The end of a completed instruction. -/
def State.retire (s : State) (i : Instr) (f : Flow) : State :=
  match f with
  | .seq => s.advance.stepTrap i
  | .jump t => (s.setPc t).stepTrap i
  | .back => s

/-- The meaning of an instruction of the current agent: the stage check of R371, the body, and the end of the
instruction, its trap or its wait. An agent that is not executing executes nothing. -/
def insn (c : Who) (i : Instr) (body : Exec Flow) (s : State) : Host.Outcome State Fault Refusal :=
  if s.cur.status ≠ .running then .next s
  else .next (settle i (do
    if c.admits s.cur.kind then do
      let f ← body
      modify (fun s => s.retire i f)
    else trap 0x02) s)

/-- The meaning of an instruction whose effect is a function of the state: it cannot trap. -/
def plain (c : Who) (i : Instr) (f : State → State) (s : State) : Host.Outcome State Fault Refusal :=
  insn c i (do modify f; return .seq) s

/-- A step without encoding. -/
def event (x : Exec Unit) (s : State) : Host.Outcome State Fault Refusal := .next (eventStep x s)

/-- A step of agent `id`: its trap, wait or stop takes effect on that agent. `i` is the instruction it belongs to. -/
def agentEvent (id : Nat) (i : Instr) (x : Exec Unit) (s : State) : Host.Outcome State Fault Refusal :=
  match s.agent? id with
  | none => .next s
  | some _ => .next ((settle i x (s.focus id)).focus s.cur.id)

/-! ## The vector queue (R20, R21, R25) -/

/-- The vector registers and predicates an instruction writes. -/
def VUse.writes (u : VUse) (s : State) : BitVec 64 := s.useBits u.dst u.pdst

/-- The addresses at which a vector memory instruction's elements stand, its predicate, and the number of its stream (R203,
R211, R222). -/
def State.vecAccess (s : State) (i : Instr) : Option ((Nat → Word) × Reg × Nat) :=
  let strided (a x : Reg) (k : Nat) : Word := s.g a + nw k * s.g x
  let indexed (a x : Reg) (k : Nat) : Word := s.g a + nw (s.elem x.toNat k)
  let strip (h : BitVec 3) (k : Nat) : Word := (s.handle h.toNat).addr ((s.handle h.toNat).cursor.toNat + k)
  match i with
  | .vld _ a _ p _ | .vldff _ a p _ => some (unitAddr s.regs.fmt (s.g a), p, 1)
  | .vst d a _ p _ => some (unitAddr (tagFmt (s.tag d)) (s.g a), p, 1)
  | .vlds _ a x p _ | .vsts _ a x p _ => some (strided a x, p, 1)
  | .vldx _ a x p false _ => some (indexed a x, p, 2)
  | .vstx _ a x p false _ | .vscadd _ a x p false _ => some (indexed a x, p, 3)
  | .vsld _ h p _ | .vgsld _ h p _ | .vsst _ h p _ => some (strip h, p, 4 + h.toNat)
  | _ => none

/-- Does the response whose first element is `e` serve element `k` of a load: of the same line, for a gather of the same beat
(R215), for a handle with no element of another line between, for it reads in cursor order (R254)? -/
def serves (st : Nat) (beat : Nat → Nat) (f : Nat → Word) (ks : List Nat) (e k : Nat) : Bool :=
  let line (j : Nat) : Nat := (f j).toNat / 64
  decide (e ≤ k) && line e == line k && (st != 2 || beat e == beat k) &&
  (st < 4 || (ks.filter (fun j => decide (e < j ∧ j < k))).all (fun j => line j == line k))

/-- The elements a load that took the thread from `s` to `t` has read, each with its address and its place in the pattern: not
those past the end of the data or of the handle, beyond a fault that shortened VL, or read before (R213, R214, R222, R342; an element
across two lines is never served by a response that came before). -/
def State.readItems (s t : State) (i : Instr) : List (Nat × Word × Nat) :=
  match s.vecAccess i with
  | none => []
  | some (f, p, st) =>
    let h := s.handle (st - 4)
    let c := if st < 4 then 0 else h.cursor.toNat
    let stop := if 4 ≤ st then min s.regs.len h.remaining.toNat
      else match i with
        | .vldff .. => t.regs.len
        | _ => if s.regs.fmt.isBlock then s.regs.dlen else s.regs.len
    let ks := (s.actives p).filter (fun k => decide (k < stop) && !(decide (4 ≤ st) && h.ahead.any (fun e => e.1 == c + k)))
    let beat (k : Nat) : Nat := k * (max s.regs.fmt.bits (s.widest (usesOf i).srcs)) / 512
    let served (k : Nat) : Bool := decide ((f k).toNat % 64 + elemBytes s.regs.fmt ≤ 64) &&
      s.cur.reassembly.any (fun e => serves st beat f (s.actives p) e.elem k)
    (ks.filter (fun k => !served k)).map (fun k => (k, f k, c + k))

/-- The lines a load's elements wait for (R26, R331): one for the elements that it serves, two for an element across two lines. -/
def awaited (st bits w : Nat) (items : List (Nat × Word × Nat)) : List Awaited :=
  let add (es : List Awaited) (x : Nat × Nat) : List Awaited :=
    let va := x.2; let b := x.1 * bits / 512
    let joins (e : Awaited) : Bool := e.va / 64 == va / 64 && (st != 2 || e.hi == b)
    let last (e : Awaited) : Bool := st < 4 || es.getLast? == some e
    if es.any (fun e => joins e && last e) then es.map (fun e => if joins e && last e then { e with hi := b } else e)
    else es ++ [{ elem := x.1, va := va, lo := b, hi := b }]
  items.foldl (fun es x =>
    let es := add es (x.1, x.2.1.toNat)
    if x.2.1.toNat % 64 + w ≤ 64 then es else add es (x.1, (x.2.1.toNat / 64 + 1) * 64)) []

/-- Does the vector load acquire after its last read (R219)? -/
def loadAcquires : Instr → Bool
  | .vld _ _ _ _ o | .vlds _ _ _ _ o | .vldff _ _ _ o | .vldx _ _ _ _ _ o | .vsld _ _ _ o | .vgsld _ _ _ o => o.getLsbD 1
  | _ => false

/-- What a trap at the instruction of stream `st` that the thread executes next goes back to (R346, R358). -/
def State.point (s : State) (st : Nat) : Checkpoint :=
  { issued := s.clock, pc := s.cur.pc, stream := st, g := s.cur.g, wear := s.cur.wearRegs, regs := s.regs, handles := s.cur.handles,
    v := s.cur.v, p := s.cur.p, replay := s.cur.replay }

/-- The checkpoint of a load that took the thread from `s` to `t` (R357, R358). -/
def State.checkpoint (s t : State) (i : Instr) : Option Checkpoint :=
  (s.vecAccess i).map (fun (_, _, st) => { s.point st with v := t.cur.v, p := t.cur.p })

/-- The elements of a bitmap load, each with the address of its value, after its header (R271, R272). -/
def State.bitmapItems (s t : State) (d : BitVec 3) (a b : Reg) : List (Nat × Word × Nat) :=
  let c := 16 + 2 * d.toNat
  (0, s.g a, 0) :: (List.range (wbits (t.regs.slen[d.toNat]'d.isLt) 10 0)).map (fun k =>
    (k, s.g b + nw (t.elem c k % 2 ^ 32 * elemBytes s.regs.fmt), k))

/-- The registers an instruction reads whole before its first beat, and how many elements past its own it reads of some: slides,
permutes, and the sparse forms (R26, R268). -/
def State.farReads (s : State) (i : Instr) : BitVec 64 × Nat :=
  match i with
  | .vslidedn _ a b _ => (s.useBits [a] [], (s.g b).toNat)
  | .vperm _ a _ _ => (s.useBits [a] [], 1024)
  | .vcompress _ a p => (s.useBits [a] [p], 1024)
  | .vsadd _ _ _ _ | .vsmul _ _ _ _ | .vsdot _ _ _ _ | .vspst _ _ _ => (s.useBits (usesOf i).srcs [], 1024)
  | _ => (0, 0)

/-- The widths of an element of the source and of the destination, where a vretag makes elements of another width of the same bytes
(R26, R117); the elements taken together, a block's (R96). -/
def State.widths (s : State) : Instr → Nat × Nat
  | .vretag _ a fmt _ => ((tagFmt (s.tag a)).bits, Fmt.bits fmt.toNat)
  | _ => (1, 1)
def blockOfUse (i : Instr) : Nat := if i matches .vqbx .. then 32 else 1

/-- The registers an instruction reads (R26): a vretag the members of its new group (R117). -/
def State.readBits (s : State) (i : Instr) : BitVec 64 :=
  match i with
  | .vretag _ a _ grp => BitVec.ofNat 64 ((2 ^ 2 ^ grp.toNat - 1) <<< a.toNat)
  | _ => s.useBits (usesOf i).srcs (usesOf i).preds

/-- The queue entry of an instruction that took the thread from `s` to `t` (R24–R26, R28): the beats are those of its widest
operand, a source as it was tagged before or the destination as it is tagged after; VTYPE's width where it has no vector operand (R25; log entry 51).
A load without an acquire may still read its elements later (R204, R412); a gang's strip is read once (R31). -/
def VToken.of (pipe : Nat) (i : Instr) (s t : State) : VToken :=
  let u := usesOf i
  let load := !u.dst.isEmpty && (!(i matches .vgsld ..) || s.cur.gang == 0)
  let items := if load then s.readItems t i else []
  let st := match s.vecAccess i with | none => 0 | some (_, _, st) => st
  let bits := if u.srcs.isEmpty ∧ u.dst.isEmpty then s.regs.fmt.bits else max (s.widest u.srcs) (t.widest u.dst)
  { pipe := pipe, beats := ceilDiv (s.regs.len * bits) 512, issued := 0, written := 0, bits := bits,
    reads := s.readBits i, writes := u.writes t, whole := u.whole,
    awaits := match i with
      | .vspld d a b => awaited 2 bits (elemBytes s.regs.fmt) (s.bitmapItems t d a b)
      | _ => awaited st bits (elemBytes s.regs.fmt) items,
    snap := if load then s.checkpoint t i else none,
    late := match u.dst with
      | d :: _ => if load && !loadAcquires i && !items.isEmpty then
          some { vd := d.toNat, fmt := s.regs.fmt, group := s.regs.group, items := items } else none
      | [] => none,
    far := (s.farReads i).1, reach := (s.farReads i).2, ratio := s.widths i, block := blockOfUse i,
    rounds := pipe != 2 || (i matches .vmrd ..),
    closed := (wordOf i).toNat / 2 ^ 26 == 0x1A }

/-- The instructions of a class that run at once: two on the FMA pipes, one on each other (R24). -/
def classWidth (pipe : Nat) : Nat := if pipe = 0 then 2 else 1

/-- The convoy of an instruction of a class that comes after those queued: the last one's while its pipe is free, no vector
configuration instruction has ended it and it has fewer than four members; else a new one (R28). -/
def convoyAfter (ts : List VToken) (pipe : Nat) : Nat :=
  match ts.getLast? with
  | none => 0
  | some u =>
    let ms := ts.filter (fun t => t.convoy == u.convoy)
    if u.closed || 4 ≤ ms.length || classWidth pipe ≤ (ms.filter (fun t => t.pipe == pipe)).length then u.convoy + 1
    else u.convoy

/-- A vector instruction that has been taken stands at the end of its thread's queue (R20, R21). -/
def State.enqueue (s : State) (t : VToken) : State :=
  { s with cur := { s.cur with vqueue := s.cur.vqueue ++ [{ t with convoy := convoyAfter s.cur.vqueue t.pipe }] } }

/-- The end of an instruction that a pre-emption may have cut: the thread is saved where VSTART holds the element of the cut
(R162, R323). -/
def finishCut : Exec Unit := do
  match (← getCur).cut with
  | none => pure ()
  | some k =>
    if (← getRegs).start = k then do
      saveThread .saved
      idle
    else modCur (fun a => { a with cut := none })

/-- What instruction `i` in stream `st` has sent to other devices and to the host on the way from `s` to `t` is in flight until it is
acknowledged (R345, R346). -/
def State.flying (s t : State) (i : Instr) (st : Nat) : State :=
  let new := t.sent.drop s.sent.length
  if new.isEmpty then t
  else { t with cur := { t.cur with unacked := t.cur.unacked ++
    [{ instr := i, snap := s.point st, bytes := new.map (fun w => (w.tgt, w.addr)) }] } }

/-- What `x` sends, of instruction `i` in stream `st`, is in flight from then on. -/
def inFlight {α : Type} (i : Instr) (st : Nat) (x : Exec α) : Exec α := do
  let s ← get
  let r ← x
  modify (fun t => s.flying t i st)
  return r

/-- What a vector instruction does, and its place in the queue. -/
def queued (pipe : Nat) (i : Instr) (body : Exec Unit) : Exec Unit := do
  let s ← get
  body
  modify (fun t => t.enqueue (VToken.of pipe i s t))

/-- The meaning of a vector instruction: it takes a place in the thread's vector queue of 32, or waits for one (R21);
its effect is that of sequential execution (R23). Pipes: 0 FMA, 1 ALU/permute, 2 memory (R24). -/
def vinsn (pipe : Nat) (i : Instr) (body : Exec Unit) (s : State) : Host.Outcome State Fault Refusal :=
  insn .threadOnly i (do
    if 32 ≤ (← getCur).vqueue.length then throw (.wait .vqueue)
    if !cuttable i then modCur (fun a => { a with cut := none })
    queued pipe i body
    finishCut
    return .seq) s

/-- A queued instruction that has completed leaves nothing to be undone nor read (R150, R357). -/
def VToken.settled (t : VToken) : VToken := { t with snap := none, late := none }

/-- The last queued instruction that passes a test, and with it those before it, have completed (R150, R357). -/
def Agent.settle (a : Agent) (p : VToken → Bool) : Agent :=
  let n := a.vqueue.zipIdx.foldl (fun n e => if p e.1 then e.2 + 1 else n) 0
  { a with vqueue := (a.vqueue.take n).map VToken.settled ++ a.vqueue.drop n }

/-- Elements of a vector store are performed only once every older vector instruction has committed (R357). -/
def settleOlder : Exec Unit := modCur (fun a => a.settle (fun _ => true))

/-- A resynchronisation: every earlier vector instruction of the thread has completed (R22). -/
def resync : Exec Unit := modCur (fun a => { a with vqueue := [] })

/-- A supervisor-only form in user mode traps with PRIV_INSN (R129). -/
def needSupervisor : Exec Unit := do if (← get).supervisor then pure () else trap 0x04

end Sys2Proof.Machine
end

