-- ==== Sys2Proof/Machine/ScalarInt.lean ====
section
/-! DEFINITION. Scalar integer instructions, majors 0x01 to 0x0B (R130–R134). -/

namespace Sys2Proof.Machine

abbrev Out := Host.Outcome State Fault Refusal

/-- The high 64 bits of the signed 128-bit product (R130). -/
def mulHigh (x y : Word) : Word := toWord (sint x * sint y / 2 ^ 64)

/-- Signed division under R131: quotient, remainder, and the event of div. -/
def divSigned (x y : Word) : Word × Word × Events :=
  if y = 0 then
    (if x = 0 then 0 else if x.slt 0 then 0x8000000000000000 else 0x7FFFFFFFFFFFFFFF, x, evDZ)
  else if x = 0x8000000000000000 ∧ y = -1 then (0x7FFFFFFFFFFFFFFF, 0, evOF)
  else (toWord ((sint x).tdiv (sint y)), toWord ((sint x).tmod (sint y)), 0)

/-- Unsigned division under R131. -/
def divUnsigned (x y : Word) : Word × Word × Events :=
  if y = 0 then (if x = 0 then 0 else -1, x, evDZ) else (x / y, x % y, 0)

/-- A register-register result (R130). -/
def rr (i : Instr) (d a b : Reg) (f : Word → Word → Word) (s : State) : Out :=
  plain .any i (fun s => s.setG d (f (s.g a) (s.g b))) s

/-- A register-register result with an event in FFLAGS (R131). -/
def rrEv (i : Instr) (d a b : Reg) (f : Word → Word → Word × Events) (s : State) : Out :=
  plain .any i (fun s => ((s.raise (f (s.g a) (s.g b)).2).setG d (f (s.g a) (s.g b)).1)) s

/-- A register-immediate result (R132, R133). -/
def ri (i : Instr) (d a : Reg) (f : Word → Word) (s : State) : Out :=
  plain .any i (fun s => s.setG d (f (s.g a))) s

/-- add (R130). -/
def execAdd (d a b : Reg) (s : State) : Out := rr (.add d a b) d a b (fun x y => x + y) s
/-- sub (R130). -/
def execSub (d a b : Reg) (s : State) : Out := rr (.sub d a b) d a b (fun x y => x - y) s
/-- and (R130). -/
def execAnd (d a b : Reg) (s : State) : Out := rr (.and d a b) d a b (fun x y => x &&& y) s
/-- or (R130). -/
def execOr (d a b : Reg) (s : State) : Out := rr (.or d a b) d a b (fun x y => x ||| y) s
/-- xor (R130). -/
def execXor (d a b : Reg) (s : State) : Out := rr (.xor d a b) d a b (fun x y => x ^^^ y) s
/-- sll (R130). -/
def execSll (d a b : Reg) (s : State) : Out := rr (.sll d a b) d a b (fun x y => x <<< (wbits y 5 0)) s
/-- srl (R130). -/
def execSrl (d a b : Reg) (s : State) : Out := rr (.srl d a b) d a b (fun x y => x >>> (wbits y 5 0)) s
/-- sra (R130). -/
def execSra (d a b : Reg) (s : State) : Out := rr (.sra d a b) d a b (fun x y => x.sshiftRight (wbits y 5 0)) s
/-- slt (R130). -/
def execSlt (d a b : Reg) (s : State) : Out := rr (.slt d a b) d a b (fun x y => ofBool (x.slt y)) s
/-- sltu (R130). -/
def execSltu (d a b : Reg) (s : State) : Out := rr (.sltu d a b) d a b (fun x y => ofBool (x.ult y)) s
/-- mul (R130). -/
def execMul (d a b : Reg) (s : State) : Out := rr (.mul d a b) d a b (fun x y => x * y) s
/-- mulh (R130). -/
def execMulh (d a b : Reg) (s : State) : Out := rr (.mulh d a b) d a b (fun x y => mulHigh x y) s
/-- div (R131). -/
def execDiv (d a b : Reg) (s : State) : Out := rrEv (.div d a b) d a b (fun x y => ((divSigned x y).1, (divSigned x y).2.2)) s
/-- divu (R131). -/
def execDivu (d a b : Reg) (s : State) : Out := rrEv (.divu d a b) d a b (fun x y => ((divUnsigned x y).1, (divUnsigned x y).2.2)) s
/-- rem (R131). -/
def execRem (d a b : Reg) (s : State) : Out := rrEv (.rem d a b) d a b (fun x y => ((divSigned x y).2.1, if y = 0 then evDZ else 0)) s
/-- remu (R131). -/
def execRemu (d a b : Reg) (s : State) : Out := rrEv (.remu d a b) d a b (fun x y => ((divUnsigned x y).2.1, if y = 0 then evDZ else 0)) s
/-- addi (R132). -/
def execAddi (d a : Reg) (imm : BitVec 16) (s : State) : Out := ri (.addi d a imm) d a (fun x => x + sext imm) s
/-- andi (R132). -/
def execAndi (d a : Reg) (imm : BitVec 16) (s : State) : Out := ri (.andi d a imm) d a (fun x => x &&& zext imm) s
/-- ori (R132). -/
def execOri (d a : Reg) (imm : BitVec 16) (s : State) : Out := ri (.ori d a imm) d a (fun x => x ||| zext imm) s
/-- xori (R132). -/
def execXori (d a : Reg) (imm : BitVec 16) (s : State) : Out := ri (.xori d a imm) d a (fun x => x ^^^ zext imm) s
/-- slti (R132). -/
def execSlti (d a : Reg) (imm : BitVec 16) (s : State) : Out := ri (.slti d a imm) d a (fun x => ofBool (x.slt (sext imm))) s
/-- sltiu (R132). -/
def execSltiu (d a : Reg) (imm : BitVec 16) (s : State) : Out := ri (.sltiu d a imm) d a (fun x => ofBool (x.ult (sext imm))) s
/-- lsi (R132). -/
def execLsi (d a : Reg) (imm : BitVec 16) (s : State) : Out := ri (.lsi d a imm) d a (fun x => (x <<< 16) ||| zext imm) s
/-- lui (R132). -/
def execLui (d : Reg) (imm : BitVec 16) (s : State) : Out := ri (.lui d imm) d 0 (fun _ => sext imm <<< 16) s
/-- slli (R133). -/
def execSlli (d a : Reg) (sh : BitVec 6) (s : State) : Out := ri (.slli d a sh) d a (fun x => x <<< sh.toNat) s
/-- srli (R133). -/
def execSrli (d a : Reg) (sh : BitVec 6) (s : State) : Out := ri (.srli d a sh) d a (fun x => x >>> sh.toNat) s
/-- srai (R133). -/
def execSrai (d a : Reg) (sh : BitVec 6) (s : State) : Out := ri (.srai d a sh) d a (fun x => x.sshiftRight sh.toNat) s
/-- sel: a conditional move (R134). -/
def execSel (d a b : Reg) (s : State) : Out :=
  plain .any (.sel d a b) (fun s => if s.g b ≠ 0 then s.setG d (s.g a) else s) s

end Sys2Proof.Machine
end

