-- ==== Sys2Proof/Machine/ScalarMem.lean ====
section
/-! DEFINITION. Scalar memory, pointers, atomics, tickets, waits, fences and barriers (spec/10 R206–R209, R225–R232). -/

namespace Sys2Proof.Machine

/-- The address of a scalar access (R206). -/
def memAddr (x : Word) (off : BitVec 13) : Word := x + sext off

/-- The sign extension of an n-byte value. -/
def sextNat (n x : Nat) : Word := toWord (if 2 ^ (8 * n - 1) ≤ x then (x : Int) - 2 ^ (8 * n) else x)

/-- What a scalar load of n bytes gives its register (R206). -/
def loadedWord (n : Nat) (signed : Bool) (x : Nat) : Word := if signed then sextNat n x else nw x

/-- The scalar load `i` of an address is the last one: a later vector store may still be performed before it (R204, R412). -/
def State.lateFrom (s : State) (i : Instr) (va : Word) : State :=
  { s with cur := { s.cur with lateRead := some { instr := i, va := va } } }

/-- A scalar load of n bytes, extended with zeros or with its sign (R206). -/
def load (i : Instr) (d a : Reg) (off : BitVec 13) (n : Nat) (signed : Bool) (s : State) : Out :=
  insn .any i (do
    let va := memAddr (← getG a) off
    let x ← loadNat false 0 va n
    putG d (loadedWord n signed x)
    modify (fun s => s.lateFrom i va)
    return .seq) s

/-- A scalar store of the low n bytes of gb, with its write range (R207, R240). -/
def store (i : Instr) (a b : Reg) (off : BitVec 13) (n : Nat) (s : State) : Out :=
  insn .any i (do
    let va := memAddr (← getG a) off
    let x ← getG b
    inFlight i 0 (storeNat false 0 va n (x.toNat % 2 ^ (8 * n)))
    record 0 (spanRange va.toNat n false)
    return .seq) s

/-- ldb (R206). -/
def execLdb (d a : Reg) (off : BitVec 13) (s : State) : Out := load (.ldb d a off) d a off 1 false s
/-- ldh (R206). -/
def execLdh (d a : Reg) (off : BitVec 13) (s : State) : Out := load (.ldh d a off) d a off 2 false s
/-- ldw (R206). -/
def execLdw (d a : Reg) (off : BitVec 13) (s : State) : Out := load (.ldw d a off) d a off 4 false s
/-- ldd (R206). -/
def execLdd (d a : Reg) (off : BitVec 13) (s : State) : Out := load (.ldd d a off) d a off 8 false s
/-- ldbs (R206). -/
def execLdbs (d a : Reg) (off : BitVec 13) (s : State) : Out := load (.ldbs d a off) d a off 1 true s
/-- ldhs (R206). -/
def execLdhs (d a : Reg) (off : BitVec 13) (s : State) : Out := load (.ldhs d a off) d a off 2 true s
/-- ldws (R206). -/
def execLdws (d a : Reg) (off : BitVec 13) (s : State) : Out := load (.ldws d a off) d a off 4 true s
/-- stb (R207). -/
def execStb (a b : Reg) (off : BitVec 13) (s : State) : Out := store (.stb a b off) a b off 1 s
/-- sth (R207). -/
def execSth (a b : Reg) (off : BitVec 13) (s : State) : Out := store (.sth a b off) a b off 2 s
/-- stw (R207). -/
def execStw (a b : Reg) (off : BitVec 13) (s : State) : Out := store (.stw a b off) a b off 4 s
/-- std (R207). -/
def execStd (a b : Reg) (off : BitVec 13) (s : State) : Out := store (.std a b off) a b off 8 s

/-- MISALIGN unless the address is a multiple of n (R232; the stream is that of the access, log entry 13). -/
def needAligned (va : Word) (n st : Nat) : Exec Unit :=
  if va.toNat % n = 0 then pure () else trap 0x16 (some va) 0 (streamCode st)

/-- A pointer resolved (R208): itself where its first translation fails or it is not DRAM-backed generic memory. -/
def resolvePointer (p : Word) : Exec Word := do
  let s ← get
  match translate s s.ctx .load p with
  | .error _ => return p
  | .ok pl =>
    if pl.cls ≠ .dram then return p
    else do
      let (ln, _, _, _) ← orTrap p 0 (resolve s s.ctx .load p)
      return ln + (p &&& 63)

/-- The write of ldp.heal: at the home, where the pointer still stands, the resolved one replaces it (R208, R226). -/
def healPointer (va p q : Word) : Exec Unit := do
  let pl ← atomicPlace .atomic 0 va
  let now ← updatePlace 0 pl 8 8 (fun x => if x = p.toNat then some q.toNat else none)
  if now = p.toNat then record 0 (spanRange va.toNat 8 true) else pure ()

/-- ldp and ldp.heal (R208). -/
def loadPointer (i : Instr) (heal : Bool) (d a : Reg) (off : BitVec 13) (s : State) : Out :=
  insn .any i (do
    let va := memAddr (← getG a) off
    needAligned va 8 0
    let p := nw (← loadNat false 0 va 8)
    let q ← resolvePointer p
    if heal && q != p then inFlight i 0 (healPointer va p q)
    putG d q
    if !heal then modify (fun s => s.lateFrom i va)
    return .seq) s
/-- ldp (R208). -/
def execLdp (d a : Reg) (off : BitVec 13) (s : State) : Out := loadPointer (.ldp d a off) false d a off s
/-- ldp.heal (R208). -/
def execLdpHeal (d a : Reg) (off : BitVec 13) (s : State) : Out := loadPointer (.ldpHeal d a off) true d a off s

/-- peq (R209): equality of resolved pointers. -/
def execPeq (d a b : Reg) (s : State) : Out :=
  insn .any (.peq d a b) (do
    let x ← getG a
    let y ← getG b
    if x = y then putG d 1
    else do
      let p ← resolvePointer x
      let q ← resolvePointer y
      putG d (ofBool (p == q))
    return .seq) s

/-! ## Atomics (R225, R226) -/

/-- The width of the w field, in bytes. -/
def atomicWidth (w : Bool) : Nat := if w then 8 else 4
/-- The old value as gd takes it: sign-extended from 32 bits. -/
def atomicOld (w : Bool) (x : Nat) : Word := if w then nw x else sextNat 4 x
/-- The low width bits of a register. -/
def lowBits (w : Bool) (x : Word) : Nat := x.toNat % 2 ^ (8 * atomicWidth w)
/-- A value of the width read as signed. -/
def asSigned (w : Bool) (x : Nat) : Int := sint (atomicOld w x)

/-- What stays of a form that traps: the errors it has found (R402, R405). -/
def State.errorsFound (s t : State) : State :=
  (s.latent.filter (fun e => !t.latent.contains e)).foldl State.foundError s

/-- A form whose ordering bits have no effect where it traps: of what it did nothing stays (R378), but for an error it has found. -/
def unlessTraps {α : Type} (x : Exec α) : Exec α := fun s =>
  match x s with
  | .error (.trap t) u => .error (.trap t) (s.errorsFound u)
  | r => r

/-- What an atomic writes, given the old value, that of gb and that of gd; none where memory stays (R225). -/
def atomicResult (i : Instr) (w : Bool) (old b cmp : Nat) : Option Nat :=
  match i with
  | .amoswap .. => some b
  | .amoadd .. => some (old + b)
  | .amoand .. => some (old &&& b)
  | .amoor .. => some (old ||| b)
  | .amoxor .. => some (old ^^^ b)
  | .amomin .. => some (if asSigned w b < asSigned w old then b else old)
  | .amomax .. => some (if asSigned w old < asSigned w b then b else old)
  | .amocas .. => if old = cmp then some b else none
  | _ => none

/-- The new value within the width of the w field. -/
def atomicPut (i : Instr) (w : Bool) (y cmp : Word) (old : Nat) : Option Nat :=
  (atomicResult i w old (lowBits w y) (lowBits w cmp)).map (fun x => x % 2 ^ (8 * atomicWidth w))

/-- A form without ordering bits is noted, for a later vector store may still be performed before it (R204, R412). -/
def noteLateRead (i : Instr) (ordered : Bool) (va y cmp : Word) (wrote : Bool) : Exec Unit :=
  if ordered then pure ()
  else modCur (fun c => { c with lateRead := some { instr := i, va := va, b := y, cmp := cmp, wrote := wrote } })

/-- An atomic (R225, R226). -/
def atomic (i : Instr) (d a b : Reg) (acq rel : Bool) (scope : BitVec 2) (w : Bool) (s : State) : Out :=
  insn .any i (do
    let va ← getG a
    let n := atomicWidth w
    needAligned va n 0
    unlessTraps (do
      releaseIf rel scope.toNat
      let pl ← atomicPlace .atomic 0 va
      anchor va
      let y ← getG b
      let cmp ← getG d
      let old ← inFlight i 0 (updatePlace 0 pl n n (atomicPut i w y cmp))
      let wrote := (atomicPut i w y cmp old).isSome
      if wrote then record 0 (spanRange va.toNat n true)
      acquireIf acq 1 scope.toNat
      putG d (atomicOld w old)
      noteLateRead i (acq || rel) va y cmp wrote)
    return .seq) s

/-- amoswap (R225). -/
def execAmoswap (d a b : Reg) (acq rel : Bool) (scope : BitVec 2) (w : Bool) (s : State) : Out :=
  atomic (.amoswap d a b acq rel scope w) d a b acq rel scope w s
/-- amoadd (R225). -/
def execAmoadd (d a b : Reg) (acq rel : Bool) (scope : BitVec 2) (w : Bool) (s : State) : Out :=
  atomic (.amoadd d a b acq rel scope w) d a b acq rel scope w s
/-- amoand (R225). -/
def execAmoand (d a b : Reg) (acq rel : Bool) (scope : BitVec 2) (w : Bool) (s : State) : Out :=
  atomic (.amoand d a b acq rel scope w) d a b acq rel scope w s
/-- amoor (R225). -/
def execAmoor (d a b : Reg) (acq rel : Bool) (scope : BitVec 2) (w : Bool) (s : State) : Out :=
  atomic (.amoor d a b acq rel scope w) d a b acq rel scope w s
/-- amoxor (R225). -/
def execAmoxor (d a b : Reg) (acq rel : Bool) (scope : BitVec 2) (w : Bool) (s : State) : Out :=
  atomic (.amoxor d a b acq rel scope w) d a b acq rel scope w s
/-- amomin (R225). -/
def execAmomin (d a b : Reg) (acq rel : Bool) (scope : BitVec 2) (w : Bool) (s : State) : Out :=
  atomic (.amomin d a b acq rel scope w) d a b acq rel scope w s
/-- amomax (R225). -/
def execAmomax (d a b : Reg) (acq rel : Bool) (scope : BitVec 2) (w : Bool) (s : State) : Out :=
  atomic (.amomax d a b acq rel scope w) d a b acq rel scope w s
/-- amocas (R225). -/
def execAmocas (d a b : Reg) (acq rel : Bool) (scope : BitVec 2) (w : Bool) (s : State) : Out :=
  atomic (.amocas d a b acq rel scope w) d a b acq rel scope w s

/-- A ticket of `k` taken on the record at a place, in one atomic step (R227): what next and limit read. -/
def takeTicket (pl : Place) (n k : Nat) : Exec (Nat × Nat) := do
  let give (next limit : Nat) : Option Nat := if k ≠ 0 ∧ next + k ≤ limit then some (next + k) else none
  if n = 4 then do
    let x ← updatePlace 0 pl 8 4 (fun x => give (x % 2 ^ 32) (x / 2 ^ 32))
    return (x % 2 ^ 32, x / 2 ^ 32)
  else do
    let limit ← readPlace 0 { pl with loc := pl.loc + n } n
    let next ← updatePlace 0 pl n n (fun next => give next limit)
    return (next, limit)

/-- What a ticket gives its register: the first number handed out, or −1; a ticket of 0 is never refused (R227, R377). -/
def ticketGiven (k next limit : Nat) : Word := if k = 0 ∨ next + k ≤ limit then nw next else -1

/-- ticket (R227): next is handed out while the limit allows it; a ticket of 0 is never refused (R377). -/
def execTicket (d a b : Reg) (acq rel : Bool) (scope : BitVec 2) (w : Bool) (s : State) : Out :=
  insn .any (.ticket d a b acq rel scope w) (do
    let va ← getG a
    let n := atomicWidth w
    needAligned va (2 * n) 0
    unlessTraps (do
      releaseIf rel scope.toNat
      let pl ← atomicPlace .atomic 0 va
      anchor va
      let y ← getG b
      let k := lowBits w y
      let (next, limit) ← inFlight (.ticket d a b acq rel scope w) 0 (takeTicket pl n k)
      let wrote := k != 0 && next + k ≤ limit
      if wrote then record 0 (spanRange va.toNat n true)
      acquireIf acq 1 scope.toNat
      putG d (ticketGiven k next limit)
      noteLateRead (.ticket d a b acq rel scope w) (acq || rel) va y 0 wrote)
    return .seq) s

/-! ## What a later vector store precedes (R204, R412) -/

/-- Is a word executed after a scalar load, atomic or ticket one across which a vector store may still precede that: scalar arithmetic or a
vector form that neither releases nor names the register it wrote (R219, R412; log entry 84)? -/
def quietAfter (r : LateRead) (w : IWord) : Bool :=
  let major := (bits w 26 6).toNat
  let d := bits (wordOf r.instr) 21 5
  let released : Bool := match decode w with
    | some (.vld _ _ _ _ o) | some (.vst _ _ _ _ o) | some (.vlds _ _ _ _ o) | some (.vsts _ _ _ _ o) | some (.vldff _ _ _ o)
    | some (.vldx _ _ _ _ _ o) | some (.vstx _ _ _ _ _ o) | some (.vscadd _ _ _ _ _ o) | some (.vsld _ _ _ o) | some (.vsst _ _ _ o)
    | some (.vgsld _ _ _ o) => o.getLsbD 0
    | some (.vsave ..) | some (.vrestore ..) | none => true
    | _ => false
  (decide (1 ≤ major ∧ major ≤ 0x0B) || decide (0x1A ≤ major ∧ major ≤ 0x26)) && !released &&
    bits w 21 5 != d && bits w 16 5 != d && bits w 11 5 != d

/-- Before the next word is executed: what a vector store may still precede is forgotten where the word orders it (R412). -/
def State.noteLate (s : State) (w : IWord) : State :=
  match s.cur.lateRead with
  | none => s
  | some r => if quietAfter r w then s else { s with cur := { s.cur with lateRead := none } }

/-- The store of an atomic step taken back from those that stand at its word: what each of the later ones overwrote, and the bits of it
that still stand. -/
def withdrawn (e : Loose) : BitVec 64 → List Loose → List Loose × BitVec 64
  | m, [] => ([], m)
  | m, x :: xs =>
    if x.word = e.word then
      let (rest, m') := withdrawn e (if x.home then m &&& ~~~x.mask else m) xs
      ({ x with was := mix x.was e.was (x.mask &&& m), old := mix x.old e.was (x.mask &&& m) } :: rest, m')
    else
      let (rest, m') := withdrawn e m xs
      (x :: rest, m')

/-- The atomic step of the scalar stream on an aligned word taken back: nothing but the stream itself has seen it. -/
def withdrawStep (word : Nat) : Exec Unit := do
  let s ← get
  let mine (e : Loose) : Bool := e.home && e.word == word && e.atomic && e.stream == 0
  match s.cur.loose.reverse.find? mine with
  | none => idle
  | some e => do
    need (e.seen == streamBit 0 && !e.shown && e.rel.isNone)
    let before := s.cur.loose.takeWhile (fun x => x != e)
    let (after, m) := withdrawn e e.mask (s.cur.loose.drop (before.length + 1))
    let now := memWord s.mem (8 * word)
    need (now &&& m == e.new &&& m)
    set { s with mem := memPutNat s.mem (8 * word) 8 (mix now e.was m).toNat, cur := { s.cur with loose := before ++ after } }

/-- The scalar load, atomic or ticket performed again, after the vector store that has been performed meanwhile (R204, R412). -/
def readAgain (r : LateRead) : Exec Unit := do
  let plain_ (d : Reg) (n : Nat) (signed : Bool) : Exec Unit := do putG d (loadedWord n signed (← loadNat false 0 r.va n))
  let step_ (n : Nat) (x : Place → Exec Bool) : Exec Unit := do
    let s ← get
    let (_, pl, _, _) ← orTrap r.va 0 (resolve s s.ctx .atomic r.va)
    need (!(pl.cls matches .bridge ..))
    if r.wrote then withdrawStep ((pl.loc + wbits r.va 5 0) / 8)
    let pl ← atomicPlace .atomic 0 r.va
    let wrote ← x pl
    if wrote && !r.wrote then record 0 (spanRange r.va.toNat n true)
    modCur (fun c => { c with lateRead := some { r with wrote := wrote } })
  match r.instr with
  | .ldb d _ _ => plain_ d 1 false
  | .ldh d _ _ => plain_ d 2 false
  | .ldw d _ _ => plain_ d 4 false
  | .ldd d _ _ => plain_ d 8 false
  | .ldbs d _ _ => plain_ d 1 true
  | .ldhs d _ _ => plain_ d 2 true
  | .ldws d _ _ => plain_ d 4 true
  | .ldp d _ _ => do putG d (← resolvePointer (nw (← loadNat false 0 r.va 8)))
  | .ticket d _ _ _ _ _ w => step_ (atomicWidth w) (fun pl => do
    let k := lowBits w r.b
    let (next, limit) ← takeTicket pl (atomicWidth w) k
    putG d (ticketGiven k next limit)
    return k != 0 && next + k ≤ limit)
  | .amoswap d _ _ _ _ _ w | .amoadd d _ _ _ _ _ w | .amoand d _ _ _ _ _ w | .amoor d _ _ _ _ _ w | .amoxor d _ _ _ _ _ w
  | .amomin d _ _ _ _ _ w | .amomax d _ _ _ _ _ w | .amocas d _ _ _ _ _ w => step_ (atomicWidth w) (fun pl => do
    let old ← updatePlace 0 pl (atomicWidth w) (atomicWidth w) (atomicPut r.instr w r.b r.cmp)
    putG d (atomicOld w old)
    return (atomicPut r.instr w r.b r.cmp old).isSome)
  | _ => pure ()

/-- The end of a vector store that releases nothing: by a free choice it has been performed before the scalar load, atomic or ticket that
came last, which is performed again (R204, R412). Where that cannot be, all stays as it is. -/
def storedBefore : Exec Unit := do
  let s ← get
  match s.cur.lateRead with
  | none => pure ()
  | some r =>
    if ← drawBit then
      match ← attempt (readAgain r) with
      | .ok _ => pure ()
      | .error _ => modify (fun t => { s with fresh := t.fresh })

/-- waita (R228): continues with the word once it differs from gb; otherwise the agent sleeps. -/
def execWaita (d a b : Reg) (acq rel : Bool) (scope : BitVec 2) (w : Bool) (s : State) : Out :=
  insn .any (.waita d a b acq rel scope w) (do
    let va ← getG a
    let n := atomicWidth w
    needAligned va n 0
    unlessTraps (do
      releaseIf rel scope.toNat
      let pl ← atomicPlace .wait 0 va
      anchor va
      let x ← readPlace 0 pl n
      if x = lowBits w (← getG b) then throw (.wait .waita)
      noteAwaited pl.loc
      acquireIf acq 1 scope.toNat
      putG d (atomicOld w x))
    return .seq) s

/-! ## Ends of waits -/

/-- Agent `id`, standing in wait `w`, executes its instruction again from its start (R321): `run` is that instruction's
meaning. Where it waits again, the wait is the same one (R360). -/
def rerun (w : Wait) (id : Nat) (run : Instr → State → Out) (s : State) : Out :=
  match s.agent? id with
  | none => .next s
  | some a =>
    match a.status with
    | .waiting w' i =>
      if w' = w then
        let t := s.focus id
        match run i { t with cur := { t.cur with status := .running } } with
        | .next u =>
          let u := match u.cur.status with
            | .waiting w'' _ => if w'' = w then { u with cur := { u.cur with waitSince := a.waitSince } } else u
            | _ => u
          .next (u.focus s.cur.id)
        | o => o
      else .next s
    | _ => .next s

/-! ## Fences and barriers (R229–R231) -/

/-- fence (R230): its ordering, then its release and acquire. -/
def execFence (mask : BitVec 5) (kind : BitVec 2) (acq rel : Bool) (scope : BitVec 2) (s : State) : Out :=
  insn .any (.fence mask kind acq rel scope) (do
    let (e, l) := fenceSides mask kind
    fenceOrder e l
    releaseIf rel scope.toNat
    acquireIf acq 0 scope.toNat
    return .seq) s

/-- Is agent `b` a member of `a`'s party (R231)? 0 cluster, 1 core, 2 launch, 3 gang. -/
def inParty (party : Nat) (a b : Agent) : Bool :=
  b.kind == .thread && b.launch == a.launch && b.status != .free &&
  match party with
  | 0 => b.cluster == a.cluster
  | 1 => b.cluster == a.cluster && b.core == a.core
  | 2 => true
  | _ => b.id == a.id || (a.gang != 0 && b.cluster == a.cluster && b.thread == a.thread && b.gang != 0)

/-- The BARRIERs for a party an agent has arrived at: those completed and the one it waits in; an agent that has ended
counts as arrived at every one (R231). -/
def arrivals (party : Nat) (b : Agent) : Option Nat :=
  match b.status with
  | .ended _ => none
  | .waiting .barrier (.barrier m _ _ _) =>
    some (b.barriers.toList.getD party 0 + if m.toNat = party then 1 else 0)
  | _ => some (b.barriers.toList.getD party 0)

/-- Have all other members arrived at the agent's next BARRIER for the party? -/
def State.allArrived (s : State) (party : Nat) : Bool :=
  let n := s.cur.barriers.toList.getD party 0 + 1
  s.others.all (fun b => !inParty party s.cur b || (match arrivals party b with | none => true | some k => n ≤ k))

/-- The stores that another agent has read are seen by every stream from here on (R252). -/
def joinShown (ls : List Loose) : List Loose :=
  settleLoose (ls.map (fun e => if e.shown then { e with seen := e.seen ||| threadStreams } else e))

/-- The agent's BARRIER for the party completes: every later access, in every stream, is performed after it, so after what
the parties have seen of the agent's stores (R231, R252). -/
def completeBarrier (party : Nat) : Exec Unit := modCur (fun a =>
  { a with loose := joinShown a.loose,
           barriers := if h : party < 4 then a.barriers.set party (a.barriers[party] + 1) h else a.barriers })

/-- barrier (R231): releases, arrives, completes once every member has arrived, acquires. -/
def execBarrier (mask : BitVec 5) (acq rel : Bool) (scope : BitVec 2) (s : State) : Out :=
  insn .threadOnly (.barrier mask acq rel scope) (do
    releaseIf rel scope.toNat
    if (← get).allArrived mask.toNat then do
      completeBarrier mask.toNat
      acquireIf acq 0 scope.toNat
      return .seq
    else throw (.wait .barrier)) s

/-- BARRIER_COMPLETE (R231, R43): a member in a barrier that every member has arrived at continues. -/
def execBarrierComplete (ag : Nat) (s : State) : Out :=
  rerun .barrier ag (fun i t => match i with
    | .barrier mask acq rel scope => execBarrier mask acq rel scope t
    | _ => .next t) s

end Sys2Proof.Machine
end

