-- ==== Sys2Proof/Machine/VecInt.lean ====
section
/-! DEFINITION. Vector integer arithmetic, major 0x1B (R159, R160, R163). -/

namespace Sys2Proof.Machine

/-- The operation format of sources (R98): of three, that of the first two is taken together with the third (DESIGN CHOICE:
log entry 53). -/
def State.opFmt (s : State) (srcs : List Reg) : Fmt :=
  match srcs with
  | [] => 0
  | v :: rest => rest.foldl (fun f w => promote f (tagFmt (s.tag w)))
      (if (tagFmt (s.tag v)).isBlock then 6 else tagFmt (s.tag v))

/-- The integer form of R160 over va, vb and, where `readsD`, vd: `op f x y z` is the element result before it is narrowed,
with its events. -/
def vint (i : Instr) (readsD : Bool) (d a b p : Reg) (op : Fmt → Int → Int → Int → Int × Events) (s : State) : Out :=
  vinsn (if i matches .vmul .. | .vmulh .. | .vmacc .. then 0 else 1) i (do
    let srcs := if readsD then [a, b, d] else [a, b]
    each srcs checkSource
    let f := (← get).opFmt srcs
    if f.isInt = false then mismatch (some a) (some b) (if readsD then some d else none)
    elementwise d p f srcs (fun s k =>
      let (x, e) := op f (s.intOperand a.toNat k) (s.intOperand b.toNat k) (s.intOperand d.toNat k)
      (intBits f x, e))) s

/-- A value clamped to the range of the format, with OF where it lies outside (R82). -/
def clampInt (f : Fmt) (x : Int) : Int × Events :=
  if x < f.intMin then (f.intMin, evOF) else if f.intMax < x then (f.intMax, evOF) else (x, 0)

/-- The shift count of the shift forms: b read as unsigned, mod w (R163). -/
def shiftBy (f : Fmt) (y : Int) : Nat := intBits f y % f.bits
/-- The bits of x read as a signed number of the format's width (R163 vsra). -/
def asSignedBits (f : Fmt) (x : Int) : Int :=
  let u := intBits f x
  if 2 ^ (f.bits - 1) ≤ u then (u : Int) - 2 ^ f.bits else u

/-- vadd (R163). -/
def execVadd (d a b p : Reg) (s : State) : Out :=
  vint (.vadd d a b p) false d a b p (fun _ x y _ => (x + y, 0)) s
/-- vsub (R163). -/
def execVsub (d a b p : Reg) (s : State) : Out :=
  vint (.vsub d a b p) false d a b p (fun _ x y _ => (x - y, 0)) s
/-- vqadd (R163). -/
def execVqadd (d a b p : Reg) (s : State) : Out :=
  vint (.vqadd d a b p) false d a b p (fun f x y _ => clampInt f (x + y)) s
/-- vqsub (R163). -/
def execVqsub (d a b p : Reg) (s : State) : Out :=
  vint (.vqsub d a b p) false d a b p (fun f x y _ => clampInt f (x - y)) s
/-- vmul (R163). -/
def execVmul (d a b p : Reg) (s : State) : Out :=
  vint (.vmul d a b p) false d a b p (fun _ x y _ => (x * y, 0)) s
/-- vmulh (R163). -/
def execVmulh (d a b p : Reg) (s : State) : Out :=
  vint (.vmulh d a b p) false d a b p (fun f x y _ => (x * y / 2 ^ f.bits, 0)) s
/-- vmacc (R163). -/
def execVmacc (d a b p : Reg) (s : State) : Out :=
  vint (.vmacc d a b p) true d a b p (fun _ x y z => (z + x * y, 0)) s
/-- vand (R163). -/
def execVand (d a b p : Reg) (s : State) : Out :=
  vint (.vand d a b p) false d a b p (fun f x y _ => ((intBits f x &&& intBits f y : Nat), 0)) s
/-- vor (R163). -/
def execVor (d a b p : Reg) (s : State) : Out :=
  vint (.vor d a b p) false d a b p (fun f x y _ => ((intBits f x ||| intBits f y : Nat), 0)) s
/-- vxor (R163). -/
def execVxor (d a b p : Reg) (s : State) : Out :=
  vint (.vxor d a b p) false d a b p (fun f x y _ => ((intBits f x ^^^ intBits f y : Nat), 0)) s
/-- vsll (R163). -/
def execVsll (d a b p : Reg) (s : State) : Out :=
  vint (.vsll d a b p) false d a b p (fun f x y _ => ((intBits f x <<< shiftBy f y : Nat), 0)) s
/-- vsrl (R163). -/
def execVsrl (d a b p : Reg) (s : State) : Out :=
  vint (.vsrl d a b p) false d a b p (fun f x y _ => ((intBits f x >>> shiftBy f y : Nat), 0)) s
/-- vsra (R163). -/
def execVsra (d a b p : Reg) (s : State) : Out :=
  vint (.vsra d a b p) false d a b p (fun f x y _ => (asSignedBits f x >>> shiftBy f y, 0)) s
/-- vmin (R163). -/
def execVmin (d a b p : Reg) (s : State) : Out :=
  vint (.vmin d a b p) false d a b p (fun _ x y _ => (min x y, 0)) s
/-- vmax (R163). -/
def execVmax (d a b p : Reg) (s : State) : Out :=
  vint (.vmax d a b p) false d a b p (fun _ x y _ => (max x y, 0)) s

end Sys2Proof.Machine
end

