-- ==== Sys2Proof/Machine/VecFloat.lean ====
section
/-! DEFINITION. Vector floating-point arithmetic, major 0x1C (R164, R165). -/

namespace Sys2Proof.Machine

/-- The floating-point form of R160: `op f r x y z` is the element result, its operands already in values. Division, square root and
the estimates run on the FMA pipes too, where R24 names no pipe (DESIGN CHOICE: log entry 66). -/
def vfp (i : Instr) (srcs : List Reg) (b? d? : Option Reg) (d a p : Reg) (rm : BitVec 2)
    (op : Fmt → Rnd → Val → Val → Val → Nat × Events) (s : State) : Out :=
  vinsn (if i matches .vfmin .. | .vfmax .. then 1 else 0) i (do
    each srcs checkSource
    let f := (← get).opFmt srcs
    if f.isFloat = false then mismatch (some a) b? d?
    elementwise d p f srcs (fun s k =>
      let r := s.rnd rm k
      let (x, e1) := s.operand a.toNat k r
      let (y, e2) := match b? with | none => (Val.nan, 0) | some b => s.operand b.toNat k r
      let (z, e3) := match d? with | none => (Val.nan, 0) | some v => s.operand v.toNat k r
      let (w, e4) := op f r x y z
      (w, e1 ||| e2 ||| e3 ||| e4))) s

/-- A binary form. -/
def vfp2 (i : Instr) (d a b p : Reg) (rm : BitVec 2) (op : Fmt → Rnd → Val → Val → Nat × Events) (s : State) : Out :=
  vfp i [a, b] (some b) none d a p rm (fun f r x y _ => op f r x y) s
/-- A unary form. -/
def vfp1 (i : Instr) (d a p : Reg) (rm : BitVec 2) (op : Fmt → Rnd → Val → Nat × Events) (s : State) : Out :=
  vfp i [a] none none d a p rm (fun f r x _ _ => op f r x) s
/-- A form that also reads vd. -/
def vfp3 (i : Instr) (d a b p : Reg) (rm : BitVec 2) (op : Fmt → Rnd → Val → Val → Val → Nat × Events) (s : State) : Out :=
  vfp i [a, b, d] (some b) (some d) d a p rm op s

/-- vfadd, vfsub, vfmul, vfdiv (R164). -/
def execVfadd (d a b p : Reg) (rm : BitVec 2) (s : State) : Out := vfp2 (.vfadd d a b p rm) d a b p rm fAdd s
def execVfsub (d a b p : Reg) (rm : BitVec 2) (s : State) : Out := vfp2 (.vfsub d a b p rm) d a b p rm fSub s
def execVfmul (d a b p : Reg) (rm : BitVec 2) (s : State) : Out := vfp2 (.vfmul d a b p rm) d a b p rm fMul s
def execVfdiv (d a b p : Reg) (rm : BitVec 2) (s : State) : Out := vfp2 (.vfdiv d a b p rm) d a b p rm fDiv s
/-- vfsqrt (R164). -/
def execVfsqrt (d a p : Reg) (rm : BitVec 2) (s : State) : Out := vfp1 (.vfsqrt d a p rm) d a p rm fSqrt s
/-- vfma: d + a × b, rounded once (R164). -/
def execVfma (d a b p : Reg) (rm : BitVec 2) (s : State) : Out := vfp3 (.vfma d a b p rm) d a b p rm fMulAdd s
/-- vfms: d − a × b, rounded once (R164). -/
def execVfms (d a b p : Reg) (rm : BitVec 2) (s : State) : Out :=
  vfp3 (.vfms d a b p rm) d a b p rm (fun f r x y z => fMulAdd f r x.negate y z) s
/-- The lesser or the greater of two values in a format that holds both, a subnormal one flushed under fz (R86, R92). -/
def fMinMax (wantMax : Bool) (f : Fmt) (r : Rnd) (x y : Val) : Nat × Events :=
  roundVal f { rndRNE with fz := r.fz } (minMaxVal wantMax x y)
/-- vfmin, vfmax (R164, R86). -/
def execVfmin (d a b p : Reg) (rm : BitVec 2) (s : State) : Out :=
  vfp2 (.vfmin d a b p rm) d a b p rm (fMinMax false) s
def execVfmax (d a b p : Reg) (rm : BitVec 2) (s : State) : Out :=
  vfp2 (.vfmax d a b p rm) d a b p rm (fMinMax true) s
/-- vfrecip: 1 / a (R164). -/
def execVfrecip (d a p : Reg) (rm : BitVec 2) (s : State) : Out :=
  vfp1 (.vfrecip d a p rm) d a p rm (fun f r x => fDiv f r (.fin false 1 0) x) s
/-- vfrsqrt: 1 / √a (R164). -/
def execVfrsqrt (d a p : Reg) (rm : BitVec 2) (s : State) : Out := vfp1 (.vfrsqrt d a p rm) d a p rm fRsqrt s

/-! The sign forms keep every bit of an operand of the operation format but the sign (R85). -/

/-- The bits of an operand in the operation format: as stored where it has that format, else converted (R164), which under fz
flushes a subnormal one (R92; log entry 57). An FP8 or block operand whose value is subnormal in the operation format is not flushed, nor is it
as a result, for a sign form rounds nothing (DESIGN CHOICE: log entry 81). -/
def State.signOperand (s : State) (v k : Nat) (f : Fmt) (r : Rnd) : Nat × Events :=
  if tagFmt (s.v v).tag = f then (s.elem v k, 0)
  else
    let (x, e) := s.operand v k r
    ((roundVal f rndRNE x).1, e)

/-- A sign form: `op sign x y` gives the bits. R24 names no pipe for it; it runs on the FMA pipes (DESIGN CHOICE: log entry 66). -/
def vsign (i : Instr) (srcs : List Reg) (b? : Option Reg) (d a p : Reg) (rm : BitVec 2)
    (op : Nat → Nat → Nat → Nat) (s : State) : Out :=
  vinsn 0 i (do
    each srcs checkSource
    let f := (← get).opFmt srcs
    if f.isFloat = false then mismatch (some a) b? none
    elementwise d p f srcs (fun s k =>
      let r := s.rnd rm k
      let (x, e1) := s.signOperand a.toNat k f r
      let (y, e2) := match b? with | none => (0, 0) | some b => s.signOperand b.toNat k f r
      (op f.signBit x y, e1 ||| e2))) s

/-- vfabs, vfneg, vfsgnj (R164, R85). -/
def execVfabs (d a p : Reg) (rm : BitVec 2) (s : State) : Out :=
  vsign (.vfabs d a p rm) [a] none d a p rm (fun sg x _ => x % sg) s
def execVfneg (d a p : Reg) (rm : BitVec 2) (s : State) : Out :=
  vsign (.vfneg d a p rm) [a] none d a p rm (fun sg x _ => x ^^^ sg) s
def execVfsgnj (d a b p : Reg) (rm : BitVec 2) (s : State) : Out :=
  vsign (.vfsgnj d a b p rm) [a, b] (some b) d a p rm (fun sg x y => x % sg + y / sg % 2 * sg) s

/-- The class word of a value of format f with these bits (R165). -/
def classWord (f : Fmt) (x : Nat) : Nat :=
  let v := decodeFloat f x
  let e := (x / 2 ^ f.fracBits) % 2 ^ f.expBits
  let kind := match v with
    | .nan => 4
    | .inf _ => 3
    | .fin _ m _ => if m = 0 then 0 else if e = 0 then 1 else 2
  let int := match v with
    | .fin _ m e => m == 0 || 0 ≤ e || m % 2 ^ (-e).toNat == 0
    | _ => false
  kind + (if int then 8 else 0) + (if x % f.signBit = f.maxFinite then 16 else 0) + 32 * (x / f.signBit % 2)

/-- The integer format of the class word (R165). -/
def classFmt (f : Fmt) : Fmt := if f.bits ≤ 16 then 2 else if f = 6 then 3 else 4

/-- vfclass (R165): the operand as stored. R24 names no pipe for it (DESIGN CHOICE: log entry 66). -/
def execVfclass (d a p : Reg) (rm : BitVec 2) (s : State) : Out :=
  vinsn 0 (.vfclass d a p rm) (do
    checkSource a
    let f := (← get).opFmt [a]
    if f.isFloat = false then mismatch (some a) none none
    elementwise d p (classFmt f) [a] (fun s k => (classWord f (s.bitsIn a.toNat k f), 0))) s

end Sys2Proof.Machine
end

