-- ==== Sys2Proof/Machine/VecConfig.lean ====
section
/-! DEFINITION. Length and type, reinterpretation, spill frames and the vector save area: major 0x1A (R117, R124–R127,
R156–R158). -/

namespace Sys2Proof.Machine

/-! ## VSETVLI and VSETVL (R157) -/

/-- The effect of a vtype value and a request (R157): VL, dlen, VTYPE, VSTART and gd. -/
def setLength (d a : Reg) (t : Nat) (s : State) : State :=
  let f : Fmt := bitsOf t 12 9
  let lim := vlmaxOf f (2 ^ bitsOf t 8 7)
  let n := if a = 0 then lim else min (s.g a).toNat lim
  let len := if f.isBlock then 32 * ceilDiv n 32 else n
  (s.setRegs { s.regs with vl := mkVl len n, vtype := nw t, vstart := 0 }).setG d (nw n)

/-- A convoy of vector instructions ends with the last one queued: a vector configuration instruction stands after it (R28). -/
def State.closeConvoy (s : State) : State :=
  { s with cur := { s.cur with vqueue := s.cur.vqueue.modify (s.cur.vqueue.length - 1) (fun t => { t with closed := true }) } }

/-- vsetvli (R157). -/
def execVsetvli (d a : Reg) (fmt : BitVec 4) (grp tail : BitVec 2) (s : State) : Out :=
  plain .threadOnly (.vsetvli d a fmt grp tail)
    (fun s => (setLength d a (512 * fmt.toNat + 128 * grp.toNat + 32 * tail.toNat) s).closeConvoy) s

/-- Does a value of the vtype field hold a reserved code or a non-zero bit of [4:0] (R158)? -/
def vtypeBad (t : Nat) : Bool := 13 ≤ bitsOf t 12 9 || bitsOf t 6 5 == 3 || bitsOf t 4 0 != 0

/-- vsetvl (R157, R158): VTYPE_BAD on a reserved value, with nothing changed. -/
def execVsetvl (d a b : Reg) (s : State) : Out :=
  insn .threadOnly (.vsetvl d a b) (do
    let x ← getG b
    let t := wbits x 12 0
    if vtypeBad t then trap 0x48 (some x)
    modify (fun s => (setLength d a t s).closeConvoy)
    return .seq) s

/-! ## VRETAG (R117) -/

/-- The scale word of block `b` of the new group (R117): that of the old block that held its first byte; 0 where that block is
numbered 32 or more, and so has no word (DESIGN CHOICE: log entry 64). -/
def retagScale (s : State) (a : Nat) (f : Fmt) (b : Nat) : Nat :=
  let p := 32 * b * f.bits / 8
  let r := a + p / 512
  let t := (s.v r).tag
  if (tagFmt t).isBlock then
    let q := r - r % tagGroup t
    let e := (512 * (r - q) + p % 512) * 8 / (tagFmt t).bits
    if (s.v q).scaleRow then field (s.v q).scale (16 * (e / 32)) 16 else 0
  else 0

/-- Is the old scale row copied as it is (R117)? -/
def retagKeeps (s : State) (a : Nat) (f : Fmt) (g : Nat) : Bool :=
  ((List.range g).all (fun j => (s.v (a + j)).tag == mkTag f g)) && a % g == 0

/-- Member `j` of the new group (R117). -/
def retagMember (s : State) (a : Nat) (f : Fmt) (g j : Nat) : VReg :=
  let old := s.v (a + j)
  let wl := if tagGroup (s.v a).tag = g then old.wlen.toNat * (tagFmt old.tag).bits / f.bits else 4096 / f.bits
  let first := f.isBlock && j == 0
  let n := min (4096 * g / f.bits / 32) 32
  { tag := mkTag f g, tail := old.tail, wlen := BitVec.ofNat 11 wl, image := old.image, rows := old.rows,
    scaleRow := first,
    scale := if first = false then 0
      else if retagKeeps s a f g then old.scale
      else (List.range n).foldl (fun m b => putField m (16 * b) 16 (retagScale s a f b)) 0 }

/-- A register replaced, with what that leaves in VHIGH and VDIRTY: `written` tells whether a row of it, the scale row among them, is
written, or only its descriptor changes (R118, R121, R122). For VHIGH a change of descriptors alone counts as a write (DESIGN
CHOICE: log entry 76). -/
def State.replaceV (s : State) (written : Bool) (n : Nat) (r : VReg) : State :=
  let old := s.v n
  let s := s.setV n r
  let q := noteHigh s.regs n (highRow r.rows)
  s.setRegs (if r.tag ≠ old.tag ∨ (written ∧ (r.rows ≠ 0 ∨ r.scaleRow)) then { q with vdirty := q.vdirty ||| nw (2 ^ n) } else q)

/-- vretag (R117): GROUP_ALIGN for va, then vd; rows are taken for what it maps (R115). In place it writes no row but a scale row
made anew (R122). -/
def execVretag (d a : Reg) (fmt : BitVec 4) (grp : BitVec 2) (s : State) : Out :=
  vinsn 1 (.vretag d a fmt grp) (do
    let g := 2 ^ grp.toNat
    let s ← get
    if a.toNat % g ≠ 0 then trap 0x41 (some (zext a)) (zext (s.tag a))
    if d.toNat % g ≠ 0 then trap 0x41 (some (zext d)) (zext (mkTag fmt.toNat g))
    let new := (List.range g).map (fun j => (d.toNat + j, retagMember s a.toNat fmt.toNat g j))
    needRows (new.foldl (fun n e => n + newRows (s.v e.1) e.2) 0)
    let anew := Fmt.isBlock fmt.toNat && !retagKeeps s a.toNat fmt.toNat g
    modify (fun s => new.foldl (fun s e => s.replaceV (d != a || (anew && e.1 == d.toNat)) e.1 e.2) s)
    setVstart 0) s

/-! ## Frames and areas in memory (R124) -/

/-- FRAME_ALIGN unless the address is a multiple of 64 (R124); `strm` is the stream of a read (R368). -/
def frameAddress (a : Reg) (strm : Nat) : Exec Word := do
  let va ← getG a
  if va.toNat % 64 ≠ 0 then trap 0x43 (some va) 0 strm
  return va

/-- Bytes stored from `va` on as 8-byte words in the unit-stride stream, once every one of them has translated. -/
def storeBytes (va : Word) (xs : List Byte) : Exec Unit := do
  let ks := List.range (xs.length / 8)
  each ks (fun k => checkAccess false .store 1 (va + 8 * nw k) 8)
  each ks (fun k => storeNat false 1 (va + 8 * nw k) 8 (areaNat xs (8 * k) 8))
  record 1 (spanRange va.toNat xs.length false)

/-- Bytes loaded from `va` on as 8-byte words in the unit-stride stream. -/
def loadBytes (va : Word) (n : Nat) : Exec (List Byte) := do
  let ws ← eachGet (List.range (n / 8)) (fun k => loadNat false 1 (va + 8 * nw k) 8)
  return (ws.map (fun w => leBytes 8 w)).flatten

/-- An access of a frame or area: a fault leaves VSTART at 0 (R124); one that waits leaves it as it is. -/
def frameAccess {α : Type} (x : Exec α) : Exec α := do
  match ← attempt x with
  | .ok y => return y
  | .error .idle => idle
  | .error e => do setVstart 0; throw e

/-- The bytes of a spill frame of the group at `v` with recorded length `n` (R125). -/
def State.spillBytes (s : State) (v n : Nat) : List Byte :=
  let r := s.v v
  let f := tagFmt r.tag; let g := tagGroup r.tag
  let rows := ceilDiv (n * f.bits) 512
  let img := (List.range g).foldl (fun m j =>
    let r := s.v (v + j)
    m + (clearRows r.image r.rows).toNat * 2 ^ (4096 * j)) 0
  let size := 64 + 64 * rows + if f.isBlock then 64 else 0
  leBytes 1 2 ++ leBytes 1 v ++ leBytes 1 r.tag.toNat ++ leBytes 1 r.tail.toNat ++ leBytes 4 0 ++ leBytes 8 n ++
    leBytes 8 size ++ leBytes 40 0 ++ leBytes (64 * rows) (img % 2 ^ (n * f.bits)) ++
    (if f.isBlock then leBytes 64 (if r.scaleRow then r.scale.toNat else 0) else [])

/-- vspill (R125): the frame of the group at vd, under its own tag. -/
def execVspill (d a : Reg) (s : State) : Out :=
  vinsn 2 (.vspill d a) (do
    checkSource d
    let va ← frameAddress a 6
    let s ← get
    let t := s.tag d
    let n := min s.regs.len (capacity (tagFmt t) * tagGroup t)
    settleOlder
    inFlight (.vspill d a) 1 (frameAccess (storeBytes va (s.spillBytes d.toNat n)))
    setVstart 0) s

/-- vsave (R126): the vector save area; gd takes its size. -/
def execVsave (d a : Reg) (s : State) : Out :=
  insn .threadOnly (.vsave d a) (do
    let va ← frameAddress a 6
    resync
    queued 2 (.vsave d a) (do
      let xs := (← get).vareaBytes
      inFlight (.vsave d a) 1 (frameAccess (storeBytes va xs))
      setVstart 0
      putG d (nw xs.length))
    return .seq) s

/-! ## VRESTORE (R127) -/

/-- The recorded group of a spill frame: register, format, group, tail, length. -/
def frameHead (xs : List Byte) : Nat × Fmt × Nat × Nat × Nat :=
  let t := BitVec.ofNat 6 (areaNat xs 2 1)
  (areaNat xs 1 1, tagFmt t, tagGroup t, areaNat xs 3 1, areaNat xs 8 8)

/-- The size of a frame of a group's length (R125). -/
def frameSize (f : Fmt) (n : Nat) : Nat := 64 + 64 * ceilDiv (n * f.bits) 512 + if f.isBlock then 64 else 0

/-- Is the frame one VSPILL writes (R127, R375)? -/
def frameOk (xs : List Byte) : Bool :=
  let (v, f, g, tail, n) := frameHead xs
  areaNat xs 2 1 < 52 && tail ≤ 2 && v < 32 && v % g == 0 && n ≤ min (capacity f * g) 1024 &&
    areaNat xs 16 8 == frameSize f n

/-- Member `j` of a group restored from a frame (R127, R111): the rows stored are mapped, the others are not. Bytes past the recorded
length, which VSPILL writes as zero, are restored as zero whatever the frame holds (DESIGN CHOICE: log entry 75). -/
def frameMember (xs : List Byte) (j : Nat) : VReg :=
  let (_, f, g, tail, n) := frameHead xs
  let c := capacity f
  let k := min (n - j * c) c
  let body := leNat ((xs.drop (64 + 512 * j)).take (64 * ceilDiv (k * f.bits) 512))
  let first := f.isBlock && j == 0
  { tag := mkTag f g, tail := BitVec.ofNat 2 tail, wlen := BitVec.ofNat 11 k,
    image := BitVec.ofNat 4096 (body % 2 ^ (k * f.bits)), rows := rowMask f.bits 0 k, scaleRow := first,
    scale := if first then BitVec.ofNat 512 (areaNat xs (frameSize f n - 64) 64) else 0 }

/-- What a fault part way leaves in a register the area names: contents the spec does not state (R127; log entry 5). -/
def scramble (n : Nat) : Exec Unit := do
  let rows ← eachGet (List.range 8) (fun _ => drawRow)
  let wl ← drawBelow 1025
  let tail ← drawBelow 3
  let t ← drawBelow 52
  let img : BitVec 4096 := rows.zipIdx.foldl (fun m (r, k) => putField m (512 * k) 512 r.toNat) 0
  modify (fun s => s.setV n { s.v n with
    image := clearRows img (s.v n).rows, wlen := BitVec.ofNat 11 wl, tail := BitVec.ofNat 2 tail,
    tag := BitVec.ofNat 6 t })

/-- The reads of a frame or area past its first bytes: a fault leaves the registers it names unspecified (R127). -/
def restoreRead (va : Word) (n : Nat) (named : List Nat) : Exec (List Byte) := do
  match ← attempt (loadBytes va n) with
  | .ok xs => return xs
  | .error .idle => idle
  | .error e => do
    each named scramble
    setVstart 0
    throw e

/-- FRAME_BAD (R127). -/
def frameBad {α : Type} (va : Word) : Exec α := trap 0x45 (some va) 0 2

/-- The whole of a frame or area whose first bytes have been read as `head`. -/
def restoreRest (va : Word) (head : List Byte) (size : Nat) (named : List Nat) : Exec (List Byte) := do
  return head ++ (← restoreRead (va + nw head.length) (size - head.length) named)

/-- A spill frame restored (R127): its size. -/
def restoreFrame (va : Word) (head : List Byte) : Exec Nat := do
  if frameOk head = false then frameBad va
  let (v, f, g, _, n) := frameHead head
  let xs ← restoreRest va head (frameSize f n) ((List.range g).map (fun j => v + j))
  let s ← get
  let new := (List.range g).map (fun j => (v + j, frameMember xs j))
  needRows (new.foldl (fun n e => n + newRows (s.v e.1) e.2) 0)
  modify (fun s => new.foldl (fun s e => s.replaceV true e.1 e.2) s)
  setVstart 0
  return frameSize f n

/-- A vector save area restored (R127): its size. -/
def restoreArea (va : Word) (head : List Byte) : Exec Nat := do
  let desc := head ++ (← frameAccess (loadBytes (va + 64) 128))
  if vareaOk desc = false then frameBad va
  let size := areaNat desc 48 8
  let xs ← restoreRest va desc size (savedRegs (nw (areaNat desc 32 8)) (nw (areaNat desc 40 8)))
  needRows ((← get).vareaNew xs)
  modify (fun s => s.vareaLoad xs)
  return size

/-- The registers a frame or area of the kind restores (R127): those of a spill frame's group, or every one and every predicate. -/
def restoredRegs (head : List Byte) : BitVec 64 :=
  if areaNat head 0 1 = 2 then
    let (v, _, g, _, _) := frameHead head
    BitVec.ofNat 64 ((2 ^ g - 1) <<< v)
  else ~~~ BitVec.ofNat 64 (2 ^ 32)

/-- A restore takes its place in the queue as what writes the registers named in memory, to be used after its last beat (R26, R127). -/
def queuedRestore (i : Instr) (body : Exec (BitVec 64)) : Exec Unit := do
  let s ← get
  let ws ← body
  modify (fun t => t.enqueue { VToken.of 2 i s t with writes := ws, whole := true })

/-- vrestore (R127). -/
def execVrestore (d a : Reg) (s : State) : Out :=
  insn .threadOnly (.vrestore d a) (do
    let va ← frameAddress a 2
    resync
    queuedRestore (.vrestore d a) (do
      let head ← frameAccess (loadBytes va 64)
      let size ← if areaNat head 0 1 = 2 then restoreFrame va head
        else if areaNat head 0 1 = 1 then restoreArea va head else frameBad va
      putG d (nw size)
      return restoredRegs head)
    return .seq) s

end Sys2Proof.Machine
end

