-- ==== Sys2Proof/Machine/VecMem.lean ====
section
/-! DEFINITION. Vector memory forms and strip handles, majors 0x22 to 0x25 (R31, R184, R210–R224, R357). -/

namespace Sys2Proof.Machine

/-! ## Elements -/

/-- A stop at an element: the trap is one raised at an element of a vector instruction (R352, R357). -/
def atElement : Stop → Stop
  | .trap t => .trap { t with vec := true }
  | e => e

/-- Runs `f` on elements in ascending order up to the first that faults: what the elements below it gave, and the fault. -/
def upToFault {α : Type} (f : Nat → Exec α) : List Nat → Exec (List (Nat × α) × Option (Nat × Stop))
  | [] => pure ([], none)
  | k :: rest => do
    match ← attempt (f k) with
    | .ok x => do
      let (xs, e) ← upToFault f rest
      return ((k, x) :: xs, e)
    | .error e => return ([], some (k, e))

/-- Elements above a fault, each with its old value or, where its read does not fault, the new one (R218, R357). -/
def someOf {α : Type} (f : Nat → Exec α) (ks : List Nat) : Exec (List (Nat × α)) := do
  let xs ← eachGet ks (fun k => do
    if ← drawBit then
      match ← attempt (f k) with
      | .ok x => return some (k, x)
      | .error _ => return none
    else return none)
  return xs.filterMap id

/-- The response already delivered to the thread that holds the line of `va`, of those whose first element passes a test (R342); the
virtual line tells where the address no longer resolves (R346). One that brings a cause is consumed: a late trap (R337, R358, R403),
but for a peer's marked line (R345). -/
def delivered (st : Nat) (va : Word) (serve : Nat → Bool) : Exec (Option Reassembly) := do
  let s ← get
  if s.cur.reassembly.isEmpty then return none
  let (at_, hops) : Option Nat × Nat := match resolve s (s.streamCtx st) .load va with
    | .error _ => (none, 0)
    | .ok (_, pl, hops, _) => (some (pl.loc / 64), hops)
  let hit (e : Reassembly) : Bool := serve e.elem && (match at_ with | some l => e.line == l | none => e.va / 64 == va.toNat / 64)
  match s.cur.reassembly.find? hit with
  | none => return none
  | some e =>
    if e.cause ≠ 0 then throw (lateStop e.cause e.line va e.val2 st hops)
    return some e

/-- The `n` bytes at `va` where a delivered response holds them: they are not read again (R342). -/
def reassembled (st : Nat) (va : Word) (n : Nat) (serve : Nat → Bool) : Exec (Option Nat) := do
  passBar st
  if 64 < wbits va 5 0 + n then return none
  return (← delivered st va serve).map (fun e => field e.data (8 * wbits va 5 0) (8 * n))

/-- An element read in a stream; `i` tells which half of its byte a BX4 element takes, `serve` which delivered responses serve it. -/
def readElem (home : Bool) (st : Nat) (f : Fmt) (va : Word) (i : Nat) (serve : Nat → Bool) : Exec Nat := do
  let x ← match ← reassembled st va (elemBytes f) serve with
    | some x => pure x
    | none => loadNat home st va (elemBytes f)
  return if Fmt.bits f = 4 then x / 16 ^ (i % 2) % 16 else x

/-- A byte on the L1 path as it stands before a store of half of it: the L1's where it holds the byte, else the home's, with no
line filled (R190; log entry 24). -/
def peekByte (st : Nat) (va : Word) : Exec Nat := do
  let s ← get
  let c := s.ctx
  let g := s.myCluster
  let off := wbits va 5 0
  let held (line : Nat) : Option L1Line := (s.l1? g line).filter (fun l => l.valid.getLsbD off)
  let l1Byte (l : L1Line) : Exec Nat := do
    return leNat (wordBytes (← seeWord st true (8 * l.pline + off / 8) (l.word off)) (off % 8) 1)
  let pl ← orTrap va st (translate s c .store va)
  match pl.cls with
  | .bridge _ addr => return leNat (← bridgeRead addr 1)
  | .window => return leNat (← seeBytes st pl.loc 1)
  | _ =>
    match held (pl.loc / 64) with
    | some l => l1Byte l
    | none => do
      let (_, pl', _, _) ← orTrap va st (resolve s c .store va)
      match held (pl'.loc / 64) with
      | some l => l1Byte l
      | none => return leNat (← seeBytes st (pl'.loc + off) 1)

/-- An element written in a stream; a BX4 element leaves the other half of its byte (log entry 24). -/
def writeElem (home : Bool) (st : Nat) (f : Fmt) (va : Word) (i x : Nat) : Exec Unit := do
  if Fmt.bits f = 4 then do
    let c := (← get).streamCtx st
    let o ← if home then leNat <$> homePiece c .store st va.toNat 1 else peekByte st va
    storeNat home st va 1 (if i % 2 = 0 then o / 16 * 16 + x else o % 16 + 16 * x)
  else storeNat home st va (elemBytes f) x

/-! ## Lane-private slices (R184) -/

/-- The location of element `i` of width `w` bytes at slice address `a`; LS_RANGE outside the slice or misaligned. -/
def laneLoc (st w i : Nat) (a : Word) : Exec Nat := do
  passBar st
  if 2 ^ 14 ≤ a.toNat ∨ a.toNat % w ≠ 0 then trap 0x1D (some a) (nw i) (streamCode st)
  modCur (fun c => { c with anchorCore := true })
  return 2 ^ 47 + (16 * (← get).myCore + i * w % 64 / 4) * 2 ^ 14 + a.toNat

/-! ## Loads (R211, R213, R218) -/

/-- What a load's elements gave, put into vd: elements, scale words, tail, descriptors (R111, R114). `d` is the end of the
data: blocks wholly beyond it have scale word 0 (R213). -/
def commitLoad (vd : Reg) (f : Fmt) (g len d : Nat) (xs : List (Nat × Nat × Option (Nat × Nat))) : Exec Unit := do
  let r ← getRegs
  takeRows vd.toNat f g r.start len
  writeGroup vd.toNat f g r.start len (xs.map (fun e => (e.1, e.2.1)))
  if f.isBlock then do
    writeScales vd.toNat (((List.range (ceilDiv len 32)).filter (fun b => d ≤ 32 * b)).map (fun b => (b, 0)))
    writeScales vd.toNat (xs.filterMap (fun e => e.2.2))
    trimScales vd.toNat len

/-- VHIGH after the rows of a request for elements VSTART to `hi` − 1 of a group have been mapped (R115, R121). -/
def noteRows (r : Regs) (vd : Nat) (f : Fmt) (g hi : Nat) : Regs :=
  (List.range g).foldl (fun q j =>
    let m := memberRows f j r.start hi
    if m = 0 then q else noteHigh q (vd + j) (highRow m)) r

/-- What an element of a load gives: its bits, and the scale word of its block where it moves that too. -/
abbrev Elem := Nat × Option (Nat × Nat)

/-- The elements of a load delivered (R211, R214, R218): `first` reads them up to the first that faults. Where element `k`
faults, the elements below it commit, those above are old or new, read by `rd`, VSTART becomes `k` and the load traps; with
`ff` a fault past the first element shortens VL; its rows have been taken for the whole request (R115). -/
def deliverFrom (vd : Reg) (f : Fmt) (g d : Nat) (ff : Bool) (ks : List Nat)
    (first : Exec (List (Nat × Elem) × Option (Nat × Stop))) (rd : Nat → Exec Elem) : Exec Unit := do
  let len := (← getRegs).len
  let (xs, stop) ← first
  match stop with
  | none => do
    commitLoad vd f g len d xs
    setVstart 0
  | some (k, e) =>
    if ff && !xs.isEmpty then do
      takeRows vd.toNat f g (← getRegs).start len
      modRegs (fun r => { (noteRows r vd.toNat f g len) with vl := mkVl k k })
      commitLoad vd f g k d xs
      setVstart 0
    else do
      let more ← someOf rd (ks.filter (fun j => decide (k < j)))
      commitLoad vd f g len d (xs ++ more)
      setVstart k
      throw (atElement e)

/-- The elements of a load delivered, each read by itself. -/
def deliver (vd : Reg) (f : Fmt) (g d : Nat) (ff : Bool) (ks : List Nat) (rd : Nat → Exec Elem) : Exec Unit :=
  deliverFrom vd f g d ff ks (upToFault rd ks) rd

/-- The frame of a vector load: with no element to process it makes only the check of vd, applies its tail and sets its
descriptors (R211, R368), and `none_` follows; else `checks` makes steps 3 and 4 of R368 and `operands` step 7, and `body` runs
between the release and the acquire of the ord field (R219). `st` is its stream. -/
def vload (i : Instr) (d : Reg) (st : Nat) (ord : BitVec 2) (none_ checks operands : Exec Unit)
    (body : Nat → Exec Unit) (s : State) : Out :=
  vinsn 2 i (do
    let r ← getRegs
    if r.len ≤ r.start then do
      let g ← checkLoadDest d
      commitLoad d r.fmt g r.len r.len []
      setVstart 0
      none_
    else do
      checks
      let g ← checkLoadDest d
      operands
      passBar st
      needRows ((← get).rowsWanted d.toNat r.fmt g r.start r.len)
      releaseIf (ord.getLsbD 0) 0
      body g
      modCur (fun a => { a with reassembly := [] })
      acquireIf (ord.getLsbD 1) (streamBit st) 0) s

/-- A block format in a form that excludes it (R212). -/
def refuseBlock (f : Fmt) (vb vd : Option Reg) : Exec Unit := if f.isBlock then mismatch none vb vd else pure ()

/-- The scale base of a block vld or vst (R212, R377): SCALE_COUNT where none is supplied. -/
def scaleBase (f : Fmt) (gs : Reg) : Exec Word := do
  if f.isBlock then do
    if gs = 0 then trap 0x44
    let x ← getG gs
    needAligned x 2 1
    return x
  else return 0

/-- Is `i` the first of the elements in its block? It is the one whose turn moves the scale word. -/
def firstOfBlock (ks : List Nat) (i : Nat) : Bool := (ks.find? (fun j => j / 32 == i / 32)) == some i

/-- Element `i` of a contiguous or patterned load, with the scale word of its block (R212, R213, R222). -/
def readWithScale (home : Bool) (st : Nat) (f : Fmt) (d : Nat) (ks : List Nat) (addr scaleAt : Nat → Word) (half : Nat)
    (i : Nat) : Exec (Nat × Option (Nat × Nat)) := do
  let sc ← if f.isBlock && decide (32 * (i / 32) < d) && firstOfBlock ks i then do
      let w ← loadNat home st (scaleAt (i / 32)) 2
      pure (some (i / 32, w))
    else pure none
  let x ← if d ≤ i then pure 0 else readElem home st f (addr i) (half + i) (fun e => serves st (fun k => k) addr ks e i)
  return (x, sc)

/-- vld (R211–R213). -/
def execVld (d a sr p : Reg) (ord : BitVec 2) (s : State) : Out :=
  vload (.vld d a sr p ord) d 1 ord (pure ()) (pure ()) (do let _ ← scaleBase (← getRegs).fmt sr; pure ()) (fun g => do
    let r ← getRegs
    let sb ← scaleBase r.fmt sr
    let base ← getG a
    let ks := (← get).actives p
    let e := if Fmt.isBlock r.fmt then r.dlen else r.len
    deliver d r.fmt g e false ks
      (readWithScale false 1 r.fmt e ks (unitAddr r.fmt base) (fun b => sb + 2 * nw b) 0)) s

/-- vlds (R211): the stride is a signed byte count. -/
def execVlds (d a ix p : Reg) (ord : BitVec 2) (s : State) : Out :=
  vload (.vlds d a ix p ord) d 1 ord (pure ()) (do refuseBlock (← getRegs).fmt none none) (pure ()) (fun g => do
    let r ← getRegs
    let base ← getG a
    let stride ← getG ix
    let ks := (← get).actives p
    let addr (i : Nat) : Word := base + nw i * stride
    deliver d r.fmt g r.len false ks (fun i => do
      return (← readElem false 1 r.fmt (addr i) i (fun e => serves 1 (fun k => k) addr ks e i), none))) s

/-- vldff (R214). -/
def execVldff (d a p : Reg) (ord : BitVec 2) (s : State) : Out :=
  vload (.vldff d a p ord) d 1 ord (pure ()) (do refuseBlock (← getRegs).fmt none none) (pure ()) (fun g => do
    let r ← getRegs
    let base ← getG a
    let ks := (← get).actives p
    deliver d r.fmt g r.len true ks (fun i => do
      return (← readElem false 1 r.fmt (unitAddr r.fmt base i) i
        (fun e => serves 1 (fun k => k) (unitAddr r.fmt base) ks e i), none))) s

/-- The index register of a gather or scatter: its own group, then an integer tag (R210, R211). -/
def checkIndex (ix : Reg) (vd : Option Reg) : Exec Unit := do
  if (tagFmt ((← get).tag ix)).isInt = false then mismatch none (some ix) vd

/-- The lines that the packets of a gather have seen, by beat (R215). -/
abbrev Packets := KV LinesRead

/-- An element of a gather, of a beat: one packet with the elements of the beat in the same line sees the line once (R215). -/
def gatherElem (f : Fmt) (beat : Nat) (va : Word) (serve : Nat → Bool) (ps : Packets) : Exec (Nat × Packets) := do
  match ← reassembled 2 va (elemBytes f) serve with
  | some x => return (x, ps)
  | none => do
    let (x, seen) ← loadLines 2 va (elemBytes f) (kvGet [] ps beat)
    return (x, kvSet ps beat seen)

/-- The elements of a gather up to the first that faults. -/
def gatherElems (f : Fmt) (beat : Nat → Nat) (addr : Nat → Word) : List Nat → Packets →
    Exec (List (Nat × Elem) × Option (Nat × Stop))
  | [], _ => pure ([], none)
  | k :: rest, ps => do
    match ← attempt (gatherElem f (beat k) (addr k) (fun e => serves 2 beat addr [] e k) ps) with
    | .ok (x, ps) => do
      let (xs, e) ← gatherElems f beat addr rest ps
      return ((k, (x, none)) :: xs, e)
    | .error e => return ([], some (k, e))

/-- vldx (R211, R215, R184). -/
def execVldx (d a ix p : Reg) (ls : Bool) (ord : BitVec 2) (s : State) : Out :=
  vload (.vldx d a ix p ls ord) d 2 ord (pure ()) (do
    checkSource ix
    checkIndex ix none
    refuseBlock (← getRegs).fmt (some ix) none) (pure ()) (fun g => do
    let r ← getRegs
    let base ← getG a
    let t ← get
    let ks := t.actives p
    let w := elemBytes r.fmt
    let addr (i : Nat) : Word := base + nw (t.elem ix.toNat i)
    let wide := max r.fmt.bits (t.widest [ix])
    if ls then
      deliver d r.fmt g r.len false ks (fun i => do
        let loc ← laneLoc 2 w i (addr i)
        checkPoison 2 (addr i) loc
        return (leNat (← seeBytes 2 loc w), none))
    else
      let beat (i : Nat) : Nat := i * wide / 512
      deliverFrom d r.fmt g r.len false ks (gatherElems r.fmt beat addr ks [])
        (fun i => do return ((← gatherElem r.fmt 0 (addr i) (fun e => serves 2 beat addr [] e i) []).1, none))) s

/-! ## Stores (R211, R216, R218) -/

/-- The frame of a vector store: with no element to process it sets VSTART to 0 (R211, R368); else checks, release, body,
acquire (R219). `st` is its stream. Older vector instructions have committed before an element is stored (R357). -/
def vstore (i : Instr) (st : Nat) (ord : BitVec 2) (checks body : Exec Unit) (s : State) : Out :=
  vinsn 2 i (do
    let r ← getRegs
    if r.len ≤ r.start then setVstart 0
    else do
      checks
      passBar st
      releaseIf (ord.getLsbD 0) 0
      settleOlder
      inFlight i st body
      storedBefore
      modCur (fun a => { a with reassembly := [] })
      setVstart 0
      acquireIf (ord.getLsbD 1) (streamBit st) 0) s

/-- The elements of a store: all of them translate up to the first that faults, then those below it are performed in
element order (R218); `note` records what was written, given the end of the elements performed. -/
def scatterElems {α : Type} (len : Nat) (ks : List Nat) (check : Nat → Exec α) (put : Nat → α → Exec Unit)
    (note : Nat → List (Nat × α) → Exec Unit) : Exec Unit := do
  let (ok, stop) ← upToFault check ks
  let (done, stop') ← upToFault (fun k => match ok.find? (fun e => e.1 == k) with
    | none => pure ()
    | some e => put k e.2) (ok.map (fun e => e.1))
  let stop := match stop' with | some e => some e | none => stop
  let last := match stop with | some (k, _) => k | none => len
  note last (ok.filter (fun e => done.any (fun x => x.1 == e.1)))
  match stop with
  | none => pure ()
  | some (k, e) => do
    setVstart k
    throw (atElement e)

/-- The stores of elements with the scale words of their blocks (R212, R213, R222). -/
def storeWithScale (home : Bool) (st : Nat) (f : Fmt) (vd : Nat) (d len : Nat) (ks : List Nat)
    (addr scaleAt : Nat → Word) (half : Nat) (note : Nat → Exec Unit) : Exec Unit := do
  let t ← get
  let scaled (i : Nat) : Bool := f.isBlock && decide (32 * (i / 32) < d) && firstOfBlock ks i
  scatterElems len ks (fun i => do
      if scaled i then checkAccess home .store st (scaleAt (i / 32)) 2
      if i < d then checkAccess home .store st (addr i) (elemBytes f))
    (fun i _ => do
      if i < d then writeElem home st f (addr i) (half + i) (t.elem vd i)
      if scaled i then storeNat home st (scaleAt (i / 32)) 2 (t.scaleWord vd (i / 32)))
    (fun last _ => note last)

/-- vst (R211–R213); the write ranges of R240. -/
def execVst (d a sr p : Reg) (ord : BitVec 2) (s : State) : Out :=
  vstore (.vst d a sr p ord) 1 ord (do
    checkSource d
    let _ ← scaleBase (tagFmt ((← get).tag d)) sr
    pure ()) (do
    let t ← get
    let f := tagFmt (t.tag d)
    let r := t.regs
    let sb ← scaleBase f sr
    let base ← getG a
    let e := if f.isBlock then r.dlen else r.len
    storeWithScale false 1 f d.toNat e r.len (t.actives p) (unitAddr f base) (fun b => sb + 2 * nw b) 0 (fun last => do
      let hi := min last e
      let lo := (unitAddr f base r.start).toNat
      if f.isBlock then
        if r.start < hi then do
          record 1 (spanRange lo ((hi - 1) * f.bits / 8 + 1 - r.start * f.bits / 8) false)
        let b := r.start / 32
        if 32 * b < hi then
          record 1 (spanRange (sb + 2 * nw b).toNat (2 * ((hi - 1) / 32 + 1 - b)) false)
      else record 1 { base := lo, stride := elemBytes f, count := hi - r.start, width := elemBytes f, home := false })) s

/-- The range of elements a signed stride apart (R240): from the lowest, with the stride's magnitude. -/
def strideRange (first stride : Word) (count w : Nat) (home : Bool) : WRange :=
  let x := sint stride
  { base := (if x < 0 then first + nw (count - 1) * stride else first).toNat, stride := x.natAbs, count := count,
    width := w, home := home }

/-- The range of a strip from its first element on, with the stride's sign (R240). -/
def stripRange (first stride : Word) (count w : Nat) : WRange :=
  { base := first.toNat, stride := (sint stride).natAbs, count := count, width := w, home := true, down := decide (sint stride < 0) }

/-- vsts (R211). -/
def execVsts (d a ix p : Reg) (ord : BitVec 2) (s : State) : Out :=
  vstore (.vsts d a ix p ord) 1 ord (do
    checkSource d
    refuseBlock (tagFmt ((← get).tag d)) none (some d)) (do
    let t ← get
    let f := tagFmt (t.tag d)
    let r := t.regs
    let base ← getG a
    let stride ← getG ix
    storeWithScale false 1 f d.toNat r.len r.len (t.actives p) (fun i => base + nw i * stride) (fun _ => 0) 0 (fun last =>
      record 1 (strideRange (base + nw r.start * stride) stride (last - r.start) (elemBytes f) false))) s

/-- Poisoned lines of which elements stored in one beat cover all 64 bytes: one request may carry them, by a free choice, and then
clears the poison (R337, R403; log entry 63). -/
def clearCovered (w : Nat) (beat : Nat → Nat) (xs : List (Nat × Word)) : Exec Unit := do
  let s ← get
  if s.poison.isEmpty then pure ()
  else each ((xs.map (fun e => (beat e.1, e.2.toNat / 64))).eraseDups) (fun (b, line) => do
    let bytes := (List.range 64).filter (fun i => xs.any (fun e => beat e.1 == b &&
      decide (e.2.toNat ≤ 64 * line + i ∧ 64 * line + i < e.2.toNat + w)))
    match resolve s s.ctx .store (nw (64 * line)) with
    | .ok (_, pl, _, _) =>
      if bytes.length = 64 ∧ s.poison.contains (pl.loc / 64) then
        if ← drawBit then modify (fun s => s.cleanUnits (fun u => u == pl.loc / 64))
    | .error _ => pure ())

/-- The span from the lowest to the highest byte of elements written at addresses (R240). -/
def recordSpan (st : Nat) (w : Nat) (xs : List Nat) : Exec Unit :=
  match xs with
  | [] => pure ()
  | x :: rest =>
    let lo := rest.foldl min x; let hi := rest.foldl max x + w
    record st (byteRange lo (hi - lo) true)

/-- vstx (R211, R216, R184): ascending element order; earlier scatter-adds of the stream perform first (R204). -/
def execVstx (d a ix p : Reg) (ls : Bool) (ord : BitVec 2) (s : State) : Out :=
  vstore (.vstx d a ix p ls ord) 3 ord (do
    checkSource ix
    checkSource d
    checkIndex ix (some d)
    refuseBlock (tagFmt ((← get).tag d)) (some ix) (some d)) (do
    drainBank (← getCur).id
    let t ← get
    let f := tagFmt (t.tag d)
    let w := elemBytes f
    let base ← getG a
    let addr (i : Nat) : Word := base + nw (t.elem ix.toNat i)
    scatterElems t.regs.len (t.actives p)
      (fun i => do
        if ls then laneLoc 3 w i (addr i)
        else do
          checkAccess true .store 3 (addr i) w
          return 0)
      (fun i loc => do
        if ls then putBytes 3 loc (leBytes w (t.elem d.toNat i))
        else storeNat true 3 (addr i) w (t.elem d.toNat i))
      (fun _ done => if ls then pure () else do
        clearCovered w (fun i => i * (max f.bits (t.widest [ix])) / 512) (done.map (fun e => (e.1, addr e.1)))
        recordSpan 3 w (done.map (fun e => (addr e.1).toNat)))) s

/-! ## Scatter-add (R217, R103) -/

/-- May vscadd add values of the format (R217)? -/
def addFormat (f : Fmt) : Bool := 3 ≤ f && f ≤ 8

/-- The resolved place of element `i` of a scatter-add: aligned to the element (R217). -/
def addPlace (w i : Nat) (va : Word) : Exec Place := do
  passBar 3
  if va.toNat % w ≠ 0 then trap 0x16 (some va) (nw i) (streamCode 3)
  let s ← get
  let (_, pl, hops, _) ← orTrap va 3 (resolve s s.ctx .store va)
  checkPoison 3 va (pl.loc + wbits va 5 0) hops
  anchor va
  let off := wbits va 5 0
  match pl.cls with
  | .bridge t a => return { loc := pl.loc + off, cls := .bridge t a }
  | _ => return { pl with loc := pl.loc + off }

/-- Do the lanes combine equal addresses there before one update per address (R217)? In a CSP and the Commons. -/
def lanesCombine (pl : Place) : Bool := pl.cls == .window && pl.loc < 2 ^ 46

/-- Values added per distinct location, in ascending element order (R103). -/
def combine (f : Fmt) (xs : List (Nat × Nat)) : KV Nat :=
  xs.foldl (fun m (loc, x) => if kvHas m loc then kvSet m loc (scatterAdd f (kvGet 0 m loc) x) else kvSet m loc x) []

/-- The updates of a scatter-add's elements on their way to their banks (R103, R217): one for each element, but in a CSP and
the Commons one for each address, ascending. -/
def addElems (f : Fmt) (w : Nat) (xs : List (Place × Nat)) : Exec Unit := do
  let send (loc x : Nat) : Exec Unit := modify (fun s => { s with bank := s.bank ++
    [{ agent := s.cur.id, loc := loc, fmt := f, val := BitVec.ofNat 64 x }] })
  each xs (fun (pl, x) =>
    match pl.cls with
    | .bridge t a => do
      let old := leNat (← bridgeRead a w)
      bridgeWrite (← getCur).id t a (leBytes w (scatterAdd f old x))
    | _ => if lanesCombine pl then pure () else send pl.loc x)
  each (combine f ((xs.filter (fun e => lanesCombine e.1)).map (fun e => (e.1.loc, e.2)))) (fun (loc, x) => send loc x)

/-- vscadd (R217). -/
def execVscadd (d a ix p : Reg) (ls : Bool) (ord : BitVec 2) (s : State) : Out :=
  vstore (.vscadd d a ix p ls ord) 3 ord (do
    checkSource ix
    checkSource d
    checkIndex ix (some d)
    if addFormat (tagFmt ((← get).tag d)) = false then mismatch none (some ix) (some d)) (do
    let t ← get
    let f := tagFmt (t.tag d)
    let w := elemBytes f
    let base ← getG a
    let addr (i : Nat) : Word := base + nw (t.elem ix.toNat i)
    if ls then
      scatterElems t.regs.len (t.actives p) (fun i => laneLoc 3 w i (addr i))
        (fun i loc => do
          checkPoison 3 (addr i) loc
          let _ ← updatePlace 3 { loc := loc, cls := .window } w w (fun old => some (scatterAdd f old (t.elem d.toNat i)))
          pure ())
        (fun _ _ => pure ())
    else
      scatterElems t.regs.len (t.actives p) (fun i => addPlace w i (addr i)) (fun _ _ => pure ())
        (fun _ done => do
          addElems f w (done.map (fun e => (e.2, t.elem d.toNat e.1)))
          recordSpan 3 w (done.map (fun e => (addr e.1).toNat)))) s

/-! ## Strip handles (R220–R223, R288) -/

/-- Is the handle one that was never bound (R221)? A binding leaves its counts 1 or more (R220, R288). -/
def Handle.isUnbound (h : Handle) : Bool :=
  h.count1 == 0 && h.base == 0 && h.stride0 == 0 && h.count0 == 0 && h.fmt == 0 && h.cursor == 0 && h.remaining == 0

/-- The scale word of register block `b` of the strip at the cursor (R222). -/
def Handle.scaleAt (h : Handle) (b : Nat) : Word := h.stride0 + nw (2 * (h.cursor.toNat / 32 + b))

/-- After a strip of `n` elements: cursor, count, and run-ahead data below the cursor gone; an exhausted handle gives up
its port (R198, R222, R223). `len` is the new run-ahead length where it changes. -/
def advanceHandle (k n : Nat) (len : Option Nat) : Exec Unit := modify (fun s =>
  let h := s.handle k
  let c := h.cursor + nw n
  let s := s.setHandle k { h with
    cursor := c, remaining := h.remaining - nw n, ahead := h.ahead.filter (fun e => c.toNat ≤ e.1),
    aheadLen := len.getD h.aheadLen }
  if (s.handle k).remaining = 0 then s.releasePort k else s)

/-- The CLUSTER, CORE and THREAD of a thread as one number, by which an XSTREAM names its target. -/
def Agent.slotCode (a : Agent) : Nat := 16 * a.cluster + 4 * a.core + a.thread

/-- Does the handle wait for its start time, or for a binding the thread itself has issued (R288)? -/
def State.handleBusy (s : State) (k : Nat) : Bool :=
  let h := s.handle k
  (h.startTime ≠ 0 && s.time s.myTower < h.startTime) ||
  s.cmds.any (fun c => c.issuer == s.cur.id && match c.work with
    | .stream _ _ target hn _ => target == s.cur.slotCode && hn == k
    | _ => false)

/-- Element `i` of the strip at handle `k`: the value read ahead where there is one, else a read in its stream. -/
def stripElem (k : Nat) (h : Handle) (n : Nat) (ks : List Nat) (i : Nat) : Exec (Nat × Option (Nat × Nat)) := do
  let c := h.cursor.toNat
  match h.ahead.find? (fun e => e.1 == c + i) with
  | some e => do
    passBar (4 + k)
    let sc ← if h.format.isBlock && firstOfBlock ks i then do
        let w ← loadNat true (4 + k) (h.scaleAt (i / 32)) 2
        pure (some (i / 32, w))
      else pure none
    return (if Fmt.bits h.format = 4 then e.2.toNat / 16 ^ ((c + i) % 2) % 16 else e.2.toNat, sc)
  | none => readWithScale true (4 + k) h.format n ks (fun j => h.addr (c + j)) h.scaleAt c i

/-- The active elements a strip load writes: those below `n` from the pattern, the others below VL as zeros; the scale words of
blocks that hold data are moved (R222, R72). -/
def stripBody (d : Reg) (k : Nat) (p : Reg) (g : Nat) : Exec Unit := do
  let s ← get
  let h := s.handle k
  let r := s.regs
  let n := min r.len h.remaining.toNat
  let ks := s.actives p
  deliver d r.fmt g n false ks (stripElem k h n ks)
  advanceHandle k n (some r.len)

/-- A record format other than the load's traps (R222). -/
def checkStripFmt (h : Handle) (f : Fmt) (vd : Option Reg) : Exec Unit :=
  if h.isUnbound || h.format == f then pure () else mismatch none none vd

/-- A strip waits for its handle (R288), then checks its format: the record's is its own (R222). -/
def checkStrip (k : Nat) (f : Fmt) (vd : Option Reg) : Exec Unit := do
  need (!(← get).handleBusy k)
  checkStripFmt ((← get).handle k) f vd

/-- A strip load that delivers nothing leaves its VL as the run-ahead length (R223). -/
def noteStrip (k : Nat) : Exec Unit := modify (fun s => s.setHandle k { s.handle k with aheadLen := s.regs.len })

/-- vsld (R222). -/
def execVsld (d : Reg) (h : BitVec 3) (p : Reg) (ord : BitVec 2) (s : State) : Out :=
  vload (.vsld d h p ord) d (4 + h.toNat) ord (noteStrip h.toNat) (do
    checkStrip h.toNat (← getRegs).fmt none) (pure ()) (stripBody d h.toNat p) s

/-- vsst (R222): an exhausted handle stores nothing. Where its pattern has several levels, each element is a range of its own, for the
tuple of R240 has one stride (DESIGN CHOICE: log entry 73). -/
def execVsst (d : Reg) (hn : BitVec 3) (p : Reg) (ord : BitVec 2) (s : State) : Out :=
  vstore (.vsst d hn p ord) (4 + hn.toNat) ord (do
    checkSource d
    checkStrip hn.toNat (tagFmt ((← get).tag d)) (some d)) (do
    let s ← get
    let k := hn.toNat
    let h := s.handle k
    let r := s.regs
    let n := min r.len h.remaining.toNat
    let f := h.format
    let c := h.cursor.toNat
    storeWithScale true (4 + k) f d.toNat n n (s.actives p) (fun j => h.addr (c + j)) h.scaleAt c (fun last => do
      let m := min last n
      clearCovered (elemBytes f) (fun i => i * f.bits / 512)
        (((s.actives p).filter (fun i => decide (i < m))).map (fun i => (i, h.addr (c + i))))
      if m = 0 then pure ()
      else if f.isBlock then do
        record (4 + k) (spanRange (h.addr c).toNat ((c + m - 1) * f.bits / 8 + 1 - c * f.bits / 8) true)
        record (4 + k) (spanRange (h.scaleAt 0).toNat (2 * ceilDiv m 32) true)
      else if h.count1 ≤ 1 ∧ h.count2 ≤ 1 then
        record (4 + k) (stripRange (h.addr c) h.stride0 m (elemBytes f))
      else each (List.range m) (fun j => record (4 + k) (spanRange (h.addr (c + j)).toNat (elemBytes f) true))
      modify (fun s => s.setHandle k { s.handle k with ahead := [] }))
    advanceHandle k n none) s

/-- vstrip (R221): the record is read in the scalar stream; the port the handle frees goes to the oldest that waits, and it
takes a port of its cluster (R198). Every value of the fmt byte from 13 on is refused, those above 15 too, which no code is (R75; DESIGN
CHOICE: log entry 79). -/
def execVstrip (hn : BitVec 3) (ix : Reg) (s : State) : Out :=
  insn .threadOnly (.vstrip hn ix) (do
    let va ← getG ix
    needAligned va 32 0
    let lo ← loadNat false 0 va 16
    let hi ← loadNat false 0 (va + 16) 16
    let rec_ : BitVec 256 := BitVec.ofNat 256 (lo + hi * 2 ^ 128)
    let f := field rec_ 160 8
    let index := field rec_ 192 64
    if 13 ≤ f ∨ field rec_ 168 24 ≠ 0 ∨ (Fmt.isBlock f ∧ index % 32 ≠ 0) then
      trap 0x4C (some va) 0 0
    let h : Handle := { Handle.unbound with
      base := nw (field rec_ 0 64), stride0 := nw (field rec_ 64 64), count0 := BitVec.ofNat 32 (field rec_ 128 32),
      count1 := 1, count2 := 1, fmt := BitVec.ofNat 8 f, cursor := nw index,
      remaining := nw (field rec_ 128 32) }
    modify (fun s =>
      let k := hn.toNat
      let s := (s.releasePort k).setHandle k { h with aheadLen := s.regs.len }
      if h.remaining = 0 then s else s.takePort k none)
    return .seq) s

/-! ## Gang strip loads (R31, R224) -/

/-- The members of an agent's gang: the stage-0 threads of its launch cluster with its THREAD number that are in one. -/
def State.gangOf (s : State) (a : Agent) : List Agent :=
  if a.gang = 0 then []
  else s.agents.filter (fun b => b.kind == .thread && b.launch == a.launch && b.cluster == a.cluster &&
    b.thread == a.thread && b.gang == a.gang - BitVec.ofNat 8 a.core + BitVec.ofNat 8 b.core)

/-- Has the instance ended? -/
def Agent.hasEnded (a : Agent) : Bool := match a.status with | .ended _ => true | _ => false

/-- Is member 0 of the gang gone (R377)? -/
def State.gangOrphan (s : State) (a : Agent) : Bool :=
  match (s.gangOf a).find? (fun b => b.core == 0) with
  | none => true
  | some b => b.hasEnded

/-- vgsld (R224): in no gang as vsld; a member makes every check and waits for the others. -/
def execVgsld (d : Reg) (h : BitVec 3) (p : Reg) (ord : BitVec 2) (s : State) : Out :=
  if s.cur.gang = 0 then
    vload (.vgsld d h p ord) d (4 + h.toNat) ord (noteStrip h.toNat) (do
      checkStrip h.toNat (← getRegs).fmt none) (pure ()) (stripBody d h.toNat p) s
  else vinsn 2 (.vgsld d h p ord) (do
    let s ← get
    match (s.gangOf s.cur).find? (fun b => b.core == 0) with
    | none => pure ()
    | some b => do
      need (!(s.focus b.id).handleBusy h.toNat)
      checkStripFmt (if k : h.toNat < 8 then b.handles[h.toNat] else Handle.unbound) s.regs.fmt none
    let r := s.regs
    let g ← checkLoadDest d
    if s.gangOrphan s.cur then trap 0x0B
    needRows (s.rowsWanted d.toNat r.fmt g r.start r.len)
    throw (.wait .gangLoad)) s

/-- Agent `id` leaves its wait: `x` runs as its instruction `i`, its trap or end taking effect. -/
def finishWait (id : Nat) (i : Instr) (x : Exec Unit) : Exec Unit := modify (fun s =>
  let t := s.focus id
  (settle i x { t with cur := { t.cur with status := .running } }).focus s.cur.id)

/-- The word fields of a gang strip load. -/
def gangFields (a : Agent) : Option (Reg × BitVec 3 × Reg × BitVec 2) :=
  match a.status with
  | .waiting .gangLoad (.vgsld d h p ord) => some (d, h, p, ord)
  | _ => none

/-- A member that lacks rows has not issued its load yet: it is tried again (R115). -/
def backToRows (a : Agent) : Exec Unit := asAgent a.id (do
  let s ← get
  let r := s.regs
  match gangFields a with
  | none => pure ()
  | some (d, _, _, _) =>
    match ← attempt (needRows (s.rowsWanted d.toNat r.fmt r.group r.start r.len)) with
    | .ok _ => pure ()
    | .error _ => modCur (fun c => { c with status := .running }))

/-- What one member does with the strip once it is read (R224): its own active elements commit, with the scale words of
their blocks, up to the fault if there is one; those above it are old or new, `more` being the new ones (R218). `hd` is member 0's handle as
it was, from which each member waits for the lines of its own elements (R331). -/
def gangMember (d p : Reg) (h : BitVec 3) (ord : BitVec 2) (i : Instr) (hd : Handle) (n : Nat) (xs more : List (Nat × Elem))
    (stop : Option (Nat × Stop)) : Exec Unit := do
  let s ← get
  let r := s.regs
  let ks := s.actives p
  let mine := xs.filter (fun e => ks.contains e.1)
  let some_ ← eachGet (more.filter (fun e => ks.contains e.1)) (fun e => do
    return if ← drawBit then some e else none)
  let scales := (xs.filterMap (fun e => e.2.2)).filter (fun e => mine.any (fun x => x.1 / 32 == e.1))
  commitLoad d r.fmt r.group r.len (if r.len ≤ r.start then r.len else n) (mine ++ some_.filterMap id)
  if Fmt.isBlock r.fmt then writeScales d.toNat scales
  match stop with
  | none => do
    setVstart 0
    let c := hd.cursor.toNat
    let items := ((ks.filter (fun k => decide (k < n) && !hd.ahead.any (fun e => e.1 == c + k))).map
      (fun k => (k, hd.addr (c + k), c + k)))
    modify (fun t =>
      let token := VToken.of 2 i s t
      t.enqueue { token with awaits := awaited (4 + h.toNat) token.bits (elemBytes r.fmt) items })
    modCur (fun a => { a with reassembly := [] })
    acquireIf (ord.getLsbD 1) (streamBit (4 + h.toNat)) 0
    modify (fun s => s.retire i .seq)
  | some (k, e) => do
    setVstart k
    throw (atElement e)

/-- VGSLD_MEET (R31, R224): once every member that has not ended waits in the gang strip load, and its older vector instructions have
committed (R357), the strip is read once from member 0's handle and delivered to all of them, or all trap. -/
def execVgsldMeet (ag : Nat) (s : State) : Out :=
  event (do
    let s ← get
    match s.agent? ag with
    | none => idle
    | some a => do
      let members := (s.gangOf a).filter (fun b => !b.hasEnded)
      need (gangFields a).isSome
      let fields := members.map gangFields
      if s.gangOrphan a then
        each members (fun b => match b.status with
          | .waiting .gangLoad i => finishWait b.id i (trap 0x0B)
          | _ => pure ())
      else do
        need (fields.all (fun f => f.isSome))
        each members (fun b => match b.status with
          | .waiting _ _ => backToRows b
          | _ => pure ())
        need ((← get).agents.all (fun b => !(members.any (fun c => c.id == b.id)) || (gangFields b).isSome))
        let same := members.all (fun b => b.regs.len == a.regs.len && b.regs.vtype == a.regs.vtype &&
          b.regs.vstart == a.regs.vstart)
        let equal := fields.all (fun f => f == gangFields a)
        if !same || !equal then
          each members (fun b => match b.status with
            | .waiting _ i => finishWait b.id i (trap 0x4B none (if same then 1 else 0))
            | _ => pure ())
        else match gangFields a, members.find? (fun b => b.core == 0) with
          | some (d, h, p, ord), some m0 => do
            let k := h.toNat
            asAgent m0.id (do need (!(← get).handleBusy k))
            each members (fun b => asAgent b.id (do
              settleOlder
              releaseIf (ord.getLsbD 0) 0))
            let r := a.regs
            let active := ((List.range r.len).drop r.start).filter (fun i => members.any (fun b =>
              p == 0 || (b.p[p.toNat]'p.isLt).getLsbD i))
            let (hd, n, xs, more, stop) ← asAgent m0.id (do
              let hd := (← get).handle k
              let n := min r.len hd.remaining.toNat
              let (xs, stop) ← upToFault (stripElem k hd n active) active
              let more ← match stop with
                | none => pure []
                | some (j, _) => someOf (stripElem k hd n active) (active.filter (fun i => decide (j < i)))
              if stop.isNone then (if r.start < r.len then advanceHandle k n (some r.len) else noteStrip k)
              return (hd, n, xs, more, stop))
            each members (fun b => match b.status with
              | .waiting _ i => finishWait b.id i (gangMember d p h ord i hd n xs more stop)
              | _ => pure ())
          | _, _ => idle) s

end Sys2Proof.Machine
end

