-- ==== Sys2Proof/Machine/Matrix.lean ====
section
/-! DEFINITION. The matrix control core: tiles, accumulators, MLDT, MLDTFF, MST, MMA, MMAS, MZERO, VMRD and VMWR (R100,
R256–R267, R379, R380). -/

namespace Sys2Proof.Machine

/-! ## Tile descriptors (R258) -/

/-- A tile descriptor as read. -/
structure TileDesc where
  base : Word
  sbase : Word
  stride : Nat
  k : Nat
  rows : Nat
  fmt : Nat
  nsc : Nat
  flags : Nat
  zero : Nat
  moff : BitVec 32
deriving DecidableEq, Repr

/-- The fields of a descriptor's 32 bytes. -/
def tileDesc (x : BitVec 256) : TileDesc :=
  { base := nw (field x 0 64), sbase := nw (field x 64 64), stride := field x 128 32, k := field x 160 16,
    rows := field x 176 16, fmt := field x 192 8, nsc := field x 200 8, flags := field x 208 8, zero := field x 216 8,
    moff := BitVec.ofNat 32 (field x 224 32) }

/-- The descriptor at G(a), read in the scalar stream through the L1 (R257). -/
def readTileDesc (a : Reg) : Exec (Word × TileDesc) := do
  let va ← getG a
  needAligned va 32 0
  let x ← loadNat false 0 va 32
  return (va, tileDesc (BitVec.ofNat 256 x))

/-- Kp of a row (R258). -/
def TileDesc.kp (d : TileDesc) : Nat := if Fmt.isBlock d.fmt then 32 * ceilDiv d.k 32 else d.k
/-- Is the tile 2:4 sparse? -/
def TileDesc.sparse (d : TileDesc) : Bool := d.flags % 2 == 1
/-- The scale words a row needs. -/
def TileDesc.need (d : TileDesc) : Nat :=
  if Fmt.isBlock d.fmt then (if d.sparse then d.kp / 64 else d.kp / 32) else 0

/-- The first of a list of conditions on fields that fails, by its offset. -/
def firstBad (xs : List (Nat × Bool)) : Option Nat := (xs.find? (fun e => !e.2)).map (fun e => e.1)

/-- The checks of MLDT's descriptor, in ascending byte offset (R258, R279, R379). -/
def checkTile (va : Word) (sideB : Bool) (d : TileDesc) : Exec Unit := do
  let blk := Fmt.isBlock d.fmt
  let sp := d.sparse && !sideB
  match firstBad [(8, blk || d.sbase == 0), (20, decide (1 ≤ d.k ∧ d.k ≤ 512) && (!sp || d.k % (if blk then 64 else 8) == 0)),
      (22, decide (1 ≤ d.rows ∧ d.rows ≤ if sideB then 64 else 128)), (24, decide (8 ≤ d.fmt ∧ d.fmt ≤ 12)),
      (25, blk || d.nsc == 0)] with
  | some o => trap 0x4E (some va) (nw o) 0
  | none => do
    if blk ∧ d.nsc < d.need then trap 0x44 (some va) (nw (d.need + 65536 * d.nsc)) 0
    match firstBad [(26, d.flags ≤ 1 && !(sideB && d.sparse)), (27, d.zero == 0)] with
    | some o => trap 0x4E (some va) (nw o) 0
    | none => pure ()

/-! ## MLDT and MLDTFF (R259, R260) -/

/-- The address of the metadata of row r of a sparse tile (R258). -/
def TileDesc.metaAt (d : TileDesc) (r : Nat) : Word := d.base + sext d.moff + nw (r * (d.kp / 8))

/-- Row r read at its home or window, each line of the tile in one access (R260): elements, scale words, metadata. -/
def readTileRow (d : TileDesc) (r : Nat) (seen : LinesRead) : Exec ((BitVec 8192 × BitVec 256 × BitVec 512) × LinesRead) := do
  let n := (if d.sparse then d.kp / 2 else d.kp) * Fmt.bits d.fmt / 8
  let (el, seen) ← loadLines 1 (d.base + nw (r * d.stride)) n seen
  let (sc, seen) ← if d.need = 0 then pure (0, seen) else loadLines 1 (d.sbase + nw (2 * d.nsc * r)) (2 * d.need) seen
  let (md, seen) ← if d.sparse then loadLines 1 (d.metaAt r) (d.kp / 8) seen else pure (0, seen)
  return ((BitVec.ofNat 8192 el, BitVec.ofNat 256 sc, BitVec.ofNat 512 md), seen)

/-- The group of the first metadata nibble with more than two bits set (R279). -/
def metaBad (kp : Nat) (md : BitVec 512) : Option Nat :=
  (List.range (kp / 4)).find? (fun g =>
    2 < ((List.range 4).filter (fun b => md.getLsbD (4 * g + b))).length)

/-- A side's buffer replaced. -/
def setTile (sideB : Bool) (t : Tile) : Exec Unit := do
  modCluster (← get).myCluster (fun c => if sideB then { c with tileB := t } else { c with tileA := t })

/-- The rows from r on: those read; a row whose read faults ends the tile for MLDTFF past row 0, else traps with the
buffer empty; bad metadata traps (R259, R278). -/
def readTile (va : Word) (sideB ff : Bool) (d : TileDesc) : Nat → Nat → List (BitVec 8192 × BitVec 256 × BitVec 512) →
    LinesRead → Exec (List (BitVec 8192 × BitVec 256 × BitVec 512))
  | 0, _, acc, _ => pure acc.reverse
  | n + 1, r, acc, seen => do
    match ← attempt (readTileRow d r seen) with
    | .error e =>
      if ff && r != 0 then return acc.reverse
      else do
        setTile sideB Tile.empty
        match e with
        | .trap t => throw (.trap { t with val2 := nw r })
        | e => throw e
    | .ok (row, seen) =>
      match if d.sparse then metaBad d.kp row.2.2 else none with
      | some g => trap 0x46 (some va) (nw (65536 * r + g)) (streamCode 1)
      | none => readTile va sideB ff d n (r + 1) (row :: acc) seen

/-- MLDT and MLDTFF (R259). -/
def loadTile (i : Instr) (sideB ff : Bool) (d a : Reg) (s : State) : Out :=
  insn (.only .mcc) i (do
    let (va, t) ← readTileDesc a
    checkTile va sideB t
    let rows ← readTile va sideB ff t t.rows 0 [] []
    setTile sideB { loaded := true, fmt := t.fmt, k := t.k, sparse := t.sparse, rows := rows }
    putG d (nw rows.length)
    return .seq) s

/-- mldt.a (R259). -/
def execMldtA (d a : Reg) (s : State) : Out := loadTile (.mldtA d a) false false d a s
/-- mldt.b (R259). -/
def execMldtB (d a : Reg) (s : State) : Out := loadTile (.mldtB d a) true false d a s
/-- mldtff.a (R259). -/
def execMldtffA (d a : Reg) (s : State) : Out := loadTile (.mldtffA d a) false true d a s
/-- mldtff.b (R259). -/
def execMldtffB (d a : Reg) (s : State) : Out := loadTile (.mldtffB d a) true true d a s

/-! ## Accumulators (R256, R265) -/

/-- A row of an accumulator. -/
def Cluster.accRow (c : Cluster) (acc row : Nat) : BitVec 2048 := kvGet 0 c.acc (128 * acc + row)
/-- A row of an accumulator replaced; a row of zeros is not listed. -/
def Cluster.setAccRow (c : Cluster) (acc row : Nat) (x : BitVec 2048) : Cluster :=
  { c with acc := if x = 0 then kvDel c.acc (128 * acc + row) else kvSet c.acc (128 * acc + row) x }

/-- The clock at whose end the last operation on some of an accumulator's rows completes, if any is still going on. -/
def Cluster.busyUntil (c : Cluster) (now acc : Nat) (rows : List Nat) : Option Nat :=
  (c.accBusy.filter (fun e => e.1 == acc && rows.contains e.2.1 && decide (now ≤ e.2.2))).foldl
    (fun m e => match m with | none => some e.2.2 | some x => some (max x e.2.2)) none

/-- The operation's rows take their completion times (R265); `done` gives that of row i from the cycle of acceptance. -/
def Cluster.occupy (c : Cluster) (now acc : Nat) (rows : List Nat) (done : Nat → Nat → Nat) : Cluster :=
  let t := match c.busyUntil now acc rows with | none => now | some x => x + 1
  { c with accBusy := c.accBusy.filter (fun e => !(e.1 == acc && rows.contains e.2.1)) ++
      rows.map (fun i => (acc, i, done t i)) }

/-- ACC_ROW_COMPLETE (R265): the operation on a row has completed. -/
def execAccRowComplete (cl acc row : Nat) (s : State) : Out :=
  event (do
    let s ← get
    let c := s.cluster cl
    need (c.accBusy.any (fun e => e.1 == acc && e.2.1 == row && decide (e.2.2 ≤ s.clock)))
    modCluster cl (fun c => { c with
      accBusy := c.accBusy.filter (fun e => !(e.1 == acc && e.2.1 == row && decide (e.2.2 ≤ s.clock))) })) s

/-! ## MMA, MMAS, MZERO (R262–R264) -/

/-- The value stored element `x` of a tile row denotes (R94). -/
def storedElem (t : Tile) (row : BitVec 8192 × BitVec 256 × BitVec 512) (x : Nat) : Val :=
  let b := Fmt.bits t.fmt
  let e := field row.1 (x * b) b
  if Fmt.isBlock t.fmt then decodeBlock t.fmt (field row.2.1 (16 * (x / 32)) 16) e else decodeFloat t.fmt e

/-- Element k of a row, a sparse row expanded by its metadata (R264). -/
def tileElem (t : Tile) (row : BitVec 8192 × BitVec 256 × BitVec 512) (k : Nat) : Val :=
  if t.sparse then
    let g := k / 4
    if row.2.2.getLsbD k then
      let rank := ((List.range (k % 4)).filter (fun b => row.2.2.getLsbD (4 * g + b))).length
      storedElem t row (2 * g + rank)
    else .fin false 0 0
  else storedElem t row k

/-- The exact sum of the products of one block, rounded once to FP32 (R100, R263); products that are all -0 give +0
(DESIGN CHOICE: log entry 54). -/
def blockSum (xs : List (Val × Val)) : Nat :=
  let z := xs.foldl (fun acc e => (addVal modeRNE (mulVal e.1 e.2).1 acc).1) (.fin false 0 0)
  (roundVal 6 rndRNE z).1

/-- Kp of a loaded tile. -/
def Tile.kp (t : Tile) : Nat := if Fmt.isBlock t.fmt then 32 * ceilDiv t.k 32 else t.k

/-- An accumulator element after the blocks of one row pair (R263). -/
def mmaElem (a b : Tile) (ra rb : BitVec 8192 × BitVec 256 × BitVec 512) (acc : Nat) : Nat :=
  let kp := a.kp
  (List.range (ceilDiv kp 32)).foldl (fun acc q =>
    let ks := (List.range (min 32 (kp - 32 * q))).map (fun k => 32 * q + k)
    let s := blockSum (ks.map (fun k => (tileElem a ra k, tileElem b rb k)))
    (fAdd 6 rndRNE (decodeFloat 6 acc) (decodeFloat 6 s)).1) acc

/-- Do two tile formats agree (R263)? -/
def formatsAgree (f h : Nat) : Bool := f == h || (f == 9 && h == 10) || (f == 10 && h == 9) || (11 ≤ f && 11 ≤ h)

/-- The cycles of a multiply (R263). -/
def mmaCycles (a b : Tile) : Nat :=
  let nb := ceilDiv a.kp 32
  if a.fmt = 8 then 128 * nb else if a.fmt = 12 ∧ b.fmt = 12 then 16 * nb else 32 * nb

/-- MMA and MMAS (R263, R264): the conditions in their order, then every element of the granted rows. -/
def multiply (i : Instr) (sparse : Bool) (acc : BitVec 2) (s : State) : Out :=
  insn (.only .mcc) i (do
    let s ← get
    let g := s.myCluster
    let c := s.cluster g
    let a := c.tileA; let b := c.tileB
    if !a.loaded || !b.loaded then trap 0x4E none 1
    if formatsAgree a.fmt b.fmt = false then trap 0x05
    if a.sparse ≠ sparse then trap 0x4E none 2
    if a.k ≠ b.k then trap 0x4E none 3
    let n := acc.toNat
    let c := a.rows.zipIdx.foldl (fun (c : Cluster) (ra, r) =>
      let old := c.accRow n r
      c.setAccRow n r (b.rows.zipIdx.foldl (fun (x : BitVec 2048) (rb, j) =>
        putField x (32 * j) 32 (mmaElem a b ra rb (field old (32 * j) 32))) old)) c
    let cy := if sparse then mmaCycles a b / 2 else mmaCycles a b
    let c := c.occupy s.clock n (List.range a.rows.length) (fun t r => t + cy + 4 + r / 16)
    set (s.setCluster g c)
    return .seq) s

/-- mma (R263). -/
def execMma (acc : BitVec 2) (s : State) : Out := multiply (.mma acc) false acc s
/-- mmas (R264). -/
def execMmas (acc : BitVec 2) (s : State) : Out := multiply (.mmas acc) true acc s

/-- mzero (R262). -/
def execMzero (acc : BitVec 2) (s : State) : Out :=
  insn (.only .mcc) (.mzero acc) (do
    let s ← get
    let n := acc.toNat
    modCluster s.myCluster (fun c =>
      { c with acc := c.acc.filter (fun e => e.1 / 128 != n) }.occupy s.clock n (List.range 128) (fun t _ => t))
    return .seq) s

/-! ## MST (R261) -/

/-- The checks of MST's descriptor (R258, R261). -/
def checkStoreTile (va : Word) (d : TileDesc) : Exec Unit := do
  match firstBad [(8, d.sbase == 0), (20, decide (1 ≤ d.k ∧ d.k ≤ 64)), (22, decide (1 ≤ d.rows ∧ d.rows ≤ 128)),
      (24, d.fmt == 6 || d.fmt == 8), (25, d.nsc == 0), (26, d.flags == 0), (27, d.zero == 0), (28, d.moff == 0)] with
  | some o => trap 0x4E (some va) (nw o) 0
  | none => pure ()

/-- mst (R261): waits for the accumulator's rows, then writes the rows at their homes; a fault reports the row. -/
def execMst (acc : BitVec 2) (a : Reg) (s : State) : Out :=
  insn (.only .mcc) (.mst acc a) (do
    let (va, d) ← readTileDesc a
    checkStoreTile va d
    let s ← get
    let c := s.cluster s.myCluster
    need (c.busyUntil s.clock acc.toNat (List.range 128)).isNone
    let w := Fmt.bits d.fmt / 8
    let row (i : Nat) : List (Word × Nat) := (List.range d.k).map (fun j =>
      let x := field (c.accRow acc.toNat i) (32 * j) 32
      (d.base + nw (i * d.stride + j * w),
        if d.fmt = 6 then x else (roundVal 8 rndRNE (decodeFloat 6 x)).1))
    each (List.range d.rows) (fun i => do
      match ← attempt (do
          inFlight (.mst acc a) 1 (each (row i) (fun e => storeNat true 1 e.1 w e.2))
          clearCovered w (fun _ => 0) ((row i).zipIdx.map (fun e => (e.2, e.1.1)))
          record 1 (spanRange (d.base + nw (i * d.stride)).toNat (d.k * w) true)) with
      | .ok _ => pure ()
      | .error (.trap t) => throw (.trap { t with val2 := nw i })
      | .error e => throw e)
    return .seq) s

/-! ## VMRD and VMWR (R267) -/

/-- The ownership and row checks of R256 and R267, in that order; then the row's earlier operations have completed (R265). -/
def accessRow (acc : BitVec 2) (b : Reg) : Exec Nat := do
  let s ← get
  let c := s.cluster s.myCluster
  if c.mccOwner ≠ some s.cur.launch then trap 0x4D none (zext acc)
  let row ← getG b
  if 128 ≤ row.toNat then trap 0x4F (some row)
  need (c.busyUntil s.clock acc.toNat [row.toNat]).isNone
  return row.toNat

/-- vmrd (R267): under fz only the rounded result is flushed (R92; DESIGN CHOICE: log entry 57). -/
def execVmrd (d : Reg) (acc : BitVec 2) (b p : Reg) (rm : BitVec 2) (s : State) : Out :=
  vinsn 2 (.vmrd d acc b p rm) (do
    let f := (← getRegs).fmt
    if f.isFloat = false then mismatch none none none
    let g ← checkDest d f
    let row ← accessRow acc b
    let s ← get
    let x := (s.cluster s.myCluster).accRow acc.toNat row
    writeResult d f g ((s.stripElems p).map (fun i =>
      if i < 64 then
        let (y, e) := roundVal f (s.rnd rm i) (decodeFloat 6 (field x (32 * i) 32))
        (i, y, e)
      else (i, 0, 0)))) s

/-- vmwr (R267): sources that convert exactly to FP32, subnormal ones too whatever fz holds (R92; DESIGN CHOICE: log entry 57). -/
def execVmwr (d : Reg) (acc : BitVec 2) (b p : Reg) (s : State) : Out :=
  vinsn 2 (.vmwr d acc b p) (do
    checkSource d
    let s ← get
    let f := tagFmt (s.tag d)
    if ¬(6 ≤ f ∧ f ≤ 12) then mismatch none none (some d)
    let row ← accessRow acc b
    settleOlder
    let xs := (s.stripElems p).filter (fun i => decide (i < 64))
    modCluster s.myCluster (fun c => c.setAccRow acc.toNat row (xs.foldl (fun m i =>
      putField m (32 * i) 32 (s.bitsIn d.toNat i 6)) (c.accRow acc.toNat row)))
    endStrip) s

end Sys2Proof.Machine
end

