-- ==== Sys2Proof/Machine/Work.lean ====
section
/-! DEFINITION. Work: launches, stages, gangs and waits (spec/02 R30–R40, spec/16 R311–R322, R364, R382), the resident
dispatchers (R348), and the scheduler's steps (R37, R314, R315, R359, R360, R365). -/

namespace Sys2Proof.Machine

/-! ## The launch record (R311, R313) -/

/-- The field of `n` bytes at offset `o` of a record read as a number. -/
def recField (x o n : Nat) : Nat := (x >>> (8 * o)) % 2 ^ (8 * n)

/-- The clusters on towers with towerok set (R313). -/
def State.healthyClusters (s : State) : Nat := 32 * ((List.range 12).filter (fun k => s.towerUp k)).length

/-- The greatest priority an issuer in user mode may ask for (R313). -/
def State.prioCap (s : State) : Nat := match s.launch? s.cur.launch with | none => 255 | some l => l.prio

/-- The physical line of a predecessor's state word, where its address translates with the r check to DRAM-backed generic
memory (R313). -/
def State.predLine (s : State) (c : Ctx) (a : Nat) : Option Nat :=
  match translate s c .load (nw a) with
  | .error _ => none
  | .ok pl => if pl.cls = .dram ∧ a % 64 = 0 then some pl.loc else none

/-- The checks of one stage entry, in ascending offset (R311, R313, R316). -/
def stageChecks (s : State) (x n : Nat) : List (Nat × Bool) :=
  let o := 128 + 16 * n
  let b := recField x (o + 8) 1
  let stack := recField x (o + 9) 1
  let zeros := recField x (o + 10) 6 == 0
  if b / 128 = 0 then
    if n = 0 then [(o + 8, false)] else [(o, b / 8 % 16 == 0 && stack == 0 && zeros)]
  else
    let kind := b % 8
    [(o, recField x o 8 % 4 == 0),
     (o + 8, b / 8 % 16 == 0 && (if n = 0 then kind == 0 else kind != 0 && kind != 7)),
     (o + 9, if kind = 6 then decide (stack < 4) && s.dev.granaryok.getLsbD stack else stack == 0),
     (o + 10, zeros)]

/-- Is the state word of a record one that LAUNCH accepts (R311, R313): never launched, ended, or stopped with a cause, its
other bits 0? -/
def stateFieldOk (w : Nat) : Bool :=
  let st := w / 2 ^ 60
  (st == 0 || st == 3 || st == 4) && bitsOf w 59 55 == 0 && bitsOf w 47 14 == 0 && (st == 4 || bitsOf w 54 48 == 0)

/-- The checks of a launch record, in ascending offset (R311, R313, R368). -/
def recordChecks (s : State) (c : Ctx) (cap x : Nat) : List (Nat × Bool) :=
  [(0, stateFieldOk (recField x 0 8)),
   (8, decide (1 ≤ recField x 8 2 ∧ recField x 8 2 ≤ min 384 s.healthyClusters)),
   (10, decide (1 ≤ recField x 10 1 ∧ recField x 10 1 ≤ 4)),
   (11, decide (1 ≤ recField x 11 1 ∧ recField x 11 1 ≤ 4)),
   (12, !c.user || decide (recField x 12 1 ≤ cap)),
   (13, !c.user || recField x 13 1 == c.asid),
   (14, recField x 14 1 == 0),
   (15, decide (recField x 15 1 ≤ 15))] ++
  (List.range 4).map (fun i =>
    let a := recField x (32 + 8 * i) 8
    (32 + 8 * i, a == 0 || (s.predLine c a).isSome)) ++
  ((List.range 8).map (stageChecks s x)).flatten

/-- Weight 0 means 8 (R311). -/
def weightOf (w : Nat) : Nat := if w = 0 then 8 else w

/-- A stage entry of a checked record. -/
def stageEntry (x n : Nat) : StageEntry :=
  let o := 128 + 16 * n
  let b := recField x (o + 8) 1
  { present := b / 128 == 1, entry := nw (recField x o 8), kind := b % 8, stack := recField x (o + 9) 1 }

/-- The launch a checked record describes. -/
def launchOf (s : State) (c : Ctx) (x recLoc ident time : Nat) : Launch :=
  { ident := ident, record := recLoc, clusters := recField x 8 2, cores := recField x 10 1, threads := recField x 11 1,
    prio := recField x 12 1, asid := recField x 13 1, weight := weightOf (recField x 15 1),
    startTime := recField x 16 8, budget := recField x 24 8,
    preds := (List.range 4).filterMap (fun i =>
      let a := recField x (32 + 8 * i) 8
      if a = 0 then none else s.predLine c a),
    args := Vector.ofFn (fun k => nw (recField x (64 + 8 * k.val) 8)),
    stages := Vector.ofFn (fun k => stageEntry x k.val),
    accepted := time, admitted := none, place := [], started := 1, faults := [] }

/-- The lowest free entry of tower `w`'s launch table (R313). -/
def State.freeEntry (s : State) (w : Nat) : Option Nat :=
  (List.range 1024).find? (fun e => !kvHas s.launches (1024 * w + e))

/-- A launch accepted: it takes its entry, and its state word becomes the identifier with state 1 (R313). -/
def State.acceptLaunch (s : State) (l : Launch) : State :=
  { s with launches := kvSet s.launches l.ident l }.writeState l 1 0

/-- launch (R313): released at .dev, the record read at its home and checked, an entry taken. -/
def execLaunch (d a : Reg) (s : State) : Out :=
  insn .threadOnly (.launch d a) (do
    release 2
    let va ← getG a
    if va.toNat % 64 ≠ 0 then trap 0x68 (some va) 0 0
    let s ← get
    let (_, pl, _, _) ← orTrap va 0 (resolve s s.ctx .store va)
    let x ← loadNat true 0 va 256
    let s ← get
    match firstBad (recordChecks s s.ctx s.prioCap x) with
    | some o => trap 0x68 (some va) (nw o) 0
    | none =>
      let w := s.myTower
      match s.freeEntry w with
      | none => throw (.wait .table)
      | some e => do
        let l := { launchOf s s.ctx x pl.loc (1024 * w + e) (s.time w) with
          away := match pl.cls with | .bridge t at_ => some (t, at_) | _ => none }
        set (s.acceptLaunch l)
        putG d (nw l.ident)
        return .seq) s

/-- LAUNCH_TABLE_ENTRY_FREE (R313): a LAUNCH that waits for an entry is executed again. -/
def execLaunchTableEntryFree (ag : Nat) (s : State) : Out :=
  rerun .table ag (fun i t => match i with
    | .launch d a => execLaunch d a t
    | _ => .next t) s

/-! ## The resident dispatchers (R348) -/

/-- The dispatcher's function: 0 the physical one, v a virtual one. -/
def dispatcherFn (id : Nat) : Nat := id - 7000

/-- The slice of a function: the physical function's starts at 0 (R347, R348). -/
def State.slice (s : State) (fn : Nat) : Nat := if fn = 0 then 0 else wbits (kvGet 0 s.dev.vfcfg fn) 42 32 * 2 ^ 32

/-- For a virtual function the dispatcher sets asid and lowers prio in the record (R348). -/
def State.vfRecord (s : State) (fn at_ : Nat) : State :=
  if fn = 0 then s
  else
    let v := kvGet 0 s.dev.vfcfg fn
    let prio := min (memNat s.mem (at_ + 12) 1) (wbits v 55 48)
    { s with mem := memPutNat (memPutNat s.mem (at_ + 12) 1 prio) (at_ + 13) 1 (wbits v 63 56) }

/-- The scalar core on which a function's dispatcher runs: one of its own, none of the 6,144 that launches are bound to (R348; DESIGN
CHOICE: log entry 58). -/
def dispatcherSeat (fn : Nat) : Nat := 7000 + fn

/-- Does a dispatcher run on the scalar core (R348)? -/
def State.dispatcherSlot (s : State) (id : Nat) : Bool := s.agents.any (fun a => a.kind == .dispatcher && a.seat == some id)

/-- Is a scalar core free: held by no dispatcher and by no thread that has not exited (R317, R348)? -/
def State.slotFree (s : State) (id : Nat) : Bool :=
  !s.dispatcherSlot id && match s.agent? id with
  | none => true
  | some a => match a.status with
    | .free => true
    | .ended _ => true
    | _ => false

/-- The dispatcher finds its wake word not 0: it reads the record, executes LAUNCH, answers at slice offset 8, releases at
.dev and clears the wake word; with the table full it waits (R348). -/
def dispatch : Exec Unit := do
  let s ← get
  let fn := dispatcherFn s.cur.id
  let base := s.slice fn
  let off := memNat s.mem base 8
  need (off != 0)
  let at_ := base + off
  let s := s.vfRecord fn at_
  let w := s.myTower
  let x := memNat s.mem at_ 256
  let checks := (0, off % 64 == 0) :: recordChecks s s.ctx 255 x
  let done (s : State) (answer : Nat) : State :=
    let s := { s with mem := memPutNat (memPutNat s.mem (base + 8) 8 answer) base 8 0 }.publishPhys base 16
    if fn = 0 then s else s.publishPhys (at_ + 12) 2
  match firstBad checks with
  | some o => set (done s (2 ^ 63 + 0x68 * 2 ^ 48 + o))
  | none =>
    match s.freeEntry w with
    | none => idle
    | some e =>
      let l := launchOf s s.ctx x at_ (1024 * w + e) (s.time w)
      set (done (s.acceptLaunch l) l.ident)

/-- WAITA_WAKE (R228, R321, R348): the sleeper reads its word again. -/
def execWaitaWake (ag : Nat) (s : State) : Out :=
  if (s.agent? ag).any (fun a => a.kind == .dispatcher) then agentEvent ag (.waitaWake ag) dispatch s
  else rerun .waita ag (fun i t => match i with
    | .waita d a b acq rel scope w => execWaita d a b acq rel scope w t
    | _ => .next t) s

/-! ## FORK and JOIN (R34, R316, R364, R382) -/

/-- The sequencer kinds by code (R32). -/
def kindOf (code : Nat) : Kind :=
  match code with
  | 1 => .mcc
  | 2 => .copy
  | 3 => .stream
  | 4 => .gleaner
  | 5 => .lamplighter
  | 6 => .install
  | _ => .thread

/-- The towers that hold clusters of a launch, each with the lowest launch cluster index on it (R32, R33). -/
def Launch.towers (l : Launch) : List (Nat × Nat) :=
  (List.range 12).filterMap (fun w =>
    match (l.place.zipIdx.find? (fun (p, _) => p.cluster / 32 == w)) with
    | none => none
    | some (_, i) => some (w, i))

/-- The stages of the same kind, on the same stack for kind 6, that the record defines below stage `n`. -/
def Launch.alikeBelow (l : Launch) (n : Nat) (e : StageEntry) : Nat :=
  (l.stages.toList.take n).countP (fun f => f.present && f.kind == e.kind && (e.kind != 6 || f.stack == e.stack))

/-- The sequencers of stage `n`: identity and CLUSTER of each instance (R32, R33, R361). Each instance has a sequencer of its
own (R40). -/
def Launch.sequencers (l : Launch) (n : Nat) (e : StageEntry) : List (Nat × Nat) :=
  let seats : List (Nat × Nat) := match e.kind with
  | 1 => l.place.zipIdx.map (fun (p, i) => (6144 + p.cluster, i))
  | 2 => l.towers.map (fun (w, i) => (6912 + w, i))
  | 3 => l.place.zipIdx.map (fun (p, i) => (6528 + p.cluster, i))
  | 4 => l.towers.map (fun (w, i) => (6924 + w, i))
  | 5 => l.towers.map (fun (w, i) => (6936 + w, i))
  | 6 => [(6948 + e.stack, 0)]
  | _ => []
  seats.map (fun (id, i) => (furtherSeat id (l.alikeBelow n e), i))

/-- The stages a mask names that the record defines. -/
def Launch.named (l : Launch) (mask : BitVec 8) : List (Nat × StageEntry) :=
  (l.stages.toList.zipIdx.filter (fun (e, n) => mask.getLsbD n && e.present)).map (fun (e, n) => (n, e))

/-- The stages that a FORK starts: named, defined, and not started before (R34, R316). -/
def Launch.toFork (l : Launch) (mask : BitVec 8) : List (Nat × StageEntry) :=
  (l.named mask).filter (fun (n, _) => !l.started.getLsbD n)

/-- Has a tower or the stack of a stage failed (R382)? -/
def State.stageLost (s : State) (l : Launch) (e : StageEntry) : Bool :=
  if e.kind = 6 then !s.dev.granaryok.getLsbD e.stack else l.towers.any (fun (w, _) => !s.towerUp w)

/-- Is a sequencer free for an instance: held by none, or held by an ended instance of the same launch? -/
def State.sequencerFree (s : State) (l id : Nat) : Bool :=
  match s.agent? id with
  | none => true
  | some a => match a.status with
    | .free => true
    | .ended _ => a.launch == l
    | _ => false

/-- Registers of an instance at its start: g4–g11 the arguments (R34). -/
def argRegs (args : Vector Word 8) : Vector Word 32 :=
  Vector.ofFn (fun k => if h : 4 ≤ k.val ∧ k.val - 4 < 8 then args[k.val - 4]'h.2 else 0)

/-- A stage instance bound to a sequencer (R34). -/
def Launch.instanceAt (l : Launch) (n : Nat) (e : StageEntry) (at_ : Nat × Nat) : Agent :=
  { Agent.fresh at_.1 (kindOf e.kind) with
    launch := l.ident, stage := n, cluster := at_.2, asid := l.asid, status := .running, g := argRegs l.args,
    pc := e.entry }

/-- An ended instance whose scalar core or sequencer is about to be bound again is kept under an identity of its own (R317,
log entry 4), which the commands it issued keep naming. -/
def State.setAside (s : State) (id : Nat) : State :=
  match s.agent? id with
  | none => s
  | some a =>
    if (match a.status with | .ended _ => true | _ => false) then
      let n := s.agents.foldl (fun m b => max m (b.id + 1)) exitedId
      let aside := { a with id := n }
      let s := { s with
        cmds := s.cmds.map (fun (c : Cmd) => if c.issuer = id then { c with issuer := n } else c),
        sent := s.sent.map (fun (w : Sent) => if w.agent = id then { w with agent := n } else w) }
      if s.cur.id = id then { s with cur := aside }
      else { s with others := s.others.map (fun (b : Agent) => if b.id = id then aside else b) }
    else s

/-- fork (R34, R316): every instance of every named stage is bound, or the thread waits. -/
def execFork (mask : BitVec 8) (s : State) : Out :=
  insn .threadOnly (.fork mask) (do
    let s ← get
    match s.launch? s.cur.launch with
    | none => return .seq
    | some l => do
      let st := l.toFork mask
      match st.find? (fun (_, e) => s.stageLost l e) with
      | some (n, _) => trap 0x0C (some (zext mask)) (nw n)
      | none => pure ()
      let seats := (st.map (fun (n, e) => (l.sequencers n e).map (fun q => (n, e, q)))).flatten
      let ids := seats.map (fun x => x.2.2.1)
      if ids.any (fun id => !s.sequencerFree l.ident id) || ids.eraseDups.length != ids.length then
        throw (.wait .fork)
      let s := seats.foldl (fun (s : State) (n, e, q) => (s.setAside q.1).putAgent (l.instanceAt n e q)) s
      let started := st.foldl (fun (m : BitVec 8) (n, _) => m ||| (1#8 <<< n)) l.started
      set { s with launches := kvSet s.launches l.ident { l with started := started } }
      return .seq) s

/-- FORK_BOUND (R34, R316). -/
def execForkBound (ag : Nat) (s : State) : Out :=
  rerun .fork ag (fun i t => match i with
    | .fork mask => execFork mask t
    | _ => .next t) s

/-- Have the instances of stage `n` ended, and, for a stage holding the MCC, their accumulator operations completed (R266,
R316)? A stage never started counts as ended. -/
def State.stageEnded (s : State) (l : Launch) (n : Nat) (e : StageEntry) : Bool :=
  !l.started.getLsbD n ||
  (s.agents.all (fun a => !(a.launch == l.ident && a.stage == n && (n != 0 || a.kind == .thread)) ||
    (match a.status with | .ended _ => true | .free => true | _ => false)) &&
   (e.kind != 1 || l.place.all (fun p => (s.cluster p.cluster).accBusy.all (fun b => b.2.2 < s.clock))))

/-- join (R316, R364): waits for the named stages; the first fault of a named stage that no JOIN has reported traps;
otherwise it acquires at .dev. -/
def execJoin (mask : BitVec 8) (s : State) : Out :=
  insn .threadOnly (.join mask) (do
    let s ← get
    match s.launch? s.cur.launch with
    | none => return .seq
    | some l => do
      if (l.named mask).any (fun (n, e) => !s.stageEnded l n e) then throw (.wait .join)
      match l.faults.find? (fun f => mask.getLsbD f.1) with
      | some f => do
        set { s with launches := kvSet s.launches l.ident { l with faults := l.faults.erase f } }
        trap 0x0D (some f.2.2) (nw (f.1 + 65536 * f.2.1))
      | none => do
        acquire 0 2
        return .seq) s

/-- JOIN_COMPLETE (R316, R364). -/
def execJoinComplete (ag : Nat) (s : State) : Out :=
  rerun .join ag (fun i t => match i with
    | .join mask => execJoin mask t
    | _ => .next t) s

/-! ## YIELD, EXIT, ID, GANG, WAITT (R317–R320) -/

/-- yield (R318): the thread's credit becomes the least of its core's queues. -/
def State.leastCredit (s : State) : State :=
  let k := s.myCore
  let c := s.core k
  let least := c.credit.foldl min (c.credit.headD 0)
  s.setCore k { c with credit := c.credit.set (s.cur.id % 4) least }
def execYield (s : State) : Out :=
  plain .any .yield (fun s => if s.cur.kind = .thread then s.leastCredit else s) s

/-- An exited thread: rows, ports, and anchors given up, its scalar core freed (R317). -/
def State.exitThread (s : State) : State :=
  let s := s.dropHandles
  { s with cur := { s.cur with
    status := .ended 0, v := Vector.replicate 32 VReg.fresh, p := Vector.replicate 32 0, vqueue := [], reassembly := [],
    anchorCore := false, anchorCluster := false, anchorTower := false, pending := [] } }

/-- exit (R317): once older instructions, on the MCC its accumulator operations, have completed, it releases at .dev and
ends. -/
def execExit (s : State) : Out :=
  insn .any .exit (do
    let s ← get
    need (s.cur.kind != .mcc || (s.cluster s.myCluster).accBusy.all (fun b => b.2.2 < s.clock))
    resync
    release 2
    modify State.exitThread
    return .back) s

/-- What ID reads (R18, R33, R145). An agent of no launch, which executes no program, reads counts of 0; a thread that is no
member of a gang reads GANG as 0x00 also where its core is in one (DESIGN CHOICE: log entry 59). -/
def State.idValue (s : State) (sel : Nat) : Nat :=
  let a := s.cur
  let l := s.launch? a.launch
  match sel with
  | 0 => a.thread
  | 1 => a.core
  | 2 => a.cluster
  | 3 => s.myTower
  | 4 => a.stage
  | 5 => a.gang.toNat
  | 6 => match l with | none => 0 | some l => l.cores * l.threads
  | _ => match l with | none => 0 | some l => l.clusters

/-- id (R145). -/
def execId (d : Reg) (sel : BitVec 8) (s : State) : Out :=
  plain .any (.id d sel) (fun s => s.setG d (nw (s.idValue sel.toNat))) s

/-- The threads that would form a gang with `a`: its THREAD number on cores 0 to n − 1 of its launch cluster (R320). -/
def State.gangParty (s : State) (a : Agent) (n : Nat) : List Agent :=
  s.agents.filter (fun b => b.kind == .thread && b.launch == a.launch && b.cluster == a.cluster && b.thread == a.thread &&
    decide (b.core < n) && b.status != .free)

/-- Is a core of the party in a gang of other members (R30)? -/
def State.gangElsewhere (s : State) (party : List Agent) : Bool :=
  s.agents.any (fun b => b.kind == .thread && b.gang != 0 && !b.hasEnded && !party.any (fun c => c.id == b.id) &&
    party.any (fun c => placeCore c.id == placeCore b.id))

/-- A member's gang value (R18, R320). -/
def gangValue (k : Nat) (a : Agent) : BitVec 8 := BitVec.ofNat 8 (16 * k + a.core)

/-- The party becomes a gang of `k` (R320): each member takes its value, is anchored to its core, and has executed no BARRIER
for the gang (R231). -/
def State.formGang (s : State) (k : Nat) (party : List Agent) : State :=
  let join (a : Agent) : Agent :=
    if party.any (fun b => b.id == a.id) then
      { a with gang := gangValue k a, anchorCore := true, barriers := a.barriers.set 3 0 }
    else a
  { s with cur := join s.cur, others := s.others.map join }

/-- gang (R320): with a core of the party in another gang it waits (R30; log entry 50). -/
def execGang (d : Reg) (n : BitVec 8) (s : State) : Out :=
  insn .threadOnly (.gang d n) (do
    let k := n.toNat
    let s ← get
    let a := s.cur
    let bad {α : Type} : Exec α := trap 0x69 (some (zext n)) (nw a.core)
    let cores := match s.launch? a.launch with | none => 0 | some l => l.cores
    if cores < k ∨ k ≤ a.core then bad
    if a.gang ≠ 0 ∧ a.gang.toNat / 16 ≠ k then bad
    if a.gang ≠ 0 then do
      putG d (zext a.gang)
      return .seq
    let party := s.gangParty a k
    if party.any (fun b => b.gangAsk != k && (match b.status with | .ended _ => true | _ => false)) then bad
    modCur (fun a => { a with gangAsk := k })
    if party.all (fun b => b.id == a.id || b.gangAsk == k) && decide (party.length = k) && !s.gangElsewhere party then do
      modify (fun s => s.formGang k party)
      putG d (zext (gangValue k a))
      return .seq
    else throw (.wait .gang)) s

/-- GANG_COMPLETE (R320). -/
def execGangComplete (ag : Nat) (s : State) : Out :=
  rerun .gang ag (fun i t => match i with
    | .gang d n => execGang d n t
    | _ => .next t) s

/-- waitt (R39, R319). -/
def execWaitt (a : Reg) (s : State) : Out :=
  insn .any (.waitt a) (do
    let s ← get
    if (s.g a).toNat ≤ s.time s.myTower then return .seq else throw (.wait .waitt)) s

/-- WAITT_EXPIRE (R39). -/
def execWaittExpire (ag : Nat) (s : State) : Out :=
  rerun .waitt ag (fun i t => match i with
    | .waitt a => execWaitt a t
    | _ => .next t) s

/-! ## Admission (R36, R314) -/

/-- The tower whose TIME a launch's start and budget run on: that of its table. -/
def Launch.home (l : Launch) : Nat := l.ident / 1024

/-- Is a queued launch eligible (R314)? -/
def State.eligible (s : State) (l : Launch) : Bool :=
  l.admitted.isNone && decide (l.startTime ≤ s.time l.home) &&
  l.preds.all (fun p => let st := memNat s.mem p 8 / 2 ^ 60; st == 3 || st == 4)

/-- Does launch `a` come before launch `b` in the order of admission (R314)? -/
def Launch.before (a b : Launch) : Bool :=
  decide (b.prio < a.prio) || (a.prio == b.prio &&
    (decide (a.accepted < b.accepted) || (a.accepted == b.accepted && decide (a.home < b.home))))

/-- The stage-0 threads a placement gives: slot, and THREAD, CORE and CLUSTER (R18). -/
def seatsOf (place : List Placement) : List (Nat × Nat × Nat × Nat) :=
  (place.zipIdx.map (fun (p, ci) => (p.cores.zipIdx.map (fun ((k, scs), co) =>
    scs.zipIdx.map (fun (sc, th) => (16 * p.cluster + 4 * k + sc, th, co, ci)))).flatten)).flatten

/-- Does a placement meet the launch's demand on standing towers with free resources (R314)? -/
def State.placeOk (s : State) (l : Launch) (place : List Placement) : Bool :=
  let gs := place.map (fun p => p.cluster)
  let ids := (seatsOf place).map (fun x => x.1)
  place.length == l.clusters && gs.eraseDups.length == gs.length &&
  place.all (fun p =>
    decide (p.cluster < 384) && s.towerUp (p.cluster / 32) && p.cores.length == l.cores &&
    (p.cores.map (fun c => c.1)).eraseDups.length == l.cores &&
    p.cores.all (fun c => decide (c.1 < 4) && c.2.length == l.threads && c.2.eraseDups.length == l.threads &&
      c.2.all (fun sc => decide (sc < 4)))) &&
  ids.all (fun id => s.slotFree id) &&
  (!(l.stages.toList.any (fun e => e.present && e.kind == 1)) ||
    place.all (fun p => (s.cluster p.cluster).mccOwner.isNone))

/-- A stage-0 thread at its start (R34, R129, R314). -/
def Launch.threadAt (l : Launch) (vecbase : Word) (x : Nat × Nat × Nat × Nat) : Agent :=
  { Agent.fresh x.1 .thread with
    launch := l.ident, thread := x.2.1, core := x.2.2.1, cluster := x.2.2.2, asid := l.asid, status := .running,
    g := argRegs l.args, pc := (l.stages[0]).entry, regs := Regs.fresh vecbase }

/-- The MCC of a cluster taken by a launch, its accumulators +0 and its buffers empty (R256, R314). -/
def State.bindMcc (s : State) (l g : Nat) : State :=
  s.setCluster g { s.cluster g with mccOwner := some l, tileA := Tile.empty, tileB := Tile.empty, acc := [], accBusy := [] }

/-- The launch admitted at a placement: its threads stand on their scalar cores, its state word shows 2 (R314). -/
def State.admitAt (s : State) (l : Launch) (place : List Placement) : State :=
  let w := weightOf (s.recordWeight l)
  let s := s.weightRead l
  let l := { l with admitted := some (s.time l.home), place := place, weight := w }
  let s := { s with launches := kvSet s.launches l.ident l }
  let s := if l.stages.toList.any (fun e => e.present && e.kind == 1)
    then place.foldl (fun s p => s.bindMcc l.ident p.cluster) s else s
  let s := (seatsOf place).foldl (fun (s : State) x => (s.setAside x.1).putAgent (l.threadAt s.dev.vecbase x)) s
  s.writeState l 2 0

/-- LAUNCH_ADMIT (R314): the next eligible launch, where its placement can be bound; each thread acquires at .dev. -/
def execLaunchAdmit (l : Nat) (place : List Placement) (s : State) : Out :=
  event (do
    let s ← get
    match s.launch? l with
    | none => idle
    | some x => do
      need (s.dev.phase == 7 && s.eligible x && s.placeOk x place)
      need (s.launches.all (fun e => e.1 == l || !(s.eligible e.2 && e.2.before x)))
      set (s.admitAt x place)
      each ((seatsOf place).map (fun x => x.1)) (fun id => asAgent id (acquire 0 2))) s

/-! ## Ends and stops (R37, R315, R359, R360, R365) -/

/-- Have all instances of a launch ended? -/
def State.allEnded (s : State) (l : Nat) : Bool :=
  s.agents.all (fun a => a.launch != l || a.kind == .sweep || a.kind == .dispatcher ||
    (match a.status with | .ended _ => true | .free => true | _ => false))

/-- Have its commands completed but for an XRECLAIM that still waits (R315)? -/
def State.cmdsDone (s : State) (l : Nat) : Bool :=
  s.cmds.all (fun c => c.launch != l || (match c.work with | .reclaim _ _ _ _ _ => !c.started | _ => false))

/-- LAUNCH_END (R315): its release at .sys waits until what the launch sent has arrived (R236). -/
def execLaunchEnd (l : Nat) (s : State) : Out :=
  event (do
    let s ← get
    match s.launch? l with
    | none => idle
    | some x => do
      need (x.admitted.isSome && s.allEnded l && s.cmdsDone l && s.launchArrived l)
      each (s.cmds.filter (fun c => c.launch == l)) giveUp
      modify (fun s => s.dropCmds l)
      releaseLaunch l
      modify (fun s => (s.writeState x 3 0).freeLaunch l)) s

/-- The causes with which the device stops one launch on its own account (R350): the uncorrectable errors of registers, accumulators and
walks (R404). FABRIC_AGE comes with a flit past its bound and stops that flit's launches (R339, R406), MCHECK a tower's (R408). -/
def deviceStop (cause : Nat) : Bool := 0x78 ≤ cause && cause ≤ 0x7B

/-- LAUNCH_STOP (R365, R405): the device stops the launch with a cause, and an entry with the launch's identifier is posted. -/
def execLaunchStop (l cause : Nat) (s : State) : Out :=
  event (do
    need (((← get).launch? l).isSome && deviceStop cause)
    modify (fun s => s.logError cause (l / 1024) 0 (nw l))
    stopLaunch l cause) s

/-- The cycles a launch has run, counted from admission, whether or not a stage-0 thread is left (R37; DESIGN CHOICE: log
entry 60). -/
def State.ran (s : State) (l : Launch) : Nat :=
  match l.admitted with
  | none => 0
  | some t => s.time l.home - t

/-- LAUNCH_TIMEOUT (R37): more cycles than the budget allows. -/
def execLaunchTimeout (l : Nat) (s : State) : Out :=
  event (do
    let s ← get
    match s.launch? l with
    | none => idle
    | some x => do
      need (x.admitted.isSome && decide (x.budget < s.ran x))
      stopLaunch l 0x6E) s

/-- An event raised for the current agent: dropped where it has exited (R359). -/
def raise (p : Pending) : Exec Unit := modCur (fun a =>
  match a.status with
  | .ended _ => a
  | .free => a
  | _ => { a with pending := addPending a.pending p })

/-- BUDGET_WARN (R359): once per thread with bw set, at budget − floor(budget / 16). -/
def execBudgetWarn (ag : Nat) (s : State) : Out :=
  event (asAgent ag (do
    let s ← get
    match s.launch? s.cur.launch with
    | none => idle
    | some x => do
      need (s.cur.kind == .thread && ksBw s.regs.kstatus && !s.cur.budgetWarned && x.admitted.isSome &&
        decide (x.budget - x.budget / 16 ≤ s.ran x))
      modCur (fun a => { a with budgetWarned := true })
      raise { code := 0x0A, val := 0, val2 := 0 })) s

/-- WATCHDOG (R360): a stage-0 thread with ie set, or a sequencer instance, has slept 2^32 cycles in one wait of R321. -/
def execWatchdog (ag : Nat) (s : State) : Out :=
  event (asAgent ag (do
    let s ← get
    let a := s.cur
    match a.status with
    | .waiting w i => do
      need (w != .table && w != .queue && w != .gangLoad && w != .vqueue && w != .update && w != .wear)
      need (a.kind != .dispatcher && (a.kind != .thread || ksIe a.regs.kstatus) && decide (a.waitSince + 2 ^ 32 ≤ s.clock))
      need (a.pending.all (fun p => p.code != 0x06))
      raise { code := 0x06, val := (wordOf i).setWidth 64, val2 := 0 }
    | _ => idle)) s

end Sys2Proof.Machine
end

