-- ==== Sys2Proof/Machine/Boot.lean ====
section
/-! DEFINITION. Bring-up (R14–R16, R38, R187, R332, R348, R399): POWER_ON to READY. -/

namespace Sys2Proof.Machine

/-- POWER_ON (R14, R15): every register and memory at reset but what is not volatile: the flash and its wear. -/
def execPowerOn (s : State) : Out :=
  event (set { State.reset with
    sched := s.sched, clock := s.clock, fresh := s.fresh, granary := s.granary,
    mem := s.mem.filter (fun c => decide (2 ^ 42 ≤ c.1 ∧ c.1 < 2 ^ 43)) }) s

/-- The device stops in a phase (R16). -/
def State.failPhase (s : State) (p : Nat) : State := { s with dev := { s.dev with phase := 0xFF, failphase := p } }

/-- A phase from 0x03 to 0x06 ends: it is complete unless no tower is left (R16). -/
def State.endPhase (s : State) (p : Nat) : State :=
  if s.dev.towerok = 0 then s.failPhase p else { s with dev := { s.dev with phase := p } }

/-- Towers that fail a phase lose their bit (R14, R16). -/
def State.failTowers (s : State) (failed : BitVec 12) : State :=
  { s with dev := { s.dev with towerok := s.dev.towerok &&& ~~~failed } }

/-- A step of bring-up, which follows phase `p − 1` (R15). -/
def bringUp (p : Nat) (f : State → State) (s : State) : Out :=
  event (do
    need ((← get).dev.phase + 1 == p)
    modify f) s

/-- FIRMWARE_VERIFIED (R15, R16, R349): unverified firmware is never started. -/
def execFirmwareVerified (ok : Bool) (s : State) : Out :=
  bringUp 1 (fun s => if ok then { s with dev := { s.dev with phase := 1 } } else s.failPhase 1) s

/-- FABRIC_TRAINED (R14–R16): every tower's bit is set, ages and throttles are reset. -/
def execFabricTrained (ok : Bool) (s : State) : Out :=
  bringUp 2 (fun (s : State) => if ok then
      { s with
        dev := { s.dev with phase := 2, towerok := -1, planesOff := 0 }, flits := [],
        towers := s.towers.map (fun (k, (t : Tower)) => (k, { t with injrate := 0, deflcnt := 0, injected := [] })) }
    else s.failPhase 2) s

/-- Has a bus with this many working wires failed (R399)? -/
def busFailed (wires : Nat) : Bool := decide (wires < 16)

/-- The working wires of bus `n`; a bus not listed has all 36. -/
def Tower.wires (t : Tower) (n : Nat) : Nat := (kvGet { wires := 36, retraining := false } t.buses n).wires

/-- Have both buses of some pair failed (R399)? -/
def Tower.pairLost (t : Tower) : Bool :=
  t.buses.any (fun (n, b) => busFailed b.wires && busFailed (t.wires (Nat.xor n 1)))

/-- VERTICAL_BUSES_REPAIRED (R15, R16, R399): the map takes each bus's wires; a tower with both buses of a pair failed
fails. -/
def execVerticalBusesRepaired (failed : BitVec 12) (buses : List BusReport) (s : State) : Out :=
  bringUp 3 (fun s =>
    let s := (buses.filter (fun b => decide (b.tower < 12 ∧ b.bus < 4096 ∧ b.wires ≤ 36))).foldl (fun (s : State) b =>
      let t := s.tower b.tower
      s.setTower b.tower { t with buses := kvSet t.buses b.bus { wires := b.wires, retraining := false } }) s
    let lost : BitVec 12 := (List.range 12).foldl (fun (m : BitVec 12) k =>
      if (s.tower k).pairLost then m ||| (1#12 <<< k) else m) 0
    (s.failTowers (failed ||| lost)).endPhase 3) s

/-- DRAM_INITIALISED (R15, R367): all lines zero, no mark, no poison; no ways ceded, the staging cache 8 GiB; the L2 ways that
repair has retired in each tower (log entry 62). -/
def execDramInitialised (failed : BitVec 12) (s : State) : Out :=
  bringUp 4 (fun (s : State) =>
    let s := { s with
      mem := s.mem.filter (fun c => decide (2 ^ 42 ≤ c.1)), marks := [], poison := [],
      latent := s.latent.filter (fun e => decide (2 ^ 36 ≤ e.unit)),
      towers := s.towers.map (fun (k, (t : Tower)) => (k, { t with l2ways := 0x400, retiredWays := Config.retiredWays k })) }
    (s.failTowers failed).endPhase 4) s

/-- A stack takes one line of its wear table (R297, R300, R332): a block that backs nothing is an erased spare, or retired
at 3,000 erasures. -/
def Stack.report (x : Stack) (r : WearReport) : Stack :=
  let x := { x with counts := kvSet x.counts r.block r.count }
  match r.logical with
  | some lb => { x with backing := kvSet x.backing lb r.block }
  | none => if r.count < 3000 then { x with spares := x.spares ++ [r.block] } else { x with retired := r.block :: x.retired }

/-- GRANARY_ONLINE (R15, R16). -/
def execGranaryOnline (ok : BitVec 4) (wear : List WearReport) (s : State) : Out :=
  bringUp 5 (fun s =>
    let s := (List.range 4).foldl (fun (s : State) j =>
      s.setStack j ((wear.filter (fun r => r.stack == j)).foldl Stack.report Stack.fresh)) s
    { s with dev := { s.dev with granaryok := ok } }.endPhase 5) s

/-- TIME_ALIGNED (R15, R38): TIME starts, within 2 cycles across towers. -/
def execTimeAligned (failed : BitVec 12) (skew : List Nat) (s : State) : Out :=
  bringUp 6 (fun s =>
    let s := (List.range 12).foldl (fun (s : State) k =>
      s.setTower k { s.tower k with skew := min 2 (skew.getD k 0) }) { s with timeZero := s.clock }
    (s.failTowers failed).endPhase 6) s

/-- The wait in which a dispatcher sleeps: `waita.i64.dev.acq` on its wake word (R348). -/
def dispatcherWait : Instr := .waita 0 0 0 true false 2 true

/-- The resident dispatcher of a function (R348, R351): supervisor mode, address space 0. -/
def State.dispatcherAt (s : State) (fn : Nat) : Agent :=
  { Agent.fresh (7000 + fn) .dispatcher with
    launch := noLaunch, status := .waiting .waita dispatcherWait, waitSince := s.clock, seat := some (dispatcherSeat fn),
    regs := { Regs.fresh s.dev.vecbase with kstatus := 0x11 } }

/-- Does a virtual function's register enable it (R347)? -/
def State.vfEnabled (s : State) (fn : Nat) : Bool := (kvGet 0 s.dev.vfcfg fn).getLsbD 0

/-- The dispatchers of the physical function and of each enabled virtual function start, sleeping on their wake words
(R348). -/
def State.startDispatchers (s : State) : State :=
  (0 :: (s.dev.vfcfg.map (fun e => e.1)).filter (fun fn => s.vfEnabled fn)).foldl
    (fun (s : State) fn => s.putAgent (s.dispatcherAt fn)) s

/-- READY (R15, R16, R348): phase 0x07 is reached only with a tower that has passed; where the last one is lost between the end of phase 0x06
and this step, the failing code is 0x07, which R16 does not name (DESIGN CHOICE: log entry 82). -/
def execReady (s : State) : Out :=
  bringUp 7 (fun s => if s.dev.towerok = 0 then s.failPhase 7 else { s with dev := { s.dev with phase := 7 } }.startDispatchers) s

end Sys2Proof.Machine
end

