-- ==== Sys2Proof/Machine/Fetch.lean ====
section
/-! DEFINITION. Fetching an instruction (R67, R142, R143, R190, R373), and binding an instance so that its first fetch
finds a given word (log entry 12). -/

namespace Sys2Proof.Machine

/-- A word read by instruction fetch at `va`: through the cluster L1 (R190), in stream fetch (R352). -/
def fetchAt (va : Word) : Exec IWord := do
  let s ← get
  let xs ← loadPiece s.ctx .fetch 16 va.toNat 4
  return BitVec.ofNat 32 (leNat xs)

/-- Is the pc inside the body of an active LOOPV, and at which word (R141, R143)? -/
def State.inBody (s : State) : Option Nat :=
  let len := wbits s.regs.loopCtl 5 0
  let k := (s.cur.pc - s.regs.loopAddr).toNat
  if len ≠ 0 ∧ k % 4 = 0 ∧ k / 4 < len then some (k / 4) else none

/-- The next instruction word: from the replay buffer inside an active body (R143), else from memory. -/
def fetch : Exec IWord := do
  let s ← get
  match s.inBody with
  | some k => return if h : k < 32 then s.cur.replay[k] else 0
  | none => fetchAt s.cur.pc

/-- The instruction the current agent executes next, where its word can be fetched. -/
def State.upcoming (s : State) : Option Instr :=
  match fetch s with
  | .ok w _ => decode w
  | .error _ _ => none
def State.nextInstr (s : State) : Instr := s.upcoming.getD (.hint 0)

/-- Is an instruction of a vector core's queue (majors 0x1A to 0x25)? -/
def isVector (i : Instr) : Bool :=
  let m := (wordOf i).toNat / 2 ^ 26
  decide (0x1A ≤ m ∧ m ≤ 0x25)

/-- The registers a word may read: those of its register fields, the type of a vsetvl (R69), and at the end of a LOOPV body the
register its end test reads (R141). -/
def State.wordReads (s : State) (w : IWord) : List Nat :=
  let c := s.regs.loopCtl
  let len := wbits c 5 0
  [(bits w 21 5).toNat, (bits w 16 5).toNat, (bits w 11 5).toNat] ++
  (match decode w with | some (.vsetvl _ _ b) => [b.toNat] | _ => []) ++
  (if len ≠ 0 ∧ s.cur.pc = s.regs.loopAddr + 4 * nw (len - 1) then [wbits c 10 6] else [])

/-- Does the word read a register whose XWEAR result is still to come (R333)? -/
def State.awaitsWear (s : State) (w : IWord) : Bool :=
  s.cur.wearRegs.any (fun e => (s.wordReads w).contains e.1)

/-- The address at which the instruction of `withFetchWord` stands, and its frame in tower 0. -/
def probePc : Word := 0x1000
def probeFrame : Nat := 0x10000

/-- An instance that executes: the MCC of cluster 0 for the words only an MCC executes, thread 0 for the others. -/
def probeAgent (a : Agent) (w : Nat) : Agent :=
  let major := w / 2 ^ 26 % 64
  let a := if major = 0x27 ∨ major = 0x28 then { a with kind := .mcc, id := 6144 } else { a with kind := .thread, id := 0 }
  { a with status := .running, pc := probePc, pending := [], wearRegs := [], asid := 0, linkHit := none,
           regs := { a.regs with loopCtl := 0 } }

/-- The state whose next step fetches the word: bring-up done, an instance bound whose pc is mapped to a frame that
holds the word, and no older copy of it in an L1 nor of its translation nearer (log entry 12). -/
def State.probe (s : State) (w : Nat) : State :=
  let leaf : Word := nw (probeFrame + 0x3F)
  let t : Tower := s.tower 0
  let line := probeFrame / 64
  let s := { s with
    cur := probeAgent s.cur w, sched := [], mem := memPutNat s.mem probeFrame 4 w,
    marks := s.marks.filter (fun l => l != line), poison := s.poison.filter (fun l => l != line),
    latent := s.latent.filter (fun e => e.unit != line),
    dev := { s.dev with phase := 7, towerok := s.dev.towerok ||| 1 } }
  let s := s.setCluster 0 { s.cluster 0 with tlb := [] }
  let s := s.setCore 0 { s.core 0 with tlb := [] }
  let s := s.setTower 0 { t with tlb := { asid := 0, vbase := probePc.toNat, size := 4096, leaf := leaf } :: t.tlb }
  s.l1Drop 0 line

end Sys2Proof.Machine
end

