-- ==== Sys2Proof/Machine/Control.lean ====
section
/-! DEFINITION. Branches, jumps and LOOPV (R138–R144, R373). -/

namespace Sys2Proof.Machine

/-- A branch target: the pc plus a signed count of words (R76). -/
def branchTarget {n : Nat} (pc : Word) (off : BitVec n) : Word := pc + sext off * 4

/-- A conditional branch (R138). -/
def branch (i : Instr) (a b : Reg) (off : BitVec 16) (c : Word → Word → Bool) (s : State) : Out :=
  insn .any i (do
    let s ← get
    return if c (s.g a) (s.g b) then .jump (branchTarget s.cur.pc off) else .seq) s

/-- beq (R138). -/
def execBeq (a b : Reg) (off : BitVec 16) (s : State) : Out := branch (.beq a b off) a b off (fun x y => x == y) s
/-- bne (R138). -/
def execBne (a b : Reg) (off : BitVec 16) (s : State) : Out := branch (.bne a b off) a b off (fun x y => x != y) s
/-- blt (R138). -/
def execBlt (a b : Reg) (off : BitVec 16) (s : State) : Out := branch (.blt a b off) a b off (fun x y => x.slt y) s
/-- bge (R138). -/
def execBge (a b : Reg) (off : BitVec 16) (s : State) : Out := branch (.bge a b off) a b off (fun x y => !(x.slt y)) s

/-- jal (R139): the link is pc + 4. -/
def execJal (d : Reg) (off : BitVec 21) (s : State) : Out :=
  insn .any (.jal d off) (do
    let s ← get
    putG d (s.cur.pc + 4)
    return .jump (branchTarget s.cur.pc off)) s

/-- The target of jalr and jr: bits [1:0] cleared (R76, R139). -/
def regTarget (x : Word) (off : BitVec 16) : Word := (x + sext off * 4) &&& ~~~3

/-- jalr (R139): the target is computed before g1 takes the link. -/
def execJalr (a : Reg) (off : BitVec 16) (s : State) : Out :=
  insn .any (.jalr a off) (do
    let s ← get
    let t := regTarget (s.g a) off
    putG 1 (s.cur.pc + 4)
    return .jump t) s
/-- jr (R139). -/
def execJr (a : Reg) (off : BitVec 16) (s : State) : Out :=
  insn .any (.jr a off) (do return .jump (regTarget ((← get).g a) off)) s

/-- Bits 0 to VL − 1 of a predicate (R140). -/
def State.predBits (s : State) (a : Reg) : BitVec 1024 := s.p a &&& BitVec.ofNat 1024 (2 ^ s.regs.len - 1)

/-- A predicate branch, which resynchronises (R140). -/
def predBranch (i : Instr) (off : BitVec 16) (c : State → Bool) (s : State) : Out :=
  insn .threadOnly i (do
    resync
    let s ← get
    return if c s then .jump (branchTarget s.cur.pc off) else .seq) s
/-- bpany (R140). -/
def execBpany (a : Reg) (off : BitVec 16) (s : State) : Out :=
  predBranch (.bpany a off) off (fun s => s.predBits a != 0) s
/-- bpall (R140). -/
def execBpall (a : Reg) (off : BitVec 16) (s : State) : Out :=
  predBranch (.bpall a off) off (fun s => s.predBits a == BitVec.ofNat 1024 (2 ^ s.regs.len - 1)) s

/-- Is a body word of a major LOOPV refuses: 0x0D to 0x12, 0x30, 0x31 (R142)? -/
def loopRefuses (w : IWord) : Bool :=
  let m := w.toNat / 2 ^ 26
  (0x0D ≤ m && m ≤ 0x12) || m == 0x30 || m == 0x31

/-- The body words at an address, fetched and classified (R142): LOOP_BODY at the first refused word. -/
def readBody (base : Word) (n : Nat) : Exec (List IWord) := do
  let ws ← eachGet (List.range n) (fun k => fetchAt (base + 4 * nw k))
  match ws.zipIdx.find? (fun e => loopRefuses e.1) with
  | some (w, k) => trap 0x03 (some (w.setWidth 64)) (nw k)
  | none => return ws

/-- The words put into the replay buffer (R143). -/
def setReplay (ws : List IWord) : Exec Unit :=
  modCur (fun a => { a with replay := Vector.ofFn (fun k => ws.getD k.val 0) })

/-- loopv (R141–R143, R373): LOOPV_ACTIVE where a loop is active; the body is read and classified before any change. -/
def execLoopv (a : Reg) (n : BitVec 16) (s : State) : Out :=
  insn .threadOnly (.loopv a n) (do
    let s ← get
    if wbits s.regs.loopCtl 5 0 ≠ 0 then trap 0x0F none s.regs.loopAddr
    let base := s.cur.pc + 4
    let ws ← readBody base n.toNat
    if (← getG a) = 0 then return .jump (base + 4 * nw n.toNat)
    setReplay ws
    modRegs (fun r => { r with loopAddr := base, loopCtl := nw (64 * a.toNat + n.toNat) })
    return .jump base) s

end Sys2Proof.Machine
end

