-- ==== Sys2Proof/Machine/System.lean ====
section
/-! DEFINITION. System instructions, major 0x31, the control registers, hints, illegal words, and the delivery of
asynchronous events (R77–R79, R144, R146–R155, R187–R189, R340, R351–R354, R356, R359, R374). -/

namespace Sys2Proof.Machine

/-! ## Traps and returns -/

/-- trap (R147): TRAP_INSN with the code; KEPC holds the next instruction's address. -/
def execTrap (k : BitVec 12) (s : State) : Out :=
  insn .threadOnly (.trap k) (do
    throw (.trap { cause := 0x01, val := some (zext k), next := true })) s

/-- The words of the exception frame are loaded (R356): a late trap where an error stands in one (R358, R404). -/
def checkFrame : Exec Unit := do
  let id := (← get).cur.id
  each (List.range 4) (fun i => checkPoison 0 (frameAddr id + nw (8 * i)) (frameLoc id + 8 * i))

/-- eret (R148, R356): supervisor only; ERET_BAD outside a trap. -/
def execEret (s : State) : Out :=
  insn .threadOnly .eret (do
    needSupervisor
    if ksIntrap (← getRegs).kstatus = false then trap 0x08
    resync
    checkFrame
    modify State.leave
    return .back) s

/-- A word of major 0x3E is a no-op everywhere (R79). -/
def execHint (n : BitVec 26) (s : State) : Out := plain .any (.hint n) id s

/-- A word that is no instruction (R77, R78): ILLEGAL_INSN with the word, no state changed. -/
def execIllegalInsn (w : IWord) (s : State) : Out :=
  insn .any (.illegalInsn w) (do trap 0x02 (some (w.setWidth 64))) s

/-! ## Control registers (R149, R150, R154) -/

/-- A KGET of which registers resynchronises (R22). -/
def creg.resyncs (k : Nat) : Bool :=
  k == 0x002 || k == 0x003 || k == 0x004 || k == 0x010 || (0x013 ≤ k && k ≤ 0x017)
/-- The registers a user-mode KGET may not read, and those a user-mode KSET may not write (R154). -/
def creg.readPriv (k : Nat) : Bool := k == 0x100 || 0x102 ≤ k
def creg.writePriv (k : Nat) : Bool := k == 0x030 || k == 0x031 || 0x100 ≤ k

/-- The value of a control register (R149). -/
def State.creg (s : State) (k : Nat) : Word :=
  let r := s.regs
  let t := s.tower s.myTower
  match k with
  | 0x000 => r.vl | 0x001 => r.vtype | 0x002 => r.vstart | 0x003 => r.vhigh | 0x004 => r.vdirty
  | 0x005 => nw r.vrlen
  | 0x010 => r.fflags | 0x011 => r.frm | 0x012 => r.seed
  | 0x013 => r.fidxNv | 0x014 => r.fidxDz | 0x015 => r.fidxOf | 0x016 => r.fidxUf | 0x017 => r.fidxNx
  | 0x030 => r.loopAddr | 0x031 => r.loopCtl
  | 0x040 => nw (s.time s.myTower) | 0x041 => nw s.dirtyN
  | 0x100 => t.l2ways | 0x101 => t.oldtkt | 0x102 => t.injrate | 0x103 => t.deflcnt
  | 0x180 => r.kstatus | 0x181 => r.kcause | 0x182 => r.kepc | 0x183 => r.ktval | 0x184 => r.ktval2 | 0x185 => r.kvec
  | _ => if h : 0x020 ≤ k ∧ k - 0x020 < 8 then r.slen[k - 0x020]'h.2 else 0

/-- kget (R149, R154). -/
def execKget (d : Reg) (k : BitVec 12) (s : State) : Out :=
  insn .threadOnly (.kget d k) (do
    if creg.readPriv k.toNat then needSupervisor
    if creg.resyncs k.toNat then resync
    putG d ((← get).creg k.toNat)
    return .seq) s

/-- A VTYPE written by KSET (R108, R150): a reserved code leaves it; else VL and dlen follow. -/
def Regs.setVtype (r : Regs) (x : Word) : Regs :=
  if 13 ≤ wbits x 12 9 ∨ wbits x 6 5 = 3 then r
  else
    let f : Fmt := wbits x 12 9
    let v := min r.len (vlmaxOf f (2 ^ wbits x 8 7))
    let v := if f.isBlock then v / 32 * 32 else v
    { r with vtype := x &&& 0x1FE0, vl := mkVl v (if f.isBlock then min r.dlen v else v) }

/-- FRM written by KSET (R91): modes 101 to 111 leave mode unchanged. -/
def Regs.setFrm (r : Regs) (x : Word) : Regs :=
  { r with frm := if wbits x 2 0 ≤ 4 then x &&& 0xF else wput r.frm 3 3 (wbits x 3 3) }

/-- SLENk written by KSET (R128, R379): a length above 128 leaves len unchanged. -/
def slenSet (old x : Word) : Word :=
  let y := x &&& 0xFFFFFFFF800007FF
  if wbits x 10 0 ≤ 128 then y else wput y 10 0 (wbits old 10 0)

/-- LOOPADDR and LOOPCTL written by KSET: an active body is read again and classified first (R143, R144). -/
def setLoopAddr (x : Word) : Exec Unit := do
  let a := x &&& 0x00FFFFFFFFFFFFFC
  let len := wbits (← getRegs).loopCtl 5 0
  if len ≠ 0 then setReplay (← readBody a len)
  modRegs (fun r => { r with loopAddr := a })
def setLoopCtl (x : Word) : Exec Unit := do
  let r ← getRegs
  let ok := wbits x 5 0 ≤ 32
  let len := if ok then wbits x 5 0 else wbits r.loopCtl 5 0
  if ok && len != 0 then setReplay (← readBody r.loopAddr len)
  modRegs (fun r => { r with loopCtl := nw (64 * wbits x 10 6 + len) })

/-! ## L2WAYS (R187–R189) -/

/-- The bytes pinned on a tower (R299). -/
def Tower.pinned (t : Tower) : Nat := 65536 * (t.pins.filter (fun e => e.2 != 0)).length

/-- The value L2WAYS takes: each field keeps its old value where the written one is rejected (R187, R189). -/
def Tower.newWays (t : Tower) (x : Word) : Word :=
  let stg := if wbits x 12 8 ≤ 12 ∧ t.pinned ≤ 2 ^ 31 * wbits x 12 8 then wbits x 12 8 else wbits t.l2ways 12 8
  let ways := if wbits x 3 0 ≤ 8 then wbits x 3 0 else wbits t.l2ways 3 0
  nw (256 * stg + ways)

/-- The addresses a command names, its completion word or record among them. -/
def Work.names : Work → List Nat
  | .copy dst src _ _ _ _ done _ _ => [dst, src, done]
  | .stream h _ _ _ _ => [h.base.toNat]
  | .gather src idx dst _ _ done => [src, idx, dst, done]
  | .bin key _ _ counter bucket _ done => [key, counter, bucket, done]
  | .move dst src _ done => [dst, src, done]
  | .heal rbase _ _ _ done => [rbase, done]
  | .reclaim base _ list _ done => [base, list, done]
  | .install dst src _ rec flag _ => [dst, src, rec, flag]
  | .pin base _ _ done => [base, done]
  | .wear addr _ => [addr]
  | .sweep hdr _ _ skip _ _ _ _ _ _ _ => [hdr, skip]

/-- Is it an address in the TSP window? -/
def inTsp (a : Word) : Bool := isWindow a && wbits a 47 44 == 2

/-- Is an access to tower `w`'s TSP accepted and not performed: an update on its way to its bank, or a command that names
the window (R188)? -/
def State.tspPending (s : State) (w : Nat) : Bool :=
  s.bank.any (fun u => 2 ^ 46 + w * 2 ^ 26 ≤ u.loc && u.loc < 2 ^ 46 + (w + 1) * 2 ^ 26) ||
  s.cmds.any (fun c => placeTower s.dev.towerok c.place == w && c.work.names.any (fun a => inTsp (nw a)))

/-- The loads of the tower's agents that have read its TSP have read it for good (R188). -/
def State.tspRead (s : State) (w : Nat) : State :=
  let f (a : Agent) : Agent :=
    if placeTower s.dev.towerok a.id = w then
      { a.readDone (fun t => t.late.any (fun l => l.items.any (fun x => inTsp x.2.1))) with lateRead := a.lateRead.filter (fun r => !inTsp r.va) }
    else a
  { s with cur := f s.cur, others := s.others.map f }

/-- Tower `w` takes the new value: contents of ways ceded anew are zero, those of ways given back are lost, errors with them, and a
smaller staging cache keeps pinned units only (R188, R189). -/
def State.setWays (s : State) (w : Nat) (x : Word) : State :=
  let t := s.tower w
  let y := t.newWays x
  let lo := 2 ^ 23 * min (wbits t.l2ways 3 0) (wbits y 3 0)
  let hi := 2 ^ 23 * max (wbits t.l2ways 3 0) (wbits y 3 0)
  let base := 2 ^ 46 + w * 2 ^ 26
  let s := { s with mem := s.mem.filter (fun c => c.1 < base + lo || base + hi ≤ c.1) }.cleanUnits
    (fun u => decide (base + lo ≤ 8 * u ∧ 8 * u < base + hi))
  let staging := if wbits y 12 8 < wbits t.l2ways 12 8 then t.staging.filter (fun u => kvGet 0 t.pins u != 0) else t.staging
  s.setTower w { t with l2ways := y, staging := staging }

/-- KSET of L2WAYS: a change of ways waits until the tower's TSP accesses have performed (R188). -/
def setL2ways (x : Word) : Exec Unit := do
  let s ← get
  let w := s.myTower
  let t := s.tower w
  if wbits (t.newWays x) 3 0 ≠ wbits t.l2ways 3 0 ∧ s.tspPending w then throw (.wait .update)
  modify (fun s => (if wbits (t.newWays x) 3 0 = wbits t.l2ways 3 0 then s else s.tspRead w).setWays w x)

/-- A control register written (R150, R154): RO fields keep their values. -/
def writeCreg (k : Nat) (x : Word) : Exec Unit := do
  let w := (← get).myTower
  match k with
  | 0x001 => modRegs (fun r => r.setVtype x)
  | 0x002 => modRegs (fun r => { r with vstart := x &&& 0x7FF })
  | 0x004 => modRegs (fun r => { r with vdirty := x &&& 0xFFFFFFFEFFFFFFFF })
  | 0x010 => modRegs (fun r => { r with fflags := x &&& 0x1F })
  | 0x011 => modRegs (fun r => r.setFrm x)
  | 0x012 => modRegs (fun r => { r with seed := x })
  | 0x013 => modRegs (fun r => { r with fidxNv := x })
  | 0x014 => modRegs (fun r => { r with fidxDz := x })
  | 0x015 => modRegs (fun r => { r with fidxOf := x })
  | 0x016 => modRegs (fun r => { r with fidxUf := x })
  | 0x017 => modRegs (fun r => { r with fidxNx := x })
  | 0x030 => setLoopAddr x
  | 0x031 => setLoopCtl x
  | 0x100 => setL2ways x
  | 0x102 => modTower w (fun t => { t with injrate := x &&& 0xFF })
  | 0x103 => do
    modTower w (fun t => { t with deflcnt := x })
    modify (fun s => { s with flits := s.flits.map (fun f => if f.src = position w then { f with stale := true } else f) })
  | 0x180 => modRegs (fun r => { r with kstatus := x &&& 0xD33 })
  | 0x181 => modRegs (fun r => { r with kcause := x &&& 0x7FF7F })
  | 0x182 => modRegs (fun r => { r with kepc := x &&& ~~~3 })
  | 0x183 => modRegs (fun r => { r with ktval := x })
  | 0x184 => modRegs (fun r => { r with ktval2 := x })
  | 0x185 => modRegs (fun r => { r with kvec := x &&& 0x00FFFFFFFFFFFE00 })
  | _ =>
    modRegs (fun r => if h : 0x020 ≤ k ∧ k - 0x020 < 8 then
      { r with slen := r.slen.set (k - 0x020) (slenSet (r.slen[k - 0x020]'h.2) x) h.2 } else r)

/-- Does a queued instruction read or write the control register of a KSET, so that it has completed (R150)? FRM, SEED, FFLAGS and
the FIDX registers are those of instructions that compute or round; the loop and trap registers are none of a vector instruction's. -/
def creg.usedBy (k : Nat) (t : VToken) : Bool :=
  if k ≤ 0x005 ∨ (0x020 ≤ k ∧ k ≤ 0x027) then true else if 0x010 ≤ k ∧ k ≤ 0x017 then t.rounds else false

/-- kset (R150, R154): the older instructions that use the register have completed. -/
def execKset (a : Reg) (k : BitVec 12) (s : State) : Out :=
  insn .threadOnly (.kset a k) (do
    if creg.writePriv k.toNat then needSupervisor
    modCur (fun a => a.settle (creg.usedBy k.toNat))
    writeCreg k.toNat (← getG a)
    return .seq) s

/-- L2WAYS_WRITE (R188): the waiting KSET completes. -/
def execL2waysWrite (ag : Nat) (s : State) : Out :=
  rerun .update ag (fun i t => match i with
    | .kset a k => execKset a k t
    | _ => .next t) s

/-! ## TLBINV and CFLUSH (R151, R152) -/

/-- Does a held translation of some address space cover the address? -/
def TlbEntry.holds (t : TlbEntry) (va : Word) : Bool := t.vbase ≤ va.toNat && va.toNat < t.vbase + t.size

/-- Every TLB of the device changed (R197). -/
def State.mapTlbs (s : State) (f : List TlbEntry → List TlbEntry) : State :=
  { s with
    towers := s.towers.map (fun (k, (t : Tower)) => (k, { t with tlb := f t.tlb })),
    clusters := s.clusters.map (fun (k, (c : Cluster)) => (k, { c with tlb := f c.tlb })),
    cores := s.cores.map (fun (k, (c : Core)) => (k, { c with tlb := c.tlb.map (fun e => (e.1, f e.2)) })) }

/-- tlbinv (R151): kind 0 removes what covers the address from every TLB, kind 1 everything; the accesses on their way have
performed, those sent to other devices and to the host too. -/
def execTlbinv (d a : Reg) (s : State) : Out :=
  insn .threadOnly (.tlbinv d a) (do
    needSupervisor
    let va ← getG a
    need (← get).sent.isEmpty
    drainWhere (fun _ => true)
    modify (fun s =>
      let f (a : Agent) : Agent := { a.readDone (fun _ => true) with lateRead := none }
      { s with cur := f s.cur, others := s.others.map f })
    modify (fun s => s.mapTlbs (fun ts => if d = 0 then ts.filter (fun e => !e.holds va) else []))
    return .seq) s

/-- CFLUSH of one line (R152): no permission is checked, no mark followed; what does not reach generic memory, or is not
in the L1, has no effect. -/
def State.flushAddress (s : State) (va : Word) : State :=
  match translate s s.ctx .probe va with
  | .error _ => s
  | .ok pl =>
    match pl.cls with
    | .dram => s.flushLine s.myCluster (pl.loc / 64)
    | .flash => s.flushLine s.myCluster (pl.loc / 64)
    | _ => s

/-- Every thread of the cluster has its dirty bytes written back; then the L1 holds nothing (R152 kind 2). -/
def State.flushCluster (s : State) (g : Nat) : State :=
  let s := (s.cluster g).l1.foldl (fun s l => s.writeBack g l) s
  s.setCluster g { s.cluster g with l1 := [] }

/-- cflush (R152). -/
def execCflush (d a : Reg) (s : State) : Out :=
  insn .threadOnly (.cflush d a) (do
    if d = 2 then needSupervisor
    if d = 0 then do
      passBar 0
      let va ← getG a
      modify (fun s => s.flushAddress va)
    else if d = 1 then do
      drainBank (← getCur).id
      modify (fun s => s.writeBackThread s.myCluster s.cur.id)
    else do
      let s ← get
      let g := s.myCluster
      each ((s.agents.filter (fun b => placeCluster s.dev.towerok b.id == g)).map (fun b => b.id)) drainBank
      modify (fun s => s.flushCluster g)
    return .seq) s

/-! ## WFI and asynchronous events (R153, R359) -/

/-- wfi (R153). -/
def execWfi (a : Reg) (s : State) : Out :=
  insn .threadOnly (.wfi a) (do
    needSupervisor
    let s ← get
    let t := s.g a
    if !s.cur.pending.isEmpty || (t != 0 && t.toNat ≤ s.time s.myTower) then return .seq
    else throw (.wait .wfi)) s

/-- WFI_WAKE (R153). -/
def execWfiWake (ag : Nat) (s : State) : Out :=
  rerun .wfi ag (fun i t => match i with
    | .wfi a => execWfi a t
    | _ => .next t) s

/-- KCAUSE of an asynchronous event: ENGINE_FAULT is of the engine stream, the others are no access (R352, R359). -/
def asyncCause (code : Nat) : Word :=
  ({ cause := code, strm := if code = 0x51 then 7 else 6 } : Trap).word true

/-- An event delivered to the current agent (R359, R364): a thread enters its handler with KEPC at its cut, a sequencer
instance ends. -/
def deliverEvent (p : Pending) : Exec Unit := do
  modCur (fun a => { a with pending := a.pending.erase p, status := .running })
  match (← getCur).kind with
  | .thread => takeException (asyncCause p.code) p.val p.val2 (← getCur).pc p.code
  | .dispatcher => takeException (asyncCause p.code) p.val p.val2 (← getCur).pc p.code
  | _ => endInstance (asyncCause p.code) p.val p.val2

/-- Can an event be delivered there now (R359)? Executing or in a wait that is a cut, with ie set on a thread. -/
def Agent.takesEvents (a : Agent) : Bool :=
  ((a.kind != .thread && a.kind != .dispatcher) || ksIe a.regs.kstatus) &&
  match a.status with
  | .running => true
  | .waiting w _ => w != .wfi && w != .update && w != .wear
  | _ => false

/-- ASYNC_EVENT_DELIVER (R359): the pending event of the lowest code is delivered at the agent's next cut. -/
def execAsyncEventDeliver (ag : Nat) (s : State) : Out :=
  agentEvent ag (.asyncEventDeliver ag) (do
    let a ← getCur
    match a.pending with
    | [] => idle
    | p :: _ => do
      need a.takesEvents
      deliverEvent p) s

end Sys2Proof.Machine
end

