-- ==== Sys2Proof/Machine/Engines.lean ====
section
/-! DEFINITION. Engine commands: records, acceptance, the accesses and the order of queued commands (R246–R249,
R280–R283, R286, R287, R381, R386, R392, R393), copies (R284, R285), streams (R288, R289, R394), and the Gleaner
(R274–R277). -/

namespace Sys2Proof.Machine

/-! ## Records and their checks at issue -/

/-- A record of `n` bytes at `va`, aligned to `align`, read in the scalar stream through the L1 (R280). XSBAR holds no
command back (R289). -/
def readRecord (va : Word) (n align : Nat) : Exec Nat := do
  needAligned va align 0
  let c := (← get).ctx
  let parts ← eachGet (pieces va.toNat n n) (fun (a, k) => loadPiece c .load 0 a k)
  anchor va
  return leNat parts.flatten

/-- The first bad field of a record traps with the record's address and the field's offset (R274, R280, R303). -/
def checkFields (cause : Nat) (va : Word) (xs : List (Nat × Bool)) : Exec Unit :=
  match firstBad xs with
  | some o => trap cause (some va) (nw o) 0
  | none => pure ()

/-- A signed 64-bit field. -/
def recInt (x o : Nat) : Int := sint (nw (recField x o 8))

/-- The bytes a command touches from `va` on, with a signed step between `count` items of `w` bytes: lowest address and
length. -/
def spanOf (va : Nat) (step : Int) (count w : Nat) : Nat × Nat :=
  if count = 0 ∨ w = 0 then (va, 0)
  else
    let e := step * (count - 1 : Int)
    ((toWord ((va : Int) + min 0 e)).toNat, e.natAbs + w)

/-- An address that a command names is checked at issue: a window that the issuer may not name, or an offset past its size, is reported with
that address (R281, R381). A CSP named anchors the thread to its core (R183, R287). -/
def checkNamed (va : Nat) : Exec Unit := do
  if isWindow (nw va) then do
    let s ← get
    match windowOf s s.ctx va with
    | .error f => trap f.cause (some (nw va)) f.val2
    | .ok _ => if wbits (nw va) 47 44 = 0 then modCur (fun a => { a with anchorCore := true })

/-- A window named by a command is checked at issue against its size, and, from an engine stage instance, must be the TSP
(R281, R310, R381, R386). A CSP named anchors the thread to its core (R183, R287). LS cannot be named (R310). -/
def checkWindow (r : Nat × Nat) : Exec Unit := do
  let (lo, len) := r
  if wbits (nw lo) 63 48 = 0xFF ∧ len ≠ 0 then trap 0x12 (some (nw lo))
  if isWindow (nw lo) && len != 0 then do
    let s ← get
    match windowOf s s.ctx lo with
    | .error f => trap f.cause (some (nw lo)) f.val2
    | .ok _ =>
      let off := lo % 2 ^ 44
      let size := match wbits (nw lo) 47 44 with
        | 0 => 2 ^ 18
        | 1 => 2 ^ 22
        | _ => 2 ^ 23 * wbits (s.tower s.myTower).l2ways 3 0
      if size < off + len then
        trap (0x1A + wbits (nw lo) 47 44) (some (nw (lo - off + size))) (nw size)
      if wbits (nw lo) 47 44 = 0 then modCur (fun a => { a with anchorCore := true })

/-! ## Acceptance (R281, R283) -/

/-- A command that has not begun. -/
def SweepPos.start : SweepPos :=
  { begun := false, sw := 0, line := 0, skipWord := 0, skipLine := none, awake := 0, resumed := false }
def InstallPos.start : InstallPos := { done := 0, bytes := 0, erased := 0, wear := 0, status := 1, fault := 0, line := 0 }

/-- Does the engine's tower or stack stand (R381)? Engines: 1 copy, 2 Gleaner, 3 Lamplighter, 4 install, 5 stream
dispatcher. -/
def State.engineUp (s : State) (engine unit : Nat) : Bool :=
  if engine = 4 then s.dev.granaryok.getLsbD unit else s.towerUp unit

/-- Is it full (R281)? -/
def State.queueFull (s : State) (engine unit : Nat) : Bool :=
  (engine == 4 && decide (16 ≤ (s.queue 4 unit).length)) ||
  ((engine == 1 || engine == 2 || engine == 3) && decide (64 ≤ (s.queue engine unit).length))

/-- A command is accepted, or traps because its engine is lost, or waits for a place (R281, R381). `chan` is the channel
asked for: none for any. -/
def accept (engine unit : Nat) (recAddr : Word) (acq rel : Bool) (scope : BitVec 2) (chan : Option Nat) (w : Work) :
    Exec Unit := do
  let s ← get
  if s.engineUp engine unit = false then trap 0x5B (some recAddr)
  if s.queueFull engine unit then throw (.wait .queue)
  let a := s.cur
  let chan := if engine ≠ 1 ∨ w.isReclaim then none else match chan with
    | some k => some k
    | none => s.freeChannel unit
  set { s with
    cmds := s.cmds ++ [({
      id := s.nextCmd, engine := engine, unit := unit, issuer := a.id, place := a.id, kind := a.kind, user := a.user,
      launch := a.launch, asid := a.asid, acq := acq, rel := rel, scope := scope.toNat, recAddr := recAddr.toNat,
      work := w, chan := chan, started := false, pos := SweepPos.start, inst := InstallPos.start } : Cmd)]
    nextCmd := s.nextCmd + 1 }

/-! ## The accesses of a queued command (R246–R249) -/

/-- Runs `x` as the issuer, for what it has stored and no FENCE has joined (R248); where the issuer has ended, as an agent
with nothing of its own. -/
def asIssuer {α : Type} (c : Cmd) (x : Exec α) : Exec α := fun s =>
  match s.agent? c.issuer with
  | some _ => asAgent c.issuer x s
  | none =>
    let back (t : State) : State := { t with cur := s.cur }
    match x { s with cur := Agent.fresh c.place c.kind } with
    | .ok v t => .ok v (back t)
    | .error e t => .error e (back t)

/-- The stream number of an engine's access. -/
def engineStream : Nat := 12

/-- Does the scope of a thread's release cover the engine of its command (R236, R248)? -/
def Cmd.covered (c : Cmd) (scope : Nat) : Bool := 2 ≤ scope || (scope == 1 && c.engine != 4)

/-- Does an engine read see a store of the issuer for sure: a FENCE stands between, and for generic memory a release of its
thread that the command acquires (R248)? Stores of engines it sees. -/
def Cmd.sees (c : Cmd) (e : Loose) : Bool :=
  e.seen.getLsbD engineStream && (e.window || 12 ≤ e.stream ||
    (c.acq && (match e.rel with | some k => c.covered k | none => false)))

/-- The aligned word of a home or a window as an engine reads it: of the stores that no FENCE, release and acquire have
joined it sees those before a point of their list, those that still stand in the issuer's L1 alone among them (R248). -/
def engineWord (c : Cmd) (loc : Nat) : Exec (BitVec 64) := do
  let s ← get
  let es := s.cur.loose.filter (fun e => e.word == loc / 8)
  let k ← pickPoint c.sees es
  noteShown false (fun e => e.at false (loc / 8))
  let home := undo false ((es.drop k).filter (fun e => e.home)) (memWord s.mem loc)
  return ((es.take k).filter (fun e => !e.home)).foldl (fun v e => mix v e.new e.mask) home

/-- The data at a location are consumed by an engine: an error names the address, not the physical line (R392), and that of
generic memory is POISON_LOAD (R403). -/
def engineCheck (va : Word) (loc : Nat) (hops : Nat) : Exec Unit := do
  match ← attempt (checkPoison engineStream va loc hops) with
  | .ok _ => pure ()
  | .error (.trap t) => throw (.trap { t with val := some va, cause := if loc < 2 ^ 42 ∧ poisons t.cause then 0x72 else t.cause })
  | .error e => throw e

/-- One piece read by an engine at its home, window or bridge frame; flash goes through the staging cache of its tower (R248,
R284). -/
def engineReadPiece (c : Cmd) (a k : Nat) : Exec (List Byte) := do
  let s ← get
  let va : Word := nw a
  let (_, pl, hops, _) ← orTrap va engineStream (resolve s c.ctx .load va)
  match pl.cls with
  | .bridge _ addr => do
    engineCheck va pl.loc hops
    bridgeRead addr k
  | _ => do
    let loc := pl.loc + wbits va 5 0
    engineCheck va loc hops
    readStaged c.ctx pl
    return wordBytes (← engineWord c loc) (loc % 8) k

/-- `n` bytes read at homes or windows for a command. -/
def engineRead (c : Cmd) (va n : Nat) : Exec Nat := asIssuer c (do
  let parts ← eachGet (pieces va n n) (fun (a, k) => engineReadPiece c a k)
  return leNat parts.flatten)

/-- Bytes stored by an engine inside one aligned word of memory: put in among the issuer's stores to it that no FENCE has
joined; a load of the issuer sees it or not until it follows the completion word (R248, R249). `mark` is 13 for that word. -/
def enginePut (c : Cmd) (mark loc : Nat) (xs : List Byte) (atomic : Bool) : Exec Unit := do
  let o := loc % 8
  let now := memWord (← get).mem loc
  let es := (← getCur).loose.filter (fun e => e.at false (loc / 8))
  let k ← pickPoint (fun e => e.sure engineStream || e.atomic) es
  let y ← putWord mark false (loc / 8) (byteBits o xs.length) (bytesWord o xs) now atomic k (c.id + 1)
  modify (fun s =>
    let s := if 2 ^ 44 ≤ loc ∧ xs.length = 8 then s.cleanUnits (fun u => u == loc / 8) else s
    { s with mem := memPuts s.mem loc (wordBytes y o xs.length) })

/-- One aligned 8-byte piece stored for a command: the line of memory it reached. -/
def enginePiece (c : Cmd) (mark : Nat) (acc : Acc) (a : Nat) (xs : List Byte) : Exec (Option Nat) := do
  let va : Word := nw a
  let s ← get
  let (_, pl, _, _) ← orTrap va engineStream (resolve s c.ctx acc va)
  match pl.cls with
  | .bridge t addr => do
    checkSend engineStream va pl.loc
    bridgeWrite (cmdAgent c.id) t addr xs a
    return none
  | _ => do
    enginePut c mark (pl.loc + wbits va 5 0) xs (acc == .atomic)
    return some (pl.loc / 64)

/-- Bytes written at homes or windows for a command; a whole line written clears its poison (R403). -/
def engineStore (c : Cmd) (mark va : Nat) (xs : List Byte) : Exec Unit := asIssuer c (do
  let ls ← eachGet (pieces va xs.length xs.length) (fun (a, k) =>
    enginePiece c mark .store a ((xs.drop (a - va)).take k))
  if va % 64 = 0 ∧ xs.length = 64 then
    match ls with
    | some l :: _ => modify (fun s => s.cleanUnits (fun u => u == l))
    | _ => pure ())

/-- Data written for a command. -/
def engineWrite (c : Cmd) (va : Nat) (xs : List Byte) : Exec Unit := engineStore c engineStream va xs
/-- The number that marks a store of a completion word or record. -/
def wordStream : Nat := 13
/-- A completion word, record or status word written for a command (R249, R283). -/
def engineReport (c : Cmd) (va : Nat) (xs : List Byte) : Exec Unit := engineStore c wordStream va xs

/-- One atomic step of an engine on the 8 bytes at an address (R226, R227, R276): `f` gives what is written to its low `m`
bytes, or none where they stay. The value read. -/
def engineUpdate (c : Cmd) (va m : Nat) (f : Nat → Option Nat) : Exec Nat := asIssuer c (do
  let s ← get
  let a : Word := nw va
  let (_, pl, hops, _) ← orTrap a engineStream (resolve s c.ctx .atomic a)
  let put (x : Nat) : Exec Unit := match f x with
    | none => pure ()
    | some y => do
      let _ ← enginePiece c engineStream .atomic va (leBytes m y)
      pure ()
  match pl.cls with
  | .bridge _ addr => do
    engineCheck a pl.loc hops
    let x := leNat (← bridgeRead addr 8)
    put x
    return x
  | _ => do
    let loc := pl.loc + wbits a 5 0
    engineCheck a loc hops
    let word := loc / 8
    let es := s.cur.loose.filter (fun e => e.at false word)
    let k ← pickPoint (fun e => e.sure engineStream || e.atomic) es
    let now := memWord s.mem loc
    let x := (undo false (es.drop k) now).toNat
    match f x with
    | none => pure ()
    | some y => do
      let z ← putWord engineStream false word (byteBits 0 m) (bytesWord 0 (leBytes m y)) now true k (c.id + 1)
      modify (fun s => { s with mem := memPuts s.mem loc (wordBytes z 0 m) })
    return x)

/-- What a command's failing access reports: the cause and the address. -/
abbrev Failure := Nat × Nat

/-- `x`, or the cause and address of its fault. -/
def orFail {α : Type} (x : Exec α) : Exec (Except Failure α) := do
  match ← attempt x with
  | .ok v => return .ok v
  | .error (.trap t) => return .error (t.cause, (t.val.getD 0).toNat)
  | .error _ => idle

/-! ## Order and completion -/

/-- The window bytes of a command as the range checker compares them (R287): location, length, written. -/
def State.windowSpan (s : State) (c : Cmd) (r : Nat × Nat) (wr : Bool) : List (Nat × Nat × Bool) :=
  if isWindow (nw r.1) && r.2 != 0 then
    match windowOf s { c.ctx with kind := .thread } r.1 with
    | .ok pl => [(pl.loc, r.2, wr)]
    | .error _ => []
  else []

/-- The whole window instance that holds an address. -/
def State.windowWhole (s : State) (c : Cmd) (va : Nat) : List (Nat × Nat × Bool) :=
  let base := va - va % 2 ^ 44
  let size := match wbits (nw va) 47 44 with
    | 0 => 2 ^ 18
    | 1 => 2 ^ 22
    | _ => 2 ^ 26
  s.windowSpan c (base, size) false

/-- Lines and pitch of a context tensor (R302). -/
def ctxLines (n : Nat) : Nat := ceilDiv n 16
def ctxPitch (f : Fmt) : Nat := 64 + 64 * ceilDiv (16 * f.bits / 8) 64

/-- The window ranges of a command (R287). -/
def State.spans (s : State) (c : Cmd) : List (Nat × Nat × Bool) :=
  match c.work with
  | .copy dst src rb rows ss ds _ _ _ =>
    s.windowSpan c (spanOf src ss rows rb) false ++ s.windowSpan c (spanOf dst ds rows rb) true
  | .gather src idx dst n w _ =>
    s.windowWhole c src ++ s.windowSpan c (idx, 4 * n) false ++ s.windowSpan c (dst, n * w) true
  | .bin key n b ctr bkt slots _ =>
    s.windowSpan c (key, 4 * n) false ++ s.windowSpan c (ctr, 8 * b) true ++ s.windowSpan c (bkt, 4 * b * slots) true
  | .heal rbase rlen _ _ _ => s.windowSpan c (rbase, rlen) true
  | .sweep hdr n f skip _ _ _ _ _ _ _ =>
    s.windowSpan c (hdr, 64 + ctxLines n * ctxPitch f) true ++ s.windowSpan c (skip, 8 * ceilDiv (ctxLines n) 64) true
  | _ => []

/-- Do two ranges intersect, one of them written? -/
def spansClash (a b : Nat × Nat × Bool) : Bool :=
  decide (a.1 < b.1 + b.2.1) && decide (b.1 < a.1 + a.2.1) && (a.2.2 || b.2.2)

/-- The range checker: an earlier command of the tower's copy engine, Gleaner or Lamplighter shares window bytes with
accesses of this one (R287). -/
def State.blocked (s : State) (c : Cmd) (bs : List (Nat × Nat × Bool)) : Bool :=
  let checked (e : Nat) : Bool := e == 1 || e == 2 || e == 3
  checked c.engine && s.cmds.any (fun d => checked d.engine && d.unit == c.unit && decide (d.id < c.id) &&
    (s.spans d).any (fun a => bs.any (fun b => spansClash a b)))
/-- Does it hold back some access of the command? -/
def State.rangeWait (s : State) (c : Cmd) : Bool := s.blocked c (s.spans c)

/-- Have its channel's or its stack's earlier commands completed (R286, R333)? -/
def State.first (s : State) (c : Cmd) : Bool :=
  match c.engine with
  | 1 => if c.work.isReclaim then (s.freeChannel c.unit).isSome
         else c.chan.isSome && (s.queue 1 c.unit).all (fun d => d.chan != c.chan || decide (c.id ≤ d.id))
  | 4 => (s.queue 4 c.unit).all (fun d => decide (c.id ≤ d.id))
  | _ => true

/-- Is it the command's turn, every access of it let pass by the range checker? -/
def State.turn (s : State) (c : Cmd) : Bool := s.first c && !s.rangeWait c

/-- The command numbered `n`, where its engine stands. -/
def getCmd (n : Nat) : Exec Cmd := do
  let s ← get
  match s.cmds.find? (fun c => c.id == n) with
  | none => idle
  | some c => do
    need (s.engineUp c.engine c.unit)
    return c

/-- A command replaced by one of the same number. -/
def putCmd (c : Cmd) : Exec Unit := modify (fun s =>
  { s with cmds := s.cmds.map (fun (d : Cmd) => if d.id = c.id then c else d) })

/-- Has the start time come at the command's tower (R39)? -/
def State.startDue (s : State) (c : Cmd) (start : Nat) : Bool := decide (start ≤ s.time c.unit)

/-- KTVAL2 of ENGINE_FAULT (R392). -/
def faultDetail (f : Failure) : Word := nw (f.1 % 128 + 2 ^ 14 * (f.2 % 2 ^ 56 / 64))

/-- What command `n` owed of XWEAR is owed no more (R333); a loop's end test that has waited for it is made (R141). One lost with its engine
leaves gd as it was (log entry 63). -/
def State.endWear (s : State) (n : Nat) : State :=
  let s := { s with cur := { s.cur with wearRegs := s.cur.wearRegs.filter (fun e => e.2 != n) } }
  match s.cur.status with
  | .waiting .wear i =>
    if s.cur.wearRegs.any (fun e => e.1 == wbits s.regs.loopCtl 10 6) then s
    else { s with cur := { s.cur with status := .running } }.retire i .seq
  | _ => s

/-- The command is over: it leaves its queue; a failure raises ENGINE_FAULT in its issuer with `val` as KTVAL, unless the
issuer has ended (R359, R392). -/
def finishCmd (c : Cmd) (val : Nat) (f : Option Failure) : Exec Unit := do
  modify (fun s => { s with cmds := s.cmds.filter (fun d => d.id != c.id) }.handChannel c.unit)
  match (← get).agent? c.issuer with
  | none => pure ()
  | some _ => asAgent c.issuer (do
    if c.work matches .wear .. then modify (fun s => s.endWear c.id)
    match f with
    | none => pure ()
    | some f => raise { code := 0x51, val := nw val, val2 := faultDetail f })

/-- Does a command with completion address `done` write no completion word? An XRECLAIM always writes one (R294). -/
def Cmd.silent (c : Cmd) (done : Nat) : Bool := done == 0 && !c.work.isReclaim

/-- KTVAL of ENGINE_FAULT: the completion address, or the record's where there is none (R392). -/
def Cmd.report (c : Cmd) (done : Nat) : Nat := if c.silent done then c.recAddr else done

/-- The address under which ENGINE_FAULT reports the command (R392): its completion word's or record's, for a sweep its header's
status word. -/
def Cmd.reportAt (c : Cmd) : Nat :=
  match c.work with
  | .copy _ _ _ _ _ _ done _ _ | .gather _ _ _ _ _ done | .bin _ _ _ _ _ _ done | .move _ _ _ done | .heal _ _ _ _ done
  | .reclaim _ _ _ _ done | .install _ _ _ done _ _ | .pin _ _ _ done => c.report done
  | .sweep hdr .. => (nw (hdr + 24)).toNat
  | .stream .. | .wear .. => c.recAddr

/-- What a command sent to other devices and to the host has arrived there (R345). -/
def State.settleSent (s : State) (c : Cmd) : State := { s with sent := s.sent.filter (fun w => w.agent != cmdAgent c.id) }

/-- The release of a command that ends (R247): at .sys once what it sent has arrived (R236). -/
def publishEnd (c : Cmd) (dest : List WRange) : Exec Unit :=
  modify (fun s => dest.foldl (fun s r => publishCmd s c r) (if c.rel && c.scope == 3 then s.settleSent c else s))

/-- The end of a command that writes one completion word (R247, R283, R393): release, then the word, then the report. -/
def closeCmd (c : Cmd) (done word : Nat) (dest : List WRange) (f : Option Failure) : Exec Unit := do
  publishEnd c dest
  let g ← if c.silent done then pure none else do
    match ← orFail (engineReport c done (leBytes 8 word)) with
    | .ok _ => pure none
    | .error e => pure (some e)
  finishCmd c (c.report done) (match f with | some e => some e | none => g)

/-! ## XCOPY (R284–R286) -/

/-- xcopy (R284). -/
def execXcopy (d a b : Reg) (acq rel : Bool) (scope : BitVec 2) (s : State) : Out :=
  insn (.threadOr .copy) (.xcopy d a b acq rel scope) (do
    let va ← getG b
    let x ← readRecord va 64 64
    let chan := recField x 40 1
    checkFields 0x50 va [(0, decide (1 ≤ recField x 0 4 ∧ recField x 0 4 ≤ 2 ^ 24)),
      (4, decide (1 ≤ recField x 4 4 ∧ recField x 4 4 ≤ 2 ^ 20)), (24, recField x 24 8 % 8 == 0),
      (40, decide (chan ≤ 7) || chan == 0xFF), (41, recField x 41 23 == 0)]
    let src := (← getG a).toNat
    let dst := (← getG d).toNat
    checkNamed src
    checkWindow (spanOf src (recInt x 8) (recField x 4 4) (recField x 0 4))
    checkNamed dst
    checkWindow (spanOf dst (recInt x 16) (recField x 4 4) (recField x 0 4))
    checkWindow (recField x 24 8, 8)
    accept 1 (← get).myTower va acq rel scope (if chan = 0xFF then none else some chan)
      (.copy dst src (recField x 0 4) (recField x 4 4) (recInt x 8) (recInt x 16) (recField x 24 8) (recField x 32 8) chan)
    return .seq) s

/-- The pieces of one row: each lies in one aligned 64-byte line of the source (R284). -/
def rowPieces (src dst : Nat) : Nat → Nat → List (Nat × Nat × Nat)
  | 0, _ => []
  | _, 0 => []
  | fuel + 1, n =>
    let k := min n (64 - src % 64)
    (src, dst, k) :: rowPieces (src + k) (dst + k) fuel (n - k)

/-- The pieces of a copy: source, destination, bytes. -/
def copyPieces (dst src rb rows : Nat) (ss ds : Int) : List (Nat × Nat × Nat) :=
  ((List.range rows).map (fun (r : Nat) =>
    rowPieces (toWord (src + r * ss)).toNat (toWord (dst + r * ds)).toNat rb rb)).flatten

/-- The DRAM line a command's access reaches. -/
def State.cmdLine (s : State) (c : Cmd) (acc : Acc) (va : Nat) : Option Nat :=
  match resolve s c.ctx acc (nw va) with
  | .ok (_, pl, _, _) => if pl.cls = .dram then some (pl.loc / 64) else none
  | .error _ => none

/-! ### Commands performed item by item (R284, R275, R276, R393). A step performs everything left, in a free order, or one
item, so that loads find some of a command's words written and others not (R249). -/

/-- The items of a command performed now, in order, and those left for later: all that are left, or one that the range checker
lets pass (R287). -/
def pickItems (c : Cmd) (n : Nat) (spans : Nat → List (Nat × Nat × Bool)) : Exec (List Nat × List Nat) := do
  let s ← get
  let todo := c.left.getD (List.range n)
  if todo.isEmpty then return ([], [])
  let one ← if s.rangeWait c then pure true else drawBit
  if one then
    let free := todo.filter (fun i => !s.blocked c (spans i))
    let k ← drawBelow free.length
    match free[k]? with
    | none => idle
    | some i => return ([i], todo.erase i)
  else return (← shuffle todo.length todo, [])

/-- Items performed in order until one fails: those not performed, the tally, and the failure (R393). -/
def runUntil (one : Nat → Exec (Nat × Nat)) : List Nat → Nat × Nat → Exec (List Nat × (Nat × Nat) × Option Failure)
  | [], n => pure ([], n, none)
  | i :: rest, n => do
    match ← orFail (one i) with
    | .ok k => runUntil one rest (n.1 + k.1, n.2 + k.2)
    | .error f => return (i :: rest, n, some f)

/-- Items performed in order, none where a link going down has ended a write of the command's that was in flight (R346, R391): those not
performed, the tally, and the failure (R393). -/
def runItems (c : Cmd) (one : Nat → Exec (Nat × Nat)) (now : List Nat) (n : Nat × Nat) : Exec (List Nat × (Nat × Nat) × Option Failure) :=
  match c.hit with
  | some f => pure (now, n, some f)
  | none => runUntil one now n

/-- What is in flight when a command stops is completed where it can be (R393): the tally. -/
def runOut (one : Nat → Exec (Nat × Nat)) : List Nat → Nat × Nat → Exec (Nat × Nat)
  | [], n => pure n
  | i :: rest, n => do
    match ← orFail (one i) with
    | .ok k => runOut one rest (n.1 + k.1, n.2 + k.2)
    | .error _ => runOut one rest n

/-- May a command complete: a release at .sys waits for what it sent to other devices and to the host (R236, R247)? -/
def State.mayClose (s : State) (c : Cmd) : Bool := !c.rel || c.scope != 3 || s.arrived (cmdAgent c.id)

/-- The command goes on with the items left, or waits for its release at .sys; else, or after a failure, it ends. -/
def goOn (c : Cmd) (left : List Nat) (n : Nat × Nat) (f : Option Failure) (close : Exec Unit) : Exec Unit := do
  if f.isNone && (!left.isEmpty || !(← get).mayClose c) then putCmd { c with started := true, left := some left, tally := n } else close

/-- A piece of a copy, and the part of it in one aligned word of the destination (R249): source, destination, bytes. -/
abbrev CopyPart := (Nat × Nat × Nat) × (Nat × Nat × Nat)
def copyParts (ps : List (Nat × Nat × Nat)) : List CopyPart :=
  (ps.map (fun p => (pieces p.2.1 p.2.2 p.2.2).map (fun (a, k) => (p, (p.1 + (a - p.2.1), a, k))))).flatten

/-- The window bytes of a part. -/
def State.partSpans (s : State) (c : Cmd) (ps : List CopyPart) (i : Nat) : List (Nat × Nat × Bool) :=
  match ps[i]? with
  | none => []
  | some (_, src, dst, k) =>
    s.windowSpan c ((nw src).toNat, k) false ++ s.windowSpan c ((nw dst).toNat, k) true

/-- The location a command's access reaches in generic memory or a window. -/
def State.cmdLoc (s : State) (c : Cmd) (acc : Acc) (va : Nat) : Option Nat :=
  match resolve s c.ctx acc (nw va) with
  | .ok (_, { cls := .bridge _ _, .. }, _, _) => none
  | .ok (_, pl, _, _) => some (pl.loc + va % 64)
  | .error _ => none

/-- The units that hold `k` bytes from a location on. -/
def unitsOf (loc k : Nat) : List Nat := ((List.range k).map (fun i => errorUnit (loc + i))).eraseDups

/-- The errors that poison and that a read of some units meets are found (R402, R404). -/
def State.findErrors (s : State) (us : List Nat) : State :=
  (s.latent.filter (fun e => us.contains e.unit && poisons e.cause)).foldl State.foundError s

/-- Is the source of a piece poisoned, or will its read find it so? -/
def State.pieceBad (s : State) (c : Cmd) (src k : Nat) : Bool :=
  match s.cmdLoc c .load (nw src).toNat with
  | none => false
  | some loc => (unitsOf loc k).any (fun u => s.poison.contains u || s.latent.any (fun e => e.unit == u && poisons e.cause))

/-- What is kept beside a command, as it stands now. -/
def State.memoOf (s : State) (c : Cmd) : List (Nat × Nat) :=
  match s.cmds.find? (fun d => d.id == c.id) with
  | none => []
  | some d => d.memo
def State.setMemo (s : State) (c : Cmd) (m : List (Nat × Nat)) : State :=
  { s with cmds := s.cmds.map (fun (d : Cmd) => if d.id = c.id then { d with memo := m } else d) }

/-- The aligned word at `a` of a source, which is read once (R248): the part of a copy that reads it keeps it, under a key, where another
part of its piece takes the rest of it (`more`). -/
def sourceWord (c : Cmd) (key a : Nat) (more : Bool) : Exec Nat := do
  match ((← get).memoOf c).lookup key with
  | some x => do
    modify (fun s => s.setMemo c ((s.memoOf c).filter (fun e => e.1 != key)))
    return x
  | none => do
    let x ← engineRead c a 8
    if more then modify (fun s => s.setMemo c ((key, x) :: s.memoOf c))
    return x

/-- The `k` bytes of the source that a part of piece `p` takes (R248, R284). -/
def partBytes (c : Cmd) (p : Nat × Nat × Nat) (src k : Nat) : Exec (List Byte) := do
  if p.1 % 8 = p.2.1 % 8 then return leBytes k (← engineRead c src k)
  let ws ← eachGet (List.range ((src % 8 + k + 7) / 8)) (fun j => do
    let a := src / 8 * 8 + 8 * j
    sourceWord c (p.2.1 * 2 ^ 65 + a) a (decide (max a p.1 < src ∨ src + k < min (a + 8) (p.1 + p.2.2))))
  return (((ws.map (fun x => leBytes 8 x)).flatten).drop (src % 8)).take k

/-- Part `i` of a copy: one read, one write, of a piece whose addresses all translate (R284): the bytes written. A poisoned
piece is copied, and its destination's units are poisoned (R403). -/
def copyPart (c : Cmd) (ps : List CopyPart) (i : Nat) : Exec (Nat × Nat) := do
  match ps[i]? with
  | none => return (0, 0)
  | some (p, src, dst, k) => do
    let s ← get
    let _ ← orTrap (nw p.1) engineStream (resolve s c.ctx .load (nw p.1))
    each [p.2.1, p.2.1 + p.2.2 - 1] (fun a => do
      let _ ← orTrap (nw a) engineStream (resolve s c.ctx .store (nw a))
      pure ())
    match (s.cmdLoc c .load (nw src).toNat).filter (fun _ => s.pieceBad c src k) with
    | some loc => do
      modify (fun s => s.findErrors (unitsOf loc k))
      engineWrite c dst (memBytes s.mem loc k)
      modify (fun s =>
        let us := match s.cmdLoc c .store (nw dst).toNat with | none => [] | some d => unitsOf d k
        { s with poison := us.foldl (fun ls k => if ls.contains k then ls else k :: ls) s.poison })
    | none => do
      engineWrite c dst (← partBytes c p src k)
    return (k, 0)

/-- The destination line of a piece that is a whole line is poisoned no longer, unless its source is (R403). -/
def State.clearWhole (s : State) (c : Cmd) (p : Nat × Nat × Nat) : State :=
  if p.2.2 = 64 ∧ p.2.1 % 64 = 0 ∧ s.pieceBad c p.1 64 = false then
    match s.cmdLine c .store (nw p.2.1).toNat with
    | some l => s.cleanUnits (fun u => u == l)
    | none => s
  else s

/-- The items of a copy now to be performed, of those given as left: the items left, the tally and the failure; a stopped copy
completes the pieces it has begun. -/
def copyItems (c : Cmd) (ps : List CopyPart) (now later : List Nat) : Exec (List Nat × Nat × Option Failure) := do
  let piece (i : Nat) : Option (Nat × Nat × Nat) := ps[i]?.map (fun x => x.1)
  let (rest, n, f) ← runItems c (copyPart c ps) now c.tally
  let left := rest ++ later
  let done := (List.range ps.length).filter (fun i => !left.contains i)
  let begun := left.filter (fun i => done.any (fun j => piece j == piece i))
  let n ← if f.isSome then runOut (copyPart c ps) begun n else pure n
  let whole := (now.filterMap piece).eraseDups.filter (fun p => !left.any (fun i => piece i == some p))
  modify (fun s => whole.foldl (fun s p => s.clearWhole c p) s)
  return (left, n.1, f)

/-- The destination of a copy as a range (R247). -/
def copyRange (dst rb rows : Nat) (ds : Int) : WRange :=
  { base := (spanOf dst ds rows rb).1, stride := ds.natAbs, count := rows, width := rb, home := true }

/-- XCOPY_EXECUTE (R284–R287, R393): parts of its pieces, and after the last the completion word. -/
def execXcopyExecute (cmd : Nat) (s : State) : Out :=
  event (do
    let c ← getCmd cmd
    match c.work with
    | .copy dst src rb rows ss ds done start _ => do
      let s ← get
      need (s.first c && s.startDue c start)
      let ps := copyParts (copyPieces dst src rb rows ss ds)
      let (now, later) ← pickItems c ps.length (s.partSpans c ps)
      let (left, n, f) ← copyItems c ps now later
      goOn { c with memo := (← get).memoOf c } left (n, 0) f
        (closeCmd c done ((if f.isSome then 3 else 1) * 2 ^ 60 + n) [copyRange dst rb rows ds] f)
    | _ => idle) s

/-! ## XSTREAM and XSBAR (R288, R289, R394) -/

/-- The stage-0 thread of a launch at a CLUSTER, CORE and THREAD that has not exited. -/
def State.slotHolder (s : State) (l code : Nat) : Option Agent :=
  s.agents.find? (fun a => a.kind == .thread && a.launch == l && a.slotCode == code &&
    (match a.status with | .ended _ => false | .free => false | _ => true))

/-- xstream (R288, R381). -/
def execXstream (a : Reg) (acq : Bool) (scope : BitVec 2) (s : State) : Out :=
  insn (.threadOr .stream) (.xstream a acq scope) (do
    let va ← getG a
    let x ← readRecord va 64 64
    let c0 := recField x 32 4; let c1 := recField x 36 4; let c2 := recField x 40 4
    let ok (n : Nat) : Bool := decide (1 ≤ n ∧ n ≤ 2 ^ 24)
    let tgt := recField x 46 1
    let isThread := (← getCur).kind == .thread || (← getCur).kind == .dispatcher
    checkFields 0x50 va [(32, ok c0), (36, ok c1 && decide (c0 * c1 ≤ 2 ^ 32)), (40, ok c2 && decide (c0 * c1 * c2 ≤ 2 ^ 32)),
      (44, decide (recField x 44 1 ≤ 10)), (45, decide (recField x 45 1 ≤ 15) || recField x 45 1 == 0xFF),
      (46, decide (tgt < 16) || (tgt == 0xFF && isThread))]
    let me ← getCur
    let code := if tgt = 0xFF then me.slotCode else 16 * me.cluster + tgt
    if ((← get).slotHolder me.launch code).isNone then trap 0x57 (some va) 46 0
    checkFields 0x50 va [(47, decide (recField x 47 1 ≤ 7)), (56, recField x 56 8 == 0)]
    let base := recField x 0 8
    let e (o n : Nat) : Int := recInt x o * (n - 1 : Int)
    let es := [e 8 c0, e 16 c1, e 24 c2]
    let lo := (toWord ((base : Int) + es.foldl (fun n k => n + min 0 k) 0)).toNat
    checkNamed base
    checkWindow (lo, es.foldl (fun n k => n + k.natAbs) 0 + ceilDiv (Fmt.bits (recField x 44 1)) 8)
    let h : Handle := { Handle.unbound with
      base := nw base, stride0 := nw (recField x 8 8), stride1 := nw (recField x 16 8), stride2 := nw (recField x 24 8),
      count0 := BitVec.ofNat 32 c0, count1 := BitVec.ofNat 32 c1, count2 := BitVec.ofNat 32 c2,
      fmt := BitVec.ofNat 8 (recField x 44 1), remaining := nw (c0 * c1 * c2), startTime := recField x 48 8 }
    accept 5 (← get).myTower va acq false scope none (.stream h (recField x 45 1) code (recField x 47 1) (recField x 48 8))
    return .seq) s

/-- The binding of a handle of the current agent (R288): run-ahead discarded, a port taken, cursor 0. A port it frees goes to
the handle that has waited longest (R198). -/
def State.bindHandle (s : State) (k : Nat) (h : Handle) (want : Option Nat) : State :=
  match want with
  | none => ((s.releasePort k).setHandle k h).takePort k none
  | some p => (((s.freePort k).setHandle k h).takePort k (some p)).handPort s.myCluster

/-- The start time of a handle, and whose windows it means, kept beside a saved thread, whose area does not hold them (R39, R182, R288,
R325). -/
def Agent.keepStart (a : Agent) (k : Nat) (b : Handle) : Agent :=
  if h : k < 8 then { a with handles := a.handles.set k { a.handles[k] with startTime := b.startTime, win := b.win } h } else a

/-- The bytes of a saved thread's area replaced (R325), for what reaches a thread while it is saved. -/
def State.patchArea (s : State) (a : Agent) (off : Nat) (xs : List Byte) : State :=
  { s with mem := memPuts s.mem (s.saveAddr (saveSlot a.id) + off) xs }
def Agent.isSaved (a : Agent) : Bool :=
  match a.status with
  | .saved => true
  | .paged b _ => b
  | _ => false

/-- XSTREAM_BIND (R182, R288, R394): once the named port is free; a window that the base names is one of the thread that issued the command; a target that has exited drops the command, a saved one takes
the binding into its saved handle. -/
def execXstreamBind (cmd : Nat) (s : State) : Out :=
  event (do
    let c ← getCmd cmd
    match c.work with
    | .stream h port code k _ => do
      let s ← get
      need (s.cmds.all (fun d => decide (c.id ≤ d.id) || d.launch != c.launch || (match d.work with
        | .stream _ _ code' k' _ => code' != code || k' != k
        | _ => true)))
      match s.slotHolder c.launch code with
      | none => finishCmd c 0 none
      | some a => do
        let h := { h with win := if isWindow h.base then some c.place else none }
        if a.isSaved then modify (fun s => (s.patchArea a (576 + 64 * k) (handleBytes h)).putAgent (a.keepStart k h))
        else do
          let g := placeCluster s.dev.towerok a.id
          let held := kvGet (a.id, k) (s.cluster g).ports port
          need (port == 0xFF || held == (a.id, k))
          asAgent a.id (modify (fun s => s.bindHandle k h (if port = 0xFF then none else some port)))
        finishCmd c 0 none
    | _ => idle) s

/-- Later accesses of some streams see what the commands numbered below `upTo` have stored (R289, R414). -/
def Agent.afterCmds (a : Agent) (streams : BitVec 13) (upTo : Nat) : Agent :=
  { a with loose := settleLoose (a.loose.map (fun e =>
      if 12 ≤ e.stream ∧ e.cmd ≤ upTo then { e with seen := e.seen ||| (streams &&& threadStreams) } else e)) }

/-- xsbar (R289): the named streams are held until the thread's earlier commands have completed; with none, it only
acquires. -/
def execXsbar (mask : BitVec 5) (acq : Bool) (scope : BitVec 2) (s : State) : Out :=
  insn (.threadOr .copy) (.xsbar mask acq scope) (do
    let s ← get
    if s.cmdsBefore s.cur.id s.nextCmd then do
      modCur (fun a => a.afterCmds (streamSet mask) s.nextCmd)
      acquireIf acq 0 scope.toNat
    else modCur (fun a => { a with holds := a.holds ++ [{ streams := streamSet mask, upTo := s.nextCmd,
                                                          acq := if acq then some scope.toNat else none }] })
    return .seq) s

/-- XSBAR_DRAIN (R289): the holds whose commands have completed end, each with its acquire. -/
def execXsbarDrain (ag : Nat) (s : State) : Out :=
  event (asAgent ag (do
    let s ← get
    let past := s.cur.holds.filter (fun h => s.cmdsBefore s.cur.id h.upTo)
    modCur (fun a => { a with holds := a.holds.filter (fun h => !s.cmdsBefore s.cur.id h.upTo) })
    each past (fun h => do
      modCur (fun a => a.afterCmds h.streams h.upTo)
      match h.acq with
      | some scope => acquire 0 scope
      | none => pure ()))) s

/-! ## XGATHER and XBIN (R274–R277) -/

/-- xgather (R274). -/
def execXgather (a : Reg) (acq rel : Bool) (scope : BitVec 2) (s : State) : Out :=
  insn (.threadOr .gleaner) (.xgather a acq rel scope) (do
    let va ← getG a
    let x ← readRecord va 64 64
    let w := recField x 28 1
    checkFields 0x53 va [(8, recField x 8 8 % 4 == 0), (28, w == 1 || w == 2 || w == 4 || w == 8),
      (29, recField x 29 3 == 0), (32, recField x 32 8 % 8 == 0), (40, recField x 40 24 == 0)]
    let n := recField x 24 4
    checkWindow (recField x 0 8, 1)
    checkWindow (recField x 8 8, 4 * n)
    checkWindow (recField x 16 8, n * w)
    checkWindow (recField x 32 8, 8)
    accept 2 (← get).myTower va acq rel scope none
      (.gather (recField x 0 8) (recField x 8 8) (recField x 16 8) n w (recField x 32 8))
    return .seq) s

/-- The window bytes of an element of a gather: its source may be anywhere in a window (R287). -/
def State.elemSpans (s : State) (c : Cmd) (src idx dst w i : Nat) : List (Nat × Nat × Bool) :=
  s.windowWhole c src ++ s.windowSpan c (idx + 4 * i, 4) false ++ s.windowSpan c ((nw (dst + i * w)).toNat, w) true

/-- One element of a gather (R275). -/
def gatherItem (c : Cmd) (src idx dst w i : Nat) : Exec (Nat × Nat) := do
  let k ← engineRead c (idx + 4 * i) 4
  let x ← engineRead c (src + k * w) w
  engineWrite c (nw (dst + i * w)).toNat (leBytes w x)
  return (1, 0)

/-- XGATHER_EXECUTE (R275, R277, R393): elements, and after the last the completion word. -/
def execXgatherExecute (cmd : Nat) (s : State) : Out :=
  event (do
    let c ← getCmd cmd
    match c.work with
    | .gather src idx dst n w done => do
      let s ← get
      need (s.first c)
      let (now, later) ← pickItems c n (s.elemSpans c src idx dst w)
      let (rest, k, f) ← runItems c (gatherItem c src idx dst w) now c.tally
      goOn c (rest ++ later) k f
        (closeCmd c done ((if f.isSome then 3 else 1) * 2 ^ 60 + k.1 % 2 ^ 32) [spanRange dst (n * w) true] f)
    | _ => idle) s

/-- xbin (R274). -/
def execXbin (a : Reg) (acq rel : Bool) (scope : BitVec 2) (s : State) : Out :=
  insn (.threadOr .gleaner) (.xbin a acq rel scope) (do
    let va ← getG a
    let x ← readRecord va 64 64
    checkFields 0x53 va [(0, recField x 0 8 % 4 == 0), (16, recField x 16 8 % 8 == 0), (24, recField x 24 8 % 4 == 0),
      (36, recField x 36 4 == 0), (40, recField x 40 8 % 8 == 0), (48, recField x 48 16 == 0)]
    let n := recField x 8 4; let b := recField x 12 4; let slots := recField x 32 4
    checkWindow (recField x 0 8, 4 * n)
    checkWindow (recField x 16 8, 8 * b)
    checkWindow (recField x 24 8, 4 * b * slots)
    checkWindow (recField x 40 8, 8)
    accept 2 (← get).myTower va acq rel scope none
      (.bin (recField x 0 8) n b (recField x 16 8) (recField x 24 8) slots (recField x 40 8))
    return .seq) s

/-- A ticket of 1 taken by an engine on a record of two 4-byte words at its home (R227, R276). -/
def engineTicket (c : Cmd) (va : Nat) : Exec (Option Nat) := do
  let open_ (x : Nat) : Bool := decide (x % 2 ^ 32 + 1 ≤ x / 2 ^ 32)
  let x ← engineUpdate c va 4 (fun x => if open_ x then some (x % 2 ^ 32 + 1) else none)
  return if open_ x then some (x % 2 ^ 32) else none

/-- Key `i` of a bin looked up and its ticket taken (R276): dropped, or where its number is to be written. -/
def binKey (c : Cmd) (key b ctr bkt slots i : Nat) : Exec (Option Nat) := do
  let k ← engineRead c (key + 4 * i) 4
  if b ≤ k then return none
  match ← engineTicket c (nw (ctr + 8 * k)).toNat with
  | none => return none
  | some t => return some (nw (bkt + 4 * (k * slots + t))).toNat

/-- One item of a bin handled whole: (1, 1) where it is placed, (1, 0) where it is dropped (R276). -/
def binItem (c : Cmd) (key b ctr bkt slots i : Nat) : Exec (Nat × Nat) := do
  match ← binKey c key b ctr bkt slots i with
  | none => return (1, 0)
  | some slot => do
    engineWrite c slot (leBytes 4 i)
    return (1, 1)

/-- An item whose ticket has been taken, written to its slot. -/
def binSlot (c : Cmd) (i : Nat) : Exec (Nat × Nat) := do
  match c.memo.lookup i with
  | none => return (0, 0)
  | some slot => do
    engineWrite c slot (leBytes 4 i)
    return (1, 1)

/-- The window bytes of an item of a bin. -/
def State.binSpans (s : State) (c : Cmd) (key b ctr bkt slots i : Nat) : List (Nat × Nat × Bool) :=
  s.windowSpan c (key + 4 * i, 4) false ++ s.windowSpan c (ctr, 8 * b) true ++ s.windowSpan c (bkt, 4 * b * slots) true

/-- The completion of a bin after `t` items handled and placed (R277). -/
def closeBin (c : Cmd) (b ctr bkt slots done : Nat) (t : Nat × Nat) (f : Option Failure) : Exec Unit := do
  let dropped := t.1 - t.2
  let st := if f.isSome then 3 else if dropped = 0 then 1 else 2
  closeCmd c done (st * 2 ^ 60 + dropped % 2 ^ 28 * 2 ^ 32 + t.2 % 2 ^ 32)
    [spanRange ctr (8 * b) true, spanRange bkt (4 * b * slots) true] f

/-- Items of a bin performed: those whose ticket was taken earlier are written to their slots, the others handled whole. A
stopped bin writes the numbers whose tickets it has taken. The items left, the tally and the failure. -/
def binItems (c : Cmd) (key b ctr bkt slots : Nat) (now later : List Nat) :
    Exec (List Nat × (Nat × Nat) × Option Failure) := do
  let owed := c.memo.map (fun e => e.1)
  let one (i : Nat) : Exec (Nat × Nat) := if owed.contains i then binSlot c i else binItem c key b ctr bkt slots i
  let (rest, t, f) ← runItems c one now c.tally
  let left := rest ++ later
  let t ← if f.isSome then runOut (binSlot c) (left.filter owed.contains) t else pure t
  return (left, t, f)

/-- The one item picked of which only the ticket is taken now, by a free choice. -/
def aloneItem (c : Cmd) : List Nat → Exec (Option Nat)
  | [i] => do
    if c.memo.any (fun e => e.1 == i) || c.hit.isSome then return none
    return if ← drawBit then some i else none
  | _ => pure none

/-- XBIN_EXECUTE (R276, R277, R393): items, or the ticket of one alone, whose number is written in a later step; after the
last the completion word. -/
def execXbinExecute (cmd : Nat) (s : State) : Out :=
  event (do
    let c ← getCmd cmd
    match c.work with
    | .bin key n b ctr bkt slots done => do
      let s ← get
      need (s.first c)
      let (now, later) ← pickItems c n (s.binSpans c key b ctr bkt slots)
      match ← aloneItem c now with
      | some i =>
        match ← orFail (binKey c key b ctr bkt slots i) with
        | .ok none =>
          let t := (c.tally.1 + 1, c.tally.2)
          goOn c later t none (closeBin c b ctr bkt slots done t none)
        | .ok (some slot) => putCmd { c with started := true, left := some (i :: later), memo := (i, slot) :: c.memo }
        | .error f => do
          let t ← runOut (binSlot c) (c.memo.map (fun e => e.1)) c.tally
          closeBin c b ctr bkt slots done t (some f)
      | none => do
        let (left, t, f) ← binItems c key b ctr bkt slots now later
        goOn { c with memo := c.memo.filter (fun e => left.contains e.1) } left t f (closeBin c b ctr bkt slots done t f)
    | _ => idle) s

end Sys2Proof.Machine
end

