-- ==== Sys2Proof/Machine/Relocate.lean ====
section
/-! DEFINITION. Relocation: XMOVE, XHEAL and XRECLAIM (R199, R200, R250, R251, R290–R294, R381, R388–R390). -/

namespace Sys2Proof.Machine

/-! ## XMOVE (R291, R292) -/

/-- xmove (R291): ranges misaligned or overlapping report offset 0. -/
def execXmove (d a b : Reg) (acq rel : Bool) (scope : BitVec 2) (s : State) : Out :=
  insn (.threadOr .copy) (.xmove d a b acq rel scope) (do
    let va ← getG b
    let x ← readRecord va 32 32
    let n := recField x 0 8
    let src := (← getG a).toNat
    let dst := (← getG d).toNat
    checkFields 0x50 va [
      (0, src % 64 == 0 && dst % 64 == 0 && n % 64 == 0 && decide (64 ≤ n ∧ n ≤ 2 ^ 40) &&
        !(decide (src < dst + n) && decide (dst < src + n))),
      (8, recField x 8 8 % 16 == 0), (16, recField x 16 16 == 0)]
    checkWindow (src, n)
    checkWindow (dst, n)
    checkWindow (recField x 8 8, 16)
    accept 1 (← get).myTower va acq rel scope none (.move dst src n (recField x 8 8))
    return .seq) s

/-- The physical line of a source line, with the r and w checks, never resolved (R291). -/
def moveSource (s : State) (c : Ctx) (va : Nat) : Except Failure Nat :=
  match translate s c .atomic (nw va) with
  | .error _ => .error (0x35, va)
  | .ok pl => if pl.cls = .dram then .ok (pl.loc / 64) else .error (0x35, va)

/-- The physical line of a destination line with the w check, never resolved: a frame that is not DRAM-backed generic
memory is found before permissions; another fault keeps its cause (R291). -/
def moveDest (s : State) (c : Ctx) (va : Nat) : Except Failure Nat :=
  let a : Word := nw va
  if wbits a 63 56 ≠ 0 ∨ wbits a 55 48 = 0xFF then .error (0x12, va)
  else if isWindow a then .error (0x34, va)
  else match findLeaf s c .store a.toNat with
    | .error f => .error (f.cause, va)
    | .ok (leaf, size) =>
      if leaf.getLsbD 7 then .error (0x34, va)
      else match frameOf s leaf size a.toNat with
        | .error f => .error (if f.cause = 0x12 then 0x34 else f.cause, va)
        | .ok pl =>
          if pl.cls ≠ .dram then .error (0x34, va)
          else match permitted .store c.user leaf with
            | some cause => .error (cause, va)
            | none => if isMarked s (pl.loc / 64) then .error (0x33, va) else .ok (pl.loc / 64)

/-- A line number in or out of a list of lines with a metadata bit. -/
def setBit (ls : List Nat) (line : Nat) (b : Bool) : List Nat :=
  if b then (if ls.contains line then ls else line :: ls) else ls.filter (fun l => l != line)

/-- One line moved: copied with its poison bit, marked with its new address and its ticket, and its address published in
the issuer's address space (R241, R250, R291). -/
def State.moveLine (s : State) (asid va src dst va' ticket : Nat) : State :=
  let s := s.foundIn (some src)
  let bad := s.poison.contains src
  let s := s.cleanUnits (fun u => u == src || u == dst)
  let m := memPuts s.mem (64 * dst) (memBytes s.mem (64 * src) 64)
  let m := memPuts m (64 * src) (leBytes 8 va' ++ leBytes 8 ticket ++ List.replicate 48 0)
  let s := { s with mem := m, poison := setBit s.poison dst bad,
                    marks := setBit s.marks src true }
  s.publish 0 everyScope [{ cover := .range (spanRange va 64 true), home := true, scope := everyScope, cluster := 0,
                            asid := asid, epoch := 0 }]

/-- Lines moved, lines skipped, greatest ticket, and the failure, from line to line (R291). -/
def moveLines (c : Ctx) : List (Nat × Nat) → Nat → Nat → Nat → Exec (Nat × Nat × Nat × Option Failure)
  | [], m, k, t => pure (m, k, t, none)
  | (a, b) :: rest, m, k, t => do
    let s ← get
    match moveSource s c a with
    | .error f => return (m, k, t, some f)
    | .ok src =>
      if isMarked s src then moveLines c rest m (k + 1) t
      else match moveDest s c b with
        | .error f => return (m, k, t, some f)
        | .ok dst => do
          let ticket := s.time (64 * src / 2 ^ 36)
          set (s.moveLine c.asid a src dst b ticket)
          moveLines c rest (m + 1) k (max t ticket)

/-- Lines of a move: source and destination addresses. -/
def moveRange (dst src : Nat) (is : List Nat) : List (Nat × Nat) :=
  is.map (fun i => ((nw (src + 64 * i)).toNat, (nw (dst + 64 * i)).toNat))

/-- The end of a command with a completion record: release, the parts of the record in order, the report (R247, R283). -/
def closeRecord (c : Cmd) (done : Nat) (parts : List (Nat × List Byte)) (dest : WRange) (f : Option Failure) : Exec Unit := do
  publishEnd c [dest]
  let g ← if done = 0 then pure none else do
    let last := parts.foldl (fun _ p => p.1) 0
    match ← orFail (each parts (fun (o, xs) =>
        engineStore c (if o = last then wordStream else engineStream) (nw (done + o)).toNat xs)) with
    | .ok _ => pure none
    | .error e => pure (some e)
  finishCmd c (c.report done) (match f with | some e => some e | none => g)

/-- XMOVE_EXECUTE (R291, R292, R389): the lines left, or the next one, and after the last the completion record. -/
def execXmoveExecute (cmd : Nat) (s : State) : Out :=
  event (do
    let c ← getCmd cmd
    match c.work with
    | .move dst src n done => do
      need ((← get).turn c)
      let todo := c.left.getD (List.range (n / 64))
      let now := if ← drawBit then 1 else todo.length
      let (m, k, t, f) ← moveLines c.ctx (moveRange dst src (todo.take now)) c.tally.1 c.tally.2 ((c.memo.lookup 0).getD 0)
      let st := if f.isSome then 3 else if k = 0 then 1 else 2
      goOn { c with memo := [(0, t)] } (todo.drop now) (m, k) f <| closeRecord c done [(0, leBytes 8 t), (8, leBytes 8 (st * 2 ^ 60 + k % 2 ^ 28 * 2 ^ 32 + m % 2 ^ 32))]
        (spanRange dst n true) f
    | _ => idle) s

/-- MOVED_ACCESS_RETRY (R251): the dirty bytes of a stale copy of a marked line are performed at the new location. -/
def execMovedAccessRetry (cl line : Nat) (s : State) : Out :=
  event (do
    let s ← get
    need (isMarked s line)
    match s.l1? cl line with
    | none => idle
    | some l => set (s.writeBack cl l)) s

/-! ## XHEAL (R293) -/

/-- xheal (R293). -/
def execXheal (a : Reg) (acq rel : Bool) (scope : BitVec 2) (s : State) : Out :=
  insn (.threadOr .copy) (.xheal a acq rel scope) (do
    let va ← getG a
    let x ← readRecord va 64 64
    let len := recField x 8 8; let lo := recField x 16 8; let hi := recField x 24 8
    checkFields 0x50 va [(0, recField x 0 8 % 8 == 0), (8, len % 8 == 0 && decide (8 ≤ len ∧ len ≤ 2 ^ 40)),
      (16, lo % 64 == 0), (24, hi % 64 == 0 && decide (lo < hi)), (32, recField x 32 8 % 64 == 0),
      (40, recField x 40 24 == 0)]
    checkWindow (recField x 0 8, len)
    checkWindow (recField x 32 8, 64)
    accept 1 (← get).myTower va acq rel scope none (.heal (recField x 0 8) len lo hi (recField x 32 8))
    return .seq) s

/-- A pointer after its marks, up to 64 hops (R293): HEAL_CHAIN beyond them. -/
def healTarget (s : State) (c : Ctx) (p : Nat) : Except Failure Nat :=
  match translate s c .load (nw p) with
  | .error f => .error (f.cause, p)
  | .ok pl =>
    match resolveFrom s c .load (nw p) 64 0 (nw p &&& ~~~63) { pl with loc := pl.loc / 64 * 64 } [] with
    | .error f => .error (if f.cause = 0x31 then 0x5D else f.cause, p)
    | .ok (ln, _, _, _) => .ok (ln.toNat + p % 64)

/-- A fault on a word of the region is HEAL_REGION, but for poison consumed (R293, R381, R403). -/
def regionFault {α : Type} (w : Nat) (x : Exec α) : Exec α := do
  match ← orFail x with
  | .ok v => return v
  | .error f => trap (if f.1 = 0x72 then 0x72 else 0x37) (some (nw w))

/-- One word of the region: 1 where it was rewritten, by a compare-and-swap at its home (R293). -/
def healWord (c : Cmd) (lo hi w : Nat) : Exec (Nat × Nat) := do
  let p ← regionFault w (engineRead c w 8)
  if lo ≤ p ∧ p < hi then
    match healTarget (← get) c.ctx p with
    | .error f => trap f.1 (some (nw f.2))
    | .ok q =>
      if q = p then return (0, 0)
      else do
        let now ← regionFault w (engineUpdate c w 8 (fun x => if x = p then some q else none))
        return (if now = p then 1 else 0, 0)
  else return (0, 0)

/-- XHEAL_EXECUTE (R293): the words left, or one of them, and after the last the completion record. -/
def execXhealExecute (cmd : Nat) (s : State) : Out :=
  event (do
    let c ← getCmd cmd
    match c.work with
    | .heal rb rl lo hi done => do
      let s ← get
      need (s.first c)
      let t := (c.memo.lookup 0).getD (s.time c.unit)
      let word (i : Nat) : Nat := (nw (rb + 8 * i)).toNat
      let (now, later) ← pickItems c (rl / 8) (fun i => s.windowSpan c (word i, 8) true)
      let (rest, k, f) ← runItems c (fun i => healWord c lo hi (word i)) now c.tally
      let n := k.1
      let head := leBytes 8 rb ++ leBytes 8 rl ++ leBytes 8 lo ++ leBytes 8 hi ++ leBytes 8 t ++ List.replicate 16 0
      goOn { c with memo := [(0, t)] } (rest ++ later) k f <| closeRecord c done [(0, head), (56, leBytes 8 ((if f.isSome then 3 else 1) * 2 ^ 60 + n % 2 ^ 32))]
        (spanRange rb rl true) f
    | _ => idle) s

/-! ## XRECLAIM (R294) -/

/-- xreclaim (R294). -/
def execXreclaim (a : Reg) (acq rel : Bool) (scope : BitVec 2) (s : State) : Out :=
  insn (.threadOr .copy) (.xreclaim a acq rel scope) (do
    let va ← getG a
    let x ← readRecord va 64 64
    let len := recField x 8 8
    checkFields 0x50 va [(0, recField x 0 8 % 64 == 0), (8, len % 64 == 0 && decide (64 ≤ len ∧ len ≤ 2 ^ 40)),
      (16, recField x 16 8 % 8 == 0), (24, decide (recField x 24 4 ≤ 64)), (28, recField x 28 4 == 0),
      (32, recField x 32 8 % 8 == 0), (40, recField x 40 24 == 0)]
    checkWindow (recField x 0 8, len)
    checkWindow (recField x 16 8, 8 * recField x 24 4)
    checkWindow (recField x 32 8, 8)
    accept 1 (← get).myTower va acq rel scope none
      (.reclaim (recField x 0 8) len (recField x 16 8) (recField x 24 4) (recField x 32 8))
    return .seq) s

/-- The physical lines of a range, with the w check, never resolved. -/
def rangeLines (s : State) (c : Ctx) (base len : Nat) : Except Failure (List Nat) :=
  (List.range (len / 64)).foldlM (fun (ls : List Nat) i =>
    match translate s c .store (nw (base + 64 * i)) with
    | .error f => .error (f.cause, (nw (base + 64 * i)).toNat)
    | .ok pl => .ok (if pl.cls = .dram ∧ isMarked s (pl.loc / 64) then ls ++ [pl.loc / 64] else ls)) []

/-- The ticket of a marked line (R199). -/
def State.ticketOf (s : State) (line : Nat) : Nat := memNat s.mem (64 * line + 8) 8

/-- A heal record as XRECLAIM reads it: its range, its time, its status (R293, R294). -/
structure HealRec where
  lo : Nat
  hi : Nat
  time : Nat
  status : Nat
deriving DecidableEq, Repr

/-- The listed heal records; what cannot be read is RECLAIM_LIST (R294, R367). -/
def readHeals (c : Cmd) (list n : Nat) : Exec (List HealRec) := eachGet (List.range n) (fun i => do
  let a := (nw (list + 8 * i)).toNat
  match ← orFail (do
      let r ← engineRead c a 8
      let lo ← engineRead c (nw (r + 16)).toNat 8
      let hi ← engineRead c (nw (r + 24)).toNat 8
      let t ← engineRead c (nw (r + 32)).toNat 8
      let w ← engineRead c (nw (r + 56)).toNat 8
      return ({ lo := lo, hi := hi, time := t, status := w / 2 ^ 60 } : HealRec)) with
  | .ok h => return h
  | .error f => trap 0x36 (some (nw f.2)))

/-- One marked line reclaimed: every L1 copy filled through it is written back and invalidated, the mark cleared, the line
zeroed (R251, R294). -/
def State.reclaimLine (s : State) (line : Nat) : State :=
  let s := s.clusters.foldl (fun (s : State) (g, c) =>
    (c.l1.filter (fun l => l.pline == line || l.via.contains line)).foldl (fun s l => s.flushLine g l.pline) s) s
  let s := s.cleanUnits (fun u => u == line)
  { s with mem := memPuts s.mem (64 * line) (List.replicate 64 0), marks := setBit s.marks line false }

/-- XRECLAIM_EXECUTE (R294): it gives up on a failed heal, waits while a ticket or a heal is not yet old enough, else
reclaims the marked lines. -/
def execXreclaimExecute (cmd : Nat) (s : State) : Out :=
  event (do
    let c ← getCmd cmd
    match c.work with
    | .reclaim base len list n done => do
      let word (st k : Nat) : Nat := st * 2 ^ 60 + k % 2 ^ 32
      let dest := spanRange base len true
      let c' := { c with rel := false }
      match ← orFail (readHeals c list n) with
      | .error f => do
        need ((← get).turn c)
        closeCmd c' done (word 3 0) [dest] (some f)
      | .ok hs => do
        if hs.any (fun h => h.status == 3) then closeCmd c' done (word 4 0) [dest] (some (0x5E, 0))
        else do
          let s ← get
          need (s.turn c)
          match rangeLines s c.ctx base len with
          | .error f => closeCmd c' done (word 3 0) [dest] (some f)
          | .ok ls => do
            let ts := ls.map s.ticketOf
            need (ts.all (fun t => decide (t < (s.tower c.unit).oldtkt.toNat)))
            need (hs.all (fun h => h.status == 1 && decide (h.lo ≤ base ∧ base + len ≤ h.hi) &&
              ts.all (fun t => decide (t < h.time))))
            modify (fun s => ls.foldl State.reclaimLine s)
            closeCmd c done (word 1 ls.length) [dest] none
    | _ => idle) s

end Sys2Proof.Machine
end

