-- ==== Sys2Proof/Machine/Granary.lean ====
section
/-! DEFINITION. The Granary: XINST, XPIN, XWEAR and the erasure of blocks (R189, R201, R281, R295–R300, R332–R334,
R381, R395). -/

namespace Sys2Proof.Machine

/-! ## The stack an address names (R281) -/

/-- Does a generic address stand on a leaf with g = 0, which names no flash, or on one whose frame passes a test (R281, R295)? -/
def offFlash (s : State) (c : Ctx) (va : Word) (bad : Nat → Bool) : Bool :=
  wbits va 63 56 == 0 && wbits va 55 48 != 0xFF && !isWindow va &&
    match findLeaf s c .probe va.toNat with
    | .error _ => false
    | .ok (leaf, size) => !leaf.getLsbD 7 || bad ((wbits leaf 51 12 * 4096) / size * size + va.toNat % size)

/-- The flash place of an address, translated with no permission check; a page that is not flash-backed, or a window, traps with
`cause` (R281, R299, R300), a stack that is lost with ENGINE_OFFLINE, the record at `rec_` (R381). -/
def flashPlace (cause : Nat) (va rec_ : Word) : Exec Nat := do
  let s ← get
  if offFlash s s.ctx va (fun _ => false) then trap cause (some va)
  match translate s s.ctx .probe va with
  | .error f => if f.cause = 0x19 then trap 0x5B (some rec_) else throw (f.trap va 0)
  | .ok pl =>
    if pl.cls ≠ .flash then trap cause (some va)
    return pl.loc

/-- Stack and logical block of a flash place. -/
def stackOf (pa : Nat) : Nat := (pa - 2 ^ 42) / 2 ^ 40
def blockOf (pa : Nat) : Nat := (pa - 2 ^ 42) % 2 ^ 40 / 2 ^ 22

/-! ## Physical blocks (R297, R300, R332) -/

/-- The physical block behind a logical one, and a block's erase count. -/
def Stack.back (x : Stack) (lb : Nat) : Nat := kvGet lb x.backing lb
def Stack.count (x : Stack) (b : Nat) : Nat := kvGet 0 x.counts b
/-- The highest erase count of a stack. -/
def Stack.highest (x : Stack) : Nat := x.counts.foldl (fun n e => max n e.2) 0

/-- The erased spare a build takes: of the lowest count, ties to the lowest number, below 3,000 (R297, R332). -/
def Stack.spare (x : Stack) : Option Nat :=
  (x.spares.filter (fun b => decide (x.count b < 3000))).foldl (fun (best : Option Nat) b =>
    match best with
    | none => some b
    | some a => if x.count b < x.count a ∨ (x.count b = x.count a ∧ b < a) then some b else some a) none

/-- A spare that failed verification is retired with count 3,000 (R395). -/
def Stack.retire (x : Stack) (b : Nat) : Stack :=
  { x with spares := x.spares.erase b, counts := kvSet x.counts b 3000, retired := b :: x.retired }

/-- A logical block switched to a built spare: the old block awaits its erasure (R295, R332). -/
def Stack.switch (x : Stack) (lb b : Nat) : Stack :=
  { x with spares := x.spares.erase b, backing := kvSet x.backing lb b, awaiting := x.awaiting ++ [x.back lb] }

/-- The queued erasure of a block performed: it gains one count and becomes an erased spare, or is retired at 3,000
(R297, R332). -/
def Stack.erased (x : Stack) (b : Nat) : Stack :=
  let n := x.count b + 1
  let x := { x with awaiting := x.awaiting.erase b, counts := kvSet x.counts b n }
  if n < 3000 then { x with spares := x.spares ++ [b] } else { x with retired := b :: x.retired }

/-- BLOCK_ERASE (R332). -/
def execBlockErase (stack block : Nat) (s : State) : Out :=
  event (do
    let x := (← get).stack stack
    need (x.awaiting.contains block)
    modify (fun s => s.setStack stack (x.erased block))) s

/-! ## XINST (R295, R296, R334, R395) -/

/-- xinst (R281, R295): misaligned operands report offset 0. -/
def execXinst (d a b : Reg) (acq rel : Bool) (scope : BitVec 2) (s : State) : Out :=
  insn (.threadOr .install) (.xinst d a b acq rel scope) (do
    let va ← getG b
    let x ← readRecord va 32 32
    let n := recField x 0 8
    let dst ← getG d
    let src ← getG a
    checkFields 0x50 va [(0, dst.toNat % 65536 == 0 && src.toNat % 64 == 0 && n % 65536 == 0 && decide (65536 ≤ n ∧ n ≤ 2 ^ 40)),
      (8, recField x 8 8 % 32 == 0), (16, recField x 16 8 % 8 == 0)]
    checkWindow (src.toNat, n)
    checkWindow (recField x 8 8, 32)
    checkWindow (recField x 16 8, if recField x 16 8 = 0 then 0 else 8)
    let pa ← flashPlace 0x54 dst va
    accept 4 (stackOf pa) va acq rel scope none
      (.install dst.toNat src.toNat n (recField x 8 8) (recField x 16 8) (nw (recField x 24 8)))
    return .seq) s

/-- The pages of a 64 KiB unit of the destination together map, in address order, one program unit of the stack named at
issue; its physical place (R295). -/
def unitPlace (s : State) (c : Cmd) (va : Nat) : Except Failure Nat :=
  let off (v : Nat) : Bool := offFlash s c.ctx (nw v) (fun pa => (flashStack pa).any (fun j => j != c.unit))
  if off va then .error (0x54, va)
  else match translate s c.ctx .probe (nw va) with
  | .error f => .error (f.cause, va)
  | .ok pl =>
    if pl.cls ≠ .flash ∨ stackOf pl.loc ≠ c.unit ∨ pl.loc % 65536 ≠ 0 then .error (0x54, va)
    else
      (List.range 16).foldlM (fun (pa : Nat) i =>
        let v := va + 4096 * i
        if off v then .error (0x54, v)
        else match translate s c.ctx .probe (nw v) with
        | .error f => .error (f.cause, v)
        | .ok q => if q.cls = .flash ∧ q.loc = pl.loc + 4096 * i then .ok pa else .error (0x54, v)) pl.loc

/-- The source bytes of a unit: DRAM-backed generic memory, read with the r check (R295, R395). -/
def unitSource (c : Cmd) (va : Nat) : Exec Nat := do
  let s ← get
  each (List.range 16) (fun i => do
    let v := nw (va + 4096 * i)
    if wbits v 63 56 ≠ 0 ∨ wbits v 55 48 = 0xFF then trap 0x12 (some v)
    if isWindow v then trap 0x5A (some v)
    match findLeaf s c.ctx .load v.toNat with
    | .error f => throw (f.trap v engineStream)
    | .ok (leaf, size) =>
      if leaf.getLsbD 7 then trap 0x5A (some v)
      match frameOf s leaf size v.toNat with
      | .error f => trap (if f.cause = 0x12 then 0x5A else f.cause) (some v)
      | .ok pl =>
        if pl.cls ≠ .dram then trap 0x5A (some v)
        match permitted .load c.user leaf with
        | some cause => trap cause (some v)
        | none => pure ())
  engineRead c va 65536

/-- The next units of the range that lie in one logical block: each is checked and read; where it stands in flash, and its
bytes. -/
def gatherUnits (c : Cmd) (src dst : Nat) : List Nat → Option Nat → Exec (List (Nat × Nat))
  | [], _ => pure []
  | o :: rest, blk => do
    match unitPlace (← get) c (nw (dst + o)).toNat with
    | .error f => trap f.1 (some (nw f.2))
    | .ok pa =>
      if blk.any (fun b => b != blockOf pa) then return []
      else do
        let x ← unitSource c (nw (src + o)).toNat
        let more ← if pa % 2 ^ 22 = 2 ^ 22 - 65536 then pure [] else gatherUnits c src dst rest (some (blockOf pa))
        return (pa, x) :: more

/-- A spare in which every unit verified, at most three builds (R395): a build's verification is a free choice. -/
inductive Built where
  | block (b : Nat)
  | worn
  | failed
deriving DecidableEq, Repr

/-- Builds a logical block: the spares that fail verification are retired. -/
def buildBlock (stack : Nat) : Nat → Exec Built
  | 0 => pure .failed
  | tries + 1 => do
    match ((← get).stack stack).spare with
    | none => return .worn
    | some b => do
      if ← drawBit then return .block b
      else do
        modStack stack (fun x => x.retire b)
        buildBlock stack tries

/-- Before a switch every standing tower drops its staging copies of the block's units, pinned ones apart (R295). -/
def State.dropUnits (s : State) (units : List Nat) : State :=
  { s with towers := s.towers.map (fun (k, t) =>
    (k, { t with staging := t.staging.filter (fun u => !units.contains u || kvGet 0 t.pins u != 0) })) }

/-- The logical block of units switched to physical block `b`. -/
def State.switchBlock (s : State) (stack b : Nat) (us : List (Nat × Nat)) : State :=
  let lb := match us with | [] => 0 | (pa, _) :: _ => blockOf pa
  let first := 2 ^ 42 + stack * 2 ^ 40 + lb * 2 ^ 22
  let s := s.dropUnits ((List.range 64).map (fun i => first / 65536 + i))
  let s := s.cleanUnits (fun u => us.any (fun e => e.1 / 64 ≤ u && u < e.1 / 64 + 1024))
  let s := { s with mem := us.foldl (fun m (pa, x) => memPutNat m pa 65536 x) s.mem }
  s.setStack stack ((s.stack stack).switch lb b)

/-- The install stops with a status and a fault. -/
def stopInstall (c : Cmd) (p : InstallPos) (status : Nat) (f : Failure) : Exec Unit :=
  putCmd { c with started := true, inst := { p with status := status, fault := f.1, line := f.2 } }

/-- The completion record of an install (R296). -/
def installRecord (p : InstallPos) : List Byte :=
  leBytes 4 p.status ++ leBytes 4 p.fault ++ leBytes 8 p.bytes ++ leBytes 4 p.erased ++ leBytes 4 p.wear ++
  List.replicate 8 0

/-- XINST_EXECUTE (R295–R297, R332, R334, R395): each step builds and switches the next logical block; after the last, or a
stop, and once the replaced blocks are erased, it publishes, writes the record, then the flag word. -/
def execXinstExecute (cmd : Nat) (s : State) : Out :=
  event (do
    let c ← getCmd cmd
    match c.work with
    | .install dst src n rec_ flag fval => do
      let s ← get
      need (s.turn c)
      let p := c.inst
      if p.status = 1 ∧ p.done < n then do
        let offs := ((List.range ((n - p.done) / 65536)).take 64).map (fun i => p.done + 65536 * i)
        match ← orFail (gatherUnits c src dst offs none) with
        | .error f => stopInstall c p 3 f
        | .ok us => do
          let got := 65536 * us.length
          match ← buildBlock c.unit 3 with
          | .worn => stopInstall c p 4 (0x52, 0)
          | .failed => stopInstall c p 3 (0x59, (nw (dst + p.done)).toNat)
          | .block b => do
            let k := ((← get).stack c.unit).count b
            modify (fun s => s.switchBlock c.unit b us)
            putCmd { c with started := true, inst := { p with
              done := p.done + got, bytes := p.bytes + got, erased := p.erased + 1, wear := max p.wear k } }
      else do
        need ((s.stack c.unit).awaiting.isEmpty)
        modify (fun s => publishCmd s c (spanRange dst p.bytes true))
        let r ← orFail (engineReport c rec_ (installRecord p))
        let g ← orFail (if flag ≠ 0 then engineReport c flag (leBytes 8 fval.toNat) else pure ())
        let f : Option Failure := if p.status = 3 then some (p.fault, p.line) else
          match r, g with
          | .error e, _ => some e
          | _, .error e => some e
          | _, _ => none
        finishCmd c rec_ f
    | _ => idle) s

/-! ## Staging and pins (R189, R201, R299) -/

/-- xpin (R281, R299). -/
def execXpin (d a b : Reg) (acq rel : Bool) (scope : BitVec 2) (s : State) : Out :=
  insn (.threadOr .install) (.xpin d a b acq rel scope) (do
    let va ← getG a
    let n ← getG b
    let done ← getG d
    checkWindow (done.toNat, 8)
    let pa ← flashPlace 0x5C va done
    accept 4 (stackOf pa) done acq rel scope none (.pin va.toNat (wbits n 62 0) (n.getLsbD 63) done.toNat)
    return .seq) s

/-- The units that back the bytes at the given addresses, until one is not on a flash-backed page (R299, R381). -/
def pinUnits (s : State) (c : Ctx) : List Nat → List Nat → List Nat × Option Failure
  | [], us => (us, none)
  | a :: rest, us =>
    match translate s c .probe (nw a) with
    | .error _ => (us, some (0x5C, a))
    | .ok pl =>
      if pl.cls ≠ .flash then (us, some (0x5C, a))
      else
        let u := pl.loc / 65536
        pinUnits s c rest (if us.contains u then us else us ++ [u])

/-- The first byte of `n` bytes from `base`, and the first of each further 4 KiB they reach. -/
def pageStarts (base n : Nat) : List Nat :=
  if n = 0 then []
  else base :: (List.range ((base + n - 1) / 4096 - base / 4096)).map (fun i => (nw ((base / 4096 + i + 1) * 4096)).toNat)

/-- Pins on one tower: nothing where pinned bytes would exceed half the staging size (R299). The tower, the units changed,
and whether it refused. -/
def Tower.pin (t : Tower) (us : List Nat) : Tower × Nat × Bool :=
  let t' := us.foldl (fun (t : Tower) u => { t with pins := kvSet t.pins u (kvGet 0 t.pins u + 1) }) t
  if 2 ^ 31 * wbits t.l2ways 12 8 < 2 * t'.pinned then (t, 0, true)
  else (us.foldl Tower.fillUnit t', us.length, false)
/-- Unpins on one tower: one count less for each unit that has one. -/
def Tower.unpin (t : Tower) (us : List Nat) : Tower × Nat × Bool :=
  let held := us.filter (fun u => kvGet 0 t.pins u != 0)
  (held.foldl (fun (t : Tower) u =>
    let k := kvGet 0 t.pins u - 1
    { t with pins := if k = 0 then kvDel t.pins u else kvSet t.pins u k }) t, held.length, false)

/-- The towers an XPIN acts on: the issuing thread's, or those that hold clusters of an install stage's launch (R299). -/
def State.pinTowers (s : State) (c : Cmd) : List Nat :=
  if c.kind = .install then
    match s.launch? c.launch with
    | none => []
    | some l => l.towers.map (fun t => t.1)
  else [placeTower s.dev.towerok c.place]

/-- XPIN_EXECUTE (R299, R333, R381). -/
def execXpinExecute (cmd : Nat) (s : State) : Out :=
  event (do
    let c ← getCmd cmd
    match c.work with
    | .pin base n unpin done => do
      let s ← get
      need (s.turn c)
      let (us, f) := pinUnits s c.ctx (pageStarts base n) []
      let ws := s.pinTowers c
      let act (t : Tower) : Tower × Nat × Bool := if unpin then t.unpin us else t.pin us
      let refused := ws.any (fun w => (act (s.tower w)).2.2)
      let bytes := match ws with | [] => 0 | w :: _ => 65536 * (act (s.tower w)).2.1
      set (ws.foldl (fun (s : State) w => s.setTower w (act (s.tower w)).1) s)
      let st := if f.isSome then 3 else if refused then 2 else 1
      closeCmd { c with rel := false } done (st * 2 ^ 60 + bytes) [] f
    | _ => idle) s

/-! ## XWEAR (R300, R333) -/

/-- Does the end test of the LOOPV body that ends with the current instruction read the register (R141)? -/
def State.testedNext (s : State) (d : Reg) : Bool :=
  let c := s.regs.loopCtl
  let len := wbits c 5 0
  len != 0 && s.cur.pc == s.regs.loopAddr + 4 * nw (len - 1) && wbits c 10 6 == d.toNat

/-- xwear (R281, R300, R333): gd is owed until the command has been performed; the end test of a LOOPV body that reads it waits. -/
def execXwear (d a : Reg) (s : State) : Out :=
  insn (.threadOr .install) (.xwear d a) (do
    let va ← getG a
    let pa ← flashPlace 0x54 va 0
    let n := (← get).nextCmd
    accept 4 (stackOf pa) 0 false false 0 none (.wear pa d.toNat)
    if d ≠ 0 then do
      modCur (fun a => { a with wearRegs := a.wearRegs ++ [(d.toNat, n)] })
      if (← get).testedNext d then throw (.wait .wear)
    return .seq) s

/-- The result of command `n` put into the registers owed it, in what a late trap goes back to too (R358). -/
def Checkpoint.paid (k : Checkpoint) (n : Nat) (x : Word) : Checkpoint :=
  (k.wear.filter (fun e => e.2 == n)).foldl (fun k e => { k with g := k.g.setIfInBounds e.1 x }) k

/-- The result of command `n` written where it is owed (R333): in a register, and in its word of the save area where the thread is saved; or
in a word of the exception frame (R355). -/
def State.payWear (s : State) (n : Nat) (x : Word) : State :=
  let pay (s : State) (e : Nat × Nat) : State :=
    if e.1 < 32 then
      let s := if s.cur.isSaved then s.patchArea s.cur (64 + 8 * e.1) (leBytes 8 x.toNat) else s
      s.setG (BitVec.ofNat 5 e.1) x
    else { s with mem := memPutNat s.mem (frameLoc s.cur.id + 8 * (e.1 - 44)) 8 x.toNat }
  let s := { s with cur := { s.cur with
    vqueue := s.cur.vqueue.map (fun (t : VToken) => { t with snap := t.snap.map (fun (k : Checkpoint) => k.paid n x) }),
    unacked := s.cur.unacked.map (fun (u : Unacked) => { u with snap := u.snap.paid n x }) } }
  (s.cur.wearRegs.filter (fun (e : Nat × Nat) => e.2 == n)).foldl pay s

/-- XWEAR_EXECUTE (R300). -/
def execXwearExecute (cmd : Nat) (s : State) : Out :=
  event (do
    let c ← getCmd cmd
    match c.work with
    | .wear pa _ => do
      let s ← get
      need (s.turn c)
      let x := s.stack c.unit
      let v : Word := nw (x.highest * 2 ^ 32 + x.count (x.back (blockOf pa)) % 2 ^ 32)
      match s.agent? c.issuer with
      | none => pure ()
      | some _ => asAgent c.issuer (modify (fun s => s.payWear c.id v))
      finishCmd c 0 none
    | _ => idle) s

end Sys2Proof.Machine
end

