-- ==== Sys2Proof/Machine/VecCmp.lean ====
section
/-! DEFINITION. Compares and predicate operations, major 0x1D (R166, R167). -/

namespace Sys2Proof.Machine

/-- A compare (R166): `ifNan` is the result with a NaN operand and its event, `rel` the relation on the ordering. -/
def vcmp (i : Instr) (d a b p : Reg) (ifNan : Bool × Events) (rel : Int → Bool) (s : State) : Out :=
  vinsn 1 i (do
    checkSource a
    checkSource b
    let s ← get
    let f := s.opFmt [a, b]
    let rs := (s.stripElems p).map (fun k =>
      if f.isInt then
        let x := s.intOperand a.toNat k; let y := s.intOperand b.toNat k
        (k, rel (if x < y then -1 else if x = y then 0 else 1), 0)
      else
        let r := s.rnd 0 k
        let (x, e1) := s.operand a.toNat k r
        let (y, e2) := s.operand b.toNat k r
        if x.isNan || y.isNan then (k, ifNan.1, e1 ||| e2 ||| ifNan.2) else (k, rel (cmpVal x y), e1 ||| e2))
    writePred d s.regs.len (rs.map (fun (k, x, _) => (k, x)))
    flags (rs.map (fun (k, _, e) => (k, e)))
    endStrip) s

/-- vcmpeq, vcmpne, vcmplt, vcmple (R166, R86). -/
def execVcmpeq (d a b p : Reg) (s : State) : Out := vcmp (.vcmpeq d a b p) d a b p (false, 0) (fun c => c == 0) s
def execVcmpne (d a b p : Reg) (s : State) : Out := vcmp (.vcmpne d a b p) d a b p (true, 0) (fun c => c != 0) s
def execVcmplt (d a b p : Reg) (s : State) : Out := vcmp (.vcmplt d a b p) d a b p (false, evNV) (fun c => c < 0) s
def execVcmple (d a b p : Reg) (s : State) : Out := vcmp (.vcmple d a b p) d a b p (false, evNV) (fun c => c ≤ 0) s

/-- A predicate operation (R167). -/
def vpop (i : Instr) (d a b p : Reg) (op : Bool → Bool → Bool) (s : State) : Out :=
  vinsn 1 i (do
    let s ← get
    let x := s.p a; let y := s.p b
    writePred d s.regs.len ((s.stripElems p).map (fun k => (k, op (x.getLsbD k) (y.getLsbD k))))
    endStrip) s

/-- vpand, vpor, vpxor, vpandn (R167). -/
def execVpand (d a b p : Reg) (s : State) : Out := vpop (.vpand d a b p) d a b p (fun x y => x && y) s
def execVpor (d a b p : Reg) (s : State) : Out := vpop (.vpor d a b p) d a b p (fun x y => x || y) s
def execVpxor (d a b p : Reg) (s : State) : Out := vpop (.vpxor d a b p) d a b p (fun x y => x != y) s
def execVpandn (d a b p : Reg) (s : State) : Out := vpop (.vpandn d a b p) d a b p (fun x y => x && !y) s

end Sys2Proof.Machine
end

