-- ==== Sys2Proof/Machine/VecPerm.lean ====
section
/-! DEFINITION. Permutes, broadcast, reductions, scans and pruning, major 0x1E (R101, R102, R161, R173–R180). -/

namespace Sys2Proof.Machine

/-- The result format of a move: the source's, or FP32 for a block-tagged source (R161). -/
def State.moveFmt (s : State) (v : Reg) : Fmt := if (tagFmt (s.tag v)).isBlock then 6 else tagFmt (s.tag v)
/-- The bits a move copies (R161). -/
def State.moveBits (s : State) (v k : Nat) : Nat :=
  if (tagFmt (s.v v).tag).isBlock then (roundVal 6 rndRNE (s.elemVal v k)).1 else s.elem v k

/-- A slide or permute: the elements `ids` of the destination, each from the source element `from_` names (none: zero). -/
def vmove (d a p : Reg) (keep : State → Nat → Bool) (from_ : State → Nat → Option Nat) : Exec Unit := do
  let f := (← get).moveFmt a
  let g ← checkDest d f
  needStartZero
  let s ← get
  writeResult d f g (((s.allActives p).filter (keep s)).map (fun k =>
    (k, (match from_ s k with | none => 0 | some j => s.moveBits a.toNat j), 0)))

/-- vslideup (R173): elements below the amount keep their value. -/
def execVslideup (d a b p : Reg) (s : State) : Out :=
  vinsn 1 (.vslideup d a b p) (do
    checkSource a
    vmove d a p (fun s k => decide ((s.g b).toNat ≤ k)) (fun s k => some (k - (s.g b).toNat))) s
/-- vslidedn (R173). -/
def execVslidedn (d a b p : Reg) (s : State) : Out :=
  vinsn 1 (.vslidedn d a b p) (do
    checkSource a
    vmove d a p (fun _ _ => true) (fun s k => some (k + (s.g b).toNat))) s

/-- vperm (R174): an index of 1,024 or more gives zero. -/
def execVperm (d a b p : Reg) (s : State) : Out :=
  vinsn 1 (.vperm d a b p) (do
    checkSource a
    checkSource b
    if (tagFmt ((← get).tag b)).isInt = false then mismatch (some a) (some b) none
    vmove d a p (fun _ _ => true) (fun s k =>
      let j := s.elem b.toNat k
      if 1024 ≤ j then none else some j)) s

/-- vbcast (R175). -/
def execVbcast (d a p : Reg) (s : State) : Out :=
  vinsn 1 (.vbcast d a p) (do
    let f := (← getRegs).fmt
    if f.isBlock then mismatch none none none
    elementwise d p f [] (fun s _ => ((s.g a).toNat % 2 ^ f.bits, 0))) s

/-- vcompress (R176). -/
def execVcompress (d a p : Reg) (s : State) : Out :=
  vinsn 1 (.vcompress d a p) (do
    checkSource a
    let f := (← get).moveFmt a
    let g ← checkDest d f
    needStartZero
    let s ← get
    writeResult d f g ((s.allActives p).zipIdx.map (fun (k, j) => (j, s.moveBits a.toNat k, 0)))) s

/-- vmvs (R177): it resynchronises, ignores VSTART and writes a scalar. -/
def execVmvs (d a b : Reg) (s : State) : Out :=
  insn .threadOnly (.vmvs d a b) (do
    checkSource a
    resync
    let s ← get
    let f := s.moveFmt a
    let k := s.g b
    let x := if 1024 ≤ k.toNat then 0 else s.moveBits a.toNat k.toNat
    putG d (if f.isInt then toWord (decodeInt f x) else nw x)
    return .seq) s

/-! ## Reductions (R101, R178) -/

/-- The sources of a reduction: the vector and, where it is named, the start value. -/
def redSources (b a : Reg) : List Reg := if a = 0 then [b] else [a, b]

/-- One level of the tree of R101: neighbours added, each addition with its index; level `l`, pair number `j`. -/
def treeLevel (f : Fmt) (rnd : Nat → Rnd) (l : Nat) : Nat → List (Option Val) → List (Option Val) × List (Nat × Events)
  | j, x :: y :: rest =>
    let (zs, es) := treeLevel f rnd l (j + 1) rest
    match x, y with
    | some u, some v =>
      let k := (2 * j + 1) * 2 ^ l
      let (w, e) := fAdd f (rnd k) u v
      (some (decodeFloat f w) :: zs, (k, e) :: es)
    | some u, none => (some u :: zs, es)
    | none, y => (y :: zs, es)
  | _, xs => (xs, [])

/-- The tree of R101 over a power of two of elements, `n` levels deep. -/
def treeSum (f : Fmt) (rnd : Nat → Rnd) : Nat → Nat → List (Option Val) → Option Val × List (Nat × Events)
  | 0, _, xs => (xs.headD none, [])
  | n + 1, l, xs =>
    let (ys, es) := treeLevel f rnd l 0 xs
    let (r, es') := treeSum f rnd n (l + 1) ys
    (r, es ++ es')

/-- The levels of the tree for VL elements. -/
def treeDepth (vl : Nat) : Nat := if vl ≤ 1 then 0 else (vl - 1).log2 + 1

/-- A reduction's frame (R178): the sources, the class, the destination; `red` gives element 0 and the events. -/
def vreduce (i : Instr) (d a b p : Reg) (ok : Fmt → Bool)
    (red : State → Fmt → List Nat → Nat × List (Nat × Events)) (s : State) : Out :=
  vinsn 1 i (do
    let srcs := redSources b a
    each srcs checkSource
    let f := (← get).opFmt srcs
    if ok f = false then mismatch (if a = 0 then none else some a) (some b) none
    let g ← checkDest d f
    needStartZero
    let s ← get
    if s.regs.len = 0 then writeResult d f g []
    else do
      let (x, es) := red s f (s.allActives p)
      writeResult d f g [(0, x, 0)]
      flags es) s

/-- vredsum (R178). -/
def execVredsum (d a b p : Reg) (s : State) : Out :=
  vreduce (.vredsum d a b p) d a b p (fun f => f.isInt) (fun s f ks =>
    let z := if a = 0 then 0 else s.intOperand a.toNat 0
    (intBits f (ks.foldl (fun n k => n + s.intOperand b.toNat k) z), [])) s

/-- The start value of a floating-point reduction, +0 where none is named, with its conversion's event, which has index 0
(DESIGN CHOICE: log entry 55). -/
def startVal (s : State) (a : Reg) (r : Rnd) : Val × Events := if a = 0 then (.fin false 0 0, 0) else s.operand a.toNat 0 r

/-- The result of a floating-point reduction with no active element: the start value as a result of the format (R92, R101; DEDUCED:
log entry 17). -/
def startResult (f : Fmt) (r : Rnd) (st : Val) : Nat × Events := roundVal f { rndRNE with fz := r.fz } st

/-- vfredsum: the tree of R101. -/
def execVfredsum (d a b p : Reg) (rm : BitVec 2) (s : State) : Out :=
  vreduce (.vfredsum d a b p rm) d a b p (fun f => f.isFloat) (fun s f ks =>
    let rnd (k : Nat) := s.rnd rm k
    let vals := (List.range s.regs.len).map (fun k => if ks.contains k then some (s.operand b.toNat k (rnd k)) else none)
    let n := treeDepth s.regs.len
    let leaves := vals.map (fun x => x.map (fun y => y.1)) ++ List.replicate (2 ^ n - s.regs.len) none
    let (t, es) := treeSum f rnd n 0 leaves
    let es := vals.zipIdx.filterMap (fun (x, k) => x.map (fun y => (k, y.2))) ++ es
    let (st, e0) := startVal s a (rnd 0)
    match t with
    | none =>
      let (w, e) := startResult f (rnd 0) st
      (w, (0, e0 ||| e) :: es)
    | some v =>
      let (w, e) := fAdd f (rnd 0) st v
      (w, (0, e0 ||| e) :: es)) s

/-- vfredosum: the ordered sum of R101. -/
def execVfredosum (d a b p : Reg) (rm : BitVec 2) (s : State) : Out :=
  vreduce (.vfredosum d a b p rm) d a b p (fun f => f.isFloat) (fun s f ks =>
    let (st, e0) := startVal s a (s.rnd rm 0)
    let (z, e) := startResult f (s.rnd rm 0) st
    if ks = [] then (z, [(0, e0 ||| e)])
    else
      ks.foldl (fun (acc : Nat × List (Nat × Events)) k =>
        let r := s.rnd rm k
        let (x, e1) := s.operand b.toNat k r
        let (w, e2) := fAdd f r (decodeFloat f acc.1) x
        (w, (k, e1 ||| e2) :: acc.2)) ((roundVal f rndRNE st).1, [(0, e0)])) s

/-- The least value of a format (R178). -/
def leastBits (f : Fmt) : Nat := if f.isInt then intBits f f.intMin else f.inf true

/-- vredmax (R178); the events of its result have index 0 (R106; DESIGN CHOICE: log entry 55). -/
def execVredmax (d a b p : Reg) (s : State) : Out :=
  vreduce (.vredmax d a b p) d a b p (fun _ => true) (fun s f ks =>
    if f.isInt then
      let xs := (if a = 0 then [] else [s.intOperand a.toNat 0]) ++ ks.map (fun k => s.intOperand b.toNat k)
      (match xs with | [] => leastBits f | x :: rest => intBits f (rest.foldl max x), [])
    else
      let xs := (if a = 0 then [] else [(0, s.operand a.toNat 0 (s.rnd 0 0))]) ++
        ks.map (fun k => (k, s.operand b.toNat k (s.rnd 0 k)))
      match xs with
      | [] => (leastBits f, [])
      | x :: rest =>
        let (w, e) := roundVal f { rndRNE with fz := (s.rnd 0 0).fz } (rest.foldl (fun m y => minMaxVal true m y.2.1) x.2.1)
        (w, xs.map (fun x => (x.1, x.2.2)) ++ [(0, e)])) s

/-- vscan (R179): inclusive prefix sums, the carry in element 0 of vb. -/
def execVscan (d a b p : Reg) (s : State) : Out :=
  vinsn 1 (.vscan d a b p) (do
    let srcs := if b = 0 then [a] else [a, b]
    each srcs checkSource
    let f := (← get).opFmt srcs
    let g ← checkDest d f
    needStartZero
    let s ← get
    let ks := s.allActives p
    if f.isInt then
      let z := if b = 0 then 0 else s.intOperand b.toNat 0
      let (_, rs) := ks.foldl (fun (acc : Int × List (Nat × Nat × Events)) k =>
        let x := acc.1 + s.intOperand a.toNat k
        (x, (k, intBits f x, 0) :: acc.2)) (z, [])
      writeResult d f g rs
    else
      let (st, e0) := startVal s b (s.rnd 0 0)
      let (_, rs) := ks.foldl (fun (acc : Nat × List (Nat × Nat × Events)) k =>
        let r := s.rnd 0 k
        let (x, e1) := s.operand a.toNat k r
        let (w, e2) := fAdd f r (decodeFloat f acc.1) x
        (w, (k, w, e1 ||| e2) :: acc.2)) ((roundVal f rndRNE st).1, [])
      writeResult d f g rs
      flags (if ks = [] then [] else [(0, e0)])) s

/-! ## vprune (R180) -/

/-- Does magnitude x exceed y (R180)? A NaN exceeds every number. -/
def magAbove (x y : Val) : Bool :=
  match x, y with
  | .nan, .nan => false
  | .nan, _ => true
  | _, .nan => false
  | x, y => decide (0 < cmpVal x.abs y.abs)

/-- The candidate of greatest magnitude, the lower index on a tie. -/
def bestMag (xs : List (Nat × Val)) : Option (Nat × Val) :=
  match xs with
  | [] => none
  | x :: rest => some (rest.foldl (fun b y => if magAbove y.2 b.2 then y else b) x)

/-- The indices kept of a group's candidates, ascending. -/
def keepTwo (xs : List (Nat × Val)) : List Nat :=
  match bestMag xs with
  | none => []
  | some (k, _) =>
    match bestMag (xs.filter (fun e => e.1 != k)) with
    | none => [k]
    | some (j, _) => if j < k then [j, k] else [k, j]

/-- vprune (R180): two of every four elements by magnitude, and the mask of those kept. -/
def execVprune (d a b p : Reg) (s : State) : Out :=
  vinsn 1 (.vprune d a b p) (do
    checkSource a
    let f := (← get).moveFmt a
    let g ← checkDest d f
    needStartZero
    let s ← get
    let vl := s.regs.len
    let ks := s.allActives p
    let kept := (List.range (ceilDiv vl 4)).map (fun q =>
      keepTwo ((ks.filter (fun k => k / 4 == q)).map (fun k => (k, s.elemVal a.toNat k))))
    let len := 2 * ceilDiv vl 4
    let xs := (kept.zipIdx.map (fun (js, q) =>
      [(2 * q, match js with | [] => 0 | j :: _ => s.moveBits a.toNat j),
       (2 * q + 1, match js with | _ :: j :: _ => s.moveBits a.toNat j | _ => 0)])).flatten
    takeRows d.toNat f g 0 len
    writeGroup d.toNat f g 0 len xs
    let all := kept.flatten
    writePred b vl ((List.range vl).map (fun k => (k, all.contains k)))
    setVstart 0) s

end Sys2Proof.Machine
end

