-- ==== Sys2Proof/Machine/VecConv.lean ====
section
/-! DEFINITION. Conversions and block quantisation, major 0x21 (R96, R168–R172). -/

namespace Sys2Proof.Machine

/-- The value of a source element of a conversion: a float flushed under fz, anything else exact (R92, R168). -/
def State.sourceVal (s : State) (v k : Nat) (fz : Bool) : Val :=
  let f := tagFmt (s.v v).tag
  if f.isFloat then decodeFloat f (flushIn f fz (s.elem v k)) else s.elemVal v k

/-- vcvt (R168). -/
def execVcvt (d a p : Reg) (rm : BitVec 2) (s : State) : Out :=
  vinsn 0 (.vcvt d a p rm) (do
    checkSource a
    let s ← get
    let fr := s.regs.fmt
    if fr.isBlock then mismatch (some a) none none
    elementwise d p fr [a] (fun s k =>
      let r := s.rnd rm k
      let f := tagFmt (s.tag a)
      if fr.isInt then
        if f.isInt then (intBits fr (s.intOperand a.toNat k), 0) else valToInt fr r (s.sourceVal a.toNat k r.fz)
      else roundVal fr r (s.sourceVal a.toNat k r.fz))) s

/-- The residual of vcvtef: the canonical NaN, or x − y in the source format, a zero taking the sign of x, a subnormal
one flushed under fz without a flag (R169, R92). -/
def residual (fs fr : Fmt) (fz : Bool) (x : Val) (y : Nat) : Nat :=
  match x, decodeFloat fr y with
  | .fin n m e, .fin n' m' e' =>
    let (k, q, ex) := addFin modeRNE n m e (!n') m' e'
    if q = 0 then (if n then fs.signBit else 0) else (roundVal fs { rndRNE with fz := fz } (.fin k q ex)).1
  | _, _ => fs.nan

/-- The elements of the group at `b` below `n` of which a predicate makes a residual, as the image holds them. -/
def State.rawBelow (s : State) (p : Reg) (b : Nat) (f : Fmt) (n : Nat) : List (Nat × Nat) :=
  ((s.allActives p).filter (fun k => decide (k < n))).map (fun k =>
    (k, field (s.v (b + k / capacity f)).image (k % capacity f * f.bits) f.bits))

/-- The rows of the group at `b` with elements below `n` that were mapped in `old` are mapped (R169). -/
def State.remap (s old : State) (b : Nat) (f : Fmt) (g n : Nat) : State :=
  (List.range g).foldl (fun s j =>
    let r := s.v (b + j)
    s.setV (b + j) { r with rows := r.rows ||| ((old.v (b + j)).rows &&& memberRows f j 0 n) }) s

/-- vcvtef (R169): the conversion and its residual; where the groups overlap the residual's bytes are kept, those of elements
before a cut too, and the shared registers end with the tag, wlen and tail of vb's group (DESIGN CHOICE: log entry 77). -/
def execVcvtef (d a b p : Reg) (rm : BitVec 2) (s : State) : Out :=
  vinsn 0 (.vcvtef d a b p rm) (do
    checkSource a
    let s ← get
    let fs := tagFmt (s.tag a); let fr := s.regs.fmt
    if fs.isFloat = false ∨ fr.isFloat = false then mismatch (some a) none none
    let g ← needGroup fr
    let h ← needGroup fs
    checkAlign d fr g
    checkAlign b fs h
    checkRestart d fr g [a]
    checkRestart b fs h [a]
    let s ← get
    let rs := (s.stripElems p).map (fun k =>
      let r := s.rnd rm k
      let x := s.sourceVal a.toNat k r.fz
      let (y, e) := roundVal fr r x
      (k, y, e, residual fs fr r.fz x y))
    takeRowsTwo d.toNat fr g b.toNat fs h s.regs.start s.regs.len
    writeGroup d.toNat fr g s.regs.start s.regs.len (rs.map (fun (k, y, _, _) => (k, y)))
    modify (fun t => (t.mapRows b.toNat fs h s.regs.start s.regs.len).remap s b.toNat fs h s.regs.start)
    writeGroup b.toNat fs h s.regs.start s.regs.len (s.rawBelow p b.toNat fs s.regs.start ++ rs.map (fun (k, _, _, r) => (k, r)))
    flags (rs.map (fun (k, _, e, _) => (k, e)))
    endStrip) s

/-- vdqbx (R170): block elements as exact FP32. -/
def execVdqbx (d a p : Reg) (s : State) : Out :=
  vinsn 0 (.vdqbx d a p) (do
    checkSource a
    if (tagFmt ((← get).tag a)).isBlock = false then mismatch (some a) none none
    elementwise d p 6 [a] (fun s k => ((roundVal 6 rndRNE (s.elemVal a.toNat k)).1, 0))) s

/-- vnsat (R171). -/
def execVnsat (d a p : Reg) (s : State) : Out :=
  vinsn 0 (.vnsat d a p) (do
    checkSource a
    let s ← get
    let f := tagFmt (s.tag a); let fr := s.regs.fmt
    if f.isInt = false ∨ fr.isInt = false ∨ f.bits < fr.bits then mismatch (some a) none none
    elementwise d p fr [a] (fun s k =>
      let (x, e) := clampInt fr (s.intOperand a.toNat k)
      (intBits fr x, e))) s

/-! ## Block quantisation (R96, R172) -/

/-- log2 of D of a block format, and M (R96). -/
def blockDLog (f : Fmt) : Nat := if f = 11 then 5 else 1
def blockM (f : Fmt) : Nat := if f = 11 then 63 else 3

/-- Q(y, e) of R96 for a magnitude m × 2^x. -/
def blockQ (f : Fmt) (r : Rnd) (m : Nat) (x : Int) (e : Nat) : Nat :=
  (roundInt r false m (x + blockDLog f - ((e : Int) - 127))).1.toNat

/-- | y − q / D × 2^(e−127) | as a value (R96). -/
def blockDist (f : Fmt) (m : Nat) (x : Int) (q e : Nat) : Val :=
  let (_, k, ex) := addFin modeRNE false m x true q ((e : Int) - 127 - blockDLog f)
  .fin false k ex

/-- The bits of an element. -/
def blockElem (f : Fmt) (neg : Bool) (sel m : Nat) : Nat :=
  if f = 11 then bit1 neg * 128 + sel * 64 + m else bit1 neg * 8 + sel * 4 + m

/-- The greatest magnitude of a block and the lowest index that has it. -/
def blockMax (xs : List Val) : Nat × Val :=
  (xs.zipIdx.foldl (fun (b : Nat × Val) (v, j) => if 0 < cmpVal v.abs b.2 then (j, v.abs) else b) (0, .fin false 0 0))

/-- Block quantisation of 32 values (R96): the scale word, the elements, the events with their index in the block. -/
def quantize (f : Fmt) (k : Nat) (rnd : Nat → Rnd) (sign : Nat → Bool) (xs : List Val) :
    Nat × List Nat × List (Nat × Events) :=
  match xs.zipIdx.find? (fun (v, _) => match v with | .fin _ _ _ => false | _ => true) with
  | some (_, j) => (0xFFFF, (List.range 32).map (fun i => blockElem f (sign i) 0 0), [(j, evNV)])
  | none =>
    match blockMax xs with
    | (ja, .fin _ m x) =>
      if m = 0 then (0, (List.range 32).map (fun i => blockElem f (sign i) 0 0), [])
      else
        let e0 := (max (x + bitLen m - 1 + 127) 1).toNat
        let e0 := if blockM f < blockQ f (rnd ja) m x e0 then e0 + 1 else e0
        let big := 254 < e0
        let e0 := min e0 254
        let e1 := max (e0 - k) 1
        let rs := xs.zipIdx.map (fun (v, j) =>
          match v with
          | .fin n m x =>
            let m0 := min (blockQ f (rnd j) m x e0) (blockM f)
            let m1 := min (blockQ f (rnd j) m x e1) (blockM f)
            let d0 := blockDist f m x m0 e0
            let d1 := blockDist f m x m1 e1
            let s1 := cmpVal d1 d0 < 0
            let d := if s1 then d1 else d0
            (blockElem f n (if s1 then 1 else 0) (if s1 then m1 else m0), if d.isZero then 0 else evNX)
          | _ => (0, 0))
        (e0 + 256 * e1, rs.map (fun r => r.1),
          (if big then [(ja, evOF)] else []) ++ rs.zipIdx.map (fun (r, j) => (j, r.2)))
    | _ => (0, [], [])

/-- May vqbx read the format (R172)? -/
def quantSource (f : Fmt) : Bool := f ≤ 2 || (6 ≤ f && f ≤ 12)

/-- vqbx (R172); where its groups overlap no pre-emption cuts it (R161). The sign of a NaN element that is not FP32 is that of the
canonical NaN it is read as (R96; DESIGN CHOICE: log entry 65). -/
def execVqbx (d a : Reg) (k : BitVec 3) (rm : BitVec 2) (s : State) : Out :=
  vinsn 0 (.vqbx d a k rm) (do
    checkSource a
    let s ← get
    let f := tagFmt (s.tag a); let fr := s.regs.fmt
    if quantSource f = false ∨ fr.isBlock = false then mismatch (some a) none none
    let g ← checkDest d fr
    if s.regs.start % 32 ≠ 0 then vstartBad
    if s.overlaps d fr g a then modCur (fun a => { a with cut := none })
    let s ← get
    let lo := s.regs.start / 32; let hi := (s.cutAt.getD s.regs.len) / 32
    let qs := ((List.range hi).drop lo).map (fun b =>
      let xs := (List.range 32).map (fun j => s.elemVal a.toNat (32 * b + j))
      let bits := (List.range 32).map (fun j => s.bitsIn a.toNat (32 * b + j) 6)
      (b, quantize fr k.toNat (fun j => { s.rnd rm (32 * b + j) with fz := false })
        (fun j => bits.getD j 0 / 2 ^ 31 % 2 == 1) xs))
    takeRows d.toNat fr g s.regs.start s.regs.len
    writeGroup d.toNat fr g s.regs.start s.regs.len
      ((qs.map (fun (b, _, es, _) => es.zipIdx.map (fun (x, j) => (32 * b + j, x)))).flatten)
    writeScales d.toNat (qs.map (fun (b, w, _, _) => (b, w)))
    trimScales d.toNat s.regs.len
    flags ((qs.map (fun (b, _, _, ev) => ev.map (fun (j, e) => (32 * b + j, e)))).flatten)
    endStrip) s

end Sys2Proof.Machine
end

