-- ==== Sys2Proof/Machine/SweepBody.lean ====
section
/-! DEFINITION. The body words of a sweep: majors 0x01 to 0x0B, 0x1B to 0x1E and 0x21 (R303). -/

namespace Sys2Proof.Machine

/-- May a word stand in a sweep body (R303)? -/
def bodyAllows (w : IWord) : Bool :=
  let m := w.toNat / 2 ^ 26
  decide (1 ≤ m ∧ m ≤ 0x0B) || decide (0x1B ≤ m ∧ m ≤ 0x1E) || m == 0x21

/-- A body word executed by the sweep context: the meaning of the instruction it decodes to. -/
def bodyExec (i : Instr) (s : State) : Out :=
  match i with
  | .add d a b => execAdd d a b s
  | .sub d a b => execSub d a b s
  | .and d a b => execAnd d a b s
  | .or d a b => execOr d a b s
  | .xor d a b => execXor d a b s
  | .sll d a b => execSll d a b s
  | .srl d a b => execSrl d a b s
  | .sra d a b => execSra d a b s
  | .slt d a b => execSlt d a b s
  | .sltu d a b => execSltu d a b s
  | .mul d a b => execMul d a b s
  | .mulh d a b => execMulh d a b s
  | .div d a b => execDiv d a b s
  | .divu d a b => execDivu d a b s
  | .rem d a b => execRem d a b s
  | .remu d a b => execRemu d a b s
  | .addi d a imm => execAddi d a imm s
  | .andi d a imm => execAndi d a imm s
  | .ori d a imm => execOri d a imm s
  | .xori d a imm => execXori d a imm s
  | .slti d a imm => execSlti d a imm s
  | .sltiu d a imm => execSltiu d a imm s
  | .lui d imm => execLui d imm s
  | .lsi d a imm => execLsi d a imm s
  | .slli d a sh => execSlli d a sh s
  | .srli d a sh => execSrli d a sh s
  | .srai d a sh => execSrai d a sh s
  | .sel d a b => execSel d a b s
  | .vadd d a b p => execVadd d a b p s
  | .vsub d a b p => execVsub d a b p s
  | .vqadd d a b p => execVqadd d a b p s
  | .vqsub d a b p => execVqsub d a b p s
  | .vmul d a b p => execVmul d a b p s
  | .vmulh d a b p => execVmulh d a b p s
  | .vmacc d a b p => execVmacc d a b p s
  | .vand d a b p => execVand d a b p s
  | .vor d a b p => execVor d a b p s
  | .vxor d a b p => execVxor d a b p s
  | .vsll d a b p => execVsll d a b p s
  | .vsrl d a b p => execVsrl d a b p s
  | .vsra d a b p => execVsra d a b p s
  | .vmin d a b p => execVmin d a b p s
  | .vmax d a b p => execVmax d a b p s
  | .vfadd d a b p rm => execVfadd d a b p rm s
  | .vfsub d a b p rm => execVfsub d a b p rm s
  | .vfmul d a b p rm => execVfmul d a b p rm s
  | .vfdiv d a b p rm => execVfdiv d a b p rm s
  | .vfsqrt d a p rm => execVfsqrt d a p rm s
  | .vfma d a b p rm => execVfma d a b p rm s
  | .vfms d a b p rm => execVfms d a b p rm s
  | .vfmin d a b p rm => execVfmin d a b p rm s
  | .vfmax d a b p rm => execVfmax d a b p rm s
  | .vfabs d a p rm => execVfabs d a p rm s
  | .vfneg d a p rm => execVfneg d a p rm s
  | .vfsgnj d a b p rm => execVfsgnj d a b p rm s
  | .vfrecip d a p rm => execVfrecip d a p rm s
  | .vfrsqrt d a p rm => execVfrsqrt d a p rm s
  | .vfclass d a p rm => execVfclass d a p rm s
  | .vcmpeq d a b p => execVcmpeq d a b p s
  | .vcmpne d a b p => execVcmpne d a b p s
  | .vcmplt d a b p => execVcmplt d a b p s
  | .vcmple d a b p => execVcmple d a b p s
  | .vpand d a b p => execVpand d a b p s
  | .vpor d a b p => execVpor d a b p s
  | .vpxor d a b p => execVpxor d a b p s
  | .vpandn d a b p => execVpandn d a b p s
  | .vslideup d a b p => execVslideup d a b p s
  | .vslidedn d a b p => execVslidedn d a b p s
  | .vperm d a b p => execVperm d a b p s
  | .vbcast d a p => execVbcast d a p s
  | .vcompress d a p => execVcompress d a p s
  | .vredsum d a b p => execVredsum d a b p s
  | .vfredsum d a b p rm => execVfredsum d a b p rm s
  | .vfredosum d a b p rm => execVfredosum d a b p rm s
  | .vredmax d a b p => execVredmax d a b p s
  | .vscan d a b p => execVscan d a b p s
  | .vprune d a b p => execVprune d a b p s
  | .vmvs d a b => execVmvs d a b s
  | .vcvt d a p rm => execVcvt d a p rm s
  | .vcvtef d a b p rm => execVcvtef d a b p rm s
  | .vdqbx d a p => execVdqbx d a p s
  | .vnsat d a p => execVnsat d a p s
  | .vqbx d a k rm => execVqbx d a k rm s
  | _ => .next s

/-- The body runs once, until a word traps or stalls; a word that is no instruction raises ILLEGAL_INSN (R77). -/
def runBody : List IWord → State → State
  | [], s => s
  | w :: rest, s =>
    if s.cur.status ≠ .running ∨ s.cur.stall.isSome then s
    else match (match decode w with | some i => bodyExec i s | none => execIllegalInsn w s) with
      | .next t => runBody rest t
      | _ => s

end Sys2Proof.Machine
end

