-- ==== Sys2Proof/Machine/Sweep.lean ====
section
/-! DEFINITION. Context tensors and sweeps (R301–R308, R335, R336, R381, R396), CWAKE and CWAIT, and the place that frees
in an engine queue (R281). -/

namespace Sys2Proof.Machine

/-! ## The tensor (R301, R302) -/

/-- The address of line `g`, and of the context of element `e`. -/
def lineAddr (hdr : Nat) (f : Fmt) (g : Nat) : Nat := (nw (hdr + 64 + g * ctxPitch f)).toNat
def ctxAddr (hdr : Nat) (f : Fmt) (e : Nat) : Nat := (nw (lineAddr hdr f (e / 16) + 4 * (e % 16))).toNat
/-- The address of the value of element `e`. -/
def valAddr (hdr : Nat) (f : Fmt) (e : Nat) : Nat := (nw (lineAddr hdr f (e / 16) + 64 + f.bits / 8 * (e % 16))).toNat
/-- Is a context word awake? -/
def isAwake (c : Nat) : Bool := c / 2 ^ 30 % 4 == 1

/-! ## XSWEEP (R303, R381) -/

/-- The physical core that hosts the sweep: the issuing thread's, or that of a stage-0 thread of the launch at the CORE
named in the issuer's CLUSTER (R303, R381). -/
def State.sweepHost (s : State) (host : Nat) : Option Nat :=
  if host = 0xFF then some s.myCore
  else (s.agents.find? (fun a => a.kind == .thread && a.launch == s.cur.launch && a.cluster == s.cur.cluster &&
    a.core == host && (match a.status with | .ended _ => false | .free => false | _ => true))).map (fun a => placeCore a.id)

/-- The words of a body. -/
def bodyWords (x n : Nat) : List IWord := (List.range n).map (fun i => BitVec.ofNat 32 (recField x (4 * i) 4))

/-- xsweep (R303, R381). -/
def execXsweep (a : Reg) (acq rel : Bool) (scope : BitVec 2) (s : State) : Out :=
  insn (.threadOr .lamplighter) (.xsweep a acq rel scope) (do
    let va ← getG a
    let x ← readRecord va 64 64
    let hdr := recField x 0 8; let body := recField x 8 8; let blen := recField x 16 1; let host := recField x 24 1
    let isThread := (← getCur).kind == .thread || (← getCur).kind == .dispatcher
    needAligned (nw hdr) 64 0
    checkFields 0x50 va [(8, body % 4 == 0), (16, decide (1 ≤ blen ∧ blen ≤ 32)), (17, decide (recField x 17 1 ≤ 64)),
      (18, decide (recField x 18 1 ≤ 1)), (19, decide (recField x 19 1 ≤ 15)), (20, decide (1 ≤ recField x 20 4)),
      (24, decide (host ≤ 3) || (host == 0xFF && isThread))]
    let core ← match (← get).sweepHost host with
      | none => trap 0x58 (some va) 24 0
      | some core => pure core
    checkFields 0x50 va [(25, recField x 25 39 == 0)]
    let h ← readRecord (nw hdr) 64 64
    let n := recField h 0 4; let f := recField h 4 1; let skip := recField h 8 8
    checkFields 0x56 (nw hdr) [(0, decide (1 ≤ n ∧ n ≤ 2 ^ 28)), (4, decide (f ≤ 10)), (5, recField h 5 3 == 0),
      (8, skip % 8 == 0), (32, recField h 32 32 == 0)]
    let ws := bodyWords (← readRecord (nw body) (4 * blen) 4) blen
    match ws.zipIdx.find? (fun (w, _) => !bodyAllows w) with
    | some (w, i) => trap 0x55 (some (w.setWidth 64)) (nw i) 0
    | none => pure ()
    let s ← get
    checkWindow (hdr, 64 + ctxLines n * ctxPitch f)
    checkWindow (skip, 8 * ceilDiv (ctxLines n) 64)
    let args := match s.launch? s.cur.launch with | none => Vector.replicate 8 0 | some l => l.args
    accept 3 s.myTower va acq rel scope none
      (.sweep hdr n f skip ws args (recField x 18 1) (weightOf (recField x 19 1)) (recField x 20 4) core (nw body))
    return .seq) s

/-! ## The course of a sweep (R304, R305, R396) -/

/-- The sweep context of a core (R304, R325). -/
def sweepId (core : Nat) : Nat := 8192 + core

/-- An agent that is no more. -/
def State.dropAgent (s : State) (id : Nat) : State :=
  { s with others := s.others.filter (fun a => a.id != id),
           cur := if s.cur.id = id then Agent.fresh id s.cur.kind else s.cur }

/-- The core hosts no sweep any more. -/
def State.endHost (s : State) (core : Nat) : State :=
  let s := s.dropAgent (sweepId core)
  s.setCore core { s.core core with sweep := none, sweepSaved := false }

/-- The lines of the tensor, published at the end of a sweep (R247, R304). -/
def sweepRange (hdr n : Nat) (f : Fmt) : WRange := spanRange (hdr + 64) (ctxLines n * ctxPitch f) true

/-- The release of a sweep, or of the batches a stopped one has written back (R247, R304). -/
def publishSweep (c : Cmd) (hdr : Nat) : Exec Unit :=
  match c.work with
  | .sweep _ n f _ _ _ _ _ _ _ _ => publishEnd c [sweepRange hdr n f]
  | _ => pure ()

/-- A sweep that ends with status 3, cause, and e0 of the failing batch, what it has written published before (R247); header
words that fault stay as they are (R304, R305, R392). -/
def failSweep (c : Cmd) (hdr core : Nat) (f : Failure) (e0 : Option Nat) : Exec Unit := do
  match e0 with
  | none => pure ()
  | some e => do
    publishSweep c hdr
    let _ ← orFail (engineReport c (nw (hdr + 24)).toNat (leBytes 8 (3 * 2 ^ 60 + f.1 % 128 * 2 ^ 48 + e % 2 ^ 32)))
  modify (fun s => s.endHost core)
  finishCmd c (nw (hdr + 24)).toNat (some f)

/-- Is the core free for a command: it hosts no sweep, and no earlier command waits for it (R303)? -/
def State.hostFree (s : State) (c : Cmd) (core : Nat) : Bool :=
  (s.core core).sweep.isNone && s.cmds.all (fun d => decide (c.id ≤ d.id) || (match d.work with
    | .sweep _ _ _ _ _ _ _ _ _ core' _ => core' != core
    | _ => true))

/-- The sweep starts: status is read and set to 0, the context stands at zeros, and after a stopped sweep the first one
begins at line val / 16 (R304, R305, R396). -/
def startSweep (c : Cmd) (hdr core : Nat) : Exec Unit := do
  match ← orFail (do
      let old ← engineRead c (nw (hdr + 24)).toNat 8
      engineWrite c (nw (hdr + 24)).toNat (leBytes 8 0)
      return old) with
  | .error f => failSweep c hdr core f none
  | .ok old => do
    let resumed := old / 2 ^ 60 == 3
    modify (fun s =>
      (s.setCore core { s.core core with sweep := some c.id, sweepSaved := false }).putAgent
        { Agent.fresh (sweepId core) .sweep with launch := noLaunch, asid := c.asid })
    putCmd { c with started := true, pos := { SweepPos.start with
      begun := true, sw := 1, line := if resumed then old % 2 ^ 32 / 16 else 0, resumed := resumed } }

/-- The end of one sweep: release, status where it is the last, the count of sweeps, the next sweep (R304, R305, R336). -/
def endSweep (c : Cmd) (hdr n : Nat) (f : Fmt) (count core : Nat) : Exec Unit := do
  let p := c.pos
  need ((← get).mayClose c)
  publishEnd c [sweepRange hdr n f]
  let last := p.sw == count || (p.awake == 0 && !(p.resumed && p.sw == 1))
  match ← orFail (do
      let k ← engineRead c (nw (hdr + 16)).toNat 8
      if last then
        engineWrite c (nw (hdr + 24)).toNat (leBytes 8 ((if p.awake = 0 then 2 else 1) * 2 ^ 60 + p.awake % 2 ^ 32))
      engineReport c (nw (hdr + 16)).toNat (leBytes 8 (k + 1))) with
  | .error e => failSweep c hdr core e none
  | .ok _ =>
    if last then do
      modify (fun s => s.endHost core)
      finishCmd c (nw (hdr + 24)).toNat none
    else putCmd { c with pos := { SweepPos.start with begun := true, sw := p.sw + 1, resumed := p.resumed } }

/-- XSWEEP_EXECUTE (R303, R304): a sweep starts once its host core is free; a sweep past its last line ends, as does one with a write in flight
over a link that has gone down (R346, R391). -/
def execXsweepExecute (cmd : Nat) (s : State) : Out :=
  event (do
    let c ← getCmd cmd
    match c.work with
    | .sweep hdr n f _ _ _ _ _ count core _ => do
      let s ← get
      if c.pos.begun then
        match c.hit with
        | some x => failSweep c hdr core x (some (16 * c.pos.line))
        | none => do
          need (decide (ctxLines n ≤ c.pos.line) && !(s.core core).sweepSaved)
          endSweep c hdr n f count core
      else do
        need (s.turn c && s.hostFree c core)
        startSweep c hdr core
    | _ => idle) s

/-! ## A batch (R304, R307) -/

/-- The skip bit of line `g`, its word read when the sweep reaches the first line the word covers (R304, R307). -/
def skipBit (c : Cmd) (skip : Nat) (p : SweepPos) (g : Nat) : Exec (Except Failure (SweepPos × Bool)) := do
  if p.skipLine = some (g / 64) then return .ok (p, p.skipWord.getLsbD (g % 64))
  else match ← orFail (engineRead c (nw (skip + 8 * (g / 64))).toNat 8) with
    | .error f => return .error f
    | .ok x => return .ok ({ p with skipWord := nw x, skipLine := some (g / 64) }, (nw x).getLsbD (g % 64))

/-- The lines that follow in the batch: `fuel` at most, ending before a skipped line; a word that cannot be read ends the
batch before its lines (R304). -/
def batchLines (c : Cmd) (skip pol lines : Nat) : Nat → SweepPos → Nat → Exec (SweepPos × Nat)
  | 0, p, _ => pure (p, 0)
  | fuel + 1, p, g =>
    if lines ≤ g then pure (p, 0)
    else if pol = 1 then do
      let (q, k) ← batchLines c skip pol lines fuel p (g + 1)
      return (q, k + 1)
    else do
      match ← skipBit c skip p g with
      | .error _ => return (p, 0)
      | .ok (q, false) => return (q, 0)
      | .ok (q, true) => do
        let (r, k) ← batchLines c skip pol lines fuel q (g + 1)
        return (r, k + 1)

/-- What a batch fetches: contexts, values, and the left neighbour of its first element. -/
structure Batch where
  ctx : List Nat
  val : List Nat
  left : Nat
deriving DecidableEq, Repr

/-- The fetch of elements `e0` to `e0 + vl − 1` (R304). -/
def fetchBatch (c : Cmd) (hdr n : Nat) (f : Fmt) (e0 vl : Nat) : Exec Batch := do
  let ctx ← eachGet (List.range vl) (fun i => engineRead c (ctxAddr hdr f (e0 + i)) 4)
  let val ← eachGet (List.range vl) (fun i => engineRead c (valAddr hdr f (e0 + i)) (f.bits / 8))
  let left ← engineRead c (ctxAddr hdr f ((e0 + n - 1) % n)) 4
  return { ctx := ctx, val := val, left := left }

/-- The group of a value format in the sweep context (R112, R304). -/
def sweepGroup (f : Fmt) : Nat := if 128 * f.bits ≤ 4096 then 1 else 2

/-- A register group of the sweep context set. -/
def setGroup (vd : Nat) (f : Fmt) (g vl : Nat) (xs : List Nat) : Exec Unit := do
  takeRows vd f g 0 vl
  writeGroup vd f g 0 vl (xs.zipIdx.map (fun (x, i) => (i, x)))

/-- The sweep context handed a batch, at the first word of its body (R304, R89). -/
def loadBatch (f : Fmt) (args : Vector Word 8) (bodyAt : Word) (e0 vl sweeps : Nat) (b : Batch) : Exec Unit := do
  modCur (fun a => { a with
    status := .running, vqueue := [], pc := bodyAt,
    g := ((Vector.ofFn (fun k => if h : 4 ≤ k.val ∧ k.val - 4 < 8 then args[k.val - 4]'h.2 else a.g[k.val])).set 12 (nw e0)).set 13
      (nw sweeps),
    regs := { a.regs with vtype := 0x600, vl := mkVl vl vl, vstart := 0 } })
  setGroup 24 3 1 vl b.ctx
  setGroup 26 3 1 vl (b.left :: b.ctx.take (vl - 1))
  setGroup 16 f (sweepGroup f) vl b.val
  writePred 1 vl (b.ctx.zipIdx.map (fun (x, i) => (i, isAwake x)))

/-- What the body left in v24 and v16 (R304). -/
def State.batchOut (s : State) (f : Fmt) (vl : Nat) : List (Nat × Nat) :=
  (List.range vl).map (fun i => (s.elemBits 24 3 1 i, s.elemBits 16 f (sweepGroup f) i))

/-- The skip bit of a line set to whether the line holds an awake context, in one atomic step (R304). -/
def writeSkip (c : Cmd) (hdr n : Nat) (f : Fmt) (skip g : Nat) : Exec Unit := do
  let xs ← eachGet (List.range (min 16 (n - 16 * g))) (fun j => engineRead c (ctxAddr hdr f (16 * g + j)) 4)
  let m := 2 ^ (g % 64)
  let _ ← engineUpdate c (nw (skip + 8 * (g / 64))).toNat 8 (fun x =>
    some (x - x / m % 2 * m + if xs.any isAwake then m else 0))

/-- The stores of a write-back are found to translate, and its skip words to be clean, before any is made: a batch whose access
faults is not written back (R304). -/
def checkBatch (c : Cmd) (hdr : Nat) (f : Fmt) (skip pol e0 g k : Nat) (awake : List Nat) : Exec Unit := do
  let s ← get
  let ok (a : Nat) : Exec Unit := do
    let _ ← orTrap (nw a) engineStream (resolve s c.ctx .store (nw a))
    pure ()
  each awake (fun i => do
    ok (ctxAddr hdr f (e0 + i))
    ok (valAddr hdr f (e0 + i)))
  if pol = 0 then each (List.range k) (fun q => do
    let a := nw (skip + 8 * ((g + q) / 64))
    let (_, pl, hops, _) ← orTrap a engineStream (resolve s c.ctx .atomic a)
    engineCheck a (pl.loc + wbits a 5 0) hops)

/-- The awake elements written back bit for bit, then the skip bits (R304). -/
def storeBatch (c : Cmd) (hdr n : Nat) (f : Fmt) (skip pol e0 g k : Nat) (awake : List Nat) (out : List (Nat × Nat)) :
    Exec Unit := do
  checkBatch c hdr f skip pol e0 g k awake
  each awake (fun i => do
    let (x, v) := out.getD i (0, 0)
    engineWrite c (ctxAddr hdr f (e0 + i)) (leBytes 4 x)
    engineWrite c (valAddr hdr f (e0 + i)) (leBytes (f.bits / 8) v))
  if pol = 0 then each (List.range k) (fun q => writeSkip c hdr n f skip (g + q))

/-- One batch from line `g` of `k` lines: fetch, body, write-back (R304). -/
def oneBatch (c : Cmd) (hdr n : Nat) (f : Fmt) (skip : Nat) (body : List IWord) (args : Vector Word 8) (bodyAt : Word)
    (pol core g k : Nat) (p : SweepPos) : Exec Unit := do
  let e0 := 16 * g
  let vl := min (16 * k) (n - e0)
  match ← orFail (fetchBatch c hdr n f e0 vl) with
  | .error e => failSweep c hdr core e (some e0)
  | .ok b => match ← orFail (engineRead c (nw (hdr + 16)).toNat 8) with
  | .error e => do
    publishSweep c hdr
    failSweep c hdr core e none
  | .ok sweeps => do
    asAgent (sweepId core) (do
      loadBatch f args bodyAt e0 vl sweeps b
      modify (runBody body))
    match (← get).agent? (sweepId core) with
    | none => idle
    | some a =>
      match a.status with
      | .ended cause => failSweep c hdr core (cause, 0) (some e0)
      | .running => do
        need a.stall.isNone
        let out ← asAgent (sweepId core) (do
          let out := (← get).batchOut f vl
          modCur (fun a => { a with status := .free })
          return out)
        let awake := (List.range vl).filter (fun i => isAwake (b.ctx.getD i 0))
        match ← orFail (storeBatch c hdr n f skip pol e0 g k awake out) with
        | .error e => failSweep c hdr core e (some e0)
        | .ok _ =>
          putCmd { c with pos := { p with
            line := g + k, awake := p.awake + (awake.filter (fun i => isAwake (out.getD i (0, 0)).1)).length } }
      | _ => idle

/-- A batch that stalls for rows is tried again whole: of what it did only the stamp of R116 stays. -/
def batchStep (core : Nat) (x : Exec Unit) (s : State) : Out :=
  match x s with
  | .ok _ t => .next t
  | .error _ t => .next (match (t.agent? (sweepId core)).bind (fun a => a.stall) with
    | none => s
    | some k => { s with others := s.others.map (fun (b : Agent) =>
        if b.id = sweepId core then { b with stall := some (b.stall.getD k) } else b) })

/-- The core that hosts a command's sweep. -/
def State.hostOf (s : State) (cmd : Nat) : Nat :=
  match s.cmds.find? (fun c => c.id == cmd) with
  | some c => (match c.work with
    | .sweep _ _ _ _ _ _ _ _ _ core _ => core
    | _ => 0)
  | none => 0

/-- SWEEP_BATCH (R304, R307): the next line is passed over where its skip bit is 0, else a batch begins at it. -/
def execSweepBatch (cmd : Nat) (s : State) : Out :=
  batchStep (s.hostOf cmd) (do
    let c ← getCmd cmd
    match c.work with
    | .sweep hdr n f skip body args pol _ _ core bodyAt => do
      let p := c.pos
      let lines := ctxLines n
      let g := p.line
      need (p.begun && c.hit.isNone && decide (g < lines) && !((← get).core core).sweepSaved)
      match ← (if pol = 1 then pure (Except.ok (p, true)) else skipBit c skip p g) with
      | .error e => failSweep c hdr core e (some (1024 * (g / 64)))
      | .ok (p, false) => putCmd { c with pos := { p with line := g + 1 } }
      | .ok (p, true) => do
        let (p, k) ← batchLines c skip pol lines 7 p (g + 1)
        oneBatch c hdr n f skip body args bodyAt pol core g (k + 1) p
    | _ => idle) s

/-! ## CWAKE and CWAIT (R306–R308, R381) -/

/-- A header on a flash-backed page traps with `cause` (R381). -/
def headerOffFlash (cause : Nat) (va : Word) : Exec Unit := do
  match translate (← get) (← get).ctx .probe va with
  | .ok pl => if pl.cls = .flash then trap cause (some va) 0 0 else pure ()
  | .error _ => pure ()

/-- The context of element `e` set awake where it sleeps and the key fits, and then its skip bit set, each in one atomic step
(R306). -/
def wakeElement (hdr : Nat) (f : Fmt) (e skip : Nat) (key : Word) : Exec Unit := do
  let fits (c : Nat) : Bool := c / 2 ^ 30 == 2 && (key.getLsbD 63 || c % 2 ^ 24 == wbits key 23 0)
  let at_ : Word := nw (ctxAddr hdr f e)
  let pl ← atomicPlace .atomic 0 at_
  anchor at_
  let c ← updateAt at_.toNat 0 pl 4 4 (fun c => if fits c then some (c % 2 ^ 30 + 2 ^ 30) else none)
  if fits c then do
    record 0 (spanRange at_.toNat 4 true)
    let k : Word := nw (skip + e / 16 / 8)
    let pk ← atomicPlace .atomic 0 k
    anchor k
    let _ ← updateAt k.toNat 0 pk 1 1 (fun x => some (x ||| 2 ^ (e / 16 % 8)))
    record 0 (spanRange k.toNat 1 true)

/-- cwake (R306, R307): an element that is not below n, not asleep, or of another key is left as it is. Its read of the header asks for r alone
and a missing page there is one of a load (R196 gives CWAKE r and w; DESIGN CHOICE: log entry 78). -/
def execCwake (d a b : Reg) (acq rel : Bool) (scope : BitVec 2) (s : State) : Out :=
  insn (.threadOr .lamplighter) (.cwake d a b acq rel scope) (do
    let va ← getG a
    needAligned va 64 0
    headerOffFlash 0x14 va
    unlessTraps (do
      releaseIf rel scope.toNat
      let _ ← homePlace false .load 0 va
      let h ← loadNat true 0 va 16
      let n := recField h 0 4; let f := recField h 4 1
      let e := (← getG b).toNat
      if e < n ∧ f ≤ 10 then do
        let key ← getG d
        inFlight (.cwake d a b acq rel scope) 0 (wakeElement va.toNat f e (recField h 8 8) key)
      acquireIf acq 1 scope.toNat)
    return .seq) s

/-- cwait (R308, R253: its reads at the home leave the L1 line): sleeps while the sweeps word is below gb; then gd takes the status word. -/
def execCwait (d a b : Reg) (acq rel : Bool) (scope : BitVec 2) (s : State) : Out :=
  insn .threadOnly (.cwait d a b acq rel scope) (do
    let va ← getG a
    needAligned va 64 0
    headerOffFlash 0x26 (va + 16)
    unlessTraps (do
      releaseIf rel scope.toNat
      let pl ← homePlace false .wait 0 (va + 16)
      anchor va
      let k ← readPlace 0 pl 8
      if k < (← getG b).toNat then throw (.wait .cwait)
      let ps ← homePlace false .wait 0 (va + 24)
      let st ← readPlace 0 ps 8
      noteAwaited pl.loc
      acquireIf acq 1 scope.toNat
      putG d (nw st))
    return .seq) s

/-- CWAIT_WAKE (R308). -/
def execCwaitWake (ag : Nat) (s : State) : Out :=
  rerun .cwait ag (fun i t => match i with
    | .cwait d a b acq rel scope => execCwait d a b acq rel scope t
    | _ => .next t) s

/-- ENGINE_QUEUE_ROOM (R281): an issuer that found its queue full executes its command again. -/
def execEngineQueueRoom (ag : Nat) (s : State) : Out :=
  rerun .queue ag (fun i t => match i with
    | .xcopy d a b acq rel scope => execXcopy d a b acq rel scope t
    | .xgather a acq rel scope => execXgather a acq rel scope t
    | .xbin a acq rel scope => execXbin a acq rel scope t
    | .xmove d a b acq rel scope => execXmove d a b acq rel scope t
    | .xheal a acq rel scope => execXheal a acq rel scope t
    | .xreclaim a acq rel scope => execXreclaim a acq rel scope t
    | .xinst d a b acq rel scope => execXinst d a b acq rel scope t
    | .xpin d a b acq rel scope => execXpin d a b acq rel scope t
    | .xwear d a => execXwear d a t
    | .xsweep a acq rel scope => execXsweep a acq rel scope t
    | _ => .next t) s

end Sys2Proof.Machine
end

