-- ==== Sys2Proof/Machine/Micro.lean ====
section
/-! DEFINITION. What goes on inside the device beside the programs: the vector pipes (R21, R24–R28, R41, R42, R116, R357),
responses and home accesses (R103, R190, R197, R198, R201, R223, R233, R244, R290, R342, R358), the pager's answers
(R363), and saving and restoring (R245, R323–R327, R397). -/

namespace Sys2Proof.Machine

/-! ## Vector pipes (R24–R28, R41, R42) -/

/-- The queue numbers of a core: its control threads 0 to 3, the sweep context 4; the agent of a queue. -/
def queueAgent (core q : Nat) : Nat := if q = 4 then sweepId core else 4 * core + q

/-- The class of a pipe: 0 FMA-A, 1 FMA-B, 2 ALU/permute, 3 memory (R24). -/
def pipeClass (pipe : Nat) : Nat := pipe - 1

/-- May the instruction issue its next beats on the pipe: it has beats left, and is of the pipe's class, an FMA one on the pipe it
has begun on (R24)? -/
def VToken.fits (t : VToken) (pipe : Nat) : Bool :=
  t.pipe == pipeClass pipe && (pipe == 2 || pipe == 3 || t.on.getD pipe == pipe) && decide (t.issued < t.beats)

/-- Has the convoy of the queue's member `i` started: are its pipes free of earlier convoys' instructions (R28)? -/
def convoyStarted (ts : List VToken) (i : Nat) : Bool :=
  match ts[i]? with
  | none => false
  | some t =>
    let earlier := (ts.take i).filter (fun u => u.convoy < t.convoy && u.issued < u.beats)
    let members := ts.filter (fun u => u.convoy == t.convoy)
    let count (us : List VToken) (c : Nat) : Nat := (us.filter (fun u => u.pipe == c)).length
    members.all (fun m => count earlier m.pipe + count members m.pipe ≤ classWidth m.pipe)

/-- The place in a queue of the instruction that a pipe would take next. -/
def issueSlot (ts : List VToken) (pipe : Nat) : Option Nat :=
  ((List.range ts.length).find? (fun i => ts[i]?.any (fun t => t.fits pipe))).filter (convoyStarted ts)

/-- The beats of consumer `t` whose elements producer `u` has written: all where it reads nothing of it, none before the last
beat of a producer whose results cross lanes; a beat that reads elements past its own waits for those, a block's waits for the whole
block, and elements made of the bytes of others wait for those (R26, R96, R117). -/
def chained (t u : VToken) : Nat :=
  if t.reads &&& u.writes = 0 ∨ u.beats ≤ u.written then t.beats
  else if u.whole then 0
  else
    let made := u.written * 512 / max u.bits 1 * t.ratio.1 / max t.ratio.2 1 - (if t.far &&& u.writes = 0 then 0 else t.reach)
    made / max t.block 1 * t.block * t.bits / 512

/-- The beats an instruction may issue: those whose producers have been written (R26), 8 at most (R41). -/
def burst (ts : List VToken) (i : Nat) : Nat :=
  match ts[i]? with
  | none => 0
  | some t => min 8 ((ts.take i).foldl (fun n u => min n (chained t u)) t.beats - t.issued)

/-- Launch priority and weight of a queue (R41, R303, R322). -/
def State.queueRank (s : State) (core q : Nat) (a : Agent) : Nat × Nat :=
  if q = 4 then
    match s.cmds.find? (fun c => (s.core core).sweep == some c.id) with
    | none => (0, 8)
    | some c =>
      let w := match c.work with
        | .sweep _ _ _ _ _ _ _ wt _ _ _ => wt
        | _ => 8
      ((match s.launch? c.launch with | none => 0 | some l => l.prio), w)
  else match s.launch? a.launch with
    | none => (255, 8)
    | some l => (l.prio, l.weight)

/-- A head that is ready for a pipe: its queue, priority, weight, place, and the clock since which it has been ready. -/
structure Head where
  q : Nat
  prio : Nat
  weight : Nat
  slot : Nat
  since : Nat
deriving DecidableEq, Repr

/-- The ready heads of a core for a pipe (R41). -/
def State.heads (s : State) (core pipe : Nat) : List Head :=
  (List.range 5).filterMap (fun q =>
    match s.agent? (queueAgent core q) with
    | none => none
    | some a =>
      match issueSlot a.vqueue pipe with
      | none => none
      | some i =>
        if burst a.vqueue i = 0 then none
        else
          let (p, w) := s.queueRank core q a
          some { q := q, prio := p, weight := w, slot := i, since := (a.vqueue[i]?.bind (fun t => t.since)).getD s.clock })

/-- The head with the greatest value, the first of equals. -/
def greatest (f : Head → Int) : List Head → Option Head
  | [] => none
  | h :: rest => match greatest f rest with
    | none => some h
    | some k => if f h < f k then some k else some h

/-- The winner of a pipe: a head ready for 224 cycles, the oldest first; else the highest priority; among equals the shares
of R41. Whether the shares decided is told, for they change the credits. -/
def Core.winner (c : Core) (now : Nat) (hs : List Head) : Option (Head × Bool) :=
  match greatest (fun h => Int.ofNat (now - h.since)) (hs.filter (fun h => decide (224 ≤ now - h.since))) with
  | some h => some (h, false)
  | none =>
    let top := hs.foldl (fun n h => max n h.prio) 0
    (greatest (fun h => c.credit.getD h.q 0 + Int.ofNat h.weight) (hs.filter (fun h => h.prio == top))).map (fun h => (h, true))

/-- The credits after a grant by shares (R41). -/
def Core.share (c : Core) (hs : List Head) (w : Head) : Core :=
  let sum := hs.foldl (fun n h => n + h.weight) 0
  { c with credit := c.credit.zipIdx.map (fun (x, q) =>
      let own : Nat := (hs.filter (fun h => h.q == q)).foldl (fun n h => n + h.weight) 0
      if q = w.q then x + Int.ofNat own - Int.ofNat sum else x + Int.ofNat own) }

/-- A queue's instruction changed. -/
def State.setToken (s : State) (ag slot : Nat) (f : VToken → VToken) : State :=
  match s.agent? ag with
  | none => s
  | some a => s.putAgent { a with vqueue := a.vqueue.modify slot f }

/-- Beats of a queue's instruction issued on a pipe. -/
def VToken.issue (t : VToken) (pipe n : Nat) : VToken := { t with issued := t.issued + n, on := some pipe, since := none }

/-- One pipe granted to one head, where its last burst has ended (R330). Heads that wait keep the clock since which they have
been ready (R41). -/
def State.grantPipe (s : State) (core pipe : Nat) : State :=
  let hs := s.heads core pipe
  let s := hs.foldl (fun (s : State) h => s.setToken (queueAgent core h.q) h.slot (fun t => { t with since := some h.since })) s
  let c := s.core core
  if s.clock < kvGet 0 c.busy pipe then s
  else match c.winner s.clock hs with
    | none => s
    | some (w, shared) =>
      let ag := queueAgent core w.q
      let n := match s.agent? ag with | none => 0 | some a => burst a.vqueue w.slot
      let c := if shared then c.share (hs.filter (fun h => h.prio == w.prio)) w else c
      (s.setCore core { c with busy := kvSet c.busy pipe (s.clock + n) }).setToken ag w.slot (fun t => t.issue pipe n)

/-- ARBITER_GRANT (R24, R41, R42): FMA-A, then FMA-B, ALU/permute, memory. -/
def execArbiterGrant (core : Nat) (s : State) : Out :=
  event (modify (fun s => (List.range 4).foldl (fun (s : State) p => s.grantPipe core p) s)) s

/-- BEAT_WRITE (R26): an issued beat of the FMA or ALU pipes writes its result, of any instruction that has one. -/
def execBeatWrite (ag : Nat) (s : State) : Out :=
  event (asAgent ag (do
    let q := (← getCur).vqueue
    let due := (List.range q.length).filter (fun i => q[i]?.any (fun t => t.pipe != 2 && decide (t.written < t.issued)))
    match due[← drawBelow due.length]? with
    | none => idle
    | some i => modCur (fun a => { a with vqueue := a.vqueue.modify i (fun t => { t with written := t.written + 1 }) }))) s

/-- VECTOR_COMMIT (R357): the oldest vector instruction, all its beats written, leaves the queue. -/
def execVectorCommit (ag : Nat) (s : State) : Out :=
  event (asAgent ag (do
    match (← getCur).vqueue with
    | [] => idle
    | t :: rest => do
      need (decide (t.beats ≤ t.written))
      modCur (fun a => { a with vqueue := rest }))) s

/-- VQUEUE_ROOM (R21): the head of a full queue completes; the thread that waits for the place executes again. -/
def execVqueueRoom (ag : Nat) (s : State) : Out :=
  event (asAgent ag (do
    match (← getCur).status with
    | .waiting .vqueue _ =>
      modCur (fun a => { a with
        status := .running, vqueue := if 32 ≤ a.vqueue.length then a.vqueue.drop 1 else a.vqueue })
    | _ => idle)) s

/-! ## Row pressure and pre-emption (R116, R323, R324) -/

/-- Agent `id` is saved and stands off its core; an area that cannot be written stops its launch (R324, R397). -/
def State.saveAway (s : State) (id : Nat) : State :=
  match s.agent? id with
  | none => s
  | some _ => (settle (.hint 0) (saveThread .saved) (s.focus id)).focus s.cur.id

/-- Can the thread be saved now (R323)? It executes or waits; not while it changes the ways (R188) nor between a body's last instruction and
its end test (R141, R333). -/
def Agent.saveable (a : Agent) : Bool :=
  a.kind == .thread && match a.status with
  | .running => true
  | .waiting w _ => w != .update && w != .wear
  | _ => false

/-- The thread that row pressure pre-empts: of the greatest holding, then the lowest number (R116). -/
def State.rowVictim (s : State) (core : Nat) (stalled : Agent) : Option Agent :=
  let prio (a : Agent) : Nat := (s.queueRank core (if a.kind = .sweep then 4 else 0) a).1
  let cands := s.agents.filter (fun a => a.saveable && placeCore a.id == core && a.id != stalled.id &&
    decide (prio a ≤ prio stalled) && decide (0 < a.rowsHeld))
  cands.foldl (fun (b : Option Agent) a => match b with
    | none => some a
    | some x => if x.rowsHeld < a.rowsHeld ∨ (x.rowsHeld = a.rowsHeld ∧ a.id < x.id) then some a else b) none

/-- The elements before which the next instruction of the current agent may be cut (R162, R323): for vqbx those that begin a
block. -/
def State.cutPoints (s : State) : List Nat :=
  match s.upcoming with
  | none => []
  | some i =>
    if s.cur.kind ≠ .thread ∨ s.cur.status ≠ .running ∨ cuttable i = false then []
    else ((List.range s.regs.len).drop (s.regs.start + 1)).filter (fun k => !(i matches .vqbx ..) || k % 32 == 0)

/-- A thread is pre-empted: at once, between instructions, or, by a free choice, at an element of its next instruction (R162,
R323). -/
def preempt (id : Nat) : Exec Unit := do
  let s ← get
  let ks := (s.focus id).cutPoints
  match (none :: ks.map some)[← drawBelow (ks.length + 1)]? with
  | some (some k) => asAgent id (modCur (fun a => { a with cut := some k }))
  | _ => set (s.saveAway id)

/-- ROW_STALL_PREEMPT (R116): a head has stalled for 512 cycles on rows. -/
def execRowStallPreempt (core : Nat) (s : State) : Out :=
  event (do
    let s ← get
    match s.agents.find? (fun a => placeCore a.id == core && ((a.kind == .sweep && !(s.core core).sweepSaved) || (a.kind == .thread && a.status == .running)) &&
        (match a.stall with | none => false | some k => decide (k + 512 ≤ s.clock))) with
    | none => idle
    | some a => do
      let s := s.putAgent { a with stall := some s.clock }
      set s
      match s.rowVictim core a with
      | none => pure ()
      | some v => preempt v.id) s

/-- PREEMPT (R323, R324). -/
def execPreempt (ag : Nat) (s : State) : Out :=
  event (do
    match (← get).agent? ag with
    | none => idle
    | some a => do
      need a.saveable
      preempt ag) s

/-! ## Restoring (R245, R322, R326, R363) -/

/-- An agent takes another identity, with the commands it issued and the writes it sent (R326, R345). -/
def State.rename (s : State) (old new : Nat) : State :=
  if old = new then s
  else
    let s := s.setAside new
    let s := if s.cur.id = new then s.focus old else s
    let s := { s with others := s.others.filter (fun b => b.id != new) }
    { s with
      sent := s.sent.map (fun (w : Sent) => if w.agent = old then { w with agent := new } else w),
      cur := if s.cur.id = old then { s.cur with id := new } else s.cur,
      others := s.others.map (fun (b : Agent) => if b.id = old then { b with id := new } else b),
      cmds := s.cmds.map (fun (c : Cmd) => if c.issuer = old then { c with issuer := new } else c) }

/-- May the thread resume on another scalar core (R183, R287, R320, R326)? -/
def State.mayMigrate (s : State) (a : Agent) (slot : Nat) : Bool :=
  !a.anchorCore && !a.anchorCluster && !a.anchorTower && decide (slot < 6144) && s.slotFree slot && s.towerUp (slot / 512)

/-- A restore on another tower: the mark is 0 and the next acquire selects everything (R245). -/
def Agent.onTower (a : Agent) (here : Bool) : Agent := if here then a else { a with mark := 0, allNext := true }

/-- The record's weight byte is read again (R322). -/
def State.rereadWeight (s : State) (l : Nat) : State :=
  match s.launch? l with
  | none => s
  | some x => { s with launches := kvSet s.launches l { x with weight := weightOf (s.recordWeight x) } }.weightRead x

/-- Is the instruction a vector load (R211)? -/
def vectorLoad : Instr → Bool
  | .vld .. | .vlds .. | .vldff .. | .vldx .. | .vsld .. | .vgsld .. => true
  | _ => false

/-- Does the vector load release before its first read (R219), so that none of it is performed before? -/
def State.ordered (_ : State) : Instr → Bool
  | .vld _ _ _ _ o | .vlds _ _ _ _ o | .vldff _ _ _ o | .vldx _ _ _ _ _ o | .vsld _ _ _ o | .vgsld _ _ _ o => o.getLsbD 0
  | _ => false

/-- The beat of an element of the vector load (R25). -/
def State.loadBeat (s : State) (i : Instr) (k : Nat) : Nat :=
  k * (max s.regs.fmt.bits (s.widest (usesOf i).srcs)) / 512

/-- Has element `k` of the strip load of stream `st` been read ahead or been delivered (R254)? -/
def State.readBefore (s : State) (st : Nat) (f : Nat → Word) (ks : List Nat) (k : Nat) : Bool :=
  let h := s.handle (st - 4)
  h.ahead.any (fun e => e.1 == h.cursor.toNat + k) || s.cur.reassembly.any (fun e => serves st (fun k => k) f ks e.elem k)

/-- The address of a scalar memory access. -/
def State.scalarAccess (s : State) : Instr → Option Word
  | .ldb _ a o | .ldh _ a o | .ldw _ a o | .ldd _ a o | .ldbs _ a o | .ldhs _ a o | .ldws _ a o | .stb a _ o | .sth a _ o
  | .stw a _ o | .std a _ o | .ldp _ a o | .ldpHeal _ a o => some (memAddr (s.g a) o)
  | .amoswap _ a .. | .amoadd _ a .. | .amoand _ a .. | .amoor _ a .. | .amoxor _ a .. | .amomin _ a .. | .amomax _ a ..
  | .amocas _ a .. | .ticket _ a .. | .waita _ a .. => some (s.g a)
  | _ => none

/-- The reassembly entries that match the instruction resumed: those of an element it loads, from the line where that element
stands; the others are discarded (R342). -/
def State.matchEntries (s : State) : State :=
  let keep : Reassembly → Option Reassembly := match s.upcoming.bind (fun i => if vectorLoad i then s.vecAccess i else none) with
    | none => fun _ => none
    | some (f, p, st) => fun e =>
      match (s.actives p).contains e.elem, resolve s (s.streamCtx st) .load (f e.elem) with
      | true, .ok (_, pl, _, _) => if pl.loc / 64 = e.line then some { e with va := (f e.elem).toNat } else none
      | _, _ => none
  { s with cur := { s.cur with reassembly := s.cur.reassembly.filterMap keep } }

/-- The current agent, saved at slot `old`, resumes at its present identity. -/
def resumeThread (old : Nat) : Exec Unit := do
  restoreThread old
  modify State.matchEntries
  modify (fun s => { s with cur := s.cur.onTower (old / 512 == s.myTower) }.rereadWeight s.cur.launch)

/-- A step that happens whole or not at all; a stop of the launch takes effect. -/
def wholeOrStop (id : Nat) (x : Exec Unit) (s : State) : State :=
  let t := s.focus id
  match x t with
  | .ok _ u => u.focus s.cur.id
  | .error (.stop c) u => (eventStep (stopLaunch u.cur.launch c) u).focus s.cur.id
  | .error _ _ => s

/-- The sweep context of a core restored from its area, on the same core (R327). -/
def restoreSweep (core : Nat) : Exec Unit := do
  let s ← get
  need ((s.core core).sweepSaved)
  match (s.core core).sweep, s.agent? (sweepId core) with
  | some n, some _ => do
    let base := s.saveAddr (saveSlot (sweepId core))
    let launch := match s.cmds.find? (fun c => c.id == n) with | none => noLaunch | some c => c.launch
    let xs := memBytes s.mem base 32768
    if s.areaUsable base = false ∨ areaNat xs 0 1 ≠ 4 then
      if kvHas s.launches launch then do
        modify (fun s => s.findLines base 32768)
        stopLaunch launch 0x25
      else idle
    else asAgent (sweepId core) (do
      let va := xs.drop 3072
      need (decide (vareaRows va ≤ (← get).rowsFree))
      modify (fun s => s.vareaLoad va)
      modCur (fun a => { a with
        g := Vector.ofFn (fun k => nw (areaNat xs (64 + 8 * k.val) 8)), regs := a.regs.load xs })
      modify (fun s => { s with cmds := s.cmds.map (fun (c : Cmd) => if c.id = n then
        { c with pos := { c.pos with sw := areaNat xs 24 4, line := areaNat xs 28 4 } } else c) })
      modCore core (fun c => { c with sweepSaved := false }))
  | _, _ => idle

/-- CONTEXT_RESTORE (R326, R327): a saved thread resumes on the scalar core `slot`, its own or, where no anchor holds it,
another; a sweep context on its own core. Whether the slot's tower still stands is not asked (DESIGN CHOICE: log entry 58). -/
def execContextRestore (ag slot : Nat) (s : State) : Out :=
  if 8192 ≤ ag then event (restoreSweep (ag - 8192)) s
  else match s.agent? ag with
    | none => .next s
    | some a =>
      if a.status = .saved ∧ (slot = ag ∨ s.mayMigrate a slot = true) then
        match (s.rename ag slot).agent? slot with
        | none => .next s
        | some _ =>
          let t := wholeOrStop slot (resumeThread ag) (s.rename ag slot)
          .next (if (t.agent? slot).any (fun b => b.status == .saved) then s else t)
      else .next s

/-- The bytes of a sweep context's area (R327). -/
def State.sweepArea (s : State) (c : Cmd) : List Byte :=
  let va := s.vareaBytes
  leBytes 8 4 ++ leBytes 8 (c.launch % 16384) ++ leBytes 8 c.recAddr ++
  leBytes 8 (c.pos.sw % 2 ^ 32 + c.pos.line % 2 ^ 32 * 2 ^ 32) ++ leBytes 8 (3072 + va.length) ++ List.replicate 24 0 ++
  (s.cur.g.toList.map (fun x => leBytes 8 x.toNat)).flatten ++
  padTo 256 (s.regs.saved.map (fun x => leBytes 8 x.toNat)).flatten ++ List.replicate 2496 0 ++ va

/-- SWEEP_CONTEXT_SAVE (R327): between batches, its rows return to the pool. -/
def execSweepContextSave (core : Nat) (s : State) : Out :=
  event (do
    let s ← get
    need (!(s.core core).sweepSaved)
    match s.cmds.find? (fun c => (s.core core).sweep == some c.id) with
    | none => idle
    | some c => do
      let base := s.saveAddr (saveSlot (sweepId core))
      if s.areaUsable base = false then
        if kvHas s.launches c.launch then do
          modify (fun s => s.findLines base 32768)
          stopLaunch c.launch 0x22
        else idle
      else asAgent (sweepId core) (do
        let s ← get
        set { s with
          mem := memPuts s.mem base (s.sweepArea c),
          cur := { s.cur with v := Vector.replicate 32 VReg.fresh, p := Vector.replicate 32 0, vqueue := [], stall := none } }
        modCore core (fun x => { x with sweepSaved := true }))) s

/-- The pager's denial of a restored agent (R363): PAGER_DENY with the record's KTVAL and the original cause. -/
def denyFault (slot cause : Nat) : Exec Unit := do
  let s ← get
  trap 0x18 (some (nw (memNat s.mem (s.cur.postedAt + 64 * seatOf slot + 32) 8))) (nw cause)

/-- PAGER_ANSWER (R363, R385): the resume word of a posted record is not 0. -/
def execPagerAnswer (slot : Nat) (s : State) : Out :=
  match s.agent? slot with
  | none => .next s
  | some a =>
    match a.status with
    | .paged isSaved cause =>
      let answer := memNat s.mem (a.postedAt + 64 * seatOf slot) 8
      let back : Exec Unit := if isSaved then resumeThread slot else modCur (fun a => { a with status := .running })
      if answer = 0 then .next s
      else if answer = 1 then .next (wholeOrStop slot back s)
      else if answer = 2 then
        let t := wholeOrStop slot back s
        if (t.agent? slot).any (fun b => b.status == .running) then agentEvent slot (.hint 0) (denyFault slot cause) t
        else .next t
      else .next (wholeOrStop slot (throw (.stop cause)) s)
    | _ => .next s

/-! ## Responses and late causes (R26, R331, R342, R346, R352, R358, R391) -/

/-- The causes a response can bring (R350, R387, R402–R404, R407). -/
def responseCause (c : Nat) : Bool :=
  c == 0x1E || c == 0x6A || (0x71 ≤ c && c ≤ 0x77 && c ≠ 0x72) || c == 0x7C || (0x63 ≤ c && c ≤ 0x66)

/-- Can an error of the cause be found at a place, where data of that kind stand and are not poisoned yet (R367, R387, R404, R407)? -/
def State.errorFits (s : State) (cause : Nat) (pl : Place) : Bool :=
  let clean := !s.poison.contains (errorUnit pl.loc)
  match pl.cls with
  | .dram => (cause == 0x71 || cause == 0x73) && clean
  | .flash => cause == 0x1E || (cause == 0x7C && clean)
  | .window => cause == poisonCause pl.loc && clean
  | .bridge t _ => cause == 0x63 || (0x64 ≤ cause && cause ≤ 0x66 && (t == 0x10 || t == 0x11)) || (cause == 0x6A && decide (t < 16))

/-- The next read of a unit meets an error, one at a time (R387, R402, R404, R407). -/
def State.addLatent (s : State) (e : Latent) : State :=
  if s.latent.any (fun x => x.unit == e.unit) then s else { s with latent := s.latent ++ [e] }

/-- Dirty bytes of a cluster's L1 line are poisoned: those of the aligned word of byte `off` (R404). -/
def State.spoilL1 (s : State) (g off : Nat) (l : L1Line) : State :=
  let hit := l.dirty &&& BitVec.ofNat 64 (0xFF <<< (off / 8 * 8))
  if hit = 0 then s else (s.l1Set g { l with bad := l.bad ||| hit }).logError 0x74 (g / 32) (nw (64 * l.pline)) 0

/-- The registers a late trap goes back to: those by which vector instructions and loops run; what a KSET has written since
elsewhere stays (R358; log entry 63). -/
def Regs.rollBack (now old : Regs) : Regs :=
  { now with vl := old.vl, vtype := old.vtype, vstart := old.vstart, vhigh := old.vhigh, vdirty := old.vdirty,
             fflags := old.fflags, fidxNv := old.fidxNv, fidxDz := old.fidxDz, fidxOf := old.fidxOf, fidxUf := old.fidxUf,
             fidxNx := old.fidxNx, slen := old.slen, loopAddr := old.loopAddr, loopCtl := old.loopCtl }

/-- The agent back at a load of its queue, which has delivered the elements below `k`; of younger work only what it performed
in memory, in commands and in control registers stays (R357, R358), and the replayed words are those of then (R143). Results of younger XWEARs
come again. -/
def Agent.rollBack (a : Agent) (c : Checkpoint) (k : Nat) (older : List VToken) : Agent :=
  { a with pc := c.pc, g := c.g, handles := c.handles, v := c.v, p := c.p, vqueue := older, replay := c.replay, lateRead := none,
           wearRegs := a.wearRegs.filter c.wear.contains, regs := { a.regs.rollBack c.regs with vstart := nw k } }

/-- The queue's oldest memory instruction for which a response of an element's line comes: its place. -/
def responseSlot (ts : List VToken) (elem va : Nat) : Option Nat :=
  (List.range ts.length).find? (fun i => ts[i]?.any (fun t => t.pipe == 2 && decide (t.written < t.issued) &&
    (t.awaits.isEmpty || t.awaits.any (fun e => e.elem == elem && e.va == va && decide (e.hi < t.issued)))))

/-- A response arrives for an instruction of the queue: a beat is written when the last of its elements has arrived (R331); an
instruction that waits for no lines writes its next beat. -/
def VToken.arrived (t : VToken) (elem va : Nat) : VToken :=
  if t.awaits.isEmpty then { t with written := t.written + 1 }
  else
    let es := t.awaits.filter (fun e => e.elem != elem || e.va != va)
    { t with awaits := es, written := min t.issued (es.foldl (fun n e => min n e.lo) t.beats) }

/-- The oldest load of the queue undone from element `k` on, with a late trap there; the younger instructions leave nothing (R357,
R358). -/
def undoLoad (i : Nat) (c : Checkpoint) (k : Nat) (t : Trap) : Exec Unit := do
  modCur (fun a => a.rollBack c k (a.vqueue.take i))
  throw (.trap { t with vec := true })

/-- A response whose line brings a cause for a load of the queue: a late trap at its first element (R357, R358). -/
def lateInQueue (i : Nat) (t : VToken) (r : Response) (cause : Nat) : Exec Unit := do
  let s ← get
  match t.snap, resolve s (s.streamCtx ((t.snap.map (fun c => c.stream)).getD 0)) .load (nw r.va) with
  | some c, .ok (_, pl, hops, _) => do
    let val2 : Word := if cause = 0x1E then nw (stackOf pl.loc) else 0
    need (s.errorFits cause { pl with loc := pl.loc + r.va % 64 })
    need (t.awaits.any (fun e => e.elem == r.elem && e.va == r.va))
    set (s.foundError { unit := errorUnit (pl.loc + r.va % 64), cause := cause, val2 := val2 })
    match lateStop cause (pl.loc / 64) (nw r.va) val2 c.stream hops with
    | .trap x => undoLoad i c r.elem x
    | _ => idle
  | _, _ => idle

/-- The registers of a group with elements replaced. -/
def groupWith (v : Vector VReg 32) (vd : Nat) (f : Fmt) (g : Nat) (xs : List (Nat × Nat)) : Vector VReg 32 :=
  (List.range g).foldl (fun v j => if h : vd + j < 32 then v.set (vd + j) (writePart v[vd + j] f j xs) h else v) v

/-- The elements of the queue's instruction `i` replaced in its destination, and in what later instructions go back to (R358). -/
def State.setLate (s : State) (i : Nat) (l : LateLoad) (xs : List (Nat × Nat)) : State :=
  let f (v : Vector VReg 32) : Vector VReg 32 := groupWith v l.vd l.fmt l.group xs
  let at_ (c : Checkpoint) : Checkpoint := { c with v := f c.v }
  let since : Nat := match (s.cur.vqueue[i]?).bind (fun t => t.snap) with | none => 0 | some c => c.issued
  { s with cur := { s.cur with
      v := f s.cur.v
      vqueue := s.cur.vqueue.take i ++ (s.cur.vqueue.drop i).map (fun (t : VToken) => { t with snap := t.snap.map at_ })
      unacked := s.cur.unacked.map (fun (u : Unacked) => if since < u.snap.issued then { u with snap := at_ u.snap } else u) } }

/-- Does an error stand in the line of an address, which a response of its own brings (R358, R402)? -/
def State.lineBad (s : State) (st : Nat) (a : Nat) : Bool :=
  match resolve s (s.streamCtx st) .load (nw a) with
  | .error _ => true
  | .ok (_, pl, _, _) => (List.range 8).any (fun i =>
      let u := errorUnit (pl.loc + 8 * i)
      s.poison.contains u || s.latent.any (fun e => e.unit == u))

/-- The bytes of an element from `a` on as the stream sees them now: of a gather in the one view its packet has of the line (R215);
as they are where an error stands in the line or the read faults. -/
def latePart (st : Nat) (old : List Byte) (a k : Nat) (seen : LinesRead) : Exec (List Byte × LinesRead) := do
  if (← get).lineBad st a then return (old, seen)
  match ← attempt (if st = 2 then linePiece 2 a k seen else do return (leBytes k (← loadNat (st != 1) st (nw a) k), seen)) with
  | .ok r => return r
  | .error _ => return (old, seen)

/-- The parts of an element in lines that pass a test, read now; the others as they are. -/
def lateParts (st : Nat) (only : Nat → Bool) : List (Nat × Nat) → List Byte → LinesRead → Exec (List Byte × LinesRead)
  | [], _, seen => pure ([], seen)
  | (a, k) :: rest, old, seen => do
    let (x, seen) ← if only (a / 64) then latePart st (old.take k) a k seen else pure (old.take k, seen)
    let (xs, seen) ← lateParts st only rest (old.drop k) seen
    return (x ++ xs, seen)

/-- Elements of a load read again in order, of their bytes those in lines that pass a test: a gather's by the packets of each beat (R215);
those of a handle whole. -/
def lateItems (st : Nat) (l : LateLoad) (beat : Nat → Nat) (only : Nat → Bool) : List (Nat × Word × Nat) → Packets → Exec (List (Nat × Nat))
  | [], _ => pure []
  | (k, va, at_) :: rest, ps => do
    let f : Fmt := l.fmt
    let w := elemBytes f
    let c := capacity f
    let was := field ((← get).v (l.vd + k / c)).image (k % c * f.bits) f.bits
    let (x, seen) ← lateParts st only (linePieces va.toNat w w) (leBytes w was) (kvGet [] ps (beat k))
    let now := if f.bits = 4 then (if x = leBytes w was then was else leNat x / 16 ^ (at_ % 2) % 16) else leNat x
    let xs ← lateItems st l beat only rest (kvSet ps (beat k) seen)
    return (k, now) :: xs

/-- May the load at place `i` of the queue still be read: no younger instruction uses its destination, those that access memory are loads
of other streams, or of its own with all their elements still to come (R204, R235), and none is read ahead for it (R254, R342)? -/
def State.mayReadLate (s : State) (i : Nat) (t : VToken) (c : Checkpoint) : Bool :=
  let young := s.cur.vqueue.drop (i + 1)
  let apart (u : VToken) : Bool := (u.reads ||| u.writes) &&& t.writes == 0
  let later (u : VToken) : Bool := match u.snap with
    | none => u.pipe != 2 || u.rounds
    | some d => d.stream != c.stream || (u.late.isSome && u.written == 0)
  young.all (fun u => apart u && later u) && s.cur.reassembly.isEmpty &&
    (c.stream < 4 || (s.handle (c.stream - 4)).ahead.isEmpty)

/-- The elements of a queued load that the arriving line serves are read only now, by a free choice (R204, R412): of a handle the later
ones again after them, in cursor order (R254), and then the younger loads of its stream, in program order (R235, R249). -/
def readLate (i : Nat) (t : VToken) (r : Response) : Exec Unit := do
  let s ← get
  match t.late, t.snap with
  | some l, some c => do
    let ownBeat (u : VToken) (k : Nat) : Nat := k * u.bits / 512
    let mine (x : Nat × Word × Nat) : Bool := decide (r.elem ≤ x.1) && (c.stream != 2 || ownBeat t x.1 == ownBeat t r.elem)
    let younger := s.cur.vqueue.zipIdx.filterMap (fun (u, j) => match u.late, u.snap with
      | some m, some d => if i < j ∧ d.stream = c.stream then some (j, u, m) else none
      | _, _ => none)
    let mayFollow := younger.all (fun (j, u, _) => (s.cur.vqueue.drop (j + 1)).all (fun w => (w.reads ||| w.writes) &&& u.writes == 0))
    if s.mayReadLate i t c && mayFollow && (← drawBit) then do
      let only (line : Nat) : Bool := 4 ≤ c.stream || line == r.va / 64
      let xs ← lateItems c.stream l (ownBeat t) only (l.items.filter mine) []
      modify (fun s => s.setLate i l xs)
      each younger (fun (j, u, m) => do
        let ys ← lateItems c.stream m (ownBeat u) (fun _ => true) m.items []
        modify (fun s => s.setLate j m ys))
    else pure ()
  | _, _ => pure ()

/-- The source position of a response: x in [2:0], y in [4:3] (R9, R337). -/
def sourceOf (pl : Place) : Nat :=
  let u := match pl.cls with
    | .bridge t _ => if t < 16 then 16 + t / 8 else 16 + t % 2
    | _ => homeUnit pl.loc
  position u % 6 + 8 * (position u / 6)

/-- The data of a line that a response brings; what the reading finds in it is found now (R402). -/
def responseData (va : Word) (pl : Place) : Exec (BitVec 512 × Nat × Word) := do
  let s ← get
  noteShown false (fun e => e.at false (pl.loc / 8))
  let (cause, val2) ← match s.latent.find? (fun e => e.unit == errorUnit pl.loc) with
    | some e => do
      set (s.foundError e)
      pure (e.cause, e.val2)
    | none => pure (if s.poison.contains (errorUnit pl.loc) then poisonCause pl.loc else 0, 0)
  match pl.cls with
  | .bridge _ at_ => do
    let xs ← bridgeRead (at_ / 64 * 64) 64
    return (BitVec.ofNat 512 (leNat xs), cause, val2)
  | _ => do
    if wbits va 5 0 < 64 then readStaged s.ctx pl
    return (s.homeLine (pl.loc / 64), cause, val2)

/-- A response of the vector load the thread executes next, which keeps it in a reassembly entry until it executes (R342): of the
first element its line serves; a load on the L1 path fills its line (R253). Older memory instructions have completed, and no XSBAR holds
its stream (R289). -/
def arriveAhead (r : Response) (pl : Place) : Exec Unit := do
  let s ← get
  let a := s.cur
  let va : Word := nw r.va
  match s.upcoming.filter vectorLoad with
  | none => idle
  | some i =>
    match s.vecAccess i with
    | none => idle
    | some (f, p, st) => do
      let ks := s.actives p
      let line := pl.loc / 64
      let fresh (x : Option L1Line) : Bool := x.isNone
      need (a.kind == .thread && a.status == .running && decide (a.reassembly.length < 16) && !s.ordered i)
      need (a.vqueue.all (fun t => t.pipe != 2 || decide (t.beats ≤ t.written)))
      passBar st
      need (ks.contains r.elem && f r.elem == va && (ks.find? (fun j => serves st (s.loadBeat i) f ks j r.elem)) == some r.elem)
      need (decide (va.toNat % 64 + elemBytes s.regs.fmt ≤ 64) && !(pl.cls matches .window) && r.src % 32 == sourceOf pl)
      need (!(st == 1 && !fresh (s.l1? s.myCluster line)) && a.loose.all (fun e => e.word / 8 != line))
      need (a.reassembly.all (fun e => !serves st (s.loadBeat i) f ks e.elem r.elem))
      need (st < 4 || (!(s.handle (st - 4)).ahead.any (fun e => e.1 == (s.handle (st - 4)).cursor.toNat + r.elem) &&
        (ks.filter (fun k => decide (k < r.elem))).all (fun k => s.readBefore st f ks k)))
      let (data, cause, val2) ← responseData va pl
      if st = 1 ∧ cause = 0 ∧ (pl.cls = .dram ∨ pl.cls = .flash) then do
        let _ ← l1Load s.ctx s.myCluster .load 1 va pl (va.toNat % 64) 1
        pure ()
      modCur (fun a => { a with reassembly := a.reassembly ++ [{
        elem := r.elem, va := r.va, line := line, src := r.src % 32, age := r.age % 1024, cause := cause, val2 := val2,
        data := data }] })

/-- Of the writes an agent or a command sent, those performed at the target that an acknowledgement names by the address at which they
were written, as it translates now (R345); `at_` is that place. -/
def State.ackedAt (s : State) (ag : Nat) (at_ : Except AFault (Word × Place × Nat × List Nat)) : List Sent :=
  match at_ with
  | .ok (_, { cls := .bridge t a, .. }, _, _) => s.sent.filter (fun w => w.agent == ag && w.tgt == t && w.addr / 64 == a / 64)
  | _ => []

/-- Those that it names by the address at the target, as where the page has been unmapped since or the sender is gone. -/
def State.ackedThere (s : State) (ag a : Nat) : List Sent := s.sent.filter (fun w => w.agent == ag && w.addr / 64 == a / 64)

/-- Of the stores in flight of an agent those of which a byte is still under way (R345, R346). -/
def Agent.stillSent (a : Agent) (ws : List Sent) : Agent :=
  { a with unacked := a.unacked.filter (fun u => u.bytes.any (fun b => ws.any (fun w => w.agent == a.id && w.tgt == b.1 && w.addr == b.2))) }

/-- Writes leave what is in flight: they have been performed at their target, or their link has gone (R345, R346). -/
def State.dropSent (s : State) (ws : List Sent) : State :=
  let left := s.sent.filter (fun w => !ws.contains w)
  { s with sent := left, cur := s.cur.stillSent left, others := s.others.map (fun a => a.stillSent left) }

/-- A response of a memory instruction in the queue, or of the vector load the thread executes next, or the acknowledgement of
writes of an agent performed at another device or in host memory (R345); one with a cause that no load in the queue waits for is an
error that the next access to the place meets (R358, R402, R404, R407), one of a lane slice in the slice of its element (R184). -/
def arrive (r : Response) : Exec Unit := do
  let s ← get
  let a := s.cur
  let va : Word := nw r.va
  let place := resolve s s.ctx .probe va
  match r.found with
  | some c => do
    need (responseCause c)
    if c = 0x77 then do
      let at_ : Place := { loc := 2 ^ 47 + (16 * s.myCore + r.elem % 16) * 2 ^ 14 + r.va % 2 ^ 14, cls := .window }
      need (s.errorFits c at_)
      set (s.addLatent { unit := errorUnit at_.loc, cause := c, val2 := 0 })
    else match responseSlot a.vqueue r.elem r.va with
    | some i => match a.vqueue[i]? with
      | some t => lateInQueue i t r c
      | none => idle
    | none =>
      match place with
      | .error _ => idle
      | .ok (_, pl, _, _) => do
        let at_ : Place := { pl with loc := pl.loc + r.va % 64 }
        if c = 0x74 then
          match s.l1? s.myCluster (pl.loc / 64) with
          | none => idle
          | some l => set (s.spoilL1 s.myCluster (r.va % 64) l)
        else do
          need (s.errorFits c at_)
          set (s.addLatent { unit := errorUnit at_.loc, cause := c, val2 := if c = 0x1E then nw (stackOf pl.loc) else 0 })
  | none => do
    let acked := s.ackedAt a.id place
    if !acked.isEmpty then set (s.dropSent acked)
    else match responseSlot a.vqueue r.elem r.va with
      | some i => do
        match a.vqueue[i]? with
        | some t => readLate i t r
        | none => pure ()
        modCur (fun a => { a with vqueue := a.vqueue.modify i (fun t => t.arrived r.elem r.va) })
      | none =>
        let there := s.ackedThere a.id r.va
        if !there.isEmpty then set (s.dropSent there)
        else match place with
          | .error _ => idle
          | .ok (_, pl, _, _) => arriveAhead r pl

/-- The acknowledgement of writes of a command, or of a sender that is no more (R345). -/
def State.ackOf (s : State) (ag : Nat) (c : Option Ctx) (r : Response) : State :=
  if r.found.isSome then s
  else
    let acked := match c with | none => [] | some c => s.ackedAt ag (resolve s c .probe (nw r.va))
    s.dropSent (if acked.isEmpty then s.ackedThere ag r.va else acked)

/-- MEMORY_RESPONSE_ARRIVAL (R26, R331, R342, R345, R358): for an agent, or for a command under its number of `cmdAgent`, or for what a
command or an inbound write that has ended has sent. -/
def execMemoryResponseArrival (ag : Nat) (r : Response) (s : State) : Out :=
  match s.cmds.find? (fun c => cmdAgent c.id == ag) with
  | some c => .next (s.ackOf ag (some c.ctx) r)
  | none =>
    if (s.agent? ag).isNone then .next (s.ackOf ag none r)
    else agentEvent ag (s.focus ag).nextInstr (arrive r) s

/-! ## Homes, caches and translations -/

/-- A saturating counter raised by one (R402). -/
def satInc (x : Word) : Word := if x = -1 then x else x + 1
/-- A corrected error counted for a tower (R402). -/
def countCorrected (tower : Nat) : Exec Unit :=
  if tower < 12 then modTower tower (fun t => { t with cecount := satInc t.cecount }) else pure ()

/-- HOME_ACCESS_PERFORM (R103, R217, R233, R402): an update on its way performs at its bank, one into a CSP in its agent's order; a
number past those on their way, one for each tower, is an access performed in its instruction's own step that found an error its
home corrected. -/
def execHomeAccessPerform (idx : Nat) (s : State) : Out :=
  event (do
    let s ← get
    match s.bank[idx]? with
    | none => countCorrected (idx - s.bank.length)
    | some u => do
      need (!(u.inOrder && (s.bank.take idx).any (fun w => w.inOrder && w.agent == u.agent)))
      set { s.performAdd u with bank := s.bank.eraseIdx idx }) s

/-- L1_FILL (R190, R253, R404): a line that the cluster does not hold is filled from its home; of one it holds, in whose clean data an
uncorrectable error is found, the clean bytes are dropped and filled again, counted as corrected. A fill that fails leaves the errors it
has found. -/
def execL1Fill (cl asid va : Nat) (s : State) : Out :=
  let c : Ctx := { id := 16 * cl, kind := .thread, asid := asid, user := false }
  let x : Exec Unit := do
    let s ← get
    need (decide (cl < 384))
    let pl ← orTrap (nw va) 0 (translate s c .probe (nw va))
    need (pl.cls == .dram || pl.cls == .flash)
    let held := s.l1? cl (pl.loc / 64)
    let acc : Acc := if held.any (fun l => l.valid &&& ~~~l.dirty != 0) then .probe else .load
    if acc = .probe then do
      modify (fun s => match held with
        | none => s
        | some l => if l.dirty = 0 then s.l1Drop cl l.pline else s.l1Set cl { l with valid := l.dirty })
      countCorrected (cl / 32)
    let _ ← orTrap (nw va) 0 (translate s c acc (nw va))
    let _ ← l1Load c cl acc 0 (nw va) pl ((maskBytes (held.elim (BitVec.allOnes 64) (fun l => ~~~l.dirty))).headD 0) 1
  match x s with
  | .ok _ t => .next t
  | .error _ t => .next (s.errorsFound t)

/-- WRITEBACK_APPLY (R190, R234, R244, R251): a dirty line of an L1 of which a write-back is due is written back and stays, clean. -/
def execWritebackApply (cl line : Nat) (s : State) : Out :=
  event (do
    let s ← get
    match s.l1? cl line with
    | none => idle
    | some l => do
      need (s.leaves cl l)
      set (s.writeBack cl l)) s

/-- A translation put into a level that holds `cap` of them: one of a free choice leaves a full level (R197; log entry 8). -/
def putTlb (cap : Nat) (e : TlbEntry) (ts : List TlbEntry) : Exec (List TlbEntry) := do
  if ts.any (fun t => t.covers e.asid e.vbase) then return ts
  if ts.length < cap then return e :: ts
  let k ← drawBelow ts.length
  return e :: ts.eraseIdx k

/-- By a free choice the entries for an address are dropped: an error was found in them (R404). -/
def dropTlb (asid va : Nat) (ts : List TlbEntry) : Exec (List TlbEntry) := do
  if ts.any (fun t => t.covers asid va) then
    if ← drawBit then return ts.filter (fun t => !t.covers asid va)
  return ts

/-- PAGE_WALK (R196, R197, R404): a translation, walked for where the tower holds none, is retained in the tower, and, by a free
choice, in one of its clusters, and in a lane quad of one of that cluster's cores; held ones may be dropped and walked again. -/
def execPageWalk (tower asid va : Nat) (s : State) : Out :=
  event (do
    let s ← get
    need (s.towerUp tower)
    let held ← dropTlb asid va (s.tower tower).tlb
    modTower tower (fun t => { t with tlb := held })
    let s ← get
    let e ← match held.find? (fun t => t.covers asid va) with
      | some e => pure (some e)
      | none => match walk s .load asid va with
        | .error f => do
          modify (fun s => s.foundIn f.found)
          pure none
        | .ok (leaf, size) => pure (some { asid := asid, vbase := va / size * size, size := size, leaf := leaf })
    let some e := e | return
    let ts ← putTlb 524288 e held
    modTower tower (fun t => { t with tlb := ts })
    let c ← drawBelow 33
    if c ≠ 0 then do
      let cl := 32 * tower + c - 1
      let ts ← putTlb 2048 e (← dropTlb asid va ((← get).cluster cl).tlb)
      modCluster cl (fun x => { x with tlb := ts })
      let q ← drawBelow 17
      if q ≠ 0 then do
        let core := 4 * cl + (q - 1) / 4
        let quad := (q - 1) % 4
        let ts ← putTlb 32 e (← dropTlb asid va (kvGet [] ((← get).core core).tlb quad))
        modCore core (fun x => { x with tlb := kvSet x.tlb quad ts })) s

/-- HANDLE_RUNAHEAD_READ (R198, R223, R394): the next element of a ported handle is read ahead, within four strips of the
cursor, none past elements that the strip load to come has had delivered (R254); a read that faults is dropped, but for the errors it has found
(R402). -/
def execHandleRunaheadRead (ag h : Nat) (s : State) : Out :=
  let x : Exec Unit := asAgent ag (do
    let s ← get
    let hd := s.handle h
    let e := hd.cursor.toNat + hd.ahead.length
    need (s.cur.kind == .thread && decide (h < 8) && hd.port.isSome && !s.handleBusy h)
    need (s.cur.reassembly.isEmpty || (s.upcoming.bind s.vecAccess).all (fun x => x.2.2 != 4 + h))
    need (decide (hd.ahead.length < 4 * hd.aheadLen ∧ hd.ahead.length < hd.remaining.toNat))
    let x ← loadNat true (4 + h) (hd.addr e) (elemBytes hd.format)
    modify (fun s => s.setHandle h { s.handle h with ahead := hd.ahead ++ [(e, BitVec.ofNat 64 x)] }))
  match x s with
  | .ok _ t => .next t
  | .error _ t => .next (s.errorsFound t)

/-- PORT_HANDOFF (R198): the oldest handle without a port takes a free one. -/
def execPortHandoff (cl : Nat) (s : State) : Out := event (modify (fun s => s.handPort cl)) s

/-- STAGING_FILL (R201, R334): a program unit is fetched into a tower's staging cache. -/
def execStagingFill (tower unit : Nat) (s : State) : Out :=
  event (do
    let s ← get
    need (decide (2 ^ 26 ≤ unit ∧ unit < 2 ^ 27) && s.towerUp tower && s.dev.granaryok.getLsbD (stackOf (65536 * unit)) &&
      decide (0 < (s.tower tower).stagingUnits))
    modTower tower (fun t => t.fillUnit unit)) s

/-- The greatest bound OLDTKT may report: below every standing tower's TIME by 3 (R290). -/
def State.ticketBound (s : State) : Nat :=
  match ((List.range 12).filter (fun k => s.towerUp k)).map (fun k => s.time k) with
  | [] => 0
  | x :: xs => xs.foldl min x - 3

/-- OLDTKT_UPDATE (R290): brought up to date while no update is in flight; it never decreases. -/
def execOldtktUpdate (tower : Nat) (s : State) : Out :=
  event (do
    let s ← get
    need (s.bank.all (fun u => decide (2 ^ 43 ≤ u.loc)))
    modTower tower (fun t => { t with oldtkt := nw (max t.oldtkt.toNat s.ticketBound) })) s

end Sys2Proof.Machine
end

