-- ==== Sys2Proof/Machine/Fabric.lean ====
section
/-! DEFINITION. The fabric and its links (R9, R337–R343, R346, R391, R406, R407): flits, ages, injection, planes, and the
link ports. -/

namespace Sys2Proof.Machine

/-! ## Routers (R9, R338) -/

/-- The directions in the order in which a deflected flit takes them (R338). -/
inductive Dir where
  | north | east | south | west
deriving DecidableEq, Repr

/-- The router in a direction of router `p` (y × 6 + x; north is the row above in R9's table: log entry 41), where the mesh has one. -/
def neighbour (p : Nat) (d : Dir) : Option Nat :=
  match d with
  | .north => if 1 ≤ p / 6 then some (p - 6) else none
  | .south => if p / 6 < 2 then some (p + 6) else none
  | .east => if p % 6 < 5 then some (p + 1) else none
  | .west => if 1 ≤ p % 6 then some (p - 1) else none

/-- The directions that lower the distance to `dst`, x before y (R338). -/
def productive (p dst : Nat) : List Dir :=
  (if p % 6 < dst % 6 then [.east] else if dst % 6 < p % 6 then [.west] else []) ++
  (if dst / 6 < p / 6 then [.north] else if p / 6 < dst / 6 then [.south] else [])

/-- The port a flit takes among those still free: a productive one, else the first free (R338); whether it is deflected. -/
def takePortOf (free : List Dir) (p dst : Nat) : Option (Dir × Bool) :=
  match (productive p dst).find? (fun d => free.contains d) with
  | some d => some (d, false)
  | none => (([.north, .east, .south, .west] : List Dir).find? (fun d => free.contains d)).map (fun d => (d, true))

/-- The ports of a router. -/
def portsOf (p : Nat) : List Dir :=
  ([.north, .east, .south, .west] : List Dir).filter (fun d => (neighbour p d).isSome)

/-- Does flit `a` rank before flit `b` (R338)? -/
def Flit.before (a b : Flit) : Bool := decide (b.age < a.age) || (a.age == b.age && decide (a.src < b.src))

/-- A flit put at its rank. -/
def rankIn (f : Flit) : List Flit → List Flit
  | [] => [f]
  | g :: rest => if f.before g then f :: g :: rest else g :: rankIn f rest

/-- What one router does with the flits on a plane: those that leave, where they stand next and whether deflected, and the
ports left. -/
def routeFlits (p : Nat) : List Flit → List Dir → Bool → List (Flit × Bool) → List (Flit × Bool) × List Dir
  | [], free, _, out => (out, free)
  | f :: rest, free, ejected, out =>
    if f.dst = p ∧ ejected = false then routeFlits p rest free true out
    else match takePortOf free p f.dst with
      | none => routeFlits p rest free ejected ((f, false) :: out)
      | some (d, defl) =>
        routeFlits p rest (free.filter (fun x => x != d)) ejected
          (({ f with pos := (neighbour p d).getD p, came := p }, defl) :: out)

/-- The plane a class of traffic travels on: its own, or the next in order where that is disabled (R406). -/
def State.planeOf (s : State) (cls : Nat) : Nat :=
  if s.dev.planesOff.getLsbD (cls % 4) then (cls + 1) % 4 else cls % 4

/-- Is a plane shared by another's class (R406)? -/
def State.shared (s : State) (plane : Nat) : Bool := s.dev.planesOff.getLsbD ((plane + 3) % 4)

/-- The unit at a router position: tower, stack 12 + j, I/O die 16 + d (R9). -/
def unitAt (p : Nat) : Nat := ((List.range 18).find? (fun u => position u == p)).getD 0

/-- A 32-bit saturating counter in the bits of a word from `lo` on raised. -/
def satAdd (x : Word) (lo n : Nat) : Word := wput x (lo + 31) lo (min (2 ^ 32 - 1) (wbits x (lo + 31) lo + n))

/-- Deflections and injections counted for the tower a flit comes from (R340). -/
def State.countFlit (s : State) (src lo : Nat) : State :=
  let u := unitAt src
  if u < 12 then s.setTower u { s.tower u with deflcnt := satAdd (s.tower u).deflcnt lo 1 } else s

/-- The stop of the launch of the agent in a context slot (R406). -/
def stopSlot (slot cause : Nat) : Exec Unit := do
  let s ← get
  match s.agent? slot with
  | none => pure ()
  | some a => if kvHas s.launches a.launch then stopLaunch a.launch cause else pure ()

/-- Every launch stops with a cause. -/
def stopAll (cause : Nat) : Exec Unit := do
  each ((← get).launches.map (fun e => e.1)) (fun l => do
    if kvHas (← get).launches l then stopLaunch l cause else pure ())

/-- May a flit be injected (R339): a productive port is free, fewer than 512 flits are in flight on the plane, the
window's budget is not spent. -/
def State.mayInject (s : State) (plane : Nat) (free : List Dir) (r : FlitReq) : Option Dir :=
  let u := unitAt r.src
  let lim := wbits (s.tower u).injrate 7 0
  if u < 12 ∧ lim ≠ 0 ∧ lim ≤ kvGet 0 (s.tower u).injected plane then none
  else if 512 ≤ (s.flits.filter (fun f => s.planeOf f.plane == plane)).length then none
  else (productive r.src r.dst).find? (fun d => free.contains d)

/-- A request injected (R338, R339): age 0; the tower's counts rise. -/
def State.inject (s : State) (plane : Nat) (r : FlitReq) (pos : Nat) : State :=
  let u := unitAt r.src
  let f : Flit := { plane := r.plane, src := r.src, dst := r.dst, pos := pos, age := 0, req := r.req }
  let s := { s with flits := s.flits ++ [f] }
  let s := if u < 12 then
      let t := s.tower u
      s.setTower u { t with injected := kvSet t.injected plane (kvGet 0 t.injected plane + 1) }
    else s
  s.countFlit r.src 32

/-- A flit past its bound is discarded and reported, and the launch of its source stops (R338, R406). -/
def pastBound (f : Flit) : Exec Unit := do
  modify (fun s => s.logError 0x60 (unitAt f.pos) 0 (nw f.req))
  stopSlot f.req 0x60

/-- The header errors that a link segment of a plane has logged within 2^20 fabric cycles (R406). -/
def State.segmentErrors (s : State) (plane : Nat) (seg : Nat × Nat) : Nat :=
  (s.hdrErrors.filter (fun e => e.1 == plane && e.2.1 == seg && decide (s.fabricClock ≤ e.2.2 + 2 ^ 20))).length

/-- Is a plane to be disabled: a link segment of it has logged 16 header errors (R406)? -/
def State.planeDue (s : State) (plane : Nat) : Bool :=
  s.hdrErrors.any (fun e => e.1 == plane && decide (16 ≤ s.segmentErrors plane e.2.1))

/-- FLIT_ROUTE (R338, R339): one fabric cycle of every router on one plane; none on a plane that is to be disabled (R406). -/
def execFlitRoute (plane : Nat) (inj : List FlitReq) (s : State) : Out :=
  event (do
    let s ← get
    need (decide (plane < 4) && !s.dev.planesOff.getLsbD plane && !s.planeDue plane)
    let bound := if s.shared plane then 512 else 256
    let here := s.flits.filter (fun f => s.planeOf f.plane == plane)
    let late := here.filter (fun f => decide (bound < f.age))
    let rest := s.flits.filter (fun f => s.planeOf f.plane != plane)
    let routed := (List.range 18).map (fun p =>
      let fs := (here.filter (fun f => f.pos == p && decide (f.age ≤ bound))).foldr rankIn []
      (p, routeFlits p fs (portsOf p) false []))
    let moved := (routed.map (fun r => r.2.1)).flatten
    set ({ s with flits := rest ++ moved.map (fun e => e.1) } : State)
    modify (fun (s : State) => moved.foldl (fun (s : State) e => if e.2 && !e.1.stale then s.countFlit e.1.src 0 else s) s)
    each (List.range 18) (fun p => modify (fun s =>
      let free := match routed.find? (fun r => r.1 == p) with | none => [] | some r => r.2.2
      match inj.find? (fun r => r.src == p && decide (r.plane < 4) && s.planeOf r.plane == plane && decide (r.dst < 18)) with
      | none => s
      | some r => match s.mayInject plane free r with
        | none => s
        | some d => s.inject plane r ((neighbour p d).getD p)))
    each late pastBound) s

/-- FLIT_AGE_STEP (R338): a cycle of the fabric clock; at multiples of 8 every flit ages, up to 1,023. -/
def execFlitAgeStep (s : State) : Out :=
  event (modify (fun (s : State) =>
    let n := s.fabricClock + 1
    { s with
      fabricClock := n,
      flits := if n % 8 = 0 then s.flits.map (fun (f : Flit) => { f with age := min 1023 (f.age + 1) }) else s.flits })) s

/-- INJRATE_WINDOW (R340): a new window of 64 fabric cycles. -/
def execInjrateWindow (s : State) : Out :=
  event (do
    need ((← get).fabricClock % 64 == 0)
    modify (fun (s : State) => { s with towers := s.towers.map (fun (k, (t : Tower)) => (k, { t with injected := [] })) })) s

/-- Does a flit carry a request? -/
def Flit.carries (f : Flit) (r : FlitReq) : Bool := f.plane == r.plane && f.src == r.src && f.dst == r.dst && f.req == r.req

/-- REQUEST_RESEND (R339, R406): the router that holds a request's copy finds its header bad, discards it and posts the error, which
the link segment it came over logs; the source sends the request again, an injection as any other (FLIT_ROUTE). -/
def execRequestResend (req : FlitReq) (s : State) : Out :=
  event (do
    let s ← get
    match s.flits.find? (fun f => f.carries req) with
    | none => idle
    | some f =>
      let seg := (min f.came f.pos, max f.came f.pos)
      let recent := s.hdrErrors.filter (fun e => decide (s.fabricClock ≤ e.2.2 + 2 ^ 20))
      set ({ s with flits := s.flits.erase f, hdrErrors := recent ++ [(s.planeOf f.plane, seg, s.fabricClock)] }.logError
        0x7E (unitAt f.pos) 0 (nw req.req))) s

/-- PLANE_FAIL (R406): a plane of which a link segment has logged 16 header errors is disabled and posted; with a second one every
launch stops with MCHECK, posted too. -/
def execPlaneFail (plane : Nat) (s : State) : Out :=
  event (do
    let s ← get
    need (decide (plane < 4) && !s.dev.planesOff.getLsbD plane && s.planeDue plane)
    let second := s.dev.planesOff != 0
    modify (fun (s : State) =>
      ({ s with dev := { s.dev with planesOff := s.dev.planesOff ||| (1#4 <<< plane) } }).logError 0x6D 16 0 (nw plane))
    if second then do
      modify (fun s => s.logError 0x70 16 0 (nw plane))
      stopAll 0x70
    else pure ()) s

/-! ## Links (R343, R346, R391, R407) -/

/-- The target of a bridge frame an agent's address names and the address there, if it does. -/
def State.bridgeOf (s : State) (a : Agent) (va : Nat) : Option (Nat × Nat) :=
  match translate s { id := a.id, kind := a.kind, asid := a.asid, user := a.user } .probe (nw va) with
  | .ok pl => (match pl.cls with
    | .bridge t at_ => some (t, at_)
    | _ => none)
  | .error _ => none

/-- Does the next instruction of the current agent access the address, at an element or whole? A sequencer's accesses are not asked
(log entry 36). -/
def State.accesses (s : State) (va : Nat) : Bool :=
  if s.cur.kind ≠ .thread then true
  else match s.upcoming with
    | none => false
    | some i => s.scalarAccess i == some (nw va) ||
      (match s.vecAccess i with
        | none => false
        | some (f, p, _) => (s.actives p).any (fun k => f k == nw va))

/-- The oldest load in an agent's queue that waits for a line in a bridge frame of the link, at its lowest element not delivered
(R346). -/
def State.linkLoad (s : State) (a : Agent) (link : Nat) : Option (Nat × Checkpoint × Awaited) :=
  a.vqueue.zipIdx.findSome? (fun (t, i) =>
    match t.snap, t.awaits.find? (fun e => (s.bridgeOf a e.va).any (fun b => b.1 == link)) with
    | some c, some e => some (i, c, e)
    | _, _ => none)

/-- A load in an agent's queue ends with REMOTE_LINK: what it has been delivered is committed (R346, R391). -/
def State.endLoad (s : State) (id link : Nat) (x : Nat × Checkpoint × Awaited) : State :=
  let t := s.focus id
  match lateStop 0x61 0 (nw x.2.2.va) (nw link) x.2.1.stream 0 with
  | .trap y => (settle (.hint 0) (undoLoad x.1 x.2.1 x.2.2.elem y) t).focus s.cur.id
  | _ => s

/-- The oldest store of an agent in flight over the link, and its place among those in flight (R346). -/
def State.linkStore (s : State) (a : Agent) (link : Nat) : Option (Nat × Unacked) :=
  if (a.status == .running || (a.status matches .waiting ..)) && a.kind != .sweep then
    a.unacked.zipIdx.findSome? (fun (u, i) =>
      if u.bytes.any (fun b => b.1 == link && s.sent.any (fun w => w.agent == a.id && w.tgt == b.1 && w.addr == b.2)) then some (i, u) else none)
  else none

/-- Where a store over the link has not arrived: of a vector form with elements the lowest active one with a byte still under way, else its
address, or the lowest one written (R346, R391). -/
def State.lostAt (s : State) (link : Nat) (u : Unacked) : Nat × Word :=
  let live := s.sent.filter (fun w => w.agent == s.cur.id && w.tgt == link && u.bytes.contains (w.tgt, w.addr))
  let first : Nat := live.foldl (fun n w => min n w.va) ((live.head?.map (fun w => w.va)).getD 0)
  match s.vecAccess u.instr with
  | some (f, p, _) =>
    match (s.actives p).find? (fun k => (s.bridgeOf s.cur (f k).toNat).any (fun b => live.any (fun w => w.tgt == b.1 && w.addr == b.2))) with
    | some k => (k, f k)
    | none => (0, nw first)
  | none => (0, (s.scalarAccess u.instr).getD (nw first))

/-- A store of an agent in flight over the link ends with REMOTE_LINK, in doubt: the agent is back at it, older stores stay in flight, and
what came after it is done again (R346, R391). -/
def State.endStore (s : State) (id link : Nat) (x : Nat × Unacked) : State :=
  let t := s.focus id
  let u := x.2
  let back (k : Nat) : State := { t with cur := { t.cur.rollBack u.snap k [] with unacked := t.cur.unacked.take x.1 } }
  let major := (wordOf u.instr).toNat / 2 ^ 26
  let vec : Bool := decide (0x1A ≤ major ∧ major ≤ 0x26)
  let start := wbits u.snap.regs.vstart 10 0
  let (k, va) := (back start).lostAt link u
  match lateStop 0x61 0 va (nw (link + 256)) u.snap.stream 0 with
  | .trap y => (settle u.instr (throw (.trap { y with vec := vec })) (back (if vec then k else start))).focus s.cur.id
  | _ => s

/-- What a link that goes down ends of an agent: its oldest load in the queue over it, or its oldest store in flight, whichever came first
(R346). -/
def State.endOver (s : State) (id link : Nat) : State :=
  match s.agent? id with
  | none => s
  | some a =>
    match s.linkLoad a link, s.linkStore a link with
    | none, none => s
    | some l, none => s.endLoad id link l
    | none, some u => s.endStore id link u
    | some l, some u => if l.2.1.issued ≤ u.2.snap.issued then s.endLoad id link l else s.endStore id link u

/-- The commands with a write in flight over the link stop with REMOTE_LINK at its address (R346, R391). -/
def State.hitCmds (s : State) (link : Nat) : State :=
  { s with cmds := s.cmds.map (fun (c : Cmd) =>
      let mine := s.sent.filter (fun w => w.tgt == link && (w.agent == cmdAgent c.id ||
        (decide (8192 ≤ w.agent) && (s.core (w.agent - 8192)).sweep == some c.id)))
      match mine.map (fun w => w.va) with
      | [] => c
      | v :: vs => { c with hit := some (0x61, vs.foldl min v) }) }

/-- The access in flight of an agent's next instruction ends with REMOTE_LINK: the agent traps there (R346, R391). -/
def State.endAccess (s : State) (h : LinkHit) (link : Nat) : State :=
  match s.agent? h.ag with
  | none => s
  | some a => if (s.focus h.ag).accesses h.va
      then s.putAgent { a with linkHit := some (a.pc, h.va, nw (link + if h.doubt then 256 else 0)) } else s

/-- LINK_DOWN (R343, R346, R391, R407): the accesses in flight over it end with REMOTE_LINK: the loads in the queues, the stores not
acknowledged, of agents and of commands, and the accesses of the agents named, each with whether a write of it is in doubt. Whether what was
sent has been performed stays open, and it is not acknowledged any more. -/
def execLinkDown (link : Nat) (hit : List LinkHit) (s : State) : Out :=
  event (do
    let s ← get
    need (decide (link < 16) && s.dev.linkstat.getLsbD link)
    let ids := (s.agents.filter (fun a => (s.linkLoad a link).isSome || (s.linkStore a link).isSome)).map (fun a => a.id)
    let hit := hit.filter (fun h => (s.agent? h.ag).any (fun a => (s.bridgeOf a h.va).any (fun e => e.1 == link)) && !ids.contains h.ag)
    modify (fun s => (ids.foldl (fun (s : State) id => s.endOver id link) s).hitCmds link)
    modify (fun s => s.dropSent (s.sent.filter (fun w => w.tgt == link)))
    modify (fun (s : State) => hit.foldl (fun s h => s.endAccess h link) s)
    modify (fun (s : State) =>
      ({ s with dev := { s.dev with linkstat := s.dev.linkstat &&& ~~~(1#64 <<< link) } }).logError 0x61 (16 + link / 8)
        (nw link) 0)) s

/-- LINK_UP (R343, R407): the link is trained and has a peer. -/
def execLinkUp (link : Nat) (s : State) : Out :=
  event (do
    need (decide (link < 16))
    modDev (fun d => { d with linkstat := d.linkstat ||| (1#64 <<< link) })) s

end Sys2Proof.Machine
end

