-- ==== Sys2Proof/Machine/HostPort.lean ====
section
/-! DEFINITION. The host and peers (R14, R193, R325, R343–R349, R354, R362, R365, R400, R402, R405, R407): inbound writes,
BAR0 registers, host errors, attestation. Functions: 0 the physical one, v + 1 virtual function v (log entry 42). -/

namespace Sys2Proof.Machine

/-! ## Inbound writes (R346, R347, R403) -/

/-- The number under which an I/O die publishes: it lies in no cluster and on no tower (R236). -/
def offTower : Nat := 2 ^ 20

/-- An entry published at .dev for the physical range of an inbound write (R241, R346). -/
def State.publishInbound (s : State) (base len : Nat) : State :=
  s.publish 0 2 [{ cover := .physical base len, home := true, scope := 2, cluster := offTower, asid := 0, epoch := 0 }]

/-- Is a physical address's byte writable from outside: DRAM of a standing tower outside staging and bridge frames, its
line not marked (log entry 43)? -/
def State.inboundOk (s : State) (pa : Nat) : Bool :=
  match dramTower pa with
  | none => false
  | some k => s.towerUp k && !s.inStaging pa && (s.bridge? pa).isNone && !isMarked s (pa / 64)

/-- The bytes of an inbound write that land in bridge frames go on to their targets (R345). -/
def State.forwardInbound (s : State) (pa : Nat) (data : List Byte) : State :=
  { s with sent := s.sent ++ data.zipIdx.filterMap (fun (x, i) =>
      (s.bridge? (pa + i)).map (fun (t, a) => { agent := noAgent, tgt := t, addr := a, byte := x })) }

/-- The bytes of an inbound write performed at their homes; a whole line written clears its poison (R403). -/
def State.writeInbound (s : State) (pa : Nat) (data : List Byte) : State :=
  let m := data.zipIdx.foldl (fun m (x, i) => if s.inboundOk (pa + i) then memPut m (pa + i) x else m) s.mem
  let whole (l : Nat) : Bool := decide (pa ≤ 64 * l ∧ 64 * l + 64 ≤ pa + data.length) && s.inboundOk (64 * l)
  { s.cleanUnits whole with mem := m }.publishInbound pa data.length

/-- Where an access of a function through its BAR2 lands: a virtual function's must lie in its slice and be enabled
(R347). -/
def State.bar2 (s : State) (fn off len : Nat) : Option Nat :=
  if fn = 0 then (if off + len ≤ 2 ^ 43 then some off else none)
  else if (kvGet 0 s.dev.vfcfg fn).getLsbD 0 ∧ off + len ≤ 2 ^ 32 then some (s.slice fn + off) else none

/-- A virtual function's access outside its slice is posted (R347, R350, R405). -/
def State.sliceError (s : State) (fn off : Nat) : State := s.logError 0x6C 16 (nw off) (nw fn)

/-- INBOUND_WRITE (R346, R347): from a host function, or from link port src − 256, in arrival order. -/
def execInboundWrite (src pa : Nat) (data : List Byte) (s : State) : Out :=
  event (modify (fun s =>
    if 256 ≤ src then (if pa + data.length ≤ 2 ^ 43 then (s.writeInbound pa data).forwardInbound pa data else s)
    else match s.bar2 src pa data.length with
      | some a => (s.writeInbound a data).forwardInbound a data
      | none => if src = 0 then s else s.sliceError src pa)) s

/-! ## BAR0 as the host reads it -/

/-- BOOTSTAT (R14). -/
def Device.bootstat (d : Device) : Nat :=
  d.phase % 256 * 2 ^ 24 + d.failphase % 256 * 2 ^ 16 + d.towerok.toNat * 16 + d.granaryok.toNat

/-- The state of a bus in the bandwidth map (R400): 0 for 2:1, 1 for 4:1, 2 for failed. -/
def busState (wires : Nat) : Nat := if 32 ≤ wires then 0 else if 16 ≤ wires then 1 else 2

/-- Byte `n` of a tower's bandwidth map (R400). -/
def Tower.mapByte (t : Tower) (n : Nat) : Nat :=
  (List.range 4).foldl (fun x i => x + 4 ^ i * busState (t.wires (4 * n + i))) 0

/-- Has bring-up written the bandwidth maps, in phase 0x03 (R15, R400)? -/
def Device.mapWritten (d : Device) : Bool := decide (3 ≤ if d.phase = 0xFF then d.failphase else d.phase)

/-- VBUSSUM once the map is written (R400); a count that its field of 12 bits does not hold reads as the greatest it holds (DESIGN CHOICE:
log entry 80). -/
def Tower.vbussum (t : Tower) : Nat :=
  let failed := (t.buses.filter (fun e => busState e.2.wires == 2)).length
  let slow := (t.buses.filter (fun e => busState e.2.wires == 1)).length
  min failed 4095 * 2 ^ 36 + min slow 4095 * 2 ^ 24 + ((4096 - failed - slow) * 1000 + slow * 500)

/-- The aperture register at reset: no target (R344). -/
def aperReset : BitVec 128 := (0xFF : BitVec 128) <<< 56

/-- The byte at an offset of the physical function's BAR0; what no rule names reads as 0. The identity key of R15 reads the same
before phase 0x01 has loaded it and after a failed one (DESIGN CHOICE: log entry 67). -/
def State.bar0 (s : State) (off : Nat) : Nat :=
  let d := s.dev
  let byte (x o : Nat) : Nat := x / 256 ^ o % 256
  if off < 0x4 then byte d.bootstat off
  else if 0x8 ≤ off ∧ off < 0x10 then byte d.astbase.toNat (off - 0x8)
  else if 0x10 ≤ off ∧ off < 0x18 then byte d.ctxbase.toNat (off - 0x10)
  else if 0x18 ≤ off ∧ off < 0x20 then byte d.vecbase.toNat (off - 0x18)
  else if 0x20 ≤ off ∧ off < 0x28 then byte d.fltbase.toNat (off - 0x20)
  else if 0x30 ≤ off ∧ off < 0x38 then byte d.errbase.toNat (off - 0x30)
  else if 0x38 ≤ off ∧ off < 0x40 then byte d.errhead.toNat (off - 0x38)
  else if 0x80 ≤ off ∧ off < 0x88 then byte d.linkstat.toNat (off - 0x80)
  else if 0x100 ≤ off ∧ off < 0x200 then byte (kvGet aperReset d.apers ((off - 0x100) / 16)).toNat ((off - 0x100) % 16)
  else if 0x200 ≤ off ∧ off < 0x220 then byte d.nonce.toNat (off - 0x200)
  else if 0x220 ≤ off ∧ off < 0x228 then byte (if d.attctl then 1 else 0) (off - 0x220)
  else if 0x240 ≤ off ∧ off < 0x2E0 then byte d.report.toNat (off - 0x240)
  else if 0x300 ≤ off ∧ off < 0x340 then byte Config.identityKey.toNat (off - 0x300)
  else if 0x400 ≤ off ∧ off < 0x800 then byte (kvGet 0 d.vfcfg ((off - 0x400) / 8 + 1)).toNat ((off - 0x400) % 8)
  else if 0x800 ≤ off ∧ off < 0x860 then (if d.mapWritten then byte (s.tower ((off - 0x800) / 8)).vbussum ((off - 0x800) % 8) else 0)
  else if 0x880 ≤ off ∧ off < 0x8E0 then byte (s.tower ((off - 0x880) / 8)).cecount.toNat ((off - 0x880) % 8)
  else if 0x10000 ≤ off ∧ off < 0x13000 then (s.tower ((off - 0x10000) / 1024)).mapByte ((off - 0x10000) % 1024)
  else 0

/-- What a host read of BAR2 returns: the home values (R347), and in a bridge frame what the target returns (R345). -/
def State.hostBytes (s : State) (fn off len : Nat) : Option (List Byte) :=
  (s.bar2 fn off len).map (fun a => (List.range len).map (fun i =>
    match s.bridge? (a + i) with
    | some (_, at_) => Config.peerByte s.fresh at_
    | none => memByte s.mem (a + i)))

/-- HOST_READ (R347): it changes nothing, but for the record of an access outside a virtual function's slice, and for an error it meets in
what it reads (R402). -/
def execHostRead (fn off len : Nat) (s : State) : Out :=
  event (modify (fun s => match s.bar2 fn off len with
    | none => if fn ≠ 0 then s.sliceError fn off else s
    | some a => if len = 0 then s else s.findLines a len)) s

/-! ## BAR0 as the host writes it -/

/-- The bits `[hi:lo]` of a word, the others 0. -/
def keepBits (x : Word) (hi lo : Nat) : Word := nw (wbits x hi lo * 2 ^ lo)

/-- REGISTER_WRITE (R193, R325, R349, R354, R362, R405): the RW fields of the register; others are read-only, and
ASTBASE, of which R193 gives no field map, keeps bits [42:12] alone (DESIGN CHOICE: log entry 69). -/
def execRegisterWrite (off : Nat) (v : Word) (s : State) : Out :=
  event (modDev (fun d =>
    if off = 0x8 then { d with astbase := keepBits v 42 12 }
    else if off = 0x10 then { d with ctxbase := keepBits v 42 16 }
    else if off = 0x18 then { d with vecbase := keepBits v 55 9 }
    else if off = 0x20 then { d with fltbase := keepBits v 42 12 }
    else if off = 0x30 then { d with errbase := keepBits v 42 17 }
    else if 0x200 ≤ off ∧ off < 0x220 ∧ off % 8 = 0 then { d with nonce := putField d.nonce (8 * (off - 0x200)) 64 v.toNat }
    else d)) s

/-- Do two ranges of bytes meet? -/
def rangesMeet (a n b m : Nat) : Bool := decide (a < b + m ∧ b < a + n)

/-- Does a local range of DRAM lie in one tower outside its staging range (R344, R347)? -/
def State.plainDram (s : State) (base len : Nat) : Bool :=
  len == 0 || (match dramTower base, dramTower (base + len - 1) with
    | some j, some k => j == k && !s.inStaging (base + len - 1)
    | _, _ => false)

/-- Does a range meet an enabled aperture other than `n`? -/
def State.meetsAperture (s : State) (n base len : Nat) : Bool :=
  s.dev.apers.any (fun e => e.1 != n && e.2.getLsbD 0 &&
    rangesMeet base len (field e.2 30 13 * 2 ^ 30) (field e.2 48 8 * 2 ^ 30))

/-- APER (R344): a write that breaks a condition leaves the register as it was. -/
def execAper (n : Nat) (v : BitVec 128) (s : State) : Out :=
  event (do
    let s ← get
    let base := field v 30 13 * 2 ^ 30
    let len := field v 48 8 * 2 ^ 30
    need (decide (n < 16) && s.plainDram base len && !s.meetsAperture n base len && field v 64 30 == 0)
    let x : BitVec 128 := BitVec.ofNat 128 (v.toNat % 2 + field v 30 13 * 2 ^ 30 + field v 48 16 * 2 ^ 48 + field v 64 64 * 2 ^ 64)
    modDev (fun d => { d with apers := kvSet d.apers n x })) s

/-- VFCFG (R347, R348): a slice outside plain DRAM is rejected; once the device is ready the function's dispatcher starts
or stops with its enable. -/
def execVfcfg (fn : Nat) (v : Word) (s : State) : Out :=
  event (do
    let s ← get
    let base := wbits v 42 32 * 2 ^ 32
    need (decide (1 ≤ fn ∧ fn ≤ 128) && s.plainDram base (2 ^ 32) && !s.meetsAperture 16 base (2 ^ 32))
    let x : Word := keepBits v 63 48 ||| keepBits v 42 32 ||| keepBits v 0 0
    modDev (fun d => { d with vfcfg := kvSet d.vfcfg fn x })
    modify (fun s =>
      if s.dev.phase ≠ 7 then s
      else if s.vfEnabled fn then (if (s.agent? (7000 + fn)).isSome then s else s.putAgent (s.dispatcherAt fn))
      else s.dropAgent (7000 + fn))) s

/-- KILL (R365): the launch named in bits [13:0] stops with LAUNCH_KILL. -/
def execKill (v : Word) (s : State) : Out :=
  event (do
    let l := wbits v 13 0
    need (kvHas (← get).launches l)
    stopLaunch l 0x6B) s

/-- ATTCTL (R349): a write of 1 starts a report, unless one is being built. -/
def execAttctl (v : Word) (s : State) : Out :=
  event (modDev (fun d => if d.attctl = false ∧ v = 1 then { d with attctl := true } else d)) s

/-- The signed part of a report (R349): digest, nonce, BOOTSTAT, 28 zero bytes. -/
def Device.attested (d : Device) : BitVec 768 :=
  BitVec.ofNat 768 (Config.firmwareDigest.toNat + d.nonce.toNat * 2 ^ 256 + d.bootstat * 2 ^ 512)

/-- ATTESTATION_REPORT_READY (R349). -/
def execAttestationReportReady (s : State) : Out :=
  event (do
    need (← get).dev.attctl
    modDev (fun d => { d with
      attctl := false, report := BitVec.ofNat 1280 (d.attested.toNat + (Config.sign d.attested).toNat * 2 ^ 768) })) s

/-! ## Errors of host accesses (R407) -/

/-- The cause of a host error (R367, R407). -/
def hostCause : HostError → Nat
  | .missing => 0x64
  | .unsupported => 0x65
  | .aborted => 0x66
  | .poisoned => 0x63
  | .releaseUnacked => 0x6F
  | .marked => 0x12

/-- The scope of the release that an instruction makes, if it makes one (R237). -/
def releaseScope : Instr → Option Nat
  | .amoswap _ _ _ _ r k _ | .amoadd _ _ _ _ r k _ | .amoand _ _ _ _ r k _ | .amoor _ _ _ _ r k _ | .amoxor _ _ _ _ r k _
  | .amomin _ _ _ _ r k _ | .amomax _ _ _ _ r k _ | .amocas _ _ _ _ r k _ | .ticket _ _ _ _ r k _ | .waita _ _ _ _ r k _
  | .fence _ _ _ r k | .barrier _ _ r k | .cwait _ _ _ _ r k | .cwake _ _ _ _ r k => if r then some k.toNat else none
  | _ => none

/-- HOST_TIMEOUT (R407): an access of an agent to the host, or for poisoned data also to a peer, is to end in error, a late trap of
the next read there; a .sys release that waits for its bridged writes traps with SYS_RELEASE. An access that reaches a marked line
at a peer faults with ADDR_BAD and the peer's physical address (R345). -/
def execHostTimeout (ag va : Nat) (kind : HostError) (s : State) : Out :=
  event (do
    let s ← get
    match s.agent? ag with
    | none => idle
    | some a =>
      if kind = .releaseUnacked then do
        let t := s.focus ag
        need (a.status == .running && t.upcoming.bind releaseScope == some 3 && s.sent.any (fun w => w.agent == ag))
        set ((settle t.nextInstr (trap 0x6F) t).focus s.cur.id)
      else
        match translate s { id := a.id, kind := a.kind, asid := a.asid, user := a.user } .probe (nw va) with
        | .ok { cls := .bridge t at_, loc := loc } => do
          need (if kind = .marked then decide (t < 16) else s.errorFits (hostCause kind) { loc := loc, cls := .bridge t at_ })
          set (s.addLatent { unit := errorUnit loc, cause := hostCause kind, val2 := if kind = .marked then nw at_ else 0 })
        | _ => idle) s

end Sys2Proof.Machine
end

