-- ==== Sys2Proof/Machine/Physical.lean ====
section
/-! DEFINITION. Faults of the hardware beneath the programs (R295, R382, R399–R408): buses, errors, lost towers and
stacks. -/

namespace Sys2Proof.Machine

/-! ## Vertical buses (R399–R401) -/

/-- The bus `n` of a tower. -/
def Tower.bus (t : Tower) (n : Nat) : Bus := kvGet { wires := 36, retraining := false } t.buses n

/-- A bus of a tower replaced. -/
def setBus (k n : Nat) (b : Bus) : Exec Unit := modTower k (fun t => { t with buses := kvSet t.buses n b })

/-- BUS_RETRAIN (R399): the partner carries its traffic meanwhile. -/
def execBusRetrain (tower bus : Nat) (s : State) : Out :=
  event (do
    let b := ((← get).tower tower).bus bus
    need (decide (tower < 12 ∧ bus < 4096) && !b.retraining)
    setBus tower bus { b with retraining := true }) s

/-! ## A lost tower (R381, R408) -/

/-- Does a launch hold clusters of a tower? By its place alone: a thread that R326 has moved to another tower does not count
(R16, R408; DESIGN CHOICE: log entry 58). -/
def Launch.onTower (l : Launch) (k : Nat) : Bool := l.place.any (fun p => p.cluster / 32 == k)

/-- The launches with clusters on a tower stop with a cause (R408). -/
def stopTower (k cause : Nat) : Exec Unit := do
  each (((← get).launches.filter (fun e => e.2.onTower k)).map (fun e => e.1)) (fun l => do
    if kvHas (← get).launches l then stopLaunch l cause else pure ())

/-- The queued commands of an engine are over with ENGINE_LOST in their issuers (R359, R381, R392, R408). -/
def loseCommands (p : Cmd → Bool) : Exec Unit := do
  each ((← get).cmds.filter p) (fun c => finishCmd c c.reportAt (some (0x5F, 0)))

/-- What a tower loses with its commands: the hosts of sweeps end (R304, R408). -/
def State.endHosts (s : State) (k : Nat) : State :=
  (s.cores.filter (fun e => e.1 / 128 == k && e.2.sweep.isSome)).foldl (fun (s : State) e => s.endHost e.1) s

/-- The tower's bit is cleared, its launches stop, its queued commands are discarded, the dispatchers, if it was theirs, start on the
lowest tower that stands (R348, R408), also where none is left (DESIGN CHOICE: log entry 58). -/
def loseTower (k : Nat) : Exec Unit := do
  let home := placeTower (← get).dev.towerok 7000
  stopTower k 0x7F
  modDev (fun d => { d with towerok := d.towerok &&& ~~~(1#12 <<< k) })
  loseCommands (fun c => c.engine != 4 && c.unit == k)
  modify (fun s => (s.endHosts k).logError 0x7F k 0 (nw k))
  if home = k then modify State.startDispatchers else pure ()

/-- TOWER_LOST (R408). -/
def execTowerLost (tower : Nat) (s : State) : Out :=
  event (do
    let s ← get
    need (decide (tower < 12) && s.towerUp tower && s.dev.phase == 7)
    loseTower tower) s

/-- BUS_RETRAIN_DONE (R399, R400, R405): the map takes the new state; the entry's cause is VBUS_FAIL where the bus has
failed, else 0x00, none, for no defined cause names a retrain (R367; DEDUCED: log entry 5); a tower with both buses of a pair failed is lost, or, while bring-up runs, fails (R399). -/
def execBusRetrainDone (tower bus wires : Nat) (s : State) : Out :=
  event (do
    let s ← get
    need (decide (tower < 12 ∧ bus < 4096 ∧ wires ≤ 36) && ((s.tower tower).bus bus).retraining)
    setBus tower bus { wires := wires, retraining := false }
    modify (fun s => s.logError (if busFailed wires then 0x7D else 0) tower (nw bus) (nw (busState wires)))
    let s ← get
    if (s.tower tower).pairLost && s.towerUp tower then
      if s.dev.phase = 7 then loseTower tower
      else modDev (fun d => { d with towerok := d.towerok &&& ~~~(1#12 <<< tower) })) s

/-- BUS_TEST (R401): a test changes no data; one that fails leads to a retrain. -/
def execBusTest (tower bus : Nat) (pass : Bool) (s : State) : Out :=
  if pass then .next s else execBusRetrain tower bus s

/-! ## Errors (R402, R405, R408) -/

/-- PATROL_SCRUB (R402): a corrected line counts; an uncorrectable one is poisoned and posted. -/
def execPatrolScrub (line : Nat) (found : ScrubFound) (s : State) : Out :=
  event (do
    match dramTower (64 * line) with
    | none => idle
    | some k =>
      match found with
      | .clean => pure ()
      | .corrected => countCorrected k
      | .uncorrectable => modify (fun s =>
          { s with
            poison := if s.poison.contains line then s.poison else line :: s.poison,
            latent := s.latent.filter (fun e => e.unit != line || e.cause != 0x71) }.logError 0x71 k (nw (64 * line)) 0)) s

/-- MCHECK (R405, R408). -/
def execMcheck (tower : Nat) (s : State) : Out :=
  event (do
    need (decide (tower < 12))
    modify (fun s => s.logError 0x70 tower 0 (nw tower))
    stopTower tower 0x70) s

/-- GRANARY_STACK_FAILED (R381, R382): its bit is cleared and its queued commands are over. -/
def execGranaryStackFailed (stack : Nat) (s : State) : Out :=
  event (do
    let s ← get
    need (decide (stack < 4) && s.dev.granaryok.getLsbD stack)
    modDev (fun d => { d with granaryok := d.granaryok &&& ~~~(1#4 <<< stack) })
    loseCommands (fun c => c.engine == 4 && c.unit == stack)) s

end Sys2Proof.Machine
end

