-- ==== Sys2Proof/Machine/ScalarFloat.lean ====
section
/-! DEFINITION. Scalar floating point, major 0x0C (R135–R137). -/

namespace Sys2Proof.Machine

/-- The format of the scalar fmt field (R75). -/
def scalarFmt (fmt : BitVec 2) : Fmt :=
  match fmt.toNat with | 0 => 6 | 1 => 5 | 2 => 7 | _ => 8

/-- A scalar operand in format f: its low bits, flushed under fz (R136, R92). -/
def scalarOperand (f : Fmt) (fz : Bool) (x : Word) : Val := decodeFloat f (flushIn f fz (x.toNat % 2 ^ f.bits))

/-- A scalar result: written zero-extended, its events in FFLAGS only (R136, R107). -/
def State.putScalar (s : State) (d : Reg) (r : Nat × Events) : State := (s.raise r.2).setG d (nw r.1)

/-- A scalar floating-point operation (R136). -/
def fop (i : Instr) (d a b : Reg) (fmt rm : BitVec 2) (f : Fmt → Rnd → Val → Val → Val → Nat × Events) (s : State) : Out :=
  plain .threadOnly i (fun s =>
    let x := scalarFmt fmt; let r := s.rnd rm 0
    s.putScalar d (f x r (scalarOperand x r.fz (s.g a)) (scalarOperand x r.fz (s.g b)) (scalarOperand x r.fz (s.g d)))) s

/-- fadd (R136). -/
def execFadd (d a b : Reg) (fmt rm : BitVec 2) (s : State) : Out :=
  fop (.fadd d a b fmt rm) d a b fmt rm (fun f r x y _ => fAdd f r x y) s
/-- fsub (R136). -/
def execFsub (d a b : Reg) (fmt rm : BitVec 2) (s : State) : Out :=
  fop (.fsub d a b fmt rm) d a b fmt rm (fun f r x y _ => fSub f r x y) s
/-- fmul (R136). -/
def execFmul (d a b : Reg) (fmt rm : BitVec 2) (s : State) : Out :=
  fop (.fmul d a b fmt rm) d a b fmt rm (fun f r x y _ => fMul f r x y) s
/-- fmadd: gd + ga × gb, rounded once (R136). -/
def execFmadd (d a b : Reg) (fmt rm : BitVec 2) (s : State) : Out :=
  fop (.fmadd d a b fmt rm) d a b fmt rm (fun f r x y z => fMulAdd f r x y z) s

/-- The order test of flt: NaN gives false and NV (R136). -/
def fltTest (x y : Val) : Nat × Events :=
  if x.isNan || y.isNan then (0, evNV) else (if cmpVal x y < 0 then 1 else 0, 0)

/-- flt (R136). -/
def execFlt (d a b : Reg) (fmt : BitVec 2) (s : State) : Out :=
  fop (.flt d a b fmt) d a b fmt 0 (fun _ _ x y _ => fltTest x y) s

/-- A conversion of the value in a register between a scalar format and format x (R137): `src` to `dst`. An integer result
is written sign-extended. -/
def convertScalar (src dst : Fmt) (r : Rnd) (x : Word) : Word × Events :=
  let v := if src.isInt then intVal (decodeInt src (x.toNat % 2 ^ src.bits)) else scalarOperand src r.fz x
  if dst.isInt then
    let (b, e) := valToInt dst r v
    (toWord (decodeInt dst b), e)
  else
    let (b, e) := roundVal dst r v
    (nw b, e)

/-- fcvt (R137): `dir` false converts from fsrc into fmt, true from fmt into fsrc. -/
def execFcvt (d a : Reg) (dir : Bool) (fsrc : BitVec 4) (fmt rm : BitVec 2) (s : State) : Out :=
  plain .threadOnly (.fcvt d a dir fsrc fmt rm) (fun s =>
    let f := scalarFmt fmt; let x : Fmt := fsrc.toNat
    let (w, e) := convertScalar (if dir then f else x) (if dir then x else f) (s.rnd rm 0) (s.g a)
    (s.raise e).setG d w) s

end Sys2Proof.Machine
end

