-- ==== Sys2Proof/Machine/Sparse.lean ====
section
/-! DEFINITION. Sparse registers, bitmap loads and append queues, major 0x26 (R128, R268–R273, R379). -/

namespace Sys2Proof.Machine

/-- The register of a sparse register's coordinates, and that of its values (R128). -/
def coordReg (k : BitVec 3) : Reg := BitVec.ofNat 5 (16 + 2 * k.toNat)
def valueReg (k : BitVec 3) : Reg := BitVec.ofNat 5 (17 + 2 * k.toNat)

/-- SLENk (R128). -/
def Regs.slenOf (r : Regs) (k : BitVec 3) : Word := r.slen[k.toNat]'k.isLt
def Regs.setSlen (r : Regs) (k : BitVec 3) (x : Word) : Regs := { r with slen := r.slen.set k.toNat x k.isLt }
/-- The number of pairs of a sparse source. -/
def State.sparseLen (s : State) (k : BitVec 3) : Nat := wbits (s.regs.slenOf k) 10 0
/-- The capacity of a sparse register of a value format (R268). -/
def sparseCap (f : Fmt) : Nat := min 128 (capacity f)
/-- Coordinate `i` of a sparse source, as an unsigned 32-bit value. -/
def State.coord (s : State) (k : BitVec 3) (i : Nat) : Nat := s.elem (coordReg k).toNat i % 2 ^ 32

/-- The index of the first pair that does not rise above its predecessor, or the capacity where the length exceeds it
(R268, R379). -/
def State.sparseBad (s : State) (k : BitVec 3) (cap : Nat) : Option Nat :=
  let len := s.sparseLen k
  match (List.range (min len cap)).find? (fun i => 1 ≤ i && s.coord k i ≤ s.coord k (i - 1)) with
  | some i => some i
  | none => if cap < len then some cap else none

/-- SPARSE_ORDER for a bad source (R268). -/
def checkSparse (k : BitVec 3) (cap : Nat) : Exec Unit := do
  match (← get).sparseBad k cap with
  | none => pure ()
  | some i => trap 0x47 none (nw (65536 * k.toNat + i))

/-- The source groups of a sparse register (R112). -/
def checkSparseRegs (k : BitVec 3) : Exec Unit := do
  checkSource (coordReg k)
  checkSource (valueReg k)

/-- The format of a sparse operation: values of a block format have none (R268, R279). -/
def sparseFmt (ks : List (BitVec 3)) : Exec Fmt := do
  let s ← get
  let f := s.opFmt (ks.map valueReg)
  if ks.any (fun k => (tagFmt (s.tag (valueReg k))).isBlock) then
    match ks with
    | [a] => mismatch (some (valueReg a)) none none
    | a :: b :: _ => mismatch (some (valueReg a)) (some (valueReg b)) none
    | [] => mismatch none none none
  else return f

/-- A sparse destination written: pairs, both descriptors, and SLEN (R128, R268). -/
def writeSparse (k : BitVec 3) (f : Fmt) (pairs : List (Nat × Nat)) (next : Option Nat) : Exec Unit := do
  let n := pairs.length
  let c := (coordReg k).toNat; let v := (valueReg k).toNat
  takeRowsTwo c 3 1 v f 1 0 n
  writeGroup c 3 1 0 n (pairs.zipIdx.map (fun (p, i) => (i, p.1)))
  writeGroup v f 1 0 n (pairs.zipIdx.map (fun (p, i) => (i, p.2)))
  modRegs (fun r => r.setSlen k (nw (n + match next with | none => 0 | some x => 2 ^ 31 + 2 ^ 32 * x)))
  setVstart 0

/-! ## Union, intersection, dot product (R269, R270) -/

/-- A value present on one side only, rounded into the result format (R269). -/
def State.oneSide (s : State) (f : Fmt) (r : Rnd) (v i : Nat) : Nat × Events :=
  if f.isFloat then
    let (x, e) := s.operand v i r
    let (w, e') := roundVal f r x
    (w, e ||| e')
  else (s.bitsIn v i f, 0)

/-- The value of a coordinate both sources hold. -/
def State.both (s : State) (f : Fmt) (r : Rnd) (mul : Bool) (a b i j : Nat) : Nat × Events :=
  if f.isInt then
    let x := s.intOperand a i; let y := s.intOperand b j
    (intBits f (if mul then x * y else x + y), 0)
  else
    let (x, e1) := s.operand a i r
    let (y, e2) := s.operand b j r
    let (w, e3) := if mul then fMul f r x y else fAdd f r x y
    (w, e1 ||| e2 ||| e3)

/-- The merge of R269: pairs with their events, and the coordinate a truncation leaves out. `fuel` bounds the coordinates. -/
def State.sparseMerge (s : State) (f : Fmt) (rnd : Nat → Rnd) (mul : Bool) (a b : BitVec 3) (cap : Nat) :
    Nat → Nat → Nat → List (Nat × Nat × Events) → List (Nat × Nat × Events) × Option Nat
  | 0, _, _, acc => (acc.reverse, none)
  | fuel + 1, i, j, acc =>
    let la := s.sparseLen a; let lb := s.sparseLen b
    let inA := i < la; let inB := j < lb
    if ¬inA ∧ ¬inB then (acc.reverse, none)
    else
      let ca := s.coord a i; let cb := s.coord b j
      let useA := inA ∧ (¬inB ∨ ca ≤ cb); let useB := inB ∧ (¬inA ∨ cb ≤ ca)
      let c := if useA then ca else cb
      let i' := if useA then i + 1 else i; let j' := if useB then j + 1 else j
      if mul ∧ ¬(useA ∧ useB) then s.sparseMerge f rnd mul a b cap fuel i' j' acc
      else if acc.length = cap then (acc.reverse, some c)
      else
        let r := rnd acc.length
        let (x, e) := if useA ∧ useB then s.both f r mul (valueReg a).toNat (valueReg b).toNat i j
          else if useA then s.oneSide f r (valueReg a).toNat i else s.oneSide f r (valueReg b).toNat j
        s.sparseMerge f rnd mul a b cap fuel i' j' ((c, x, e) :: acc)

/-- The checks of a form with two sparse sources (R268, R368): its format and capacity. -/
def sparseSources (a b : BitVec 3) : Exec (Fmt × Nat) := do
  checkSparseRegs a
  checkSparseRegs b
  let f ← sparseFmt [a, b]
  let cap := sparseCap f
  checkSparse a cap
  checkSparse b cap
  return (f, cap)

/-- vsadd and vsmul (R269). R24 names no pipe for them nor for vsdot; they run on the FMA pipes (DESIGN CHOICE: log entry 66). -/
def sparseOp (i : Instr) (mul : Bool) (d a b : BitVec 3) (rm : BitVec 2) (s : State) : Out :=
  vinsn 0 i (do
    let (f, cap) ← sparseSources a b
    let s ← get
    let (ps, next) := s.sparseMerge f (s.rnd rm) mul a b cap (s.sparseLen a + s.sparseLen b) 0 0 []
    writeSparse d f (ps.map (fun p => (p.1, p.2.1))) next
    flags (ps.zipIdx.map (fun (p, n) => (n, p.2.2)))) s
/-- vsadd (R269). -/
def execVsadd (d a b : BitVec 3) (rm : BitVec 2) (s : State) : Out := sparseOp (.vsadd d a b rm) false d a b rm s
/-- vsmul (R269). -/
def execVsmul (d a b : BitVec 3) (rm : BitVec 2) (s : State) : Out := sparseOp (.vsmul d a b rm) true d a b rm s

/-- The pairs of indices at which two sources hold the same coordinate. -/
def State.common (s : State) (a b : BitVec 3) : List (Nat × Nat) :=
  (List.range (s.sparseLen a)).filterMap (fun i =>
    ((List.range (s.sparseLen b)).find? (fun j => s.coord b j == s.coord a i)).map (fun j => (i, j)))

/-- vsdot (R270): each step adds one product to the sum and rounds once; a step's index is its number among the coordinates
common to both (DESIGN CHOICE: log entry 56). -/
def execVsdot (d : Reg) (a b : BitVec 3) (rm : BitVec 2) (s : State) : Out :=
  vinsn 0 (.vsdot d a b rm) (do
    let (f, _) ← sparseSources a b
    let s ← get
    let va := (valueReg a).toNat; let vb := (valueReg b).toNat
    let (x, es) := (s.common a b).zipIdx.foldl (fun (acc : Nat × List (Nat × Events)) (e, n) =>
      if f.isInt then (intBits f (decodeInt f acc.1 + s.intOperand va e.1 * s.intOperand vb e.2), acc.2)
      else
        let r := s.rnd rm n
        let (x, e1) := s.operand va e.1 r
        let (y, e2) := s.operand vb e.2 r
        let (w, e3) := fMulAdd f r x y (decodeFloat f acc.1)
        (w, (n, e1 ||| e2 ||| e3) :: acc.2)) ((0, []) : Nat × List (Nat × Events))
    takeRows d.toNat f 1 0 1
    writeGroup d.toNat f 1 0 1 [(0, x)]
    flags es
    setVstart 0) s

/-! ## Bitmap loads (R271, R272) -/

/-- The offset of the first bad byte of a bitmap header (R271). -/
def bitmapBad (h : List Byte) : Option Nat :=
  let l := areaNat h 0 1
  if l < 2 ∨ 4 < l then some 0
  else
    let nonzero (lo n : Nat) : Option Nat := ((List.range n).map (fun k => lo + k)).find? (fun k => areaNat h k 1 != 0)
    let baseBad (o : Nat) (there : Bool) : Option Nat :=
      if there then (if areaNat h o 8 % 8 = 0 then none else some o) else nonzero o 8
    [nonzero 1 7, baseBad 16 true, baseBad 24 (3 ≤ l), baseBad 32 (l == 4), nonzero 40 24].findSome? (fun x => x)

/-- Present coordinates at or above `from_`, at most `lim` of them, below node `idx` of level `lv` (R271): a clear bit
prunes its subtree. `base` gives the node arrays. -/
def bitmapWalk (from_ lim : Nat) (base : Nat → Word) : Nat → Nat → Nat → List Nat → Exec (List Nat)
  | 0, idx, node, acc => pure ((acc ++ ((List.range 64).filter (fun b => node.testBit b && decide (from_ ≤ 64 * idx + b))).map
      (fun b => 64 * idx + b)).take lim)
  | lv + 1, idx, node, acc => eachFold (List.range 64) acc (fun acc b => do
      let c := 64 * idx + b
      if node.testBit b = false ∨ lim ≤ acc.length ∨ (c + 1) * 64 ^ (lv + 1) ≤ from_ then return acc
      else do
        let child ← loadNat true 2 (base lv + 8 * nw c) 8
        bitmapWalk from_ lim base lv c child acc)

/-- The bytes from `a` on out of aligned words, each read once: those read so far are kept (R272). -/
def readOnce (parts : List (Nat × Nat)) (ws : List (Nat × Nat)) : Exec (List Byte × List (Nat × Nat)) :=
  eachFold parts ([], ws) (fun (xs, ws) (a, k) => do
    let b := a / 8 * 8
    match ws.lookup b with
    | some w => return (xs ++ (leBytes 8 w).drop (a - b) |>.take (xs.length + k), ws)
    | none => do
      checkAccess true .load 2 (nw a) k
      let w ← loadNat true 2 (nw b) 8
      return (xs ++ (leBytes 8 w).drop (a - b) |>.take (xs.length + k), (b, w) :: ws))

/-- The values of coordinates, read in ascending order (R272). -/
def readValues (f : Fmt) (vb : Word) : List Nat → List (Nat × Nat) → Exec (List (Nat × Nat))
  | [], _ => pure []
  | c :: rest, ws => do
    let (xs, ws) ← readOnce (pieces (vb + nw (c * elemBytes f)).toNat (elemBytes f) (elemBytes f)) ws
    let ys ← readValues f vb rest ws
    return (c, leNat xs) :: ys

/-- vspld (R272): the present coordinates from next on, each with its value. -/
def execVspld (d : BitVec 3) (a b : Reg) (s : State) : Out :=
  vinsn 2 (.vspld d a b) (do
    let r ← getRegs
    let f := r.fmt
    if f.isBlock then mismatch none none none
    let va ← getG a
    needAligned va 64 2
    let h := leBytes 64 (← frameAccess (loadNat true 2 va 64))
    match bitmapBad h with
    | some o => trap 0x4A (some va) (nw o) (streamCode 2)
    | none => do
      let l := areaNat h 0 1
      let cap := sparseCap f
      let from_ := if wbits (r.slenOf d) 31 31 = 1 then wbits (r.slenOf d) 63 32 else 0
      let base (lv : Nat) : Word := nw (areaNat h (16 + 8 * (l - 2 - lv)) 8)
      let vb ← getG b
      let (cs, pairs) ← frameAccess (do
        let cs ← bitmapWalk from_ (cap + 1) base (l - 1) 0 (areaNat h 8 8) []
        return (cs, ← readValues f vb (cs.take cap) []))
      writeSparse d f pairs (cs[cap]?)) s

/-! ## Append queues (R273) -/

/-- vspst (R273): the ticket step and the records, in the scatter stream. -/
def execVspst (d : Reg) (a : BitVec 3) (b : Reg) (s : State) : Out :=
  vinsn 2 (.vspst d a b) (do
    checkSparseRegs a
    let f ← sparseFmt [a]
    checkSparse a (sparseCap f)
    let q ← getG b
    needAligned q 8 3
    let s ← get
    let n := s.sparseLen a
    if n = 0 then setVstart 0
    else do
      settleOlder
      drainBank s.cur.id
      unlessTraps (inFlight (.vspst d a b) 3 do
        let pl ← atomicPlace .atomic 3 q
        anchor q
        let x ← updateAt q.toNat 3 pl 8 4 (fun x => if x % 2 ^ 32 + n ≤ x / 2 ^ 32 then some (x % 2 ^ 32 + n) else none)
        let t := x % 2 ^ 32
        if x / 2 ^ 32 < t + n then trap 0x40 (some q) (nw n) (streamCode 3)
        record 3 (spanRange q.toNat 4 true)
        let w := elemBytes f
        let rs := if w = 8 then 16 else 8
        let base ← getG d
        let at_ (j : Nat) : Word := base + nw (rs * (t + j))
        each (List.range n) (fun j => checkAccess true .store 3 (at_ j) rs)
        each (List.range n) (fun j =>
          storeNat true 3 (at_ j) rs
            (s.coord a j + s.elem (valueReg a).toNat j * 2 ^ (if w = 8 then 64 else 32)))
        record 3 (spanRange (at_ 0).toNat (rs * n) true)
        setVstart 0)
      storedBefore) s

end Sys2Proof.Machine
end

