-- ==== Sys2Proof/Machine/Dispatch.lean ====
section
/-! DEFINITION. One arm per instruction and step of spec/opcode_table.json, each a direct call of its meaning. -/

namespace Sys2Proof.Machine

def exec (i : Instr) (s : State) : Host.Outcome State Fault Refusal :=
  match i with
  | .add d a b => Sys2Proof.Machine.execAdd d a b s
  | .sub d a b => Sys2Proof.Machine.execSub d a b s
  | .and d a b => Sys2Proof.Machine.execAnd d a b s
  | .or d a b => Sys2Proof.Machine.execOr d a b s
  | .xor d a b => Sys2Proof.Machine.execXor d a b s
  | .sll d a b => Sys2Proof.Machine.execSll d a b s
  | .srl d a b => Sys2Proof.Machine.execSrl d a b s
  | .sra d a b => Sys2Proof.Machine.execSra d a b s
  | .slt d a b => Sys2Proof.Machine.execSlt d a b s
  | .sltu d a b => Sys2Proof.Machine.execSltu d a b s
  | .mul d a b => Sys2Proof.Machine.execMul d a b s
  | .mulh d a b => Sys2Proof.Machine.execMulh d a b s
  | .div d a b => Sys2Proof.Machine.execDiv d a b s
  | .divu d a b => Sys2Proof.Machine.execDivu d a b s
  | .rem d a b => Sys2Proof.Machine.execRem d a b s
  | .remu d a b => Sys2Proof.Machine.execRemu d a b s
  | .addi d a imm => Sys2Proof.Machine.execAddi d a imm s
  | .andi d a imm => Sys2Proof.Machine.execAndi d a imm s
  | .ori d a imm => Sys2Proof.Machine.execOri d a imm s
  | .xori d a imm => Sys2Proof.Machine.execXori d a imm s
  | .slti d a imm => Sys2Proof.Machine.execSlti d a imm s
  | .sltiu d a imm => Sys2Proof.Machine.execSltiu d a imm s
  | .lui d imm => Sys2Proof.Machine.execLui d imm s
  | .lsi d a imm => Sys2Proof.Machine.execLsi d a imm s
  | .slli d a sh => Sys2Proof.Machine.execSlli d a sh s
  | .srli d a sh => Sys2Proof.Machine.execSrli d a sh s
  | .srai d a sh => Sys2Proof.Machine.execSrai d a sh s
  | .sel d a b => Sys2Proof.Machine.execSel d a b s
  | .fadd d a b fmt rm => Sys2Proof.Machine.execFadd d a b fmt rm s
  | .fsub d a b fmt rm => Sys2Proof.Machine.execFsub d a b fmt rm s
  | .fmul d a b fmt rm => Sys2Proof.Machine.execFmul d a b fmt rm s
  | .fmadd d a b fmt rm => Sys2Proof.Machine.execFmadd d a b fmt rm s
  | .flt d a b fmt => Sys2Proof.Machine.execFlt d a b fmt s
  | .fcvt d a dir fsrc fmt rm => Sys2Proof.Machine.execFcvt d a dir fsrc fmt rm s
  | .beq a b off => Sys2Proof.Machine.execBeq a b off s
  | .bne a b off => Sys2Proof.Machine.execBne a b off s
  | .blt a b off => Sys2Proof.Machine.execBlt a b off s
  | .bge a b off => Sys2Proof.Machine.execBge a b off s
  | .jal d off => Sys2Proof.Machine.execJal d off s
  | .jalr a off => Sys2Proof.Machine.execJalr a off s
  | .jr a off => Sys2Proof.Machine.execJr a off s
  | .bpany a off => Sys2Proof.Machine.execBpany a off s
  | .bpall a off => Sys2Proof.Machine.execBpall a off s
  | .loopv a n => Sys2Proof.Machine.execLoopv a n s
  | .ldb d a off => Sys2Proof.Machine.execLdb d a off s
  | .ldh d a off => Sys2Proof.Machine.execLdh d a off s
  | .ldw d a off => Sys2Proof.Machine.execLdw d a off s
  | .ldd d a off => Sys2Proof.Machine.execLdd d a off s
  | .ldbs d a off => Sys2Proof.Machine.execLdbs d a off s
  | .ldhs d a off => Sys2Proof.Machine.execLdhs d a off s
  | .ldws d a off => Sys2Proof.Machine.execLdws d a off s
  | .stb a b off => Sys2Proof.Machine.execStb a b off s
  | .sth a b off => Sys2Proof.Machine.execSth a b off s
  | .stw a b off => Sys2Proof.Machine.execStw a b off s
  | .std a b off => Sys2Proof.Machine.execStd a b off s
  | .ldp d a off => Sys2Proof.Machine.execLdp d a off s
  | .ldpHeal d a off => Sys2Proof.Machine.execLdpHeal d a off s
  | .peq d a b => Sys2Proof.Machine.execPeq d a b s
  | .amoswap d a b acq rel scope w => Sys2Proof.Machine.execAmoswap d a b acq rel scope w s
  | .amoadd d a b acq rel scope w => Sys2Proof.Machine.execAmoadd d a b acq rel scope w s
  | .amoand d a b acq rel scope w => Sys2Proof.Machine.execAmoand d a b acq rel scope w s
  | .amoor d a b acq rel scope w => Sys2Proof.Machine.execAmoor d a b acq rel scope w s
  | .amoxor d a b acq rel scope w => Sys2Proof.Machine.execAmoxor d a b acq rel scope w s
  | .amomin d a b acq rel scope w => Sys2Proof.Machine.execAmomin d a b acq rel scope w s
  | .amomax d a b acq rel scope w => Sys2Proof.Machine.execAmomax d a b acq rel scope w s
  | .amocas d a b acq rel scope w => Sys2Proof.Machine.execAmocas d a b acq rel scope w s
  | .ticket d a b acq rel scope w => Sys2Proof.Machine.execTicket d a b acq rel scope w s
  | .waita d a b acq rel scope w => Sys2Proof.Machine.execWaita d a b acq rel scope w s
  | .waitaWake ag => Sys2Proof.Machine.execWaitaWake ag s
  | .fence mask kind acq rel scope => Sys2Proof.Machine.execFence mask kind acq rel scope s
  | .barrier mask acq rel scope => Sys2Proof.Machine.execBarrier mask acq rel scope s
  | .barrierComplete ag => Sys2Proof.Machine.execBarrierComplete ag s
  | .vsetvli d a fmt grp tail => Sys2Proof.Machine.execVsetvli d a fmt grp tail s
  | .vsetvl d a b => Sys2Proof.Machine.execVsetvl d a b s
  | .vretag d a fmt grp => Sys2Proof.Machine.execVretag d a fmt grp s
  | .vsave d a => Sys2Proof.Machine.execVsave d a s
  | .vrestore d a => Sys2Proof.Machine.execVrestore d a s
  | .vspill d a => Sys2Proof.Machine.execVspill d a s
  | .vadd d a b p => Sys2Proof.Machine.execVadd d a b p s
  | .vsub d a b p => Sys2Proof.Machine.execVsub d a b p s
  | .vqadd d a b p => Sys2Proof.Machine.execVqadd d a b p s
  | .vqsub d a b p => Sys2Proof.Machine.execVqsub d a b p s
  | .vmul d a b p => Sys2Proof.Machine.execVmul d a b p s
  | .vmulh d a b p => Sys2Proof.Machine.execVmulh d a b p s
  | .vmacc d a b p => Sys2Proof.Machine.execVmacc d a b p s
  | .vand d a b p => Sys2Proof.Machine.execVand d a b p s
  | .vor d a b p => Sys2Proof.Machine.execVor d a b p s
  | .vxor d a b p => Sys2Proof.Machine.execVxor d a b p s
  | .vsll d a b p => Sys2Proof.Machine.execVsll d a b p s
  | .vsrl d a b p => Sys2Proof.Machine.execVsrl d a b p s
  | .vsra d a b p => Sys2Proof.Machine.execVsra d a b p s
  | .vmin d a b p => Sys2Proof.Machine.execVmin d a b p s
  | .vmax d a b p => Sys2Proof.Machine.execVmax d a b p s
  | .vfadd d a b p rm => Sys2Proof.Machine.execVfadd d a b p rm s
  | .vfsub d a b p rm => Sys2Proof.Machine.execVfsub d a b p rm s
  | .vfmul d a b p rm => Sys2Proof.Machine.execVfmul d a b p rm s
  | .vfdiv d a b p rm => Sys2Proof.Machine.execVfdiv d a b p rm s
  | .vfsqrt d a p rm => Sys2Proof.Machine.execVfsqrt d a p rm s
  | .vfma d a b p rm => Sys2Proof.Machine.execVfma d a b p rm s
  | .vfms d a b p rm => Sys2Proof.Machine.execVfms d a b p rm s
  | .vfmin d a b p rm => Sys2Proof.Machine.execVfmin d a b p rm s
  | .vfmax d a b p rm => Sys2Proof.Machine.execVfmax d a b p rm s
  | .vfabs d a p rm => Sys2Proof.Machine.execVfabs d a p rm s
  | .vfneg d a p rm => Sys2Proof.Machine.execVfneg d a p rm s
  | .vfsgnj d a b p rm => Sys2Proof.Machine.execVfsgnj d a b p rm s
  | .vfrecip d a p rm => Sys2Proof.Machine.execVfrecip d a p rm s
  | .vfrsqrt d a p rm => Sys2Proof.Machine.execVfrsqrt d a p rm s
  | .vfclass d a p rm => Sys2Proof.Machine.execVfclass d a p rm s
  | .vcmpeq d a b p => Sys2Proof.Machine.execVcmpeq d a b p s
  | .vcmpne d a b p => Sys2Proof.Machine.execVcmpne d a b p s
  | .vcmplt d a b p => Sys2Proof.Machine.execVcmplt d a b p s
  | .vcmple d a b p => Sys2Proof.Machine.execVcmple d a b p s
  | .vpand d a b p => Sys2Proof.Machine.execVpand d a b p s
  | .vpor d a b p => Sys2Proof.Machine.execVpor d a b p s
  | .vpxor d a b p => Sys2Proof.Machine.execVpxor d a b p s
  | .vpandn d a b p => Sys2Proof.Machine.execVpandn d a b p s
  | .vslideup d a b p => Sys2Proof.Machine.execVslideup d a b p s
  | .vslidedn d a b p => Sys2Proof.Machine.execVslidedn d a b p s
  | .vperm d a b p => Sys2Proof.Machine.execVperm d a b p s
  | .vbcast d a p => Sys2Proof.Machine.execVbcast d a p s
  | .vcompress d a p => Sys2Proof.Machine.execVcompress d a p s
  | .vredsum d a b p => Sys2Proof.Machine.execVredsum d a b p s
  | .vfredsum d a b p rm => Sys2Proof.Machine.execVfredsum d a b p rm s
  | .vfredosum d a b p rm => Sys2Proof.Machine.execVfredosum d a b p rm s
  | .vredmax d a b p => Sys2Proof.Machine.execVredmax d a b p s
  | .vscan d a b p => Sys2Proof.Machine.execVscan d a b p s
  | .vprune d a b p => Sys2Proof.Machine.execVprune d a b p s
  | .vmvs d a b => Sys2Proof.Machine.execVmvs d a b s
  | .vcvt d a p rm => Sys2Proof.Machine.execVcvt d a p rm s
  | .vcvtef d a b p rm => Sys2Proof.Machine.execVcvtef d a b p rm s
  | .vdqbx d a p => Sys2Proof.Machine.execVdqbx d a p s
  | .vnsat d a p => Sys2Proof.Machine.execVnsat d a p s
  | .vqbx d a k rm => Sys2Proof.Machine.execVqbx d a k rm s
  | .vld d a sr p ord => Sys2Proof.Machine.execVld d a sr p ord s
  | .vlds d a ix p ord => Sys2Proof.Machine.execVlds d a ix p ord s
  | .vldff d a p ord => Sys2Proof.Machine.execVldff d a p ord s
  | .vldx d a ix p ls ord => Sys2Proof.Machine.execVldx d a ix p ls ord s
  | .vst d a sr p ord => Sys2Proof.Machine.execVst d a sr p ord s
  | .vsts d a ix p ord => Sys2Proof.Machine.execVsts d a ix p ord s
  | .vstx d a ix p ls ord => Sys2Proof.Machine.execVstx d a ix p ls ord s
  | .vscadd d a ix p ls ord => Sys2Proof.Machine.execVscadd d a ix p ls ord s
  | .vsld d h p ord => Sys2Proof.Machine.execVsld d h p ord s
  | .vsst d h p ord => Sys2Proof.Machine.execVsst d h p ord s
  | .vgsld d h p ord => Sys2Proof.Machine.execVgsld d h p ord s
  | .vgsldMeet ag => Sys2Proof.Machine.execVgsldMeet ag s
  | .vstrip h ix => Sys2Proof.Machine.execVstrip h ix s
  | .vsadd d a b rm => Sys2Proof.Machine.execVsadd d a b rm s
  | .vsmul d a b rm => Sys2Proof.Machine.execVsmul d a b rm s
  | .vsdot d a b rm => Sys2Proof.Machine.execVsdot d a b rm s
  | .vspld d a b => Sys2Proof.Machine.execVspld d a b s
  | .vspst d a b => Sys2Proof.Machine.execVspst d a b s
  | .mldtA d a => Sys2Proof.Machine.execMldtA d a s
  | .mldtB d a => Sys2Proof.Machine.execMldtB d a s
  | .mldtffA d a => Sys2Proof.Machine.execMldtffA d a s
  | .mldtffB d a => Sys2Proof.Machine.execMldtffB d a s
  | .mst acc a => Sys2Proof.Machine.execMst acc a s
  | .mma acc => Sys2Proof.Machine.execMma acc s
  | .mmas acc => Sys2Proof.Machine.execMmas acc s
  | .mzero acc => Sys2Proof.Machine.execMzero acc s
  | .accRowComplete cl acc row => Sys2Proof.Machine.execAccRowComplete cl acc row s
  | .vmrd d acc b p rm => Sys2Proof.Machine.execVmrd d acc b p rm s
  | .vmwr d acc b p => Sys2Proof.Machine.execVmwr d acc b p s
  | .xcopy d a b acq rel scope => Sys2Proof.Machine.execXcopy d a b acq rel scope s
  | .xcopyExecute cmd => Sys2Proof.Machine.execXcopyExecute cmd s
  | .xstream a acq scope => Sys2Proof.Machine.execXstream a acq scope s
  | .xstreamBind cmd => Sys2Proof.Machine.execXstreamBind cmd s
  | .xsbar mask acq scope => Sys2Proof.Machine.execXsbar mask acq scope s
  | .xsbarDrain ag => Sys2Proof.Machine.execXsbarDrain ag s
  | .xgather a acq rel scope => Sys2Proof.Machine.execXgather a acq rel scope s
  | .xgatherExecute cmd => Sys2Proof.Machine.execXgatherExecute cmd s
  | .xbin a acq rel scope => Sys2Proof.Machine.execXbin a acq rel scope s
  | .xbinExecute cmd => Sys2Proof.Machine.execXbinExecute cmd s
  | .xmove d a b acq rel scope => Sys2Proof.Machine.execXmove d a b acq rel scope s
  | .xmoveExecute cmd => Sys2Proof.Machine.execXmoveExecute cmd s
  | .movedAccessRetry cl line => Sys2Proof.Machine.execMovedAccessRetry cl line s
  | .xheal a acq rel scope => Sys2Proof.Machine.execXheal a acq rel scope s
  | .xhealExecute cmd => Sys2Proof.Machine.execXhealExecute cmd s
  | .xreclaim a acq rel scope => Sys2Proof.Machine.execXreclaim a acq rel scope s
  | .xreclaimExecute cmd => Sys2Proof.Machine.execXreclaimExecute cmd s
  | .xinst d a b acq rel scope => Sys2Proof.Machine.execXinst d a b acq rel scope s
  | .xinstExecute cmd => Sys2Proof.Machine.execXinstExecute cmd s
  | .blockErase stack block => Sys2Proof.Machine.execBlockErase stack block s
  | .xpin d a b acq rel scope => Sys2Proof.Machine.execXpin d a b acq rel scope s
  | .xpinExecute cmd => Sys2Proof.Machine.execXpinExecute cmd s
  | .xwear d a => Sys2Proof.Machine.execXwear d a s
  | .xwearExecute cmd => Sys2Proof.Machine.execXwearExecute cmd s
  | .xsweep a acq rel scope => Sys2Proof.Machine.execXsweep a acq rel scope s
  | .xsweepExecute cmd => Sys2Proof.Machine.execXsweepExecute cmd s
  | .sweepBatch cmd => Sys2Proof.Machine.execSweepBatch cmd s
  | .cwait d a b acq rel scope => Sys2Proof.Machine.execCwait d a b acq rel scope s
  | .cwaitWake ag => Sys2Proof.Machine.execCwaitWake ag s
  | .cwake d a b acq rel scope => Sys2Proof.Machine.execCwake d a b acq rel scope s
  | .launch d a => Sys2Proof.Machine.execLaunch d a s
  | .launchTableEntryFree ag => Sys2Proof.Machine.execLaunchTableEntryFree ag s
  | .fork mask => Sys2Proof.Machine.execFork mask s
  | .forkBound ag => Sys2Proof.Machine.execForkBound ag s
  | .join mask => Sys2Proof.Machine.execJoin mask s
  | .joinComplete ag => Sys2Proof.Machine.execJoinComplete ag s
  | .yield => Sys2Proof.Machine.execYield s
  | .exit => Sys2Proof.Machine.execExit s
  | .id d sel => Sys2Proof.Machine.execId d sel s
  | .gang d n => Sys2Proof.Machine.execGang d n s
  | .gangComplete ag => Sys2Proof.Machine.execGangComplete ag s
  | .waitt a => Sys2Proof.Machine.execWaitt a s
  | .waittExpire ag => Sys2Proof.Machine.execWaittExpire ag s
  | .trap k => Sys2Proof.Machine.execTrap k s
  | .eret => Sys2Proof.Machine.execEret s
  | .kget d k => Sys2Proof.Machine.execKget d k s
  | .kset a k => Sys2Proof.Machine.execKset a k s
  | .l2waysWrite ag => Sys2Proof.Machine.execL2waysWrite ag s
  | .tlbinv d a => Sys2Proof.Machine.execTlbinv d a s
  | .cflush d a => Sys2Proof.Machine.execCflush d a s
  | .wfi a => Sys2Proof.Machine.execWfi a s
  | .wfiWake ag => Sys2Proof.Machine.execWfiWake ag s
  | .hint n => Sys2Proof.Machine.execHint n s
  | .asyncEventDeliver ag => Sys2Proof.Machine.execAsyncEventDeliver ag s
  | .illegalInsn w => Sys2Proof.Machine.execIllegalInsn w s
  | .powerOn => Sys2Proof.Machine.execPowerOn s
  | .firmwareVerified ok => Sys2Proof.Machine.execFirmwareVerified ok s
  | .fabricTrained ok => Sys2Proof.Machine.execFabricTrained ok s
  | .verticalBusesRepaired failed buses => Sys2Proof.Machine.execVerticalBusesRepaired failed buses s
  | .dramInitialised failed => Sys2Proof.Machine.execDramInitialised failed s
  | .granaryOnline ok wear => Sys2Proof.Machine.execGranaryOnline ok wear s
  | .timeAligned failed skew => Sys2Proof.Machine.execTimeAligned failed skew s
  | .ready => Sys2Proof.Machine.execReady s
  | .arbiterGrant core => Sys2Proof.Machine.execArbiterGrant core s
  | .beatWrite ag => Sys2Proof.Machine.execBeatWrite ag s
  | .rowStallPreempt core => Sys2Proof.Machine.execRowStallPreempt core s
  | .vqueueRoom ag => Sys2Proof.Machine.execVqueueRoom ag s
  | .vectorCommit ag => Sys2Proof.Machine.execVectorCommit ag s
  | .memoryResponseArrival ag r => Sys2Proof.Machine.execMemoryResponseArrival ag r s
  | .homeAccessPerform idx => Sys2Proof.Machine.execHomeAccessPerform idx s
  | .l1Fill cl asid va => Sys2Proof.Machine.execL1Fill cl asid va s
  | .writebackApply cl line => Sys2Proof.Machine.execWritebackApply cl line s
  | .pageWalk tower asid va => Sys2Proof.Machine.execPageWalk tower asid va s
  | .pagerAnswer slot => Sys2Proof.Machine.execPagerAnswer slot s
  | .handleRunaheadRead ag h => Sys2Proof.Machine.execHandleRunaheadRead ag h s
  | .portHandoff cl => Sys2Proof.Machine.execPortHandoff cl s
  | .stagingFill tower unit => Sys2Proof.Machine.execStagingFill tower unit s
  | .oldtktUpdate tower => Sys2Proof.Machine.execOldtktUpdate tower s
  | .engineQueueRoom ag => Sys2Proof.Machine.execEngineQueueRoom ag s
  | .launchAdmit l place => Sys2Proof.Machine.execLaunchAdmit l place s
  | .launchEnd l => Sys2Proof.Machine.execLaunchEnd l s
  | .launchStop l cause => Sys2Proof.Machine.execLaunchStop l cause s
  | .launchTimeout l => Sys2Proof.Machine.execLaunchTimeout l s
  | .budgetWarn ag => Sys2Proof.Machine.execBudgetWarn ag s
  | .watchdog ag => Sys2Proof.Machine.execWatchdog ag s
  | .preempt ag => Sys2Proof.Machine.execPreempt ag s
  | .contextRestore ag slot => Sys2Proof.Machine.execContextRestore ag slot s
  | .sweepContextSave core => Sys2Proof.Machine.execSweepContextSave core s
  | .flitRoute plane inj => Sys2Proof.Machine.execFlitRoute plane inj s
  | .flitAgeStep => Sys2Proof.Machine.execFlitAgeStep s
  | .injrateWindow => Sys2Proof.Machine.execInjrateWindow s
  | .requestResend req => Sys2Proof.Machine.execRequestResend req s
  | .planeFail plane => Sys2Proof.Machine.execPlaneFail plane s
  | .linkDown link hit => Sys2Proof.Machine.execLinkDown link hit s
  | .linkUp link => Sys2Proof.Machine.execLinkUp link s
  | .inboundWrite src pa data => Sys2Proof.Machine.execInboundWrite src pa data s
  | .hostRead fn off len => Sys2Proof.Machine.execHostRead fn off len s
  | .hostTimeout ag va kind => Sys2Proof.Machine.execHostTimeout ag va kind s
  | .kill v => Sys2Proof.Machine.execKill v s
  | .attctl v => Sys2Proof.Machine.execAttctl v s
  | .attestationReportReady => Sys2Proof.Machine.execAttestationReportReady s
  | .aper n v => Sys2Proof.Machine.execAper n v s
  | .vfcfg fn v => Sys2Proof.Machine.execVfcfg fn v s
  | .registerWrite off v => Sys2Proof.Machine.execRegisterWrite off v s
  | .busRetrain tower bus => Sys2Proof.Machine.execBusRetrain tower bus s
  | .busRetrainDone tower bus wires => Sys2Proof.Machine.execBusRetrainDone tower bus wires s
  | .busTest tower bus pass => Sys2Proof.Machine.execBusTest tower bus pass s
  | .patrolScrub line found => Sys2Proof.Machine.execPatrolScrub line found s
  | .mcheck tower => Sys2Proof.Machine.execMcheck tower s
  | .towerLost tower => Sys2Proof.Machine.execTowerLost tower s
  | .granaryStackFailed stack => Sys2Proof.Machine.execGranaryStackFailed stack s

end Sys2Proof.Machine
end

