-- ==== Sys2Proof/Machine/Step.lean ====
section
/-! DEFINITION. One step of the machine: the next occurrence of the schedule where one is listed, else the next instruction
of the current agent, else the end of its wait (log entry 4). Each step is one cycle of the clock. -/

namespace Sys2Proof.Machine

/-- The step that may end a wait. -/
def wakeOf (w : Wait) (id : Nat) : Instr :=
  match w with
  | .waita => .waitaWake id
  | .barrier => .barrierComplete id
  | .cwait => .cwaitWake id
  | .fork => .forkBound id
  | .join => .joinComplete id
  | .gang => .gangComplete id
  | .waitt => .waittExpire id
  | .wfi => .wfiWake id
  | .table => .launchTableEntryFree id
  | .queue => .engineQueueRoom id
  | .gangLoad => .vgsldMeet id
  | .vqueue => .vqueueRoom id
  | .update => .l2waysWrite id
  | .wear => .engineQueueRoom id

/-- The clock moves one cycle on. -/
def tick (o : Host.Outcome State Fault Refusal) : Host.Outcome State Fault Refusal :=
  match o with
  | .next s => .next { s with clock := s.clock + 1 }
  | .fault f => .fault f
  | .refused r => .refused r

/-- Is an asynchronous event to be delivered to the current agent (R359)? A wait of R321 or a stall before an
instruction is a cut; a WFI ends first, and a change of the ways is no cut (R153, R323), nor is the wait of an XWEAR's end test (R333). -/
def State.eventDue (s : State) : Bool :=
  !s.cur.pending.isEmpty && ((s.cur.kind != .thread && s.cur.kind != .dispatcher) || ksIe s.regs.kstatus) &&
  (match s.cur.status with
    | .running => true
    | .waiting w _ => w != .wfi && w != .update && w != .wear
    | _ => false)

/-- Is a hold of XSBAR on the current agent over: have the commands it names completed (R289)? -/
def State.holdOver (s : State) : Bool :=
  s.cur.status == .running && s.cur.holds.any (fun h => s.cmdsBefore s.cur.id h.upTo)

/-- The instruction a word stands for: a word that decodes to none raises ILLEGAL_INSN (R77). -/
def instrOf (w : IWord) : Instr :=
  match decode w with
  | some i => i
  | none => .illegalInsn w

/-- The current agent executes its next instruction. -/
def stepInstr (s : State) : Host.Outcome State Fault Refusal :=
  match fetch s with
  | .error e s' => .next (settle (.hint 0) (throw e) s')
  | .ok w s' => if s'.awaitsWear w then .next s else exec (instrOf w) (s'.noteLate w)

/-- The current agent's turn, by where it stands. -/
def stepAgent (s : State) : Host.Outcome State Fault Refusal :=
  if s.eventDue then exec (.asyncEventDeliver s.cur.id) s
  else if s.holdOver then exec (.xsbarDrain s.cur.id) s
  else match s.cur.status with
  | .running => stepInstr s
  | .waiting w _ => exec (wakeOf w s.cur.id) s
  | .free => .next s
  | .saved => .next s
  | .paged _ _ => .next s
  | .ended _ => .next s

/-- Is the next occurrence a new power-on? -/
def powerOnNext : List Sched → Bool
  | .event .powerOn :: _ => true
  | _ => false

/-- One step. A device whose bring-up has failed has stopped until power is applied anew (R16). -/
def step (s : State) : Host.Outcome State Fault Refusal :=
  if s.dev.phase = 0xFF ∧ powerOnNext s.sched = false then .fault (.bringUpFailed s.dev.failphase)
  else match s.sched with
    | .event i :: rest => tick (exec i { s with sched := rest })
    | .switch id :: rest => .next ({ s with sched := rest }.focus id)
    | .elapse n :: rest => .next { s with sched := rest, clock := s.clock + n }
    | [] => tick (stepAgent s)

/-- `s` with the instruction `w` stored where step fetches its next instruction, and an instance bound to fetch it. -/
def State.withFetchWord (s : State) (_nbits w : Nat) : State := s.probe w

end Sys2Proof.Machine
end

