-- ==== Sys2Proof/Safety.lean ====
section
/-! DEFINITION. What a safe run is, and the terms claims are stated in: the invariant of the machine's data, where an
instruction may execute, and what a frame leaves alone. -/

namespace Sys2Proof.Machine

/-- The data are in their canonical form: memory ascends and lists no zero byte. -/
def State.wf (s : State) : Bool := Memory.wf s.mem

/-- The current agent executes, and its kind may execute forms of class `c` (R33, R371). -/
def State.runs (s : State) (c : Who) : Prop := s.cur.status = .running ∧ c.admits s.cur.kind = true

/-- The state in which agent `id`, which stands in a wait, executes its instruction again (R321). -/
def State.retry (s : State) (id : Nat) : State :=
  { s.focus id with cur := { (s.focus id).cur with status := .running } }

/-- Agent `id` stands in wait `w` of instruction `i`. -/
def State.waitsIn (s : State) (id : Nat) (w : Wait) (i : Instr) : Prop :=
  ∃ a, s.agent? id = some a ∧ a.status = .waiting w i

/-- The current agent put to sleep in a wait of instruction `i` (R321). -/
def State.sleep (s : State) (w : Wait) (i : Instr) : State :=
  { s with cur := { s.cur with status := .waiting w i, waitSince := s.clock } }

/-! ## Frames -/

/-- No byte of `n` from `loc` is poisoned, and no error stands there to be found (R402–R404). -/
def State.cleanBytes (s : State) (loc n : Nat) : Prop :=
  ∀ k, k < n → errorUnit (loc + k) ∉ s.poison ∧ ∀ e ∈ s.latent, e.unit ≠ errorUnit (loc + k)

/-- An agent without the marks of what others have read of its stores (R252). -/
def Agent.unshown (a : Agent) : Agent := { a with loose := a.loose.map (fun e => { e with shown := false }) }

/-- The other agents are the same, but for what has been read of their stores. -/
def othersKept (s t : State) : Prop := t.others.map Agent.unshown = s.others.map Agent.unshown

/-- Nothing but the current agent is different. -/
def othersSame (s t : State) : Prop := { t with cur := s.cur } = s

/-- Of the current agent nothing but what an instruction that only touches memory may move is different: the pc, LOOPCTL,
pending events, and the bookkeeping of its accesses (anchors, write ranges, ordering, run-ahead data). -/
def registersSame (s t : State) : Prop :=
  t.cur.g = s.cur.g ∧ t.cur.v = s.cur.v ∧ t.cur.p = s.cur.p ∧
  { t.cur.regs with loopCtl := s.cur.regs.loopCtl } = s.cur.regs ∧
  t.cur.id = s.cur.id ∧ t.cur.launch = s.cur.launch ∧ t.cur.kind = s.cur.kind ∧ t.cur.status = s.cur.status

/-- Every scalar register but `d` is the same, and so is every other register. -/
def registersSameBut (d : Reg) (s t : State) : Prop :=
  (∀ n : Reg, n ≠ d → t.g n = s.g n) ∧ t.cur.v = s.cur.v ∧ t.cur.p = s.cur.p ∧
  { t.cur.regs with loopCtl := s.cur.regs.loopCtl } = s.cur.regs ∧
  t.cur.id = s.cur.id ∧ t.cur.launch = s.cur.launch ∧ t.cur.kind = s.cur.kind ∧ t.cur.status = s.cur.status

/-- Every byte of memory outside `n` bytes from `loc` reads as before. -/
def memorySameOutside (loc n : Nat) (s t : State) : Prop :=
  ∀ a, ¬(loc ≤ a ∧ a < loc + n) → memByte t.mem a = memByte s.mem a

/-- The `n` bytes from `loc` read as the little-endian value `x`. -/
def memoryHolds (loc n x : Nat) (t : State) : Prop :=
  ∀ k, k < n → memByte t.mem (loc + k) = BitVec.ofNat 8 (x / 256 ^ k)

/-- No store that the current agent's streams may still see or not see is to the aligned word that holds `loc` (R204). -/
def State.settledAt (s : State) (loc : Nat) : Prop := ∀ e ∈ s.cur.loose, e.at false (loc / 8) = false

/-- The current agent has no write under way to another device or to the host, which a release at .sys waits for (R236). -/
abbrev State.nothingSent (s : State) : Prop := ∀ w ∈ s.sent, w.agent ≠ s.cur.id

/-- Of the writes on their way those for which `gone` holds have been performed at their target, and are no more awaited by the agents that
sent them; nothing else is different (R345). -/
def acknowledged (s u : State) (gone : Sent → Prop) : Prop :=
  { u with sent := s.sent, cur := s.cur, others := s.others } = s ∧ (∀ x, x ∈ u.sent ↔ x ∈ s.sent ∧ ¬gone x) ∧
  ∀ id b, s.agent? id = some b → ∃ b', u.agent? id = some b' ∧ { b' with unacked := b.unacked } = b ∧
    ∀ x, x ∈ b'.unacked ↔ x ∈ b.unacked ∧ ∃ e ∈ x.bytes, ∃ w ∈ u.sent, w.agent = b.id ∧ w.tgt = e.1 ∧ w.addr = e.2

/-! ## Vectors -/

/-- The state in which an instruction that no pre-emption cuts begins (R162). -/
def State.uncut (s : State) : State := { s with cur := { s.cur with cut := none } }

/-- Nothing is different but what a vector instruction may write (R160): vector registers, predicates, VSTART, VHIGH,
VDIRTY, FFLAGS, the FIDX registers, the pc, LOOPCTL, its place in the queue, and the element at which a pre-emption would cut
it. -/
def vectorFrame (s t : State) : Prop :=
  othersSame s t ∧
  { t.cur with v := s.cur.v, p := s.cur.p, pc := s.cur.pc, vqueue := s.cur.vqueue, stall := s.cur.stall,
               cut := s.cur.cut, pending := s.cur.pending, regs := s.cur.regs } = s.cur ∧
  { t.cur.regs with vstart := s.cur.regs.vstart, vhigh := s.cur.regs.vhigh, vdirty := s.cur.regs.vdirty,
                    fflags := s.cur.regs.fflags, fidxNv := s.cur.regs.fidxNv, fidxDz := s.cur.regs.fidxDz,
                    fidxOf := s.cur.regs.fidxOf, fidxUf := s.cur.regs.fidxUf, fidxNx := s.cur.regs.fidxNx,
                    loopCtl := s.cur.regs.loopCtl } = s.cur.regs

/-- What a vector instruction needs to run to its end (R21, R115, R162, R368 steps 2 to 7): a place in the queue, no
pre-emption that cuts it, its source groups and its destination group of format `f` aligned, and rows for the elements from
`lo` to `hi` − 1. -/
structure VectorReady (s : State) (d : Reg) (srcs : List Reg) (f g lo hi : Nat) : Prop where
  runs : s.runs .threadOnly
  room : s.cur.vqueue.length < 32
  uncut : s.cur.cut = none
  sources : ∀ v ∈ srcs, v.toNat % tagGroup (s.tag v) = 0
  group : s.regs.destGroup f = some g
  dest : d.toNat % g = 0
  rows : s.rowsWanted d.toNat f g lo hi ≤ s.rowsFree

/-- An elementwise form may start at VSTART: at 0, or with no source that its destination overlaps at another number or
width (R162). -/
def mayRestart (s : State) (d : Reg) (srcs : List Reg) (f g : Nat) : Prop :=
  s.regs.start = 0 ∨ ∀ v ∈ srcs, s.overlaps d f g v = false

/-- The tags of TAG_MISMATCH: of va, vb and a vd that is read, each 0 where not read, and VTYPE's format (R160). -/
def State.mismatchTags (s : State) (va vb vd : Option Reg) : Word :=
  let t (v : Option Reg) : Nat := match v with | none => 0 | some v => (s.tag v).toNat
  BitVec.ofNat 64 (t va + 64 * t vb + 4096 * t vd + 262144 * s.regs.fmt)

/-- The trap of the first check of R160 that fails, in their order: a source's number against its tag group; the class of the formats,
`legal`, with the tags of TAG_MISMATCH; a group for each destination's format; its number against that group; a VSTART other than 0
where a destination overlaps a source at another number or width, or where the form starts at 0 alone, `whole` (R112, R162). None where
all pass. -/
def State.checkTrap (s : State) (whole : Bool) (srcs : List Reg) (legal : Bool) (tags : Word) (dests : List (Reg × Fmt)) : Option (Exec Unit) :=
  let group (e : Reg × Fmt) : Nat := (s.regs.destGroup e.2).getD 1
  match srcs.find? (fun v => v.toNat % tagGroup (s.tag v) != 0) with
  | some v => some (trap 0x41 (some (v.setWidth 64)) ((s.tag v).setWidth 64))
  | none =>
    if !legal then some (trap 0x05 none tags)
    else if dests.any (fun e => (s.regs.destGroup e.2).isNone) then some (trap 0x42)
    else match dests.find? (fun e => e.1.toNat % group e != 0) with
      | some e => some (trap 0x41 (some (e.1.setWidth 64)) ((mkTag e.2 (group e)).setWidth 64))
      | none =>
        if s.regs.start ≠ 0 ∧ (whole || dests.any (fun e => srcs.any (s.overlaps e.1 e.2 (group e)))) = true then
          some (trap 0x49 (some s.regs.vstart))
        else none

/-- The bits of element `k` of the group at `d` in format `f`, as the images hold them. -/
def State.rawElem (s : State) (d : Nat) (f : Fmt) (k : Nat) : Nat :=
  field (s.v (d + k / capacity f)).image (k % capacity f * Fmt.bits f) (Fmt.bits f)

/-- The row that holds element `k` of the group at `d` in format `f` is mapped. -/
def State.rowMapped (s : State) (d : Nat) (f : Fmt) (k : Nat) : Prop :=
  (s.v (d + k / capacity f)).rows.getLsbD (k % capacity f * Fmt.bits f / 512) = true

/-- Elements `xs` of the group of `g` registers at `d` in format `f`, of `len` elements, hold what is listed; an element that is
not listed, where its row was mapped and it lies below `len`, keeps its bits (R72); an element from `len` on keeps them under
tail 00 and is zero under 01 and 10 (R114); the members carry the descriptors of R111. -/
def groupHolds (s t : State) (d : Nat) (f g len : Nat) (xs : List (Nat × Nat)) : Prop :=
  (∀ e ∈ xs, e.1 < len → e.1 < g * capacity f → t.elem d e.1 = e.2 % 2 ^ Fmt.bits f) ∧
  (∀ k, k < len ∨ s.regs.tail = 0 → k < g * capacity f → (∀ e ∈ xs, e.1 ≠ k) → s.rowMapped d f k →
    t.rawElem d f k = s.rawElem d f k) ∧
  (∀ k, len ≤ k → k < g * capacity f → s.regs.tail ≠ 0 → t.rawElem d f k = 0) ∧
  (∀ j, j < g → (t.v (d + j)).tag = mkTag f g ∧ (t.v (d + j)).tail = BitVec.ofNat 2 s.regs.tail ∧
    (t.v (d + j)).wlen.toNat = min (len - j * capacity f) (capacity f))

/-- The same, and every other register is the same. -/
def groupWritten (s t : State) (d : Nat) (f g len : Nat) (xs : List (Nat × Nat)) : Prop :=
  groupHolds s t d f g len xs ∧ ∀ n, ¬(d ≤ n ∧ n < d + g) → t.v n = s.v n

/-- The rows of the group at `d` after elements `lo` to `hi` − 1 have taken theirs (R115) and a length of `len` has applied the
tail (R114): under tail 10 those wholly beyond it are unmapped, else those mapped stay so; a block group alone has a scale row,
at its first register (R118). -/
def rowsWritten (s t : State) (d : Nat) (f g lo hi len : Nat) : Prop :=
  ∀ j, j < g →
    (t.v (d + j)).rows =
      (let rows := (s.v (d + j)).rows ||| memberRows f j lo hi
       if s.regs.tail = 2 then rows &&& rowMask (Fmt.bits f) 0 (min (len - j * capacity f) (capacity f)) else rows) ∧
    (t.v (d + j)).scaleRow = (Fmt.isBlock f && j == 0)

/-- FFLAGS gained the events listed; each FIDX register is the lowest index at which its event was raised, or lower as
before (R105, R106). -/
def eventsRaised (s t : State) (es : List (Nat × Events)) : Prop :=
  t.regs.fflags = s.regs.fflags ||| BitVec.ofNat 64 (es.foldl (fun m e => m ||| e.2) 0) ∧
  t.regs.fidxNv.toNat = (es.filter (fun e => e.2 / 16 % 2 == 1)).foldl (fun m e => min m e.1) s.regs.fidxNv.toNat ∧
  t.regs.fidxDz.toNat = (es.filter (fun e => e.2 / 8 % 2 == 1)).foldl (fun m e => min m e.1) s.regs.fidxDz.toNat ∧
  t.regs.fidxOf.toNat = (es.filter (fun e => e.2 / 4 % 2 == 1)).foldl (fun m e => min m e.1) s.regs.fidxOf.toNat ∧
  t.regs.fidxUf.toNat = (es.filter (fun e => e.2 / 2 % 2 == 1)).foldl (fun m e => min m e.1) s.regs.fidxUf.toNat ∧
  t.regs.fidxNx.toNat = (es.filter (fun e => e.2 % 2 == 1)).foldl (fun m e => min m e.1) s.regs.fidxNx.toNat

/-- A vector instruction that writes a group completes: VSTART is 0, the group holds `xs`, with the rows of elements from VSTART on,
the events are raised, no predicate and nothing else changes (R160). -/
def vectorCompletes (s : State) (o : Out) (d : Reg) (f g len : Nat) (xs : List (Nat × Nat)) (es : List (Nat × Events)) :
    Prop :=
  ∃ t, o = .next t ∧ t.regs.start = 0 ∧ t.cur.pc = (s.retire (.hint 0) .seq).cur.pc ∧ vectorFrame s t ∧ t.cur.p = s.cur.p ∧
    groupWritten s t d.toNat f g len xs ∧ rowsWritten s t d.toNat f g s.regs.start len len ∧ eventsRaised s t es

/-- A vector instruction that writes predicate `d` completes: below VL the listed bits are set to what is listed and the
others stay, bits from VL on stay under tail 00 and are 0 under 01 and 10, p0 never changes; no vector register and
nothing else changes (R114, R119, R166, R167). -/
def predicateCompletes (s : State) (o : Out) (d : Reg) (xs : List (Nat × Bool)) (es : List (Nat × Events)) : Prop :=
  ∃ t, o = .next t ∧ t.regs.start = 0 ∧ t.cur.pc = (s.retire (.hint 0) .seq).cur.pc ∧ vectorFrame s t ∧ t.cur.v = s.cur.v ∧
    eventsRaised s t es ∧ (∀ n : Reg, n ≠ d ∨ n = 0 → t.p n = s.p n) ∧
    (d ≠ 0 →
      (∀ e ∈ xs, e.1 < s.regs.len → e.1 < 1024 → (t.p d).getLsbD e.1 = e.2) ∧
      (∀ k, k < s.regs.len → (∀ e ∈ xs, e.1 ≠ k) → (t.p d).getLsbD k = (s.p d).getLsbD k) ∧
      (∀ k, s.regs.len ≤ k → (t.p d).getLsbD k = ((s.p d).getLsbD k && s.regs.tail == 0)))

/-! ## Vector memory -/

/-- What a vector load with elements to process needs before its accesses (R210, R211, R115). -/
structure LoadReady (s : State) (d : Reg) : Prop where
  runs : s.runs .threadOnly
  room : s.cur.vqueue.length < 32
  some : s.regs.start < s.regs.len
  dest : d.toNat % s.regs.group = 0
  rows : s.rowsWanted d.toNat s.regs.fmt s.regs.group s.regs.start s.regs.len ≤ s.rowsFree

/-- The state in which the elements of a vector store are performed: every older vector instruction has committed (R357). -/
def State.committed (s : State) : State := { s with cur := s.cur.settle (fun _ => true) }

/-- The state in which a vector load begins its accesses: its wait for rows, if any, is over (R116). -/
def State.noStall (s : State) : State := { s.uncut with cur := { s.uncut.cur with stall := none } }

/-- No XSBAR holds stream `st` of the current agent (R289). -/
abbrev State.passes (s : State) (st : Nat) : Prop := (s.cur.holds.any (fun h => h.streams.getLsbD st)) = false

/-- No response delivered to the current agent brings an error (R342). -/
abbrev State.cleanResponses (s : State) : Prop := ∀ e ∈ s.cur.reassembly, e.cause = 0

/-- A vector load whose elements were read as `xs` in going from `s` to `u` completes with a length of `len`: the group at `d`
holds them, VSTART is 0, and no byte of memory and no other register differs from `u`. -/
def loadCompletes (s u : State) (o : Out) (d : Reg) (len : Nat) (xs : List (Nat × Nat)) : Prop :=
  ∃ t, o = .next t ∧ t.mem = u.mem ∧ t.cur.g = s.cur.g ∧ t.cur.p = s.cur.p ∧ t.regs.start = 0 ∧ t.regs.len = len ∧
    t.regs.vtype = s.regs.vtype ∧ t.regs.fflags = s.regs.fflags ∧ t.cur.pc = (s.retire (.hint 0) .seq).cur.pc ∧
    groupWritten u t d.toNat s.regs.fmt s.regs.group len xs ∧
    rowsWritten u t d.toNat s.regs.fmt s.regs.group s.regs.start s.regs.len len

/-- A vector store completes with memory as given: VSTART is 0, and no register but it differs. -/
def storeCompletes (s : State) (o : Out) (mem : List Host.Cell) : Prop :=
  ∃ t, o = .next t ∧ t.mem = mem ∧ t.cur.g = s.cur.g ∧ t.cur.v = s.cur.v ∧ t.cur.p = s.cur.p ∧ t.regs.start = 0 ∧
    { t.cur.regs with vstart := s.cur.regs.vstart, loopCtl := s.cur.regs.loopCtl } = s.cur.regs ∧
    t.cur.pc = (s.retire (.hint 0) .seq).cur.pc

/-- A vector store whose accesses took the thread to `x` completes: as `storeCompletes` says where no scalar load, atomic or ticket is noted
before it; else with memory and gd as `storedBefore` leaves them, which may perform that one again after the store (R204, R412). -/
def storeEnds (s x : State) (o : Out) : Prop :=
  (x.cur.lateRead = none → storeCompletes s o x.mem) ∧
  ∃ w t, storedBefore x = .ok () w ∧ o = .next t ∧ t.mem = w.mem ∧ t.cur.g = w.cur.g ∧ t.regs.start = 0

/-- `va` names `n` bytes of the current thread's scratchpad, the first at memory location `loc` (R182, log entry 6). -/
def State.inScratchpad (s : State) (va : Word) (n loc : Nat) : Prop :=
  ∃ off, va = 0x00FE000000000000 + BitVec.ofNat 64 off ∧ off + n ≤ 2 ^ 18 ∧ loc = 2 ^ 44 + placeCore s.cur.id * 2 ^ 18 + off

/-- Element `i`, of `n` bytes, has an address inside its lane's slice of the current thread's core, at memory location `loc` (R184, log
entry 6). -/
def State.inLane (s : State) (n i : Nat) (va : Word) (loc : Nat) : Prop :=
  va.toNat < 2 ^ 14 ∧ va.toNat % n = 0 ∧ loc = 2 ^ 47 + (16 * placeCore s.cur.id + i * n % 64 / 4) * 2 ^ 14 + va.toNat

/-- A control thread none of whose accesses is held back or open to reordering. -/
def State.settled (s : State) : Prop :=
  s.cur.kind = .thread ∧ s.cur.loose = [] ∧ s.cur.holds = [] ∧ s.cur.lateRead = none

/-! ## Engine commands -/

/-- An engine's tower or stack stands and its queue has a place (R281, R381). -/
def State.hasRoom (s : State) (engine unit : Nat) : Prop := s.engineUp engine unit = true ∧ s.queueFull engine unit = false

/-- The state in which the current agent's command `w` has been accepted at the end of its engine's queue (R281, R283). -/
def State.accepted (s : State) (engine unit : Nat) (recAddr : Word) (acq rel : Bool) (scope : Nat) (chan : Option Nat)
    (w : Work) : State :=
  { s with
    cmds := s.cmds ++ [({
      id := s.nextCmd, engine := engine, unit := unit, issuer := s.cur.id, place := s.cur.id, kind := s.cur.kind,
      user := s.cur.user, launch := s.cur.launch, asid := s.cur.asid, acq := acq, rel := rel, scope := scope,
      recAddr := recAddr.toNat, work := w, chan := chan, started := false, pos := SweepPos.start, inst := InstallPos.start } : Cmd)]
    nextCmd := s.nextCmd + 1 }

/-- Command `cmd` is `c`, and its engine stands. -/
def State.isCommand (s : State) (cmd : Nat) (c : Cmd) : Prop :=
  s.cmds.find? (fun c => c.id == cmd) = some c ∧ s.engineUp c.engine c.unit = true

/-- The command has left its queue. -/
def left (c : Cmd) (t : State) : Prop := ∀ d ∈ t.cmds, d.id ≠ c.id

/-! ## Exceptions and launches -/

/-- The frame of an exception: its address in the CSP window, and the location of its 32 bytes (R355, log entry 6). -/
def frameVa (id : Nat) : Word := 0x00FE000000000000 + BitVec.ofNat 64 (0x3FF00 + 64 * (id % 4))
def frameAt (id : Nat) : Nat := 2 ^ 44 + placeCore id * 2 ^ 18 + 0x3FF00 + 64 * (id % 4)

/-- The current agent of `s` has taken an exception in `t` (R355): the trap registers; KSTATUS, of which mode, pmode, ie, pie and
intrap change; g12 to g15 in the frame; g12 and the pc; nothing else of its registers, and no other byte of memory. -/
def entered (s t : State) (kcause ktval ktval2 kepc : Word) (cause : Nat) : Prop :=
  t.cur.status = .running ∧ t.regs.kcause = kcause ∧ t.regs.ktval = ktval ∧ t.regs.ktval2 = ktval2 ∧
  t.regs.kepc = kepc &&& ~~~3 ∧ t.g 12 = frameVa s.cur.id ∧
  t.cur.pc = (s.regs.kvec &&& 0x00FFFFFFFFFFFE00) + BitVec.ofNat 64 (64 * (cause / 16 % 8)) ∧
  (t.regs.kstatus.getLsbD 0 = true ∧ t.regs.kstatus.getLsbD 1 = s.regs.kstatus.getLsbD 0 ∧
    t.regs.kstatus.getLsbD 4 = false ∧ t.regs.kstatus.getLsbD 5 = s.regs.kstatus.getLsbD 4 ∧
    t.regs.kstatus.getLsbD 8 = true ∧
    ∀ k, k ≠ 0 → k ≠ 1 → k ≠ 4 → k ≠ 5 → k ≠ 8 → t.regs.kstatus.getLsbD k = s.regs.kstatus.getLsbD k) ∧
  (∀ n : Reg, n ≠ 12 → t.g n = s.g n) ∧ t.cur.v = s.cur.v ∧ t.cur.p = s.cur.p ∧
  { t.cur.regs with kcause := s.regs.kcause, ktval := s.regs.ktval, ktval2 := s.regs.ktval2, kepc := s.regs.kepc,
                    kstatus := s.regs.kstatus } = s.cur.regs ∧
  (s.wf = true → (∀ i : Fin 4, memoryHolds (frameAt s.cur.id + 8 * i) 8 (s.g (12 + BitVec.ofNat 5 i)).toNat t) ∧
    memorySameOutside (frameAt s.cur.id) 32 s t)

/-- The current agent takes exceptions: it is a thread or a dispatcher, in no handler, with a handler to go to (R355). -/
def State.takes (s : State) : Prop :=
  (s.cur.kind = .thread ∨ s.cur.kind = .dispatcher) ∧ s.regs.kstatus.getLsbD 8 = false ∧
  s.regs.kvec &&& 0x00FFFFFFFFFFFE00 ≠ 0

/-- The state word of launch `x` stands in its record, or, where the record is in a bridge frame, has been sent to its target (R311, R345). -/
def stateWordWritten (t : State) (x : Launch) (st cause : Nat) : Prop :=
  let w := x.ident + cause * 2 ^ 48 + st * 2 ^ 60
  match x.away with
  | none => memNat t.mem x.record 8 = w % 2 ^ 64
  | some (tgt, at_) => ∀ k, k < 8 → ∃ y ∈ t.sent, y.tgt = tgt ∧ y.addr = at_ + k ∧ y.byte = BitVec.ofNat 8 (w / 256 ^ k)

/-- Launch `x` has gone with a state word of the given state and cause (R311, R315, R365). -/
def launchGone (t : State) (x : Launch) (l st cause : Nat) : Prop :=
  t.launch? l = none ∧ stateWordWritten t x st cause ∧
  ∀ a ∈ t.agents, a.launch = l → a.kind = .dispatcher ∨ a.kind = .sweep ∨ a.status = .free

end Sys2Proof.Machine
end

