-- ==== Sys2Proof/Certificates/Slice0/Obligations.lean ====
section
/-! DEFINITION. The statements about the GX9 that the provers prove. Each says which rule of spec/ it follows; what it says
a next state is, it says whole: whatever it does not name is unchanged. -/

open Sys2Proof Sys2Proof.Machine

/-! ## Scalar integers and control -/

/-- R130: the twelve register-register forms that cannot raise an event complete and change gd and the pc alone. R132:
register-immediate forms. R71: g0 reads as zero in every state, and a write to it changes nothing, as add and mul with g0 as
destination show. -/
def Obligations.ScalarIntegers : Prop :=
  (∀ (s : State) (d a b : Reg), s.runs .any →
     exec (.add d a b) s = .next ((s.setG d (s.g a + s.g b)).retire (.add d a b) .seq) ∧
     exec (.sub d a b) s = .next ((s.setG d (s.g a - s.g b)).retire (.sub d a b) .seq) ∧
     exec (.and d a b) s = .next ((s.setG d (s.g a &&& s.g b)).retire (.and d a b) .seq) ∧
     exec (.or d a b) s = .next ((s.setG d (s.g a ||| s.g b)).retire (.or d a b) .seq) ∧
     exec (.xor d a b) s = .next ((s.setG d (s.g a ^^^ s.g b)).retire (.xor d a b) .seq) ∧
     exec (.sll d a b) s = .next ((s.setG d (s.g a <<< ((s.g b).toNat % 64))).retire (.sll d a b) .seq) ∧
     exec (.srl d a b) s = .next ((s.setG d (s.g a >>> ((s.g b).toNat % 64))).retire (.srl d a b) .seq) ∧
     exec (.sra d a b) s = .next ((s.setG d ((s.g a).sshiftRight ((s.g b).toNat % 64))).retire (.sra d a b) .seq) ∧
     exec (.slt d a b) s = .next ((s.setG d (if (s.g a).toInt < (s.g b).toInt then 1 else 0)).retire (.slt d a b) .seq) ∧
     exec (.sltu d a b) s = .next ((s.setG d (if (s.g a).toNat < (s.g b).toNat then 1 else 0)).retire (.sltu d a b) .seq) ∧
     exec (.mul d a b) s = .next ((s.setG d (s.g a * s.g b)).retire (.mul d a b) .seq) ∧
     exec (.mulh d a b) s =
       .next ((s.setG d (BitVec.ofInt 64 ((s.g a).toInt * (s.g b).toInt / 2 ^ 64))).retire (.mulh d a b) .seq)) ∧
  (∀ (s : State) (d a : Reg) (imm : BitVec 16), s.runs .any →
     exec (.addi d a imm) s = .next ((s.setG d (s.g a + imm.signExtend 64)).retire (.addi d a imm) .seq) ∧
     exec (.andi d a imm) s = .next ((s.setG d (s.g a &&& imm.setWidth 64)).retire (.andi d a imm) .seq) ∧
     exec (.ori d a imm) s = .next ((s.setG d (s.g a ||| imm.setWidth 64)).retire (.ori d a imm) .seq) ∧
     exec (.xori d a imm) s = .next ((s.setG d (s.g a ^^^ imm.setWidth 64)).retire (.xori d a imm) .seq) ∧
     exec (.slti d a imm) s =
       .next ((s.setG d (if (s.g a).toInt < imm.toInt then 1 else 0)).retire (.slti d a imm) .seq) ∧
     exec (.sltiu d a imm) s =
       .next ((s.setG d (if (s.g a).toNat < (imm.signExtend 64).toNat then 1 else 0)).retire (.sltiu d a imm) .seq) ∧
     exec (.lui d imm) s = .next ((s.setG d (imm.signExtend 64 <<< 16)).retire (.lui d imm) .seq) ∧
     exec (.lsi d a imm) s = .next ((s.setG d (s.g a <<< 16 ||| imm.setWidth 64)).retire (.lsi d a imm) .seq)) ∧
  (∀ (s : State) (x : Word), s.g 0 = 0 ∧ s.setG 0 x = s ∧
     ∀ (a b : Reg), s.runs .any → exec (.add 0 a b) s = .next (s.retire (.add 0 a b) .seq) ∧
       exec (.mul 0 a b) s = .next (s.retire (.mul 0 a b) .seq))

/-- R131: the four division forms complete on every operand; what a quotient that cannot be represented saturates to, and the
event it raises in FFLAGS alone. -/
def Obligations.ScalarDivision : Prop :=
  ∀ (s : State) (d a b : Reg), s.runs .any →
    let x := s.g a; let y := s.g b
    (y = 0 →
      exec (.div d a b) s = .next (((s.raise 8).setG d (if x = 0 then 0 else if x.toInt < 0 then 0x8000000000000000
        else 0x7FFFFFFFFFFFFFFF)).retire (.div d a b) .seq) ∧
      exec (.divu d a b) s = .next (((s.raise 8).setG d (if x = 0 then 0 else 0xFFFFFFFFFFFFFFFF)).retire (.divu d a b) .seq) ∧
      exec (.rem d a b) s = .next (((s.raise 8).setG d x).retire (.rem d a b) .seq) ∧
      exec (.remu d a b) s = .next (((s.raise 8).setG d x).retire (.remu d a b) .seq)) ∧
    (x = 0x8000000000000000 → y = 0xFFFFFFFFFFFFFFFF →
      exec (.div d a b) s = .next (((s.raise 4).setG d 0x7FFFFFFFFFFFFFFF).retire (.div d a b) .seq) ∧
      exec (.rem d a b) s = .next ((s.setG d 0).retire (.rem d a b) .seq)) ∧
    (y ≠ 0 → ¬(x = 0x8000000000000000 ∧ y = 0xFFFFFFFFFFFFFFFF) →
      ∃ q r : Word, q.toInt * y.toInt + r.toInt = x.toInt ∧ r.toInt.natAbs < y.toInt.natAbs ∧
        (r.toInt = 0 ∨ (r.toInt < 0 ↔ x.toInt < 0)) ∧
        exec (.div d a b) s = .next ((s.setG d q).retire (.div d a b) .seq) ∧
        exec (.rem d a b) s = .next ((s.setG d r).retire (.rem d a b) .seq)) ∧
    (y ≠ 0 →
      ∃ q r : Word, q.toNat * y.toNat + r.toNat = x.toNat ∧ r.toNat < y.toNat ∧
        exec (.divu d a b) s = .next ((s.setG d q).retire (.divu d a b) .seq) ∧
        exec (.remu d a b) s = .next ((s.setG d r).retire (.remu d a b) .seq))

/-- R133, whole: major 0x0A with sop 0, 1, 2; the results of sll, srl and sra with count sh; sop 3 is no instruction. -/
def Obligations.ImmediateShifts : Prop :=
  (∀ (d a : Reg) (sh : BitVec 6),
    encode (.slli d a sh) = BitVec.ofNat 32 (0x0A * 2 ^ 26 + d.toNat * 2 ^ 21 + a.toNat * 2 ^ 16 + sh.toNat) ∧
    encode (.srli d a sh) = BitVec.ofNat 32 (0x0A * 2 ^ 26 + d.toNat * 2 ^ 21 + a.toNat * 2 ^ 16 + 1 * 2 ^ 6 + sh.toNat) ∧
    encode (.srai d a sh) = BitVec.ofNat 32 (0x0A * 2 ^ 26 + d.toNat * 2 ^ 21 + a.toNat * 2 ^ 16 + 2 * 2 ^ 6 + sh.toNat) ∧
    decode (encode (.slli d a sh)) = some (.slli d a sh) ∧ decode (encode (.srli d a sh)) = some (.srli d a sh) ∧
    decode (encode (.srai d a sh)) = some (.srai d a sh) ∧
    decode (BitVec.ofNat 32 (0x0A * 2 ^ 26 + d.toNat * 2 ^ 21 + a.toNat * 2 ^ 16 + 3 * 2 ^ 6 + sh.toNat)) = none) ∧
  (∀ (s : State) (d a : Reg) (sh : BitVec 6), s.runs .any →
    exec (.slli d a sh) s = .next ((s.setG d (s.g a <<< sh.toNat)).retire (.slli d a sh) .seq) ∧
    exec (.srli d a sh) s = .next ((s.setG d (s.g a >>> sh.toNat)).retire (.srli d a sh) .seq) ∧
    exec (.srai d a sh) s = .next ((s.setG d ((s.g a).sshiftRight sh.toNat)).retire (.srai d a sh) .seq)) ∧
  (∀ (s : State) (d a b : Reg), s.runs .any →
    (∃ t u, exec (.sll d a b) s = .next t ∧ exec (.slli d a ((s.g b).setWidth 6)) s = .next u ∧ t.g d = u.g d) ∧
    (∃ t u, exec (.srl d a b) s = .next t ∧ exec (.srli d a ((s.g b).setWidth 6)) s = .next u ∧ t.g d = u.g d) ∧
    (∃ t u, exec (.sra d a b) s = .next t ∧ exec (.srai d a ((s.g b).setWidth 6)) s = .next u ∧ t.g d = u.g d))

/-- R134: sel is a conditional move; and the constant built by ori and three lsi, from words to value. -/
def Obligations.SelAndConstant : Prop :=
  (∀ (s : State) (d a b : Reg), s.runs .any →
    exec (.sel d a b) s = .next ((if s.g b ≠ 0 then s.setG d (s.g a) else s).retire (.sel d a b) .seq)) ∧
  (∀ (d a b : Reg),
    encode (.sel d a b) = BitVec.ofNat 32 (0x0B * 2 ^ 26 + d.toNat * 2 ^ 21 + a.toNat * 2 ^ 16 + b.toNat * 2 ^ 11)) ∧
  decode 0x11801234 = some (.ori 12 0 0x1234) ∧ decode 0x258C5678 = some (.lsi 12 12 0x5678) ∧
  decode 0x258C9ABC = some (.lsi 12 12 0x9ABC) ∧ decode 0x258CDEF0 = some (.lsi 12 12 0xDEF0) ∧
  (∀ (s : State), s.runs .any → ∃ t u v w,
    exec (.ori 12 0 0x1234) s = .next t ∧ t.g 12 = 0x1234 ∧
    exec (.lsi 12 12 0x5678) t = .next u ∧ u.g 12 = 0x12345678 ∧
    exec (.lsi 12 12 0x9ABC) u = .next v ∧ v.g 12 = 0x123456789ABC ∧
    exec (.lsi 12 12 0xDEF0) v = .next w ∧ w.g 12 = 0x123456789ABCDEF0)

/-- R139: jal, jalr and jr; the target is computed before g1 is written, and its low two bits are clear. R141: what the end of an
instruction makes of the pc and of LOOPCTL; nothing else of the state changes but what single step makes pending (R359). -/
def Obligations.JumpsAndTheEndOfInstructions : Prop :=
  (∀ (s : State), s.runs .any →
     (∀ (d : Reg) (off : BitVec 21), exec (.jal d off) s =
       .next ((s.setG d (s.cur.pc + 4)).retire (.jal d off) (.jump (s.cur.pc + off.signExtend 64 * 4)))) ∧
     (∀ (a : Reg) (off : BitVec 16), exec (.jalr a off) s =
       .next ((s.setG 1 (s.cur.pc + 4)).retire (.jalr a off) (.jump ((s.g a + off.signExtend 64 * 4) &&& ~~~3)))) ∧
     (∀ (a : Reg) (off : BitVec 16), exec (.jr a off) s =
       .next (s.retire (.jr a off) (.jump ((s.g a + off.signExtend 64 * 4) &&& ~~~3))))) ∧
  (∀ (s : State) (i : Instr),
     let len := (s.regs.loopCtl.toNat) % 64
     let reg : Reg := BitVec.ofNat 5 (s.regs.loopCtl.toNat / 64)
     let atEnd : Prop := len ≠ 0 ∧ s.cur.pc = s.regs.loopAddr + 4 * BitVec.ofNat 64 (len - 1)
     (∀ target, (s.retire i (.jump target)).cur.pc = target ∧ (s.retire i (.jump target)).regs = s.regs) ∧
     (¬atEnd → (s.retire i .seq).cur.pc = s.cur.pc + 4 ∧ (s.retire i .seq).regs = s.regs) ∧
     (atEnd → s.g reg ≠ 0 →
       (s.retire i .seq).cur.pc = s.regs.loopAddr ∧ (s.retire i .seq).regs = s.regs) ∧
     (atEnd → s.g reg = 0 →
       (s.retire i .seq).cur.pc = s.cur.pc + 4 ∧ (s.retire i .seq).regs = { s.regs with loopCtl := 0 }) ∧
     (∀ f, ∃ ps, { s.retire i f with cur := { (s.retire i f).cur with pc := s.cur.pc, regs := s.cur.regs } } =
         { s with cur := { s.cur with pending := ps } } ∧
       (s.cur.kind ≠ .thread ∨ s.regs.kstatus.getLsbD 0 = true ∨ s.regs.kstatus.getLsbD 11 = false → ps = s.cur.pending)))

/-- R138, whole: majors 0x0D to 0x10 in format SB; the comparison decides between the target and the next word. -/
def Obligations.ConditionalBranches : Prop :=
  (∀ (a b : Reg) (off : BitVec 16),
    encode (.beq a b off) = BitVec.ofNat 32 (0x0D * 2 ^ 26 + a.toNat * 2 ^ 21 + b.toNat * 2 ^ 16 + off.toNat) ∧
    encode (.bne a b off) = BitVec.ofNat 32 (0x0E * 2 ^ 26 + a.toNat * 2 ^ 21 + b.toNat * 2 ^ 16 + off.toNat) ∧
    encode (.blt a b off) = BitVec.ofNat 32 (0x0F * 2 ^ 26 + a.toNat * 2 ^ 21 + b.toNat * 2 ^ 16 + off.toNat) ∧
    encode (.bge a b off) = BitVec.ofNat 32 (0x10 * 2 ^ 26 + a.toNat * 2 ^ 21 + b.toNat * 2 ^ 16 + off.toNat)) ∧
  ∀ (s : State) (a b : Reg) (off : BitVec 16), s.runs .any →
    let target := s.cur.pc + off.signExtend 64 * 4
    exec (.beq a b off) s = .next (s.retire (.beq a b off) (if s.g a = s.g b then .jump target else .seq)) ∧
    exec (.bne a b off) s = .next (s.retire (.bne a b off) (if s.g a ≠ s.g b then .jump target else .seq)) ∧
    exec (.blt a b off) s = .next (s.retire (.blt a b off) (if (s.g a).toInt < (s.g b).toInt then .jump target else .seq)) ∧
    exec (.bge a b off) s = .next (s.retire (.bge a b off) (if (s.g a).toInt ≥ (s.g b).toInt then .jump target else .seq)) ∧
    (∀ i, (s.retire i (.jump target)).cur.pc = target) ∧
    (∀ i, s.regs.loopCtl.toNat % 64 = 0 → (s.retire i .seq).cur.pc = s.cur.pc + 4)

/-- R140, R22: the predicate branches test bits 0 to VL − 1 of pa, where p0 reads as all ones, after every earlier vector
instruction of the thread has completed. R141–R143, R373: loopv with its body words read: an active loop is refused, a count of
0 skips the body, any other count starts it, with the words in the replay buffer. -/
def Obligations.PredicateBranchesAndLoops : Prop :=
  (∀ (s : State) (a : Reg) (off : BitVec 16), s.runs .threadOnly →
     let vl := s.regs.vl.toNat % 2048
     let target := s.cur.pc + off.signExtend 64 * 4
     let u : State := { s with cur := { s.cur with vqueue := [] } }
     ((∃ k, k < vl ∧ k < 1024 ∧ (s.p a).getLsbD k = true) →
       exec (.bpany a off) s = .next (u.retire (.bpany a off) (.jump target))) ∧
     ((∀ k, k < vl → k < 1024 → (s.p a).getLsbD k = false) →
       exec (.bpany a off) s = .next (u.retire (.bpany a off) .seq)) ∧
     ((∀ k, k < vl → k < 1024 → (s.p a).getLsbD k = true) →
       exec (.bpall a off) s = .next (u.retire (.bpall a off) (.jump target))) ∧
     ((∃ k, k < vl ∧ k < 1024 ∧ (s.p a).getLsbD k = false) →
       exec (.bpall a off) s = .next (u.retire (.bpall a off) .seq))) ∧
  (∀ (s u : State) (a : Reg) (n : BitVec 16) (ws : List IWord), s.runs .threadOnly →
     (s.regs.loopCtl.toNat % 64 ≠ 0 →
       exec (.loopv a n) s = .next (settle (.loopv a n) (trap 0x0F none s.regs.loopAddr) s)) ∧
     (s.regs.loopCtl.toNat % 64 = 0 → readBody (s.cur.pc + 4) n.toNat s = .ok ws u → u.g a = 0 →
       exec (.loopv a n) s = .next (u.retire (.loopv a n) (.jump (s.cur.pc + 4 + 4 * n.setWidth 64)))) ∧
     (s.regs.loopCtl.toNat % 64 = 0 → readBody (s.cur.pc + 4) n.toNat s = .ok ws u → u.g a ≠ 0 →
       exec (.loopv a n) s = .next (({ u with cur := { u.cur with
           replay := Vector.ofFn (fun k => ws.getD k.val 0),
           regs := { u.cur.regs with loopAddr := s.cur.pc + 4, loopCtl := BitVec.ofNat 64 (64 * a.toNat + n.toNat) } } } : State).retire
         (.loopv a n) (.jump (s.cur.pc + 4)))) ∧
     (readBody (s.cur.pc + 4) n.toNat s = .ok ws u → ws.length = n.toNat ∧
       ∀ w ∈ ws, ¬(0x0D ≤ w.toNat / 2 ^ 26 ∧ w.toNat / 2 ^ 26 ≤ 0x12) ∧ w.toNat / 2 ^ 26 ≠ 0x30 ∧ w.toNat / 2 ^ 26 ≠ 0x31))

/-! ## Scalar floating point -/

/-- R136: each form rounds the exact result of its flushed operands once, writes it zero-extended, and raises events in FFLAGS
alone. -/
def Obligations.ScalarFloat : Prop :=
  ∀ (s : State) (d a b : Reg) (fmt rm : BitVec 2), s.runs .threadOnly →
    let f : Fmt := match fmt.toNat with | 0 => 6 | 1 => 5 | 2 => 7 | _ => 8
    let val (r : Rnd) (n : Reg) : Val := decodeFloat f (flushIn f r.fz ((s.g n).toNat % 2 ^ Fmt.bits f))
    let done (i : Instr) (r : Nat × Events) : Out := .next (((s.raise r.2).setG d (BitVec.ofNat 64 r.1)).retire i .seq)
    exec (.fadd d a b fmt rm) s = done (.fadd d a b fmt rm)
      (roundOp f (s.rnd rm 0) (addVal (s.rnd rm 0).mode (val (s.rnd rm 0) a) (val (s.rnd rm 0) b))) ∧
    exec (.fsub d a b fmt rm) s = done (.fsub d a b fmt rm)
      (roundOp f (s.rnd rm 0) (addVal (s.rnd rm 0).mode (val (s.rnd rm 0) a) (val (s.rnd rm 0) b).negate)) ∧
    exec (.fmul d a b fmt rm) s = done (.fmul d a b fmt rm)
      (roundOp f (s.rnd rm 0) (mulVal (val (s.rnd rm 0) a) (val (s.rnd rm 0) b))) ∧
    exec (.fmadd d a b fmt rm) s = done (.fmadd d a b fmt rm)
      (fMulAdd f (s.rnd rm 0) (val (s.rnd rm 0) a) (val (s.rnd rm 0) b) (val (s.rnd rm 0) d)) ∧
    ((val (s.rnd 0 0) a).isNan ∨ (val (s.rnd 0 0) b).isNan → exec (.flt d a b fmt) s = done (.flt d a b fmt) (0, 16)) ∧
    ((val (s.rnd 0 0) a).isNan = false → (val (s.rnd 0 0) b).isNan = false → exec (.flt d a b fmt) s =
      done (.flt d a b fmt) (if cmpVal (val (s.rnd 0 0) a) (val (s.rnd 0 0) b) < 0 then 1 else 0, 0))

/-- R137, R90: fcvt between a scalar format and INT32 or INT64, either way. R137: fcvt between two floating-point formats rounds the
operand once into the result format. R84, R85, R87: a value that a format holds rounds to its own bits, in every mode, without
an event; a NaN rounds to the canonical NaN. -/
def Obligations.ScalarConversions : Prop :=
  (∀ (s : State) (d a : Reg) (fmt rm : BitVec 2), s.runs .threadOnly →
     let f : Fmt := scalarFmt fmt
     let r := s.rnd rm 0
     let x : Val := decodeFloat f (flushIn f r.fz ((s.g a).toNat % 2 ^ Fmt.bits f))
     let done (i : Instr) (w : Word) (e : Events) : Out := .next (((s.raise e).setG d w).retire i .seq)
     exec (.fcvt d a false 3 fmt rm) s = done (.fcvt d a false 3 fmt rm)
       (BitVec.ofNat 64 (roundVal f r (intVal ((s.g a).setWidth 32).toInt)).1) (roundVal f r (intVal ((s.g a).setWidth 32).toInt)).2 ∧
     exec (.fcvt d a false 4 fmt rm) s = done (.fcvt d a false 4 fmt rm)
       (BitVec.ofNat 64 (roundVal f r (intVal (s.g a).toInt)).1) (roundVal f r (intVal (s.g a).toInt)).2 ∧
     exec (.fcvt d a true 3 fmt rm) s = done (.fcvt d a true 3 fmt rm)
       ((BitVec.ofNat 32 (valToInt 3 r x).1).signExtend 64) (valToInt 3 r x).2 ∧
     exec (.fcvt d a true 4 fmt rm) s = done (.fcvt d a true 4 fmt rm)
       (BitVec.ofNat 64 (valToInt 4 r x).1) (valToInt 4 r x).2) ∧
  (∀ (s : State) (d a : Reg) (dir : Bool) (x : BitVec 4) (fmt rm : BitVec 2), s.runs .threadOnly → 5 ≤ x.toNat → x.toNat ≤ 8 →
     let src : Fmt := if dir then scalarFmt fmt else x.toNat
     let dst : Fmt := if dir then x.toNat else scalarFmt fmt
     let r := s.rnd rm 0
     let v := decodeFloat src (flushIn src r.fz ((s.g a).toNat % 2 ^ Fmt.bits src))
     exec (.fcvt d a dir x fmt rm) s =
       .next (((s.raise (roundVal dst r v).2).setG d (BitVec.ofNat 64 (roundVal dst r v).1)).retire (.fcvt d a dir x fmt rm) .seq)) ∧
  (∀ (f : Fmt) (r : Rnd) (x : Nat), 5 ≤ f → f ≤ 10 → r.fz = false → r.mode ≤ 4 → x < 2 ^ Fmt.bits f →
     ((decodeFloat f x).isNan = false → roundVal f r (decodeFloat f x) = (x, 0)) ∧
     ((decodeFloat f x).isNan = true → roundVal f r (decodeFloat f x) = (f.nan, 0)))

/-! ## Scalar memory -/

/-- R206: a scalar load whose bytes are read completes with them in gd, zero-extended or sign-extended, and is noted as the last one
(R412). R207, R240: a scalar store
whose bytes are stored completes; it then records its write range. R182, R183, R205: an access of n bytes to the thread's CSP
window reads or writes the bytes of its core's scratchpad and nothing else, at any alignment, and anchors the thread to its
core; log entry 6 says where the scratchpad's bytes stand in the model's memory. The read is of bytes free of errors (R404). -/
def Obligations.ScalarLoadsAndStores : Prop :=
  (∀ (s u : State) (d a : Reg) (off : BitVec 13) (n x : Nat), s.runs .any →
     loadNat false 0 (s.g a + off.signExtend 64) n s = .ok x u →
     let done (i : Instr) (y : Word) : Prop :=
       exec i s = .next (((u.setG d y).lateFrom i (s.g a + off.signExtend 64)).retire i .seq)
     (n = 1 → done (.ldb d a off) (BitVec.ofNat 64 x) ∧
       done (.ldbs d a off) (BitVec.ofInt 64 (if x < 2 ^ 7 then x else x - 2 ^ 8))) ∧
     (n = 2 → done (.ldh d a off) (BitVec.ofNat 64 x) ∧
       done (.ldhs d a off) (BitVec.ofInt 64 (if x < 2 ^ 15 then x else x - 2 ^ 16))) ∧
     (n = 4 → done (.ldw d a off) (BitVec.ofNat 64 x) ∧
       done (.ldws d a off) (BitVec.ofInt 64 (if x < 2 ^ 31 then x else x - 2 ^ 32))) ∧
     (n = 8 → done (.ldd d a off) (BitVec.ofNat 64 x))) ∧
  (∀ (s u : State) (a b : Reg) (off : BitVec 13) (n : Nat), s.runs .any →
     let va := s.g a + off.signExtend 64
     storeNat false 0 va n ((s.g b).toNat % 2 ^ (8 * n)) s = .ok () u →
     let done (i : Instr) : Prop := ∃ v,
       record 0 { base := va.toNat, stride := n, count := 1, width := n, home := false } (s.flying u i 0) = .ok () v ∧
       exec i s = .next (v.retire i .seq)
     (n = 1 → done (.stb a b off)) ∧ (n = 2 → done (.sth a b off)) ∧ (n = 4 → done (.stw a b off)) ∧
     (n = 8 → done (.std a b off))) ∧
  (∀ (s : State) (va : Word) (off n x : Nat),
     s.wf = true → s.cur.kind = .thread → s.cur.loose = [] → s.cur.holds = [] → va = 0x00FE000000000000 + BitVec.ofNat 64 off →
     off + n ≤ 2 ^ 18 → 0 < n → n ≤ 8 →
     let loc := 2 ^ 44 + placeCore s.cur.id * 2 ^ 18 + off
     let s' : State := { s with cur := { s.cur with anchorCore := true } }
     s.cleanBytes loc n →
     (∃ t, loadNat false 0 va n s = .ok (memNat s.mem loc n) t ∧ loadNat true 0 va n s = .ok (memNat s.mem loc n) t ∧
       { t with others := s.others } = s' ∧ othersKept s t) ∧
     (∃ t, storeNat false 0 va n x s = .ok () t ∧ memoryHolds loc n x t ∧ memorySameOutside loc n s t ∧
       { t with mem := s.mem, cur := { t.cur with loose := [] } } = s'))

/-- R190, R206: a load inside one 8-byte word of a line that the cluster L1 holds takes the line's bytes, where no error has poisoned
them (R404), and no byte of memory changes. R190, R207: a store inside one 8-byte word of an unmarked line that the cluster L1 holds and the thread has written
before changes the line's bytes, makes them valid and dirty, and no byte of memory changes. R233: a load performed at homes or
windows changes no byte of memory, whatever it answers, but those of the error log where it finds an error (R405). -/
def Obligations.AccessesThroughL1 : Prop :=
  (∀ (s : State) (va : Word) (n : Nat) (pl : Place) (l : L1Line),
     s.cur.loose = [] → s.cur.holds = [] → 0 < n → va.toNat % 8 + n ≤ 8 → isWindow va = false →
     translate s s.ctx .load va = .ok pl → pl.cls = .dram ∨ pl.cls = .flash →
     s.l1? s.myCluster (pl.loc / 64) = some l → (∀ k, k < n → l.valid.getLsbD (va.toNat % 64 + k) = true ∧ l.bad.getLsbD (va.toNat % 64 + k) = false) →
     ∃ t, loadNat false 0 va n s = .ok (leNat ((List.range n).map (fun k => byteOf l.data (va.toNat % 64 + k)))) t ∧
       t.mem = s.mem ∧ t.cur = s.cur ∧ { t with clusters := s.clusters, others := s.others } = s ∧ othersKept s t) ∧
  (∀ (s : State) (va : Word) (n x : Nat) (pl : Place) (l : L1Line),
     s.cur.loose = [] → s.cur.holds = [] → 0 < n → va.toNat % 8 + n ≤ 8 → isWindow va = false →
     translate s s.ctx .store va = .ok pl → pl.cls = .dram → isMarked s (pl.loc / 64) = false →
     s.l1? s.myCluster (pl.loc / 64) = some l → l.threads.contains s.cur.id = true →
     ∃ t l', storeNat false 0 va n x s = .ok () t ∧ t.l1? s.myCluster (pl.loc / 64) = some l' ∧
       (∀ k, k < n → byteOf l'.data (va.toNat % 64 + k) = BitVec.ofNat 8 (x / 256 ^ k) ∧
         l'.valid.getLsbD (va.toNat % 64 + k) = true ∧ l'.dirty.getLsbD (va.toNat % 64 + k) = true) ∧
       (∀ k, k < 64 → ¬(va.toNat % 64 ≤ k ∧ k < va.toNat % 64 + n) → byteOf l'.data k = byteOf l.data k ∧
         l'.valid.getLsbD k = l.valid.getLsbD k ∧ l'.dirty.getLsbD k = l.dirty.getLsbD k) ∧
       t.mem = s.mem ∧ registersSame s t ∧
       (∀ pl', pl' ≠ pl.loc / 64 → t.l1? s.myCluster pl' = s.l1? s.myCluster pl')) ∧
  (∀ (s : State) (st : Nat) (va : Word) (n : Nat),
     (∀ x t, loadNat true st va n s = .ok x t → t.mem = s.mem ∧ t.clusters = s.clusters ∧ x < 2 ^ (8 * n)) ∧
     (∀ e t, loadNat true st va n s = .error e t → t.clusters = s.clusters ∧ (t.latent = s.latent → t.mem = s.mem)))

/-- R208: ldp loads an aligned pointer and resolves it; ldp.heal also replaces it where it moved; a misaligned address traps in both. R208,
R200, R209: a pointer whose first translation fails or leads outside DRAM resolves to itself, one to an unmarked line too; equal
pointers compare equal without a translation, others by their resolved addresses. -/
def Obligations.Pointers : Prop :=
  (∀ (s u v w : State) (d a : Reg) (off : BitVec 13) (p : Nat) (q : Word), s.runs .any →
     let va := s.g a + off.signExtend 64
     (va.toNat % 8 ≠ 0 → exec (.ldp d a off) s = .next (settle (.ldp d a off) (trap 0x16 (some va) 0 0) s) ∧
       exec (.ldpHeal d a off) s = .next (settle (.ldpHeal d a off) (trap 0x16 (some va) 0 0) s)) ∧
     (va.toNat % 8 = 0 → loadNat false 0 va 8 s = .ok p u → resolvePointer (BitVec.ofNat 64 p) u = .ok q v →
       exec (.ldp d a off) s = .next (((v.setG d q).lateFrom (.ldp d a off) va).retire (.ldp d a off) .seq) ∧
       (q = BitVec.ofNat 64 p → exec (.ldpHeal d a off) s = .next ((v.setG d q).retire (.ldpHeal d a off) .seq)) ∧
       (q ≠ BitVec.ofNat 64 p → healPointer va (BitVec.ofNat 64 p) q v = .ok () w →
         exec (.ldpHeal d a off) s = .next (((v.flying w (.ldpHeal d a off) 0).setG d q).retire (.ldpHeal d a off) .seq)))) ∧
  (∀ (s u v : State) (d a b : Reg) (p q : Word), s.runs .any →
     ((∀ pl, translate s s.ctx .load p = .ok pl → pl.cls = .dram → isMarked s (pl.loc / 64) = false) →
       resolvePointer p s = .ok p s) ∧
     (s.g a = s.g b → exec (.peq d a b) s = .next ((s.setG d 1).retire (.peq d a b) .seq)) ∧
     (s.g a ≠ s.g b → resolvePointer (s.g a) s = .ok p u → resolvePointer (s.g b) u = .ok q v →
       exec (.peq d a b) s = .next ((v.setG d (if p = q then 1 else 0)).retire (.peq d a b) .seq)))

/-! ## Atomics, tickets, waits, fences, barriers -/

/-- R225, R226, R232: an aligned atomic whose word can be accessed completes: its release, the old word into gd (sign-extended from 32
bits), the new word in memory at its home and no other byte changed, its acquire; amocas writes only where the word equals gd. A
misaligned address traps before any of it. R225, R232: an atomic at an address that is no multiple of its width raises MISALIGN
and does nothing else. -/
def Obligations.Atomics : Prop :=
  (∀ (s s1 s2 s3 : State) (d a b : Reg) (acq rel w : Bool) (scope : BitVec 2) (pl : Place), s.runs .any →
     let n := if w then 8 else 4
     let va := s.g a
     let y := (s.g b).toNat % 2 ^ (8 * n)
     let cmp := (s.g d).toNat % 2 ^ (8 * n)
     let signed (x : Nat) : Int := (if w then BitVec.ofNat 64 x else (BitVec.ofNat 32 x).signExtend 64 : Word).toInt
     let done (o : Out) (new : Nat → Option Nat) : Prop := ∃ old v t,
       updatePlace 0 pl n n (fun x => (new x).map (fun x => x % 2 ^ (8 * n))) s3 = .ok old v ∧ o = .next t ∧ t.mem = v.mem ∧
       t.g d = (if d = 0 then 0 else if w then BitVec.ofNat 64 old else (BitVec.ofNat 32 old).signExtend 64) ∧
       registersSameBut d s t ∧
       (s3.wf = true → s3.settledAt pl.loc → (∀ tgt at_, pl.cls ≠ .bridge tgt at_) →
         old = memNat s3.mem pl.loc n ∧ memorySameOutside pl.loc n s3 t ∧
         memoryHolds pl.loc n (match new old with | some x => x % 2 ^ (8 * n) | none => old) t)
     va.toNat % n = 0 → releaseIf rel scope.toNat s = .ok () s1 → atomicPlace .atomic 0 va s1 = .ok pl s2 →
     anchor va s2 = .ok () s3 →
     done (exec (.amoswap d a b acq rel scope w) s) (fun _ => some y) ∧
     done (exec (.amoadd d a b acq rel scope w) s) (fun old => some (old + y)) ∧
     done (exec (.amoand d a b acq rel scope w) s) (fun old => some (old &&& y)) ∧
     done (exec (.amoor d a b acq rel scope w) s) (fun old => some (old ||| y)) ∧
     done (exec (.amoxor d a b acq rel scope w) s) (fun old => some (old ^^^ y)) ∧
     done (exec (.amomin d a b acq rel scope w) s) (fun old => some (if asSigned w y < asSigned w old then y else old)) ∧
     done (exec (.amomax d a b acq rel scope w) s) (fun old => some (if asSigned w old < asSigned w y then y else old)) ∧
     done (exec (.amocas d a b acq rel scope w) s) (fun old => if old = cmp then some y else none) ∧
     ∀ x, x < 2 ^ (8 * n) → asSigned w x = signed x) ∧
  (∀ (s : State) (d a b : Reg) (acq rel w : Bool) (scope : BitVec 2), s.runs .any →
     let bad (i : Instr) : Out := .next (settle i (trap 0x16 (some (s.g a)) 0 0) s)
     ((s.g a).toNat % (if w then 8 else 4) ≠ 0 →
       exec (.amoswap d a b acq rel scope w) s = bad (.amoswap d a b acq rel scope w) ∧
       exec (.amoadd d a b acq rel scope w) s = bad (.amoadd d a b acq rel scope w) ∧
       exec (.amoand d a b acq rel scope w) s = bad (.amoand d a b acq rel scope w) ∧
       exec (.amoor d a b acq rel scope w) s = bad (.amoor d a b acq rel scope w) ∧
       exec (.amoxor d a b acq rel scope w) s = bad (.amoxor d a b acq rel scope w) ∧
       exec (.amomin d a b acq rel scope w) s = bad (.amomin d a b acq rel scope w) ∧
       exec (.amomax d a b acq rel scope w) s = bad (.amomax d a b acq rel scope w) ∧
       exec (.amocas d a b acq rel scope w) s = bad (.amocas d a b acq rel scope w) ∧
       exec (.waita d a b acq rel scope w) s = bad (.waita d a b acq rel scope w)) ∧
     ((s.g a).toNat % (if w then 16 else 8) ≠ 0 →
       exec (.ticket d a b acq rel scope w) s = bad (.ticket d a b acq rel scope w)))

/-- R227, R377: a ticket takes `next` and raises it by the count where the limit allows; a refused one answers all ones and changes
nothing; a count of 0 is never refused. R228, R321, R360: waita completes with the word once it differs from gb, and else the
agent sleeps; a sleeper is tried again by WAITA_WAKE. A dispatcher's wake is its own (R348). -/
def Obligations.TicketsAndWaits : Prop :=
  (∀ (s s1 s2 s3 : State) (d a b : Reg) (acq rel w : Bool) (scope : BitVec 2) (pl : Place), s.runs .any →
     let n := if w then 8 else 4
     let va := s.g a
     let k := (s.g b).toNat % 2 ^ (8 * n)
     va.toNat % (2 * n) = 0 → releaseIf rel scope.toNat s = .ok () s1 → atomicPlace .atomic 0 va s1 = .ok pl s2 →
     anchor va s2 = .ok () s3 →
     ∃ next limit v t, takeTicket pl n k s3 = .ok (next, limit) v ∧
       exec (.ticket d a b acq rel scope w) s = .next t ∧ t.mem = v.mem ∧ registersSameBut d s t ∧
       (k = 0 ∨ next + k ≤ limit → d ≠ 0 → t.g d = BitVec.ofNat 64 next) ∧
       (¬(k = 0 ∨ next + k ≤ limit) → d ≠ 0 → t.g d = 0xFFFFFFFFFFFFFFFF) ∧
       (s3.wf = true → s3.settledAt pl.loc → s3.settledAt (pl.loc + n) → (∀ tgt at_, pl.cls ≠ .bridge tgt at_) →
         next = memNat s3.mem pl.loc n ∧ limit = memNat s3.mem (pl.loc + n) n ∧ memorySameOutside pl.loc n s3 t ∧
         (k ≠ 0 → next + k ≤ limit → memoryHolds pl.loc n (next + k) t) ∧
         (k = 0 ∨ ¬next + k ≤ limit → t.mem = s3.mem))) ∧
  (∀ (s s1 s2 s3 u : State) (d a b : Reg) (acq rel w : Bool) (scope : BitVec 2) (pl : Place) (x id : Nat), s.runs .any →
     let n := if w then 8 else 4
     let va := s.g a
     let i : Instr := .waita d a b acq rel scope w
     va.toNat % n = 0 → releaseIf rel scope.toNat s = .ok () s1 → atomicPlace .wait 0 va s1 = .ok pl s2 →
     anchor va s2 = .ok () s3 → readPlace 0 pl n s3 = .ok x u → x < 2 ^ (8 * n) →
     (x = (s.g b).toNat % 2 ^ (8 * n) → exec i s = .next (u.sleep .waita i)) ∧
     (x ≠ (s.g b).toNat % 2 ^ (8 * n) → ∃ t, exec i s = .next t ∧ t.mem = u.mem ∧ registersSameBut d s t ∧
       t.g d = (if d = 0 then 0 else if w then BitVec.ofNat 64 x else (BitVec.ofNat 32 x).signExtend 64) ∧
       ∀ (r : State), r.waitsIn id .waita i → r.retry id = s → s.cur.kind ≠ .dispatcher →
         exec (.waitaWake id) r = .next (t.focus r.cur.id)))

/-- R230: after a fence every store that an earlier stream sees is seen by every later access of the later streams, and a store
of an earlier stream by the engines (R248); its release empties the write ranges (R238), and every later access sees every store
before it, its acquire moves the mark to the tower's epoch (R242); no register changes. Streams: bit 0 scalar, 1 unit-stride,
2 gather, 3 scatter, 4 to 11 the handles. R231, R43: a barrier at which every other member has arrived completes and counts one;
else the thread waits in it, and BARRIER_COMPLETE completes it once they have. R231: a member that has not arrived at the agent's
next barrier for its party holds the barrier; one that has ended does not. -/
def Obligations.FencesAndBarriers : Prop :=
  (∀ (s : State) (mask : BitVec 5) (kind scope : BitVec 2) (acq rel : Bool), s.runs .any →
     let all : BitVec 13 := (if mask = 0 ∨ mask.getLsbD 0 then 1 else 0) ||| (if mask = 0 ∨ mask.getLsbD 2 then 2 else 0) |||
       (if mask = 0 ∨ mask.getLsbD 3 then 4 else 0) ||| (if mask = 0 ∨ mask.getLsbD 4 then 8 else 0) |||
       (if mask = 0 ∨ mask.getLsbD 1 then 0xFF0 else 0)
     let earlier : BitVec 13 := if kind = 1 then 1 else if kind = 2 then all &&& ~~~1 else all
     let later : BitVec 13 := if kind = 1 then all &&& ~~~1 else if kind = 2 then 1 else all
     (rel = true → scope = 3 → s.nothingSent) →
     ∃ t, exec (.fence mask kind acq rel scope) s = .next t ∧ registersSame s t ∧
       (∀ e ∈ t.cur.loose, (e.seen &&& earlier ≠ 0 → e.seen &&& later = later) ∧
         (earlier.getLsbD e.stream = true → e.seen.getLsbD 12 = true)) ∧
       (rel = true → t.cur.ranges = [] ∧ t.cur.overflow = false ∧
         ∀ e ∈ t.cur.loose, e.seen &&& 0xFFF = 0xFFF ∧ ∃ k, e.rel = some k ∧ scope.toNat ≤ k) ∧
       (acq = true → s.myTower < 12 → t.cur.mark = (t.tower s.myTower).epoch) ∧
       (earlier.getLsbD 3 = true → t.bank = s.bank.filter (fun x => x.agent != s.cur.id))) ∧
  (∀ (s u : State) (mask : BitVec 5) (acq rel : Bool) (scope : BitVec 2) (id : Nat), s.runs .threadOnly → mask.toNat ≤ 3 →
     let i : Instr := .barrier mask acq rel scope
     releaseIf rel scope.toNat s = .ok () u →
     (u.allArrived mask.toNat = false → exec i s = .next (u.sleep .barrier i)) ∧
     (u.allArrived mask.toNat = true → ∃ t, exec i s = .next t ∧ registersSame s t ∧ t.mem = u.mem ∧
       t.cur.barriers.toList.getD mask.toNat 0 = u.cur.barriers.toList.getD mask.toNat 0 + 1 ∧
       (∀ k, k ≠ mask.toNat → t.cur.barriers.toList.getD k 0 = u.cur.barriers.toList.getD k 0) ∧
       ∀ (r : State), r.waitsIn id .barrier i → r.retry id = s → exec (.barrierComplete id) r = .next (t.focus r.cur.id))) ∧
  (∀ (s : State) (party : Nat), party ≤ 3 →
     (s.allArrived party = true ↔ ∀ m ∈ s.others, inParty party s.cur m = true →
       (∃ c, m.status = .ended c) ∨
       s.cur.barriers.toList.getD party 0 + 1 ≤ m.barriers.toList.getD party 0 +
         (match m.status with | .waiting .barrier (.barrier k _ _ _) => if k.toNat = party then 1 else 0 | _ => 0)))

/-! ## Vector length, type, registers -/

/-- R157, R158, R109: vsetvli and vsetvl set VL, VTYPE and gd, and VSTART to 0, and end a convoy (R28); a reserved value of vsetvl traps with VTYPE_BAD and
changes nothing before the trap. R117, R115: vretag copies the images of the group at va to vd under a new tag, VSTART becomes
0, and no other register changes; a misaligned group traps with GROUP_ALIGN, va first. -/
def Obligations.VectorLengthAndType : Prop :=
  (∀ (s : State) (d a b : Reg) (fmt : BitVec 4) (grp tail : BitVec 2), s.runs .threadOnly →
     let set (f g : Nat) (t : Nat) : State :=
       let lim := min (4096 * g / Fmt.bits f) 1024
       let n := if a = 0 then lim else min (s.g a).toNat lim
       let vl := if Fmt.isBlock f then 32 * ((n + 31) / 32) else n
       (({ s with cur := { s.cur with regs := { s.cur.regs with
           vl := BitVec.ofNat 64 (vl + 65536 * n), vtype := BitVec.ofNat 64 t, vstart := 0 } } } : State).setG d
             (BitVec.ofNat 64 n)).closeConvoy
     let x := (s.g b).toNat
     exec (.vsetvli d a fmt grp tail) s =
       .next ((set fmt.toNat (2 ^ grp.toNat) (512 * fmt.toNat + 128 * grp.toNat + 32 * tail.toNat)).retire
         (.vsetvli d a fmt grp tail) .seq) ∧
     (x / 512 % 16 ≤ 12 → x / 32 % 4 ≠ 3 → x % 32 = 0 →
       exec (.vsetvl d a b) s = .next ((set (x / 512 % 16) (2 ^ (x / 128 % 4)) (x % 8192)).retire (.vsetvl d a b) .seq)) ∧
     (12 < x / 512 % 16 ∨ x / 32 % 4 = 3 ∨ x % 32 ≠ 0 →
       exec (.vsetvl d a b) s = .next (settle (.vsetvl d a b) (trap 0x48 (some (s.g b))) s))) ∧
  (∀ (s : State) (d a : Reg) (fmt : BitVec 4) (grp : BitVec 2), s.runs .threadOnly → s.cur.vqueue.length < 32 →
     let g := 2 ^ grp.toNat
     let want := (List.range g).foldl (fun n j =>
       n + newRows (s.v (d.toNat + j)) (retagMember s a.toNat fmt.toNat g j)) 0
     (a.toNat % g ≠ 0 → exec (.vretag d a fmt grp) s =
       .next (settle (.vretag d a fmt grp) (trap 0x41 (some (a.setWidth 64)) ((s.tag a).setWidth 64)) s)) ∧
     (a.toNat % g = 0 → d.toNat % g ≠ 0 → exec (.vretag d a fmt grp) s =
       .next (settle (.vretag d a fmt grp) (trap 0x41 (some (d.setWidth 64)) ((mkTag fmt.toNat g).setWidth 64)) s)) ∧
     (a.toNat % g = 0 → d.toNat % g = 0 → want ≤ s.rowsFree →
       ∃ t, exec (.vretag d a fmt grp) s = .next t ∧ vectorFrame s t ∧ t.regs.start = 0 ∧ t.cur.p = s.cur.p ∧
         (∀ j, j < g → (t.v (d.toNat + j)).image = (s.v (a.toNat + j)).image ∧
           (t.v (d.toNat + j)).rows = (s.v (a.toNat + j)).rows ∧ (t.v (d.toNat + j)).tail = (s.v (a.toNat + j)).tail ∧
           (t.v (d.toNat + j)).tag = mkTag fmt.toNat g) ∧
         (∀ n, ¬(d.toNat ≤ n ∧ n < d.toNat + g) → t.v n = s.v n)))

/-- R124–R127: vspill, vsave and vrestore of a frame or area whose accesses are performed: what the frame holds, what is read
back, gd, VSTART; a misaligned address traps. A save area restores VL, VTYPE, VSTART, VHIGH, VDIRTY, every descriptor and every
register and predicate it stores; what it does not store becomes unmapped with tag 0x00, or zero (R126, R127). -/
def Obligations.SpillSaveRestore : Prop :=
  ∀ (s u : State) (d a : Reg) (head body : List Byte), s.runs .threadOnly → s.cur.vqueue.length < 32 →
    let va := s.g a
    let empty : State := { s with cur := { s.cur with vqueue := [] } }
    let n := min s.regs.len (capacity (tagFmt (s.tag d)) * tagGroup (s.tag d))
    let queued (i : Instr) (s t : State) : State := (t.enqueue (VToken.of 2 i s t)).retire i .seq
    (va.toNat % 64 = 0 → d.toNat % tagGroup (s.tag d) = 0 → storeBytes va (s.spillBytes d.toNat n) s.uncut.committed = .ok () u →
      let w := s.uncut.committed.flying u (.vspill d a) 1
      exec (.vspill d a) s = .next (queued (.vspill d a) s.uncut (w.setRegs { w.regs with vstart := 0 }))) ∧
    (va.toNat % 64 = 0 → storeBytes va empty.vareaBytes empty = .ok () u →
      let w := empty.flying u (.vsave d a) 1
      exec (.vsave d a) s = .next (queued (.vsave d a) empty ((w.setRegs { w.regs with vstart := 0 }).setG d
        (BitVec.ofNat 64 empty.vareaBytes.length)))) ∧
    (va.toNat % 64 ≠ 0 →
      (d.toNat % tagGroup (s.tag d) = 0 →
        exec (.vspill d a) s = .next (settle (.vspill d a) (trap 0x43 (some va) 0 6) s.uncut)) ∧
      exec (.vsave d a) s = .next (settle (.vsave d a) (trap 0x43 (some va) 0 6) s) ∧
      exec (.vrestore d a) s = .next (settle (.vrestore d a) (trap 0x43 (some va) 0 2) s)) ∧
    (∀ (u' : State), va.toNat % 64 = 0 → loadBytes va 64 empty = .ok head u → areaNat head 0 1 = 2 → frameOk head = true →
      let (v, f, g, _, len) := frameHead head
      loadBytes (va + 64) (frameSize f len - 64) u = .ok body u' →
      let xs := head ++ body
      (List.range g).foldl (fun n j => n + newRows (u'.v (v + j)) (frameMember xs j)) 0 ≤ u'.rowsFree →
      ∃ t, exec (.vrestore d a) s = .next t ∧ t.mem = u'.mem ∧ t.regs.start = 0 ∧ t.regs.vl = u'.regs.vl ∧
        t.regs.vtype = u'.regs.vtype ∧ t.cur.p = u'.cur.p ∧
        (d ≠ 0 → t.g d = BitVec.ofNat 64 (frameSize f len)) ∧ (∀ n : Reg, n ≠ d → t.g n = u'.g n) ∧
        (∀ j, j < g → t.v (v + j) = frameMember xs j) ∧ (∀ n, ¬(v ≤ n ∧ n < v + g) → t.v n = u'.v n)) ∧
    (∀ (u' : State) (more : List Byte), va.toNat % 64 = 0 → loadBytes va 64 empty = .ok head u → areaNat head 0 1 = 1 →
      loadBytes (va + 64) 128 u = .ok more u' →
      let desc := head ++ more
      vareaOk desc = true →
      ∀ (u2 : State), loadBytes (va + 192) (areaNat desc 48 8 - 192) u' = .ok body u2 →
      let xs := desc ++ body
      u2.vareaNew xs ≤ u2.rowsFree →
      let dirty (n : Nat) : Bool := (areaNat xs 40 8).testBit n
      let rows := areaNat xs 32 8 / 2 ^ 9 % 16
      let desc_ (k : Nat) : Nat := areaNat xs (64 + 4 * k) 4
      let saved (k : Nat) : Bool := decide (k ≤ areaNat xs 32 8 % 32) && dirty k
      let scaled (k : Nat) : Bool := Fmt.isBlock (desc_ k % 64 / 4) && k % 2 ^ (desc_ k % 4) == 0
      let place (k : Nat) : Nat := ((List.range k).filter saved).foldl (fun o j => o + 64 * rows + if scaled j then 64 else 0) 192
      let predPlace (k : Nat) : Nat := place 32 + 128 * ((List.range k).filter (fun j => decide (1 ≤ j) && dirty (32 + j))).length
      ∃ t, exec (.vrestore d a) s = .next t ∧ t.mem = u2.mem ∧ t.regs.vl = BitVec.ofNat 64 (areaNat xs 8 8) &&& 0x7FF07FF ∧
        t.regs.vtype = BitVec.ofNat 64 (areaNat xs 16 8) &&& 0x1FE0 ∧
        t.regs.vstart = BitVec.ofNat 64 (areaNat xs 24 8) &&& 0x7FF ∧ t.regs.vhigh = BitVec.ofNat 64 (areaNat xs 32 8) &&& 0x1E3F ∧
        t.regs.vdirty = BitVec.ofNat 64 (areaNat xs 40 8) &&& 0xFFFFFFFEFFFFFFFF ∧
        (∀ k, k < 32 → (t.v k).wlen = BitVec.ofNat 11 (desc_ k / 256) ∧ (t.v k).tail = BitVec.ofNat 2 (desc_ k / 64) ∧
          (saved k = true → (t.v k).tag = BitVec.ofNat 6 (desc_ k) ∧
            (t.v k).image = BitVec.ofNat 4096 (areaNat xs (place k) (64 * rows)) ∧
            (t.v k).rows = BitVec.ofNat 8 (2 ^ rows - 1) ∧ (t.v k).scaleRow = scaled k ∧
            (scaled k = true → (t.v k).scale = BitVec.ofNat 512 (areaNat xs (place k + 64 * rows) 64))) ∧
          (saved k = false → (t.v k).tag = 0 ∧ (t.v k).rows = 0 ∧ (t.v k).scaleRow = false)) ∧
        (∀ q : Reg, q ≠ 0 → t.p q = if dirty (32 + q.toNat) then BitVec.ofNat 1024 (areaNat xs (predPlace q.toNat) 128) else 0) ∧
        (d ≠ 0 → t.g d = BitVec.ofNat 64 (areaNat desc 48 8)) ∧ (∀ n : Reg, n ≠ d → t.g n = u2.g n)) ∧
    (va.toNat % 64 = 0 → loadBytes va 64 empty = .ok head u → areaNat head 0 1 ≠ 1 → areaNat head 0 1 ≠ 2 →
      exec (.vrestore d a) s = .next (settle (.vrestore d a) (trap 0x45 (some va) 0 2) u))

/-! ## Vector arithmetic -/

/-- R160, R163, R82, R98: the two-source integer forms compute each active element from VSTART to VL − 1 in the operation format,
where both sources are integers; vqadd and vqsub clamp and raise OF. R160, R163: vmacc adds the product to the destination's own
element; its operation format takes all three. A form that fails a check of R160 traps at the first it fails and does nothing else. -/
def Obligations.VectorIntegers : Prop :=
  (∀ (s : State) (d a b p : Reg) (g : Nat),
     let f := promote (if (tagFmt (s.tag a)).isBlock then 6 else tagFmt (s.tag a)) (tagFmt (s.tag b))
     VectorReady s d [a, b] f g s.regs.start s.regs.len → mayRestart s d [a, b] f g → Fmt.isInt f = true →
     let x (k : Nat) : Int := s.intOperand a.toNat k
     let y (k : Nat) : Int := s.intOperand b.toNat k
     let ux (k : Nat) : Nat := intBits f (x k)
     let uy (k : Nat) : Nat := intBits f (y k)
     let clamp (z : Int) : Int := max (Fmt.intMin f) (min z (Fmt.intMax f))
     let sx (k : Nat) : Int := if 2 * ux k < 2 ^ Fmt.bits f then ux k else (ux k : Int) - 2 ^ Fmt.bits f
     let completes (i : Instr) (val : Nat → Int) : Prop :=
       vectorCompletes s (exec i s) d f g s.regs.len ((s.actives p).map (fun k => (k, intBits f (val k)))) []
     let saturates (i : Instr) (val : Nat → Int) : Prop :=
       vectorCompletes s (exec i s) d f g s.regs.len ((s.actives p).map (fun k => (k, intBits f (clamp (val k)))))
         (((s.actives p).filter (fun k => clamp (val k) != val k)).map (fun k => (k, 4)))
     completes (.vadd d a b p) (fun k => x k + y k) ∧
     completes (.vsub d a b p) (fun k => x k - y k) ∧
     saturates (.vqadd d a b p) (fun k => x k + y k) ∧
     saturates (.vqsub d a b p) (fun k => x k - y k) ∧
     completes (.vmul d a b p) (fun k => x k * y k) ∧
     completes (.vmulh d a b p) (fun k => x k * y k / 2 ^ Fmt.bits f) ∧
     completes (.vand d a b p) (fun k => (ux k &&& uy k : Nat)) ∧
     completes (.vor d a b p) (fun k => (ux k ||| uy k : Nat)) ∧
     completes (.vxor d a b p) (fun k => (ux k ^^^ uy k : Nat)) ∧
     completes (.vsll d a b p) (fun k => (ux k <<< (uy k % Fmt.bits f) : Nat)) ∧
     completes (.vsrl d a b p) (fun k => (ux k >>> (uy k % Fmt.bits f) : Nat)) ∧
     completes (.vsra d a b p) (fun k => sx k >>> (uy k % Fmt.bits f)) ∧
     completes (.vmin d a b p) (fun k => min (x k) (y k)) ∧
     completes (.vmax d a b p) (fun k => max (x k) (y k))) ∧
  (∀ (s : State) (d a b p : Reg) (g : Nat),
     let f := s.opFmt [a, b, d]
     VectorReady s d [a, b, d] f g s.regs.start s.regs.len → mayRestart s d [a, b, d] f g → Fmt.isInt f = true →
     vectorCompletes s (exec (.vmacc d a b p) s) d f g s.regs.len
       ((s.actives p).map (fun k =>
         (k, intBits f (s.intOperand d.toNat k + s.intOperand a.toNat k * s.intOperand b.toNat k)))) []) ∧
  (∀ (s : State) (d a b p : Reg) (x : Exec Unit), s.runs .threadOnly → s.cur.vqueue.length < 32 →
     let f2 := s.opFmt [a, b]
     let f3 := s.opFmt [a, b, d]
     let traps (i : Instr) : Prop := exec i s = .next (settle i x s)
     (s.checkTrap false [a, b] (Fmt.isInt f2) (s.mismatchTags (some a) (some b) none) [(d, f2)] = some x →
       traps (.vadd d a b p) ∧ traps (.vsub d a b p) ∧ traps (.vqadd d a b p) ∧ traps (.vqsub d a b p) ∧ traps (.vmul d a b p) ∧
       traps (.vmulh d a b p) ∧ traps (.vand d a b p) ∧ traps (.vor d a b p) ∧ traps (.vxor d a b p) ∧ traps (.vsll d a b p) ∧
       traps (.vsrl d a b p) ∧ traps (.vsra d a b p) ∧ traps (.vmin d a b p) ∧ traps (.vmax d a b p)) ∧
     (s.checkTrap false [a, b, d] (Fmt.isInt f3) (s.mismatchTags (some a) (some b) (some d)) [(d, f3)] = some x → traps (.vmacc d a b p)))

/-- R160, R164, R86, R92: the floating-point forms compute each active element once rounded, with the draw of its own index, and
raise the events of its operands and its result at that index. R85, R164, R165: the sign forms change the sign bit alone: of the
stored bits where the operand has the operation format, else of the operand converted to it; vfclass writes the class word of
the operand, without an event. The model's choice: vfma and vfms take the operation format of their three operands (log entry 53),
and the sign forms leave an operand of the operation format as stored, whatever fz holds, flushing only a converted one (log entry
57). A form that fails a check of R160 traps at the first it fails and does nothing else. -/
def Obligations.VectorFloats : Prop :=
  (∀ (s : State) (d a b p : Reg) (rm : BitVec 2) (g : Nat),
     let f1 := s.opFmt [a]
     let f2 := s.opFmt [a, b]
     let f3 := s.opFmt [a, b, d]
     let r (k : Nat) : Rnd := s.rnd rm k
     let x (k : Nat) := s.operand a.toNat k (r k)
     let y (k : Nat) := s.operand b.toNat k (r k)
     let z (k : Nat) := s.operand d.toNat k (r k)
     let completes (i : Instr) (f : Fmt) (val : Nat → Nat × Events) (ev : Nat → Events) : Prop :=
       vectorCompletes s (exec i s) d f g s.regs.len ((s.actives p).map (fun k => (k, (val k).1)))
         ((s.actives p).map (fun k => (k, ev k ||| (val k).2)))
     (VectorReady s d [a] f1 g s.regs.start s.regs.len → mayRestart s d [a] f1 g → Fmt.isFloat f1 = true →
       completes (.vfsqrt d a p rm) f1 (fun k => fSqrt f1 (r k) (x k).1) (fun k => (x k).2) ∧
       completes (.vfrecip d a p rm) f1 (fun k => fDiv f1 (r k) (.fin false 1 0) (x k).1) (fun k => (x k).2) ∧
       completes (.vfrsqrt d a p rm) f1 (fun k => fRsqrt f1 (r k) (x k).1) (fun k => (x k).2)) ∧
     (VectorReady s d [a, b] f2 g s.regs.start s.regs.len → mayRestart s d [a, b] f2 g → Fmt.isFloat f2 = true →
       completes (.vfadd d a b p rm) f2 (fun k => roundOp f2 (r k) (addVal (r k).mode (x k).1 (y k).1)) (fun k => (x k).2 ||| (y k).2) ∧
       completes (.vfsub d a b p rm) f2 (fun k => roundOp f2 (r k) (addVal (r k).mode (x k).1 (y k).1.negate)) (fun k => (x k).2 ||| (y k).2) ∧
       completes (.vfmul d a b p rm) f2 (fun k => roundOp f2 (r k) (mulVal (x k).1 (y k).1)) (fun k => (x k).2 ||| (y k).2) ∧
       completes (.vfdiv d a b p rm) f2 (fun k => fDiv f2 (r k) (x k).1 (y k).1) (fun k => (x k).2 ||| (y k).2) ∧
       completes (.vfmin d a b p rm) f2 (fun k => roundVal f2 { rndRNE with fz := (r k).fz } (minMaxVal false (x k).1 (y k).1)) (fun k => (x k).2 ||| (y k).2) ∧
       completes (.vfmax d a b p rm) f2 (fun k => roundVal f2 { rndRNE with fz := (r k).fz } (minMaxVal true (x k).1 (y k).1)) (fun k => (x k).2 ||| (y k).2)) ∧
     (VectorReady s d [a, b, d] f3 g s.regs.start s.regs.len → mayRestart s d [a, b, d] f3 g → Fmt.isFloat f3 = true →
       completes (.vfma d a b p rm) f3 (fun k => fMulAdd f3 (r k) (x k).1 (y k).1 (z k).1) (fun k => (x k).2 ||| (y k).2 ||| (z k).2) ∧
       completes (.vfms d a b p rm) f3 (fun k => fMulAdd f3 (r k) (x k).1.negate (y k).1 (z k).1) (fun k => (x k).2 ||| (y k).2 ||| (z k).2))) ∧
  (∀ (s : State) (d a b p : Reg) (rm : BitVec 2) (g : Nat),
     let f1 := s.opFmt [a]
     let f2 := s.opFmt [a, b]
     let bitsOf (v : Reg) (k : Nat) (f : Fmt) : Nat × Events :=
       if tagFmt (s.tag v) = f then (s.elem v.toNat k, 0)
       else ((roundVal f rndRNE (s.operand v.toNat k (s.rnd rm k)).1).1, (s.operand v.toNat k (s.rnd rm k)).2)
     let sign (f : Fmt) : Nat := 2 ^ (Fmt.bits f - 1)
     let completes (i : Instr) (f : Fmt) (val : Nat → Nat) (ev : Nat → Events) : Prop :=
       vectorCompletes s (exec i s) d f g s.regs.len ((s.actives p).map (fun k => (k, val k)))
         ((s.actives p).map (fun k => (k, ev k)))
     (VectorReady s d [a] f1 g s.regs.start s.regs.len → mayRestart s d [a] f1 g → Fmt.isFloat f1 = true →
       completes (.vfabs d a p rm) f1 (fun k => (bitsOf a k f1).1 % sign f1) (fun k => (bitsOf a k f1).2) ∧
       completes (.vfneg d a p rm) f1 (fun k => (bitsOf a k f1).1 ^^^ sign f1) (fun k => (bitsOf a k f1).2)) ∧
     (VectorReady s d [a, b] f2 g s.regs.start s.regs.len → mayRestart s d [a, b] f2 g → Fmt.isFloat f2 = true →
       completes (.vfsgnj d a b p rm) f2
         (fun k => (bitsOf a k f2).1 % sign f2 + (bitsOf b k f2).1 / sign f2 % 2 * sign f2)
         (fun k => (bitsOf a k f2).2 ||| (bitsOf b k f2).2)) ∧
     (VectorReady s d [a] (classFmt f1) g s.regs.start s.regs.len → mayRestart s d [a] (classFmt f1) g →
       Fmt.isFloat f1 = true →
       completes (.vfclass d a p rm) (classFmt f1) (fun k => classWord f1 (s.bitsIn a.toNat k f1)) (fun _ => 0))) ∧
  (∀ (s : State) (d a b p : Reg) (rm : BitVec 2) (x : Exec Unit), s.runs .threadOnly → s.cur.vqueue.length < 32 →
     let f1 := s.opFmt [a]
     let f2 := s.opFmt [a, b]
     let f3 := s.opFmt [a, b, d]
     let traps (i : Instr) : Prop := exec i s = .next (settle i x s)
     (s.checkTrap false [a] (Fmt.isFloat f1) (s.mismatchTags (some a) none none) [(d, f1)] = some x →
       traps (.vfsqrt d a p rm) ∧ traps (.vfrecip d a p rm) ∧ traps (.vfrsqrt d a p rm) ∧ traps (.vfabs d a p rm) ∧
       traps (.vfneg d a p rm)) ∧
     (s.checkTrap false [a] (Fmt.isFloat f1) (s.mismatchTags (some a) none none) [(d, classFmt f1)] = some x → traps (.vfclass d a p rm)) ∧
     (s.checkTrap false [a, b] (Fmt.isFloat f2) (s.mismatchTags (some a) (some b) none) [(d, f2)] = some x →
       traps (.vfadd d a b p rm) ∧ traps (.vfsub d a b p rm) ∧ traps (.vfmul d a b p rm) ∧ traps (.vfdiv d a b p rm) ∧
       traps (.vfmin d a b p rm) ∧ traps (.vfmax d a b p rm) ∧ traps (.vfsgnj d a b p rm)) ∧
     (s.checkTrap false [a, b, d] (Fmt.isFloat f3) (s.mismatchTags (some a) (some b) (some d)) [(d, f3)] = some x →
       traps (.vfma d a b p rm) ∧ traps (.vfms d a b p rm)))

/-- R160, R168, R170, R171: the one-source conversions: vcvt into VTYPE's format, vdqbx of block elements into FP32, vnsat into a
narrower integer format with saturation and OF. R169: vcvtef writes the conversion to vd and its residual to vb, a group of the
source's format; each keeps its inactive elements and takes its descriptors and its tail, and where the two overlap the residual's
elements are the ones that stand. A conversion that fails a check of R160 traps at the first it fails and does nothing else; vcvtef
checks both destinations. -/
def Obligations.VectorConversions : Prop :=
  (∀ (s : State) (d a p : Reg) (rm : BitVec 2) (g : Nat),
     let fs := tagFmt (s.tag a)
     let fr := s.regs.fmt
     let r (k : Nat) : Rnd := s.rnd rm k
     let clamp (z : Int) : Int := max (Fmt.intMin fr) (min z (Fmt.intMax fr))
     let value (k : Nat) : Val :=
       if Fmt.isFloat fs then decodeFloat fs (flushIn fs (r k).fz (s.elem a.toNat k)) else s.elemVal a.toNat k
     let completes (i : Instr) (f : Fmt) (val : Nat → Nat × Events) : Prop :=
       vectorCompletes s (exec i s) d f g s.regs.len ((s.actives p).map (fun k => (k, (val k).1)))
         ((s.actives p).map (fun k => (k, (val k).2)))
     (VectorReady s d [a] fr g s.regs.start s.regs.len → mayRestart s d [a] fr g → Fmt.isBlock fr = false →
       completes (.vcvt d a p rm) fr (fun k =>
         if Fmt.isInt fr then (if Fmt.isInt fs then (intBits fr (s.intOperand a.toNat k), 0) else valToInt fr (r k) (value k))
         else roundVal fr (r k) (value k))) ∧
     (VectorReady s d [a] 6 g s.regs.start s.regs.len → mayRestart s d [a] 6 g → Fmt.isBlock fs = true →
       completes (.vdqbx d a p) 6 (fun k => ((roundVal 6 rndRNE (s.elemVal a.toNat k)).1, 0))) ∧
     (VectorReady s d [a] fr g s.regs.start s.regs.len → mayRestart s d [a] fr g → Fmt.isInt fs = true → Fmt.isInt fr = true →
       Fmt.bits fr ≤ Fmt.bits fs →
       completes (.vnsat d a p) fr (fun k =>
         (intBits fr (clamp (s.intOperand a.toNat k)), if clamp (s.intOperand a.toNat k) = s.intOperand a.toNat k then 0 else 4)))) ∧
  (∀ (s : State) (d a b p : Reg) (rm : BitVec 2) (g h : Nat),
     let fs := tagFmt (s.tag a)
     let fr := s.regs.fmt
     let r (k : Nat) : Rnd := s.rnd rm k
     let x (k : Nat) : Val := decodeFloat fs (flushIn fs (r k).fz (s.elem a.toNat k))
     let y (k : Nat) : Nat × Events := roundVal fr (r k) (x k)
     let lo := s.regs.start; let hi := s.regs.len
     VectorReady s d [a] fr g lo hi → VectorReady s b [a] fs h lo hi → mayRestart s d [a] fr g → mayRestart s b [a] fs h →
     Fmt.isFloat fs = true → Fmt.isFloat fr = true →
     s.rowsWanted d.toNat fr g lo hi + (s.mapRows d.toNat fr g lo hi).rowsWanted b.toNat fs h lo hi ≤ s.rowsFree →
     ∃ t, exec (.vcvtef d a b p rm) s = .next t ∧ vectorFrame s t ∧ t.regs.start = 0 ∧ t.cur.p = s.cur.p ∧
       (∀ k ∈ s.actives p, k < h * capacity fs → t.elem b.toNat k = residual fs fr (r k).fz (x k) (y k).1 % 2 ^ Fmt.bits fs) ∧
       (∀ j, j < h → (t.v (b.toNat + j)).tag = mkTag fs h ∧ (t.v (b.toNat + j)).tail = BitVec.ofNat 2 s.regs.tail ∧
         (t.v (b.toNat + j)).wlen.toNat = min (hi - j * capacity fs) (capacity fs)) ∧
       (d.toNat + g ≤ b.toNat ∨ b.toNat + h ≤ d.toNat →
         groupHolds s t d.toNat fr g hi ((s.actives p).map (fun k => (k, (y k).1))) ∧ rowsWritten s t d.toNat fr g lo hi hi ∧
         groupHolds s t b.toNat fs h hi ((s.actives p).map (fun k => (k, residual fs fr (r k).fz (x k) (y k).1))) ∧
         rowsWritten s t b.toNat fs h lo hi hi) ∧
       eventsRaised s t ((s.actives p).map (fun k => (k, (y k).2))) ∧
       (∀ n, ¬(d.toNat ≤ n ∧ n < d.toNat + g) → ¬(b.toNat ≤ n ∧ n < b.toNat + h) → t.v n = s.v n)) ∧
  (∀ (s : State) (d a b p : Reg) (rm : BitVec 2) (x : Exec Unit), s.runs .threadOnly → s.cur.vqueue.length < 32 →
     let fs := tagFmt (s.tag a)
     let fr := s.regs.fmt
     let traps (i : Instr) (legal : Bool) (dests : List (Reg × Fmt)) : Prop :=
       s.checkTrap false [a] legal (s.mismatchTags (some a) none none) dests = some x → exec i s = .next (settle i x s)
     traps (.vcvt d a p rm) (!Fmt.isBlock fr) [(d, fr)] ∧
     traps (.vdqbx d a p) (Fmt.isBlock fs) [(d, 6)] ∧
     traps (.vnsat d a p) (Fmt.isInt fs && Fmt.isInt fr && decide (Fmt.bits fr ≤ Fmt.bits fs)) [(d, fr)] ∧
     traps (.vcvtef d a b p rm) (Fmt.isFloat fs && Fmt.isFloat fr) [(d, fr), (b, fs)])

/-- R96, R172: vqbx writes the scale word and the 32 elements of every block from VSTART / 32 on, applies its tail and raises the
blocks' events at the indices of their elements (R105, R106). A misaligned source, a format it cannot read or write, a
misaligned destination and a VSTART inside a block trap, the first that fails (R160, R162); VTYPE's own format never lacks a group. R96: in a block of finite values
that are not all zero, the scale word's two exponents lie in 1 to 254, the second at most the first, and every element's bits
fit its format. -/
def Obligations.Quantization : Prop :=
  (∀ (s : State) (d a : Reg) (k : BitVec 3) (rm : BitVec 2) (g : Nat),
     let fr := s.regs.fmt
     let bits (b j : Nat) : Nat := s.bitsIn a.toNat (32 * b + j) 6
     let q (b : Nat) : Nat × List Nat × List (Nat × Events) :=
       quantize fr k.toNat (fun j => { s.rnd rm (32 * b + j) with fz := false }) (fun j => bits b j / 2 ^ 31 % 2 == 1)
         ((List.range 32).map (fun j => s.elemVal a.toNat (32 * b + j)))
     VectorReady s d [a] fr g s.regs.start s.regs.len → quantSource (tagFmt (s.tag a)) = true → Fmt.isBlock fr = true →
     s.regs.start % 32 = 0 →
     let blocks := (List.range (s.regs.len / 32)).drop (s.regs.start / 32)
     vectorCompletes s (exec (.vqbx d a k rm) s) d fr g s.regs.len
       ((blocks.map (fun b => (q b).2.1.zipIdx.map (fun e => (32 * b + e.2, e.1)))).flatten)
       ((blocks.map (fun b => (q b).2.2.map (fun e => (32 * b + e.1, e.2)))).flatten) ∧
     ∃ t, exec (.vqbx d a k rm) s = .next t ∧
       (∀ b ∈ blocks, b < 32 → field (t.v d.toNat).scale (16 * b) 16 = (q b).1 % 2 ^ 16) ∧
       (∀ b, (s.regs.len + 31) / 32 ≤ b → b < 32 → field (t.v d.toNat).scale (16 * b) 16 =
         if s.regs.tail = 0 then field (s.v d.toNat).scale (16 * b) 16 else 0)) ∧
  (∀ (s : State) (d a : Reg) (k : BitVec 3) (rm : BitVec 2), s.runs .threadOnly → s.cur.vqueue.length < 32 → s.cur.cut = none →
     let i : Instr := .vqbx d a k rm
     let check := s.checkTrap false [a] (quantSource (tagFmt (s.tag a)) && Fmt.isBlock s.regs.fmt) (s.mismatchTags (some a) none none)
     (∀ x, check [] = some x → exec i s = .next (settle i x s)) ∧
     (∀ g, check [] = none → s.regs.destGroup s.regs.fmt = some g →
       (d.toNat % g ≠ 0 →
         exec i s = .next (settle i (trap 0x41 (some (d.setWidth 64)) ((mkTag s.regs.fmt g).setWidth 64)) s)) ∧
       (d.toNat % g = 0 → s.regs.start % 32 ≠ 0 → exec i s = .next (settle i (trap 0x49 (some s.regs.vstart)) s)))) ∧
  (∀ (f : Fmt) (k : Nat) (rnd : Nat → Rnd) (sign : Nat → Bool) (xs : List Val), f = 11 ∨ f = 12 → xs.length = 32 →
     let q := quantize f k rnd sign xs
     q.2.1.length = 32 ∧ (∀ x ∈ q.2.1, x < 2 ^ Fmt.bits f) ∧
     ((∀ x ∈ xs, ∃ n m e, x = .fin n m e) → (∃ n m e, .fin n m e ∈ xs ∧ m ≠ 0) →
       1 ≤ q.1 % 256 ∧ q.1 % 256 ≤ 254 ∧ 1 ≤ q.1 / 256 ∧ q.1 / 256 ≤ q.1 % 256) ∧
     ((∃ x ∈ xs, x = .nan ∨ x = .inf true ∨ x = .inf false) → q.1 = 0xFFFF))

/-- R166, R86: the compares write one predicate bit for each active element; a NaN operand makes vcmpne true, the others false, and
vcmplt and vcmple raise NV; a source whose number is no multiple of its tag's group traps (R112). R167: the predicate operations, bit by bit under the mask of pp. -/
def Obligations.VectorPredicates : Prop :=
  (∀ (s : State) (d a b p : Reg), s.runs .threadOnly → s.cur.vqueue.length < 32 → s.cur.cut = none →
     a.toNat % tagGroup (s.tag a) = 0 → b.toNat % tagGroup (s.tag b) = 0 →
     let f := s.opFmt [a, b]
     let x (k : Nat) := s.operand a.toNat k (s.rnd 0 k)
     let y (k : Nat) := s.operand b.toNat k (s.rnd 0 k)
     let nan (k : Nat) : Bool := (x k).1.isNan || (y k).1.isNan
     let order (k : Nat) : Int :=
       if Fmt.isInt f then
         (if s.intOperand a.toNat k < s.intOperand b.toNat k then -1
          else if s.intOperand a.toNat k = s.intOperand b.toNat k then 0 else 1)
       else cmpVal (x k).1 (y k).1
     let completes (i : Instr) (ifNan : Bool) (ev : Events) (rel : Int → Bool) : Prop :=
       predicateCompletes s (exec i s) d
         ((s.actives p).map (fun k => (k, if Fmt.isInt f = false ∧ nan k then ifNan else rel (order k))))
         ((s.actives p).map (fun k => (k, if Fmt.isInt f then 0 else (x k).2 ||| (y k).2 ||| (if nan k then ev else 0))))
     completes (.vcmpeq d a b p) false 0 (fun o => o == 0) ∧
     completes (.vcmpne d a b p) true 0 (fun o => o != 0) ∧
     completes (.vcmplt d a b p) false 16 (fun o => decide (o < 0)) ∧
     completes (.vcmple d a b p) false 16 (fun o => decide (o ≤ 0))) ∧
  (∀ (s : State) (d a b p : Reg) (x : Exec Unit), s.runs .threadOnly → s.cur.vqueue.length < 32 →
     s.checkTrap false [a, b] true 0 [] = some x →
     let traps (i : Instr) : Prop := exec i s = .next (settle i x s)
     traps (.vcmpeq d a b p) ∧ traps (.vcmpne d a b p) ∧ traps (.vcmplt d a b p) ∧ traps (.vcmple d a b p)) ∧
  (∀ (s : State) (d a b p : Reg), s.runs .threadOnly → s.cur.vqueue.length < 32 → s.cur.cut = none →
     let completes (i : Instr) (op : Bool → Bool → Bool) : Prop :=
       predicateCompletes s (exec i s) d
         ((s.actives p).map (fun k => (k, op ((s.p a).getLsbD k) ((s.p b).getLsbD k)))) []
     completes (.vpand d a b p) (fun x y => x && y) ∧
     completes (.vpor d a b p) (fun x y => x || y) ∧
     completes (.vpxor d a b p) (fun x y => xor x y) ∧
     completes (.vpandn d a b p) (fun x y => x && !y))

/-! ## Permutes, reductions, scans -/

/-- R161, R173–R176: slides, permute, compress and broadcast. R177, R22: vmvs writes the element that G(b) names to gd, 0 from 1,024
on, after every earlier vector instruction; integers are sign-extended under a signed format. A form that fails a check traps at the
first it fails (R160), and but for vbcast and vmvs where VSTART is not 0 (R162). -/
def Obligations.VectorMovesAndPermutes : Prop :=
  (∀ (s : State) (d a b p : Reg) (g : Nat),
     let f := s.moveFmt a
     let ks := s.allActives p
     let amount := (s.g b).toNat
     let bits (j : Nat) : Nat := s.moveBits a.toNat j
     let moves (i : Instr) (xs : List (Nat × Nat)) : Prop := vectorCompletes s (exec i s) d f g s.regs.len xs []
     (VectorReady s d [a] f g 0 s.regs.len → s.regs.start = 0 →
       moves (.vslideup d a b p) ((ks.filter (fun k => decide (amount ≤ k))).map (fun k => (k, bits (k - amount)))) ∧
       moves (.vslidedn d a b p) (ks.map (fun k => (k, bits (k + amount)))) ∧
       (∀ j, tagGroup (s.tag a) * capacity (tagFmt (s.tag a)) ≤ j → bits j = 0) ∧
       moves (.vcompress d a p) (ks.zipIdx.map (fun e => (e.2, bits e.1)))) ∧
     (VectorReady s d [a, b] f g 0 s.regs.len → s.regs.start = 0 → Fmt.isInt (tagFmt (s.tag b)) = true →
       moves (.vperm d a b p) (ks.map (fun k => (k, if 1024 ≤ s.elem b.toNat k then 0 else bits (s.elem b.toNat k))))) ∧
     (VectorReady s d [] s.regs.fmt g s.regs.start s.regs.len → Fmt.isBlock s.regs.fmt = false →
       vectorCompletes s (exec (.vbcast d a p) s) d s.regs.fmt g s.regs.len
         ((s.actives p).map (fun k => (k, (s.g a).toNat % 2 ^ Fmt.bits s.regs.fmt))) [])) ∧
  (∀ (s : State) (d a b : Reg), s.runs .threadOnly → a.toNat % tagGroup (s.tag a) = 0 →
     let f := s.moveFmt a
     let x := if 1024 ≤ (s.g b).toNat then 0 else s.moveBits a.toNat (s.g b).toNat
     exec (.vmvs d a b) s = .next ((({ s with cur := { s.cur with vqueue := [] } } : State).setG d
       (if Fmt.isInt f then BitVec.ofInt 64 (if Fmt.signed f ∧ 2 ^ (Fmt.bits f - 1) ≤ x then (x : Int) - 2 ^ Fmt.bits f else x)
        else BitVec.ofNat 64 x)).retire (.vmvs d a b) .seq)) ∧
  (∀ (s : State) (d a b p : Reg) (x : Exec Unit), s.runs .threadOnly → s.cur.vqueue.length < 32 →
     let traps (i : Instr) : Prop := exec i s = .next (settle i x s.uncut)
     (s.checkTrap true [a] true 0 [(d, s.moveFmt a)] = some x →
       traps (.vslideup d a b p) ∧ traps (.vslidedn d a b p) ∧ traps (.vcompress d a p)) ∧
     (s.checkTrap true [a, b] (Fmt.isInt (tagFmt (s.tag b))) (s.mismatchTags (some a) (some b) none) [(d, s.moveFmt a)] = some x →
       traps (.vperm d a b p)) ∧
     (s.checkTrap false [] (!Fmt.isBlock s.regs.fmt) (s.mismatchTags none none none) [(d, s.regs.fmt)] = some x →
       exec (.vbcast d a p) s = .next (settle (.vbcast d a p) x s)) ∧
     (s.checkTrap false [a] true 0 [] = some x → exec (.vmvs d a b) s = .next (settle (.vmvs d a b) x s)))

/-- R178: vredsum and vredmax over integers: the sum or the greatest of the active elements and, where va is named, its element 0;
VL = 0 writes nothing. R101, R178: the floating-point reductions write element 0: the ordered sum rounds after each active
element, the tree of R101 over 2^n leaves adds neighbours, and the greatest gives way to numbers where an operand is NaN; each
addition raises its events at its own index (R101, R105, R106). The model's choice: the start value's conversion draws and raises
its events at index 0, as the result of vredmax does (log entry 55), and with no active element the start value is written rounded to
the format, flushed under fz (log entry 17). A reduction that fails a check of R160, or starts elsewhere than at 0, traps at the first it fails
(R162). -/
def Obligations.Reductions : Prop :=
  (∀ (s : State) (d a b p : Reg) (g : Nat),
     let srcs := if a = 0 then [b] else [a, b]
     let f := s.opFmt srcs
     let xs : List Int := (if a = 0 then [] else [s.intOperand a.toNat 0]) ++
       (s.allActives p).map (fun k => s.intOperand b.toNat k)
     let completes (i : Instr) (x : Int) : Prop := vectorCompletes s (exec i s) d f g s.regs.len
       (if s.regs.len = 0 then [] else [(0, intBits f x)]) []
     VectorReady s d srcs f g 0 s.regs.len → s.regs.start = 0 → Fmt.isInt f = true →
     completes (.vredsum d a b p) xs.sum ∧
     completes (.vredmax d a b p) (match xs with | [] => Fmt.intMin f | x :: rest => rest.foldl max x)) ∧
  (∀ (s : State) (d a b p : Reg) (rm : BitVec 2) (g : Nat),
     let srcs := if a = 0 then [b] else [a, b]
     let f := s.opFmt srcs
     let ks := s.allActives p
     let r (k : Nat) : Rnd := s.rnd rm k
     let z (m : BitVec 2) : Val := if a = 0 then .fin false 0 0 else (s.operand a.toNat 0 (s.rnd m 0)).1
     let y (m : BitVec 2) (k : Nat) : Val := (s.operand b.toNat k (s.rnd m k)).1
     let n := treeDepth s.regs.len
     let leaf (k : Nat) : Option Val := if k ∈ ks then some (y rm k) else none
     let leaves := (List.range s.regs.len).map leaf ++ List.replicate (2 ^ n - s.regs.len) none
     let ez (m : BitVec 2) : Events := if a = 0 then 0 else (s.operand a.toNat 0 (s.rnd m 0)).2
     let ey (m : BitVec 2) (k : Nat) : Events := (s.operand b.toNat k (s.rnd m k)).2
     let flushed (m : BitVec 2) (v : Val) : Nat × Events := roundVal f { rndRNE with fz := (s.rnd m 0).fz } v
     let sum (ks : List Nat) : Nat :=
       ks.foldl (fun acc k => (fAdd f (r k) (decodeFloat f acc) (y rm k)).1) (roundVal f rndRNE (z rm)).1
     let best := (if a = 0 then [] else [z 0]) ++ ks.map (y 0)
     let top (v : Val) (rest : List Val) : Nat × Events := flushed 0 (rest.foldl (minMaxVal true) v)
     let completes (i : Instr) (x : Nat) (es : List (Nat × Events)) : Prop :=
       vectorCompletes s (exec i s) d f g s.regs.len (if s.regs.len = 0 then [] else [(0, x)]) (if s.regs.len = 0 then [] else es)
     VectorReady s d srcs f g 0 s.regs.len → s.regs.start = 0 → Fmt.isFloat f = true →
     completes (.vfredosum d a b p rm) (if ks = [] then (flushed rm (z rm)).1 else sum ks)
       ((0, if ks = [] then ez rm ||| (flushed rm (z rm)).2 else ez rm) :: ks.map (fun k =>
         (k, ey rm k ||| (fAdd f (r k) (decodeFloat f (sum (ks.filter (fun j => decide (j < k))))) (y rm k)).2))) ∧
     completes (.vfredsum d a b p rm) (match (treeSum f r n 0 leaves).1 with
         | none => (flushed rm (z rm)).1
         | some v => (fAdd f (r 0) (z rm) v).1)
       ((0, ez rm ||| match (treeSum f r n 0 leaves).1 with
         | none => (flushed rm (z rm)).2
         | some v => (fAdd f (r 0) (z rm) v).2) :: ks.map (fun k => (k, ey rm k)) ++ (treeSum f r n 0 leaves).2) ∧
     completes (.vredmax d a b p) (match best with
         | [] => Fmt.inf f true
         | x :: rest => (top x rest).1)
       (match best with
         | [] => []
         | x :: rest => (0, ez 0 ||| (top x rest).2) :: ks.map (fun k => (k, ey 0 k)))) ∧
  (∀ (s : State) (d a b p : Reg) (rm : BitVec 2) (x : Exec Unit), s.runs .threadOnly → s.cur.vqueue.length < 32 →
     let srcs := if a = 0 then [b] else [a, b]
     let f := s.opFmt srcs
     let traps (i : Instr) (legal : Bool) : Prop :=
       s.checkTrap true srcs legal (s.mismatchTags (if a = 0 then none else some a) (some b) none) [(d, f)] = some x →
         exec i s = .next (settle i x s.uncut)
     traps (.vredsum d a b p) (Fmt.isInt f) ∧ traps (.vfredsum d a b p rm) (Fmt.isFloat f) ∧
     traps (.vfredosum d a b p rm) (Fmt.isFloat f) ∧ traps (.vredmax d a b p) true)

/-- R179: vscan writes the inclusive prefix sums of the active elements, from the carry in element 0 of vb where it is named, each
floating-point sum rounded as it is formed. R180: vprune writes, for every four elements, the two of greatest magnitude among
the active ones in index order, zeros where there are fewer, and the mask of those kept below VL, the bits from VL on following the
tail (R119); it raises no event. The model's choice (log entry 55): the carry's conversion draws and raises its events at index 0,
where some element is active. A form that fails a check of R160, or starts elsewhere than at 0, traps at the first it fails (R162). -/
def Obligations.ScansAndPruning : Prop :=
  (∀ (s : State) (d a b p : Reg) (g : Nat),
     let srcs := if b = 0 then [a] else [a, b]
     let f := s.opFmt srcs
     let upTo (k : Nat) : List Nat := (s.allActives p).filter (fun j => decide (j ≤ k))
     VectorReady s d srcs f g 0 s.regs.len → s.regs.start = 0 → Fmt.isBlock f = false →
     let x (j : Nat) : Val × Events := s.operand a.toNat j (s.rnd 0 j)
     let carry : Val × Events := if b = 0 then (.fin false 0 0, 0) else s.operand b.toNat 0 (s.rnd 0 0)
     let sum (ks : List Nat) : Nat :=
       ks.foldl (fun acc j => (fAdd f (s.rnd 0 j) (decodeFloat f acc) (x j).1).1) (roundVal f rndRNE carry.1).1
     let ks := s.allActives p
     vectorCompletes s (exec (.vscan d a b p) s) d f g s.regs.len
       (ks.map (fun k => (k,
         if Fmt.isInt f then
           intBits f ((if b = 0 then 0 else s.intOperand b.toNat 0) + ((upTo k).map (fun j => s.intOperand a.toNat j)).sum)
         else sum (upTo k))))
       (if Fmt.isInt f ∨ ks = [] then [] else (0, carry.2) :: ks.map (fun k => (k, (x k).2 |||
         (fAdd f (s.rnd 0 k) (decodeFloat f (sum (ks.filter (fun j => decide (j < k))))) (x k).1).2)))) ∧
  (∀ (s : State) (d a b p : Reg) (g : Nat),
     let f := s.moveFmt a
     let quads := (s.regs.len + 3) / 4
     let kept (q : Nat) : List Nat :=
       keepTwo (((s.allActives p).filter (fun k => k / 4 == q)).map (fun k => (k, s.elemVal a.toNat k)))
     VectorReady s d [a] f g 0 (2 * quads) → s.regs.start = 0 →
     ∃ t, exec (.vprune d a b p) s = .next t ∧ vectorFrame s t ∧ t.regs.start = 0 ∧
       groupWritten s t d.toNat f g (2 * quads) (((List.range quads).map (fun q =>
         [(2 * q, match (kept q)[0]? with | none => 0 | some j => s.moveBits a.toNat j),
          (2 * q + 1, match (kept q)[1]? with | none => 0 | some j => s.moveBits a.toNat j)])).flatten) ∧
       rowsWritten s t d.toNat f g 0 (2 * quads) (2 * quads) ∧ eventsRaised s t [] ∧
       (b ≠ 0 → ∀ k, k < 1024 → ((t.p b).getLsbD k = true ↔
         if k < s.regs.len then k ∈ kept (k / 4) else s.regs.tail = 0 ∧ (s.p b).getLsbD k = true)) ∧
       (∀ n : Reg, n ≠ b ∨ n = 0 → t.p n = s.p n)) ∧
  (∀ (s : State) (d a b p : Reg) (x : Exec Unit), s.runs .threadOnly → s.cur.vqueue.length < 32 →
     let srcs := if b = 0 then [a] else [a, b]
     (s.checkTrap true srcs true 0 [(d, s.opFmt srcs)] = some x →
       exec (.vscan d a b p) s = .next (settle (.vscan d a b p) x s.uncut)) ∧
     (s.checkTrap true [a] true 0 [(d, s.moveFmt a)] = some x →
       exec (.vprune d a b p) s = .next (settle (.vprune d a b p) x s.uncut)))

/-! ## Vector memory -/

/-- R211–R214, R219, R222: a vector load whose active elements are all read completes with them in vd; vldff whose element k
past the first faults completes with VL = k. -/
def Obligations.VectorLoads : Prop :=
  ∀ (s s1 u : State) (d a ix p : Reg) (ls : Bool) (ord : BitVec 2) (xs : List (Nat × Nat × Option (Nat × Nat))),
    LoadReady s d → releaseIf (ord.getLsbD 0) 0 s.noStall = .ok () s1 →
    let f := s.regs.fmt
    let len := s.regs.len
    let base := s.g a
    let ks := s.actives p
    let free := u.rowsWanted d.toNat f s.regs.group s.regs.start len ≤ u.rowsFree
    let vals := xs.map (fun e => (e.1, e.2.1))
    let strided (i : Nat) : Word := base + BitVec.ofNat 64 i * s.g ix
    let unit (i : Nat) : Exec (Nat × Option (Nat × Nat)) := do
      return (← readElem false 1 f (unitAddr f base i) i (fun e => serves 1 (fun k => k) (unitAddr f base) ks e i), none)
    let addr (i : Nat) : Word := base + BitVec.ofNat 64 (s.elem ix.toNat i)
    let beat (i : Nat) : Nat := i * max (Fmt.bits f) (s.widest [ix]) / 512
    (Fmt.isBlock f = false → s.passes 1 →
      (upToFault (readWithScale false 1 f len ks (unitAddr f base) (fun b => 2 * BitVec.ofNat 64 b) 0) ks s1 = .ok (xs, none) u →
        free → loadCompletes s u (exec (.vld d a ix p ord) s) d len vals) ∧
      (upToFault (fun i => do
          return (← readElem false 1 f (strided i) i (fun e => serves 1 (fun k => k) strided ks e i), none)) ks s1 = .ok (xs, none) u →
        free → loadCompletes s u (exec (.vlds d a ix p ord) s) d len vals) ∧
      (upToFault unit ks s1 = .ok (xs, none) u → free → loadCompletes s u (exec (.vldff d a p ord) s) d len vals) ∧
      (∀ (k : Nat) (e : Stop), upToFault unit ks s1 = .ok (xs, some (k, e)) u → xs ≠ [] → free →
        loadCompletes s u (exec (.vldff d a p ord) s) d k vals)) ∧
    (Fmt.isBlock f = false → s.passes 2 → ix.toNat % tagGroup (s.tag ix) = 0 → Fmt.isInt (tagFmt (s.tag ix)) = true →
      (if ls then upToFault (fun i => do
          let loc ← laneLoc 2 (elemBytes f) i (addr i)
          checkPoison 2 (addr i) loc
          return (leNat (← seeBytes 2 loc (elemBytes f)), none)) ks s1
        else gatherElems f beat addr ks [] s1) = .ok (xs, none) u →
      free → loadCompletes s u (exec (.vldx d a ix p ls ord) s) d len vals) ∧
    (Fmt.isBlock f = true → s.passes 1 → ix ≠ 0 → (s.g ix).toNat % 2 = 0 →
      upToFault (readWithScale false 1 f s.regs.dlen ks (unitAddr f base) (fun b => s.g ix + 2 * BitVec.ofNat 64 b) 0) ks s1 =
        .ok (xs, none) u → free → loadCompletes s u (exec (.vld d a ix p ord) s) d len vals)

/-- R211, R368: with VSTART at or past VL a vector load reads nothing: it applies its tail, sets its descriptors, and VSTART becomes
0; a vector store then only sets VSTART to 0. R218, R357: a vld whose element k faults traps with VSTART = k, its trap marked as
one raised at an element, every element below k committed. -/
def Obligations.VectorAccessEdges : Prop :=
  (∀ (s : State) (d a ix p : Reg) (ls : Bool) (ord : BitVec 2) (h : BitVec 3), s.runs .threadOnly → s.cur.vqueue.length < 32 →
     s.regs.len ≤ s.regs.start →
     (d.toNat % s.regs.group = 0 → s.rowsWanted d.toNat s.regs.fmt s.regs.group s.regs.len s.regs.len ≤ s.rowsFree →
       s.rowsWanted d.toNat s.regs.fmt s.regs.group s.regs.start s.regs.len ≤ s.rowsFree →
       loadCompletes s s (exec (.vld d a ix p ord) s) d s.regs.len [] ∧
       loadCompletes s s (exec (.vldx d a ix p ls ord) s) d s.regs.len [] ∧
       loadCompletes s s (exec (.vsld d h p ord) s) d s.regs.len []) ∧
     storeCompletes s (exec (.vst d a ix p ord) s) s.mem ∧ storeCompletes s (exec (.vsts d a ix p ord) s) s.mem ∧
     storeCompletes s (exec (.vstx d a ix p ls ord) s) s.mem ∧ storeCompletes s (exec (.vscadd d a ix p ls ord) s) s.mem ∧
     storeCompletes s (exec (.vsst d h p ord) s) s.mem) ∧
  (∀ (s s1 u : State) (d a sr p : Reg) (ord : BitVec 2) (xs : List (Nat × Nat × Option (Nat × Nat))) (k : Nat) (tr : Trap),
     LoadReady s d → releaseIf (ord.getLsbD 0) 0 s.noStall = .ok () s1 →
     let f := s.regs.fmt
     let ks := s.actives p
     Fmt.isBlock f = false → s.passes 1 → s.regs.len ≤ s.regs.group * capacity f →
     upToFault (readWithScale false 1 f s.regs.len ks (unitAddr f (s.g a)) (fun b => 2 * BitVec.ofNat 64 b) 0) ks s1 =
       .ok (xs, some (k, .trap tr)) u →
     u.rowsWanted d.toNat f s.regs.group s.regs.start s.regs.len ≤ u.rowsFree →
     ∃ t, exec (.vld d a sr p ord) s =
         .next (settle (.vld d a sr p ord) (throw (.trap { tr with vec := true })) t) ∧
       t.regs.start = k ∧ t.cur.pc = s.cur.pc ∧ t.cur.g = s.cur.g ∧ (∀ e ∈ xs, t.elem d.toNat e.1 = e.2.1 % 2 ^ Fmt.bits f) ∧
       (∀ n, ¬(d.toNat ≤ n ∧ n < d.toNat + s.regs.group) → t.v n = s.v n))

/-- R211, R216, R219: a vector store whose accesses are all performed, older vector instructions having committed (R357), completes:
VSTART is 0 and no other register changes; its writes are those of `storeWithScale`, or for vstx, on memory or on the lane slices,
of `scatterElems`, element after element; the scalar load, atomic or ticket that came last may by a free choice be performed again after
it, a load then giving what stands there now (R204, R412; log entry 84). R211, R212, R218, R184, R219: the unit-stride, strided and indexed stores and loads on the
thread's scratchpad, and the indexed ones on the lane slices: a load takes the bytes at its address, a store leaves, element after
element in ascending order, the element's bytes at its address, and every other byte of memory as it was. The bytes loaded are free
of errors (R404). Where the bytes of a scratchpad and of a lane's slice stand in the model's memory is the model's choice (log entry 6). -/
def Obligations.VectorStoresAndScratchpad : Prop :=
  (∀ (s s1 u : State) (d a ix p : Reg) (ord : BitVec 2), s.runs .threadOnly → s.cur.vqueue.length < 32 →
     s.regs.start < s.regs.len → d.toNat % tagGroup (s.tag d) = 0 → s.passes 1 →
     releaseIf (ord.getLsbD 0) 0 s.uncut = .ok () s1 →
     let f := tagFmt (s.tag d)
     let r := s.regs
     let base := s.g a
     let ks := s.actives p
     let s1 := s1.committed
     (Fmt.isBlock f = false →
       (storeWithScale false 1 f d.toNat r.len r.len ks (unitAddr f base) (fun b => 2 * BitVec.ofNat 64 b) 0 (fun last =>
           record 1 { base := (unitAddr f base r.start).toNat, stride := elemBytes f, count := min last r.len - r.start,
                      width := elemBytes f, home := false }) s1 = .ok () u →
         storeEnds s (s1.flying u (.vst d a ix p ord) 1) (exec (.vst d a ix p ord) s)) ∧
       (storeWithScale false 1 f d.toNat r.len r.len ks (fun i => base + BitVec.ofNat 64 i * s.g ix) (fun _ => 0) 0 (fun last =>
           record 1 (strideRange (base + BitVec.ofNat 64 r.start * s.g ix) (s.g ix) (last - r.start) (elemBytes f) false)) s1 =
           .ok () u →
         storeEnds s (s1.flying u (.vsts d a ix p ord) 1) (exec (.vsts d a ix p ord) s))) ∧
     (Fmt.isBlock f = true → ix ≠ 0 → (s.g ix).toNat % 2 = 0 →
       storeWithScale false 1 f d.toNat r.dlen r.len ks (unitAddr f base) (fun b => s.g ix + 2 * BitVec.ofNat 64 b) 0 (fun last => do
           let hi := min last r.dlen
           let b := r.start / 32
           if r.start < hi then
             record 1 (spanRange (unitAddr f base r.start).toNat
               ((hi - 1) * Fmt.bits f / 8 + 1 - r.start * Fmt.bits f / 8) false)
           if 32 * b < hi then
             record 1 (spanRange (s.g ix + 2 * BitVec.ofNat 64 b).toNat (2 * ((hi - 1) / 32 + 1 - b)) false)) s1 = .ok () u →
         storeEnds s (s1.flying u (.vst d a ix p ord) 1) (exec (.vst d a ix p ord) s))) ∧
  (∀ (s s1 s2 u : State) (d a ix p : Reg) (ls : Bool) (ord : BitVec 2), s.runs .threadOnly → s.cur.vqueue.length < 32 →
     s.regs.start < s.regs.len → ix.toNat % tagGroup (s.tag ix) = 0 → d.toNat % tagGroup (s.tag d) = 0 →
     Fmt.isInt (tagFmt (s.tag ix)) = true → Fmt.isBlock (tagFmt (s.tag d)) = false → s.passes 3 →
     releaseIf (ord.getLsbD 0) 0 s.uncut = .ok () s1 → drainBank s.cur.id s1.committed = .ok () s2 →
     let f := tagFmt (s.tag d)
     let w := elemBytes f
     let addr (i : Nat) : Word := s.g a + BitVec.ofNat 64 (s.elem ix.toNat i)
     scatterElems s.regs.len (s.actives p)
       (fun i => if ls then laneLoc 3 w i (addr i) else do
         checkAccess true .store 3 (addr i) w
         return 0)
       (fun i loc => if ls then putBytes 3 loc (leBytes w (s.elem d.toNat i)) else storeNat true 3 (addr i) w (s.elem d.toNat i))
       (fun _ done => if ls then pure () else do
         clearCovered w (fun i => i * (max (Fmt.bits f) (s.widest [ix])) / 512) (done.map (fun e => (e.1, addr e.1)))
         recordSpan 3 w (done.map (fun e => (addr e.1).toNat))) s2 = .ok () u →
     storeEnds s (s1.committed.flying u (.vstx d a ix p ls ord) 3) (exec (.vstx d a ix p ls ord) s)) ∧
  (∀ (s : State) (d a ix p : Reg) (loc : Nat → Nat), s.settled → s.cur.reassembly = [] → s.cur.vqueue.length < 32 →
     s.cur.status = .running → s.regs.start < s.regs.len →
     let base := s.g a
     let ks := s.actives p
     let fs := tagFmt (s.tag d)
     let stored (w : Nat) : List Host.Cell := ks.foldl (fun m k => memPutNat m (loc k) w (s.elem d.toNat k)) s.mem
     (LoadReady s d → Fmt.isBlock s.regs.fmt = false →
       let f := s.regs.fmt
       let w := elemBytes f
       let read : List (Nat × Nat) := ks.map (fun k => (k, memNat s.mem (loc k) w))
       (∀ k ∈ ks, s.cleanBytes (loc k) w) →
       ((∀ k ∈ ks, s.inScratchpad (base + BitVec.ofNat 64 (k * Fmt.bits f / 8)) w (loc k)) →
         ∃ u, u.mem = s.mem ∧ u.cur.v = s.cur.v ∧ u.regs.tail = s.regs.tail ∧
           loadCompletes s u (exec (.vld d a ix p 0) s) d s.regs.len read ∧
           loadCompletes s u (exec (.vldff d a p 0) s) d s.regs.len read) ∧
       ((∀ k ∈ ks, s.inScratchpad (base + BitVec.ofNat 64 k * s.g ix) w (loc k)) →
         ∃ u, u.mem = s.mem ∧ u.cur.v = s.cur.v ∧ u.regs.tail = s.regs.tail ∧
           loadCompletes s u (exec (.vlds d a ix p 0) s) d s.regs.len read) ∧
       ((∀ k ∈ ks, s.inScratchpad (base + BitVec.ofNat 64 (s.elem ix.toNat k)) w (loc k)) →
         ix.toNat % tagGroup (s.tag ix) = 0 → Fmt.isInt (tagFmt (s.tag ix)) = true →
         ∃ u, u.mem = s.mem ∧ u.cur.v = s.cur.v ∧ u.regs.tail = s.regs.tail ∧
           loadCompletes s u (exec (.vldx d a ix p false 0) s) d s.regs.len read) ∧
       ((∀ k ∈ ks, s.inLane w k (base + BitVec.ofNat 64 (s.elem ix.toNat k)) (loc k)) →
         ix.toNat % tagGroup (s.tag ix) = 0 → Fmt.isInt (tagFmt (s.tag ix)) = true →
         ∃ u, u.mem = s.mem ∧ u.cur.v = s.cur.v ∧ u.regs.tail = s.regs.tail ∧
           loadCompletes s u (exec (.vldx d a ix p true 0) s) d s.regs.len read)) ∧
     (d.toNat % tagGroup (s.tag d) = 0 → Fmt.isBlock fs = false →
       let w := elemBytes fs
       ((∀ k ∈ ks, s.inScratchpad (base + BitVec.ofNat 64 (k * Fmt.bits fs / 8)) w (loc k)) →
         storeCompletes s (exec (.vst d a ix p 0) s) (stored w)) ∧
       ((∀ k ∈ ks, s.inScratchpad (base + BitVec.ofNat 64 k * s.g ix) w (loc k)) →
         storeCompletes s (exec (.vsts d a ix p 0) s) (stored w)) ∧
       ((∀ k ∈ ks, s.inScratchpad (base + BitVec.ofNat 64 (s.elem ix.toNat k)) w (loc k)) →
         ix.toNat % tagGroup (s.tag ix) = 0 → Fmt.isInt (tagFmt (s.tag ix)) = true →
         s.bank.filter (fun b => b.agent == s.cur.id) = [] →
         storeCompletes s (exec (.vstx d a ix p false 0) s) (stored w)) ∧
       ((∀ k ∈ ks, s.inLane w k (base + BitVec.ofNat 64 (s.elem ix.toNat k)) (loc k)) →
         ix.toNat % tagGroup (s.tag ix) = 0 → Fmt.isInt (tagFmt (s.tag ix)) = true →
         s.bank.filter (fun b => b.agent == s.cur.id) = [] →
         storeCompletes s (exec (.vstx d a ix p true 0) s) (stored w)))) ∧
  (∀ (s : State) (r : LateRead), s.cur.lateRead = some r → ∃ t, storedBefore s = .ok () t ∧
     (t = { s with fresh := t.fresh } ∨ readAgain r { s with fresh := s.fresh + 1 } = .ok () t)) ∧
  (∀ (s u : State) (d a : Reg) (off : BitVec 13) (va : Word) (n x : Nat), loadNat false 0 va n s = .ok x u →
     let again (i : Instr) (y : Word) : Prop := readAgain { instr := i, va := va } s = .ok () (u.setG d y)
     (n = 1 → again (.ldb d a off) (BitVec.ofNat 64 x) ∧ again (.ldbs d a off) (BitVec.ofInt 64 (if x < 2 ^ 7 then x else x - 2 ^ 8))) ∧
     (n = 2 → again (.ldh d a off) (BitVec.ofNat 64 x) ∧ again (.ldhs d a off) (BitVec.ofInt 64 (if x < 2 ^ 15 then x else x - 2 ^ 16))) ∧
     (n = 4 → again (.ldw d a off) (BitVec.ofNat 64 x) ∧ again (.ldws d a off) (BitVec.ofInt 64 (if x < 2 ^ 31 then x else x - 2 ^ 32))) ∧
     (n = 8 → again (.ldd d a off) (BitVec.ofNat 64 x)))

/-- R217, R103, R184: vscadd: for a scratchpad the lanes combine the elements sent to one location into one update, which stands in
flight; once the updates have performed, each location has gained the sum of the elements sent to it, in integer formats modulo
2^w, and no other byte has changed; in generic memory the updates stand in flight, in element order, behind those already
there, and perform at their banks later; on the lane slices each element's location gains it in the instruction's own step (R184).
R103, R233: an update in flight performs at its bank: its location's word becomes the sum, no other byte changes, and it is in
flight no more; one whose line was moved performs where its mark leads, or nowhere where a hop fails, and one to a poisoned unit
nowhere (R403); an agent's updates into a CSP perform in their order. That updates stand in flight from the instruction on, and that
those into a CSP alone keep their order, is the model's reading (log entry 61); where scratchpads and slices stand is log entry 6's. -/
def Obligations.ScatterAdds : Prop :=
  (∀ (s : State) (d a ix p : Reg) (loc : Nat → Nat), s.settled → s.cur.status = .running → s.cur.vqueue.length < 32 →
     s.regs.start < s.regs.len → d.toNat % tagGroup (s.tag d) = 0 → ix.toNat % tagGroup (s.tag ix) = 0 →
     Fmt.isInt (tagFmt (s.tag ix)) = true →
     let f := tagFmt (s.tag d)
     let w := elemBytes f
     let ks := s.actives p
     let addr (k : Nat) : Word := s.g a + BitVec.ofNat 64 (s.elem ix.toNat k)
     3 ≤ f → f ≤ 8 → (∀ k ∈ ks, (addr k).toNat % w = 0) → (∀ k ∈ ks, s.cleanBytes (loc k) w) →
     ((∀ k ∈ ks, s.inLane w k (addr k) (loc k)) →
       storeCompletes s (exec (.vscadd d a ix p true 0) s) (ks.foldl (fun m k =>
         memPutNat m (loc k) w (scatterAdd f (memNat m (loc k) w) (s.elem d.toNat k))) s.mem)) ∧
     (s.wf = true → (∀ k ∈ ks, s.inScratchpad (addr k) w (loc k)) → f ≤ 4 →
       ∃ (t : State) (ups : List BankAdd), exec (.vscadd d a ix p false 0) s = .next t ∧
         storeCompletes s (exec (.vscadd d a ix p false 0) s) s.mem ∧ t.bank = s.bank ++ ups ∧
         (∀ u ∈ ups, u.agent = s.cur.id ∧ u.fmt = f ∧ ∃ k ∈ ks, loc k = u.loc) ∧ (ups.map (fun u => u.loc)).Nodup ∧
         (∀ L, L % w = 0 → memNat (ups.foldl State.performAdd t).mem L w =
           (memNat s.mem L w + ((ks.filter (fun k => loc k == L)).map (fun k => s.elem d.toNat k)).sum) % 2 ^ Fmt.bits f)) ∧
     ((∀ k ∈ ks, isWindow (addr k) = false ∧
         ∃ ln pl hops via, resolve s s.ctx .store (addr k) = .ok (ln, pl, hops, via) ∧ pl.cls = .dram ∧
           loc k = pl.loc + (addr k).toNat % 64) →
       ∃ t, exec (.vscadd d a ix p false 0) s = .next t ∧ t.mem = s.mem ∧ t.regs.start = 0 ∧ t.cur.g = s.cur.g ∧
         t.cur.v = s.cur.v ∧ t.cur.p = s.cur.p ∧
         t.bank = s.bank ++ ks.map (fun k =>
           { agent := s.cur.id, loc := loc k, fmt := f, val := BitVec.ofNat 64 (s.elem d.toNat k) }))) ∧
  (∀ (s : State) (idx : Nat) (u : BankAdd), s.wf = true → s.bank[idx]? = some u →
     (u.inOrder = true → ∀ w ∈ s.bank.take idx, w.inOrder = true → w.agent ≠ u.agent) →
     (∀ loc, s.addLoc u = some loc → ∀ e ∈ s.latent, e.unit ≠ errorUnit loc) →
     ∃ t, exec (.homeAccessPerform idx) s = .next t ∧ t.bank = s.bank.eraseIdx idx ∧
       { t with mem := s.mem, bank := s.bank, cur := s.cur, others := s.others } = s ∧
       (s.cur :: s.others).map (fun a => { a with loose := [] }) = (t.cur :: t.others).map (fun a => { a with loose := [] }) ∧
       (s.addLoc u = none → t.mem = s.mem) ∧
       (∀ loc, s.addLoc u = some loc → errorUnit loc ∈ s.poison → t.mem = s.mem) ∧
       (∀ loc, s.addLoc u = some loc → errorUnit loc ∉ s.poison →
         memorySameOutside loc (Fmt.bits u.fmt / 8) s t ∧
         memoryHolds loc (Fmt.bits u.fmt / 8) (scatterAdd u.fmt (memNat s.mem loc (Fmt.bits u.fmt / 8)) u.val.toNat) t) ∧
       (isMarked s (u.loc / 64) = false → s.addLoc u = some u.loc))

/-! ## Strips -/

/-- R221, R198: vstrip binds its handle from the record on the access side, gives up the port it had, which goes to the oldest
handle that waits for one, and then takes a free one of its cluster, or waits for one behind the others, unless its count is 0; a misaligned record and a bad field trap. R222, R224: vsld, and vgsld outside a gang, deliver the next strip of the handle's pattern, zeros past its end, and move
the handle on; a record of another format traps; vsst stores the next strip to the thread's scratchpad. The model's readings: vstrip
leaves VSTART alone (log entry 14), a handle never bound makes no format check (log entry 15), and inactive elements past the
pattern's end keep their value (log entry 25). -/
def Obligations.Strips : Prop :=
  (∀ (s u v : State) (h : BitVec 3) (a : Reg) (lo hi : Nat), s.runs .threadOnly →
     let va := s.g a
     let rec_ : BitVec 256 := BitVec.ofNat 256 (lo + hi * 2 ^ 128)
     let f := field rec_ 160 8
     let bad : Prop := 13 ≤ f ∨ field rec_ 168 24 ≠ 0 ∨ (Fmt.isBlock f = true ∧ field rec_ 192 64 % 32 ≠ 0)
     (va.toNat % 32 ≠ 0 → exec (.vstrip h a) s = .next (settle (.vstrip h a) (trap 0x16 (some va) 0 0) s)) ∧
     (va.toNat % 32 = 0 → loadNat false 0 va 16 s = .ok lo u → loadNat false 0 (va + 16) 16 u = .ok hi v →
       (bad → exec (.vstrip h a) s = .next (settle (.vstrip h a) (trap 0x4C (some va) 0 0) v)) ∧
       (¬bad → ∃ t, exec (.vstrip h a) s = .next t ∧ t.mem = v.mem ∧ t.cur.g = v.cur.g ∧ t.cur.v = v.cur.v ∧
         t.cur.p = v.cur.p ∧ t.regs.vstart = v.regs.vstart ∧
         (t.handle h.toNat).base = BitVec.ofNat 64 (field rec_ 0 64) ∧
         (t.handle h.toNat).stride0 = BitVec.ofNat 64 (field rec_ 64 64) ∧
         (t.handle h.toNat).count0 = BitVec.ofNat 32 (field rec_ 128 32) ∧
         (t.handle h.toNat).remaining = BitVec.ofNat 64 (field rec_ 128 32) ∧
         (t.handle h.toNat).fmt = BitVec.ofNat 8 f ∧ (t.handle h.toNat).cursor = BitVec.ofNat 64 (field rec_ 192 64) ∧
         (t.handle h.toNat).ahead = [] ∧ (t.handle h.toNat).startTime = 0 ∧
         (∀ k, k < 8 → k ≠ h.toNat → { t.handle k with port := (v.handle k).port } = v.handle k) ∧ t.cur.vqueue = v.cur.vqueue ∧
         let g := v.myCluster
         let me := (v.cur.id, h.toNat)
         let free (c : Cluster) : Option Nat := (List.range 16).find? (fun q => !kvHas c.ports q)
         let given := (v.cluster g).dropPort v.cur.id h.toNat
         let next : Cluster := match given.portQueue, free given with
           | w :: rest, some q => { given with portQueue := rest, ports := kvSet given.ports q w }
           | _, _ => given
         (∀ w rest q b, given.portQueue = w :: rest → free given = some q → w.2 < 8 → t.agent? w.1 = some b →
           (b.handles.toList.getD w.2 Handle.unbound).port = some q) ∧
         (field rec_ 128 32 = 0 → t.cluster g = next ∧ (t.handle h.toNat).port = none) ∧
         (field rec_ 128 32 ≠ 0 → match free next with
           | some q => t.cluster g = { next with ports := kvSet next.ports q me } ∧ (t.handle h.toNat).port = some q
           | none => t.cluster g = { next with portQueue := next.portQueue ++ [me] } ∧ (t.handle h.toNat).port = none)))) ∧
  (∀ (s s1 u : State) (d p : Reg) (h : BitVec 3) (ord : BitVec 2) (xs : List (Nat × Nat × Option (Nat × Nat))) (o : Out),
     let k := h.toNat
     let len := s.regs.len
     let moved (n : Nat) (r t : State) : Prop :=
       (t.handle k).cursor = (r.handle k).cursor + BitVec.ofNat 64 n ∧
       (t.handle k).remaining = (r.handle k).remaining - BitVec.ofNat 64 n
     (LoadReady s d → (o = exec (.vsld d h p ord) s ∨ (s.cur.gang = 0 ∧ o = exec (.vgsld d h p ord) s)) →
       (s.handle k).isUnbound = true ∨ (s.handle k).format = s.regs.fmt → s.handleBusy k = false →
       s.passes (4 + k) → releaseIf (ord.getLsbD 0) 0 s.noStall = .ok () s1 →
       let hd := s1.handle k
       let n := min len hd.remaining.toNat
       upToFault (stripElem k hd n (s.actives p)) (s.actives p) s1 = .ok (xs, none) u →
       u.rowsWanted d.toNat s.regs.fmt s.regs.group s.regs.start len ≤ u.rowsFree →
       loadCompletes s u o d len (xs.map (fun e => (e.1, e.2.1))) ∧ ∃ t, o = .next t ∧ moved n u t) ∧
     (s.runs .threadOnly → s.cur.vqueue.length < 32 → s.regs.start < len → (s.handle k).isUnbound = false →
       (s.handle k).format ≠ s.regs.fmt → s.handleBusy k = false →
       exec (.vsld d h p ord) s = .next (settle (.vsld d h p ord) (mismatch none none none) s.uncut)) ∧
     (∀ loc : Nat → Nat, s.settled → s.cleanResponses → s.cur.status = .running → s.cur.vqueue.length < 32 → s.regs.start < len →
       d.toNat % tagGroup (s.tag d) = 0 →
       (s.handle k).isUnbound = true ∨ (s.handle k).format = tagFmt (s.tag d) → s.handleBusy k = false →
       Fmt.isBlock (s.handle k).format = false →
       let hd := s.handle k
       let n := min len hd.remaining.toNat
       let w := elemBytes hd.format
       let ks := (s.actives p).filter (fun i => decide (i < n))
       (∀ i ∈ ks, s.inScratchpad (hd.addr (hd.cursor.toNat + i)) w (loc i)) →
       storeCompletes s (exec (.vsst d h p 0) s) (ks.foldl (fun m i => memPutNat m (loc i) w (s.elem d.toNat i)) s.mem) ∧
       ∃ t, exec (.vsst d h p 0) s = .next t ∧ moved n s t))

/-- R224, R377: a member of a gang waits in its gang strip load, or traps where member 0 is gone; once every member that has
not ended waits in the same load with equal VL, VTYPE and VSTART, VGSLD_MEET reads the strip once, from member 0's handle, every older vector
instruction of the members having committed (R357), and each member completes with its own active elements. The model's readings: a handle never bound makes no format check (log entry 15),
and active elements past the pattern's end are zeros, inactive ones kept (log entry 25). -/
def Obligations.GangStripLoads : Prop :=
  (∀ (s : State) (d p : Reg) (h : BitVec 3) (ord : BitVec 2), s.runs .threadOnly → s.cur.vqueue.length < 32 →
    s.cur.gang ≠ 0 → d.toNat % s.regs.group = 0 →
    (∀ b, (s.gangOf s.cur).find? (fun b => b.core == 0) = some b →
      (s.focus b.id).handleBusy h.toNat = false ∧
      ((b.handles[h.toNat]'h.isLt).isUnbound = true ∨ (b.handles[h.toNat]'h.isLt).format = s.regs.fmt)) →
    (s.gangOrphan s.cur = true →
      exec (.vgsld d h p ord) s = .next (settle (.vgsld d h p ord) (trap 0x0B) s.uncut)) ∧
    (s.gangOrphan s.cur = false →
      s.rowsWanted d.toNat s.regs.fmt s.regs.group s.regs.start s.regs.len ≤ s.rowsFree →
      exec (.vgsld d h p ord) s = .next (s.noStall.sleep .gangLoad (.vgsld d h p ord)))) ∧
  (∀ (s u u1 u2 v : State) (a m0 : Agent) (id : Nat) (d p : Reg) (h : BitVec 3) (ord : BitVec 2) (n : Nat)
      (hd : Handle) (xs : List (Nat × Nat × Option (Nat × Nat))),
    let i : Instr := .vgsld d h p ord
    let members := (s.gangOf a).filter (fun b => !b.hasEnded)
    let active := ((List.range a.regs.len).drop a.regs.start).filter (fun j => members.any (fun b =>
      p == 0 || (b.p[p.toNat]'p.isLt).getLsbD j))
    s.agent? id = some a → gangFields a = some (d, h, p, ord) → s.gangOrphan a = false →
    (∀ b ∈ members, b.status = .waiting .gangLoad i ∧ b.regs.len = a.regs.len ∧ b.regs.vtype = a.regs.vtype ∧
      b.regs.vstart = a.regs.vstart) →
    members.find? (fun b => b.core == 0) = some m0 →
    each members backToRows s = .ok () u → (∀ b ∈ u.agents, b.id ∈ members.map (fun c => c.id) → (gangFields b).isSome = true) →
    asAgent m0.id (do need (!(← get).handleBusy h.toNat)) u = .ok () u1 →
    each members (fun b => asAgent b.id (do
      settleOlder
      releaseIf (ord.getLsbD 0) 0)) u1 = .ok () u2 →
    asAgent m0.id (do
      let hd := (← get).handle h.toNat
      let n := min a.regs.len hd.remaining.toNat
      let (xs, stop) ← upToFault (stripElem h.toNat hd n active) active
      if stop.isNone then (if a.regs.start < a.regs.len then advanceHandle h.toNat n (some a.regs.len) else noteStrip h.toNat)
      return (hd, n, xs, stop)) u2 = .ok (hd, n, xs, none) v →
    exec (.vgsldMeet id) s = .next (members.foldl (fun t b =>
      (settle i (gangMember d p h ord i hd n xs [] none) (t.retry b.id)).focus t.cur.id) v)) ∧
  (∀ (s : State) (d p : Reg) (h : BitVec 3) (i : Instr) (hd : Handle) (n : Nat) (xs : List (Nat × Nat × Option (Nat × Nat))),
    Fmt.isBlock s.regs.fmt = false → d.toNat % s.regs.group = 0 → s.cur.cut = none → (xs.map (fun e => e.1)).Nodup →
    (∀ e ∈ xs, e.1 < s.regs.len) →
    s.rowsWanted d.toNat s.regs.fmt s.regs.group s.regs.start s.regs.len ≤ s.rowsFree →
    loadCompletes s s (.next (settle i (gangMember d p h 0 i hd n xs [] none) s)) d s.regs.len
      ((xs.filter (fun e => (s.actives p).contains e.1)).map (fun e => (e.1, e.2.1))))

/-! ## Sparse registers -/

/-- R268–R270, R128, R379: union and intersection of sparse registers: the result's coordinates ascend and are those of either,
or of both, sources; values are those of `sparseMerge`; a truncated result names the next coordinate in SLEN. The
dot product sums the products at common coordinates. Coordinates out of order, or a length over the capacity, trap in all three forms, the
first source's before the second's, with the first pair that does not rise or the capacity. The model's
choice: a floating-point step of the dot product rounds its product and its sum once together (log entry 17), with the draw of its
number among the common coordinates (log entry 56). -/
def Obligations.SparseOperations : Prop :=
  ∀ (s : State) (k a b : BitVec 3) (d : Reg) (rm : BitVec 2), s.runs .threadOnly → s.cur.vqueue.length < 32 →
    (∀ v ∈ [coordReg a, valueReg a, coordReg b, valueReg b], v.toNat % tagGroup (s.tag v) = 0) →
    let f := s.opFmt [valueReg a, valueReg b]
    let cap := sparseCap f
    (tagFmt (s.tag (valueReg a))).isBlock = false → (tagFmt (s.tag (valueReg b))).isBlock = false →
    let coords (c : BitVec 3) : List Nat := (List.range (s.sparseLen c)).map (s.coord c)
    let merged (mul : Bool) := s.sparseMerge f (s.rnd rm) mul a b cap (s.sparseLen a + s.sparseLen b) 0 0 []
    let completes (o : Out) (ps : List (Nat × Nat × Events)) (next : Option Nat) : Prop :=
      s.rowsWanted (coordReg k).toNat 3 1 0 ps.length + s.rowsWanted (valueReg k).toNat f 1 0 ps.length ≤ s.rowsFree →
      ∃ t, o = .next t ∧ othersSame s t ∧ t.cur.g = s.cur.g ∧ t.cur.p = s.cur.p ∧ t.regs.start = 0 ∧
        (∀ j e, ps[j]? = some e → t.coord k j = e.1 % 2 ^ 32 ∧ t.elem (valueReg k).toNat j = e.2.1 % 2 ^ Fmt.bits f) ∧
        t.regs.slenOf k = BitVec.ofNat 64 (ps.length + match next with | none => 0 | some x => 2 ^ 31 + 2 ^ 32 * x) ∧
        (∀ c, c ≠ k → t.regs.slenOf c = s.regs.slenOf c) ∧
        (∀ n, n ≠ (coordReg k).toNat → n ≠ (valueReg k).toNat → t.v n = s.v n)
    (s.sparseBad a cap = none → s.sparseBad b cap = none →
      completes (exec (.vsadd k a b rm) s) (merged false).1 (merged false).2 ∧
      completes (exec (.vsmul k a b rm) s) (merged true).1 (merged true).2 ∧
      (∀ mul, ((merged mul).1.map (fun e => e.1)).Pairwise (· < ·) ∧ (merged mul).1.length ≤ cap) ∧
      ((merged false).2 = none → ∀ c, c ∈ (merged false).1.map (fun e => e.1) ↔ c ∈ coords a ∨ c ∈ coords b) ∧
      ((merged true).2 = none → ∀ c, c ∈ (merged true).1.map (fun e => e.1) ↔ c ∈ coords a ∧ c ∈ coords b) ∧
      (Fmt.isInt f = true → s.rowsWanted d.toNat f 1 0 1 ≤ s.rowsFree →
        ∃ t, exec (.vsdot d a b rm) s = .next t ∧ vectorFrame s t ∧ t.cur.p = s.cur.p ∧ t.regs.start = 0 ∧
          groupWritten s t d.toNat f 1 1 [(0, intBits f ((s.common a b).map (fun e =>
            s.intOperand (valueReg a).toNat e.1 * s.intOperand (valueReg b).toNat e.2)).sum)]) ∧
      (Fmt.isInt f = false → s.rowsWanted d.toNat f 1 0 1 ≤ s.rowsFree →
        ∃ t, exec (.vsdot d a b rm) s = .next t ∧ vectorFrame s t ∧ t.cur.p = s.cur.p ∧ t.regs.start = 0 ∧
          groupWritten s t d.toNat f 1 1 [(0, (s.common a b).zipIdx.foldl (fun acc e =>
            (fMulAdd f (s.rnd rm e.2) (s.operand (valueReg a).toNat e.1.1 (s.rnd rm e.2)).1
              (s.operand (valueReg b).toNat e.1.2 (s.rnd rm e.2)).1 (decodeFloat f acc)).1) 0)])) ∧
    (∀ (c : BitVec 3) (n : Nat), (c = a ∧ s.sparseBad a cap = some n) ∨ (c = b ∧ s.sparseBad a cap = none ∧ s.sparseBad b cap = some n) →
      let traps (i : Instr) : Prop := exec i s = .next (settle i (trap 0x47 none (BitVec.ofNat 64 (65536 * c.toNat + n))) s.uncut)
      traps (.vsadd k a b rm) ∧ traps (.vsmul k a b rm) ∧ traps (.vsdot d a b rm)) ∧
    (∀ c n, s.sparseBad c cap = some n → n ≤ cap ∧ (coords c |>.take n).Pairwise (· < ·) ∧
      (n < cap → 1 ≤ n ∧ n < s.sparseLen c ∧ s.coord c n ≤ s.coord c (n - 1)) ∧ (n = cap → cap < s.sparseLen c)) ∧
    (∀ c, s.sparseBad c cap = none ↔ s.sparseLen c ≤ cap ∧ (coords c).Pairwise (· < ·))

/-- R271–R273: a bitmap load whose header and nodes are read writes the coordinates present from the cursor on, at most a
register of them, with their values; an append takes its ticket and stores its pairs, or traps where the queue is full and has
then done nothing; an append of no pairs does nothing. -/
def Obligations.SparseMemory : Prop :=
  ∀ (s u u1 u2 : State) (k : BitVec 3) (a b d : Reg), s.runs .threadOnly → s.cur.vqueue.length < 32 →
    (∀ (hx : Nat) (cs : List Nat) (pairs : List (Nat × Nat)),
      let f := s.regs.fmt
      let hd := leBytes 64 hx
      let from_ := if (s.regs.slenOf k).getLsbD 31 then (s.regs.slenOf k).toNat / 2 ^ 32 else 0
      Fmt.isBlock f = false → (s.g a).toNat % 64 = 0 → loadNat true 2 (s.g a) 64 s.uncut = .ok hx u →
      (∀ o, bitmapBad hd = some o →
        exec (.vspld k a b) s = .next (settle (.vspld k a b) (trap 0x4A (some (s.g a)) (BitVec.ofNat 64 o) 3) u)) ∧
      (bitmapBad hd = none →
        bitmapWalk from_ (sparseCap f + 1) (fun lv => BitVec.ofNat 64 (areaNat hd (16 + 8 * (areaNat hd 0 1 - 2 - lv)) 8))
          (areaNat hd 0 1 - 1) 0 (areaNat hd 8 8) [] u = .ok cs u1 →
        readValues f (s.g b) (cs.take (sparseCap f)) [] u1 = .ok pairs u2 →
        u2.rowsWanted (coordReg k).toNat 3 1 0 pairs.length + u2.rowsWanted (valueReg k).toNat f 1 0 pairs.length ≤ u2.rowsFree →
        ∃ t, exec (.vspld k a b) s = .next t ∧ t.mem = u2.mem ∧ t.cur.g = u2.cur.g ∧ t.cur.p = u2.cur.p ∧ t.regs.start = 0 ∧
          pairs.map (fun e => e.1) = cs.take (sparseCap f) ∧
          (∀ j e, pairs[j]? = some e → t.coord k j = e.1 % 2 ^ 32 ∧ t.elem (valueReg k).toNat j = e.2 % 2 ^ Fmt.bits f) ∧
          t.regs.slenOf k = BitVec.ofNat 64 (pairs.length +
            match cs[sparseCap f]? with | none => 0 | some x => 2 ^ 31 + 2 ^ 32 * x) ∧
          (∀ n, n ≠ (coordReg k).toNat → n ≠ (valueReg k).toNat → t.v n = u2.v n))) ∧
    (let f := s.opFmt [valueReg k]
     let n := s.sparseLen k
     let q := s.g b
     let w := elemBytes f
     let rs := if w = 8 then 16 else 8
     let ready : Prop := (tagFmt (s.tag (valueReg k))).isBlock = false ∧ s.sparseBad k (sparseCap f) = none ∧ q.toNat % 8 = 0 ∧
       (coordReg k).toNat % tagGroup (s.tag (coordReg k)) = 0 ∧ (valueReg k).toNat % tagGroup (s.tag (valueReg k)) = 0
     let done (t : State) : State :=
       let t := t.setRegs { t.regs with vstart := 0 }
       (t.enqueue (VToken.of 2 (.vspst d k b) s.uncut t)).retire (.vspst d k b) .seq
     (ready → n = 0 → exec (.vspst d k b) s = .next (done s.uncut)) ∧
     (∀ (s1 s2 s3 s4 : State) (pl : Place) (y : Nat), ready → n ≠ 0 →
       drainBank s.cur.id s.uncut.committed = .ok () s1 → atomicPlace .atomic 3 q s1 = .ok pl s2 → anchor q s2 = .ok () s3 →
       updateAt q.toNat 3 pl 8 4 (fun x => if x % 2 ^ 32 + n ≤ x / 2 ^ 32 then some (x % 2 ^ 32 + n) else none) s3 = .ok y s4 →
       let t := y % 2 ^ 32
       let limit := y / 2 ^ 32
       let at_ (j : Nat) : Word := s.g d + BitVec.ofNat 64 (rs * (t + j))
       (limit < t + n → exec (.vspst d k b) s =
         .next (settle (.vspst d k b) (trap 0x40 (some q) (BitVec.ofNat 64 n) 4) (s1.errorsFound s4)) ∧
         (s4.latent = s1.latent → s1.errorsFound s4 = s1)) ∧
       (t + n ≤ limit →
         (do
           record 3 (spanRange q.toNat 4 true)
           each (List.range n) (fun j => checkAccess true .store 3 (at_ j) rs)
           each (List.range n) (fun j => storeNat true 3 (at_ j) rs
             (s.coord k j + s.elem (valueReg k).toNat j * 2 ^ (if w = 8 then 64 else 32)))
           record 3 (spanRange (at_ 0).toNat (rs * n) true) : Exec Unit) s4 = .ok () u →
         ∀ v, storedBefore (s1.flying (u.setRegs { u.regs with vstart := 0 }) (.vspst d k b) 3) = .ok () v →
         exec (.vspst d k b) s = .next ((v.enqueue (VToken.of 2 (.vspst d k b) s.uncut v)).retire (.vspst d k b) .seq))))

/-! ## The matrix core -/

/-- R258, R259, R278: a tile whose descriptor and rows are read replaces its side's buffer and answers its rows: all of them for
MLDT, those before the first faulting row for MLDTFF, at least one. R262–R265: MZERO makes every element of its accumulator +0;
MMA and MMAS add to each element of the granted rows the sums of the products of its row of A and its row of B, block after
block, each sum and each addition rounded once, and leave every other element; their conditions are checked in order;
ACC_ROW_COMPLETE ends a row's operation. The model's choice: TAG_MISMATCH of mma and mmas has KTVAL2 0 (log entry 19), and the sum of
a block whose products are all -0 is +0 (log entry 54). -/
def Obligations.TilesAndMatrices : Prop :=
  ((∀ (s u v : State) (d a : Reg) (x : Nat) (rows : List (BitVec 8192 × BitVec 256 × BitVec 512)), s.runs (.only .mcc) →
     let va := s.g a
     let td := tileDesc (BitVec.ofNat 256 x)
     let tile : Tile := { loaded := true, fmt := td.fmt, k := td.k, sparse := td.sparse, rows := rows }
     let done (i : Instr) (b : Bool) : Out := .next (((v.setCluster v.myCluster
         (if b then { v.cluster v.myCluster with tileB := tile } else { v.cluster v.myCluster with tileA := tile })).setG d
       (BitVec.ofNat 64 rows.length)).retire i .seq)
     va.toNat % 32 = 0 → loadNat false 0 va 32 s = .ok x u →
     (checkTile va false td u = .ok () u → readTile va false false td td.rows 0 [] [] u = .ok rows v →
       exec (.mldtA d a) s = done (.mldtA d a) false ∧ rows.length = td.rows) ∧
     (checkTile va true td u = .ok () u → readTile va true false td td.rows 0 [] [] u = .ok rows v →
       exec (.mldtB d a) s = done (.mldtB d a) true ∧ rows.length = td.rows) ∧
     (checkTile va false td u = .ok () u → readTile va false true td td.rows 0 [] [] u = .ok rows v →
       exec (.mldtffA d a) s = done (.mldtffA d a) false ∧ 1 ≤ rows.length ∧ rows.length ≤ td.rows) ∧
     (checkTile va true td u = .ok () u → readTile va true true td td.rows 0 [] [] u = .ok rows v →
       exec (.mldtffB d a) s = done (.mldtffB d a) true ∧ 1 ≤ rows.length ∧ rows.length ≤ td.rows)) ∧
   (∀ (s u : State) (va : Word) (b : Bool) (td : TileDesc), checkTile va b td s = .ok () u →
     u = s ∧ 1 ≤ td.k ∧ td.k ≤ 512 ∧ 1 ≤ td.rows ∧ td.rows ≤ (if b then 64 else 128) ∧ 8 ≤ td.fmt ∧ td.fmt ≤ 12 ∧
     (b = true → td.sparse = false) ∧ (Fmt.isBlock td.fmt = true → td.need ≤ td.nsc))) ∧
  (∀ (s : State) (acc : BitVec 2), s.runs (.only .mcc) →
     let g := s.myCluster
     let c := s.cluster g
     let a := c.tileA
     let b := c.tileB
     let elem (c : Cluster) (r j : Nat) : Nat := field (c.accRow acc.toNat r) (32 * j) 32
     let stops (sparse : Bool) (i : Instr) : Prop :=
       (a.loaded = false ∨ b.loaded = false → exec i s = .next (settle i (trap 0x4E none 1) s)) ∧
       (a.loaded = true → b.loaded = true →
         (formatsAgree a.fmt b.fmt = false → exec i s = .next (settle i (trap 0x05) s)) ∧
         (formatsAgree a.fmt b.fmt = true → a.sparse ≠ sparse → exec i s = .next (settle i (trap 0x4E none 2) s)) ∧
         (formatsAgree a.fmt b.fmt = true → a.sparse = sparse → a.k ≠ b.k → exec i s = .next (settle i (trap 0x4E none 3) s)))
     let completes (sparse : Bool) (i : Instr) : Prop :=
       a.loaded = true → b.loaded = true → formatsAgree a.fmt b.fmt = true → a.sparse = sparse → a.k = b.k →
       ∃ c', exec i s = .next ((s.setCluster g c').retire i .seq) ∧ c'.tileA = a ∧ c'.tileB = b ∧ c'.mccOwner = c.mccOwner ∧
         c'.l1 = c.l1 ∧
         (∀ r ra, r < 128 → a.rows[r]? = some ra →
           (∀ j rb, j < 64 → b.rows[j]? = some rb → elem c' r j = mmaElem a b ra rb (elem c r j) % 2 ^ 32) ∧
           (∀ j, j < 64 → b.rows.length ≤ j → elem c' r j = elem c r j)) ∧
         (∀ r, r < 128 → a.rows.length ≤ r → c'.accRow acc.toNat r = c.accRow acc.toNat r) ∧
         (a.rows.length ≤ 128 → ∀ n r, n ≠ acc.toNat → r < 128 → c'.accRow n r = c.accRow n r)
     completes false (.mma acc) ∧ completes true (.mmas acc) ∧ stops false (.mma acc) ∧ stops true (.mmas acc) ∧
     (∃ c', exec (.mzero acc) s = .next ((s.setCluster g c').retire (.mzero acc) .seq) ∧ c'.tileA = a ∧ c'.tileB = b ∧
       (∀ r, r < 128 → c'.accRow acc.toNat r = 0) ∧ (∀ n r, n ≠ acc.toNat → r < 128 → c'.accRow n r = c.accRow n r)) ∧
     (∀ (cl n row : Nat) (e : Nat × Nat × Nat), e ∈ (s.cluster cl).accBusy → e.1 = n → e.2.1 = row → e.2.2 ≤ s.clock →
       ∃ bs, exec (.accRowComplete cl n row) s = .next (s.setCluster cl { s.cluster cl with accBusy := bs }) ∧
         ∀ x, x ∈ bs ↔ x ∈ (s.cluster cl).accBusy ∧ ¬(x.1 = n ∧ x.2.1 = row ∧ x.2.2 ≤ s.clock)))

/-- R261, R267, R256: mst stores the accumulator's rows, once their operations are over; vmrd and vmwr move one row between it and
a vector register of a thread of the launch that owns the MCC: another launch's traps, and a row past 127 too, as does a format that
the form excludes. The model's choice (log entry 57): both forms read a subnormal element as it is, and fz flushes vmrd's result alone. -/
def Obligations.AccumulatorAccess : Prop :=
  ∀ (s u v : State) (acc : BitVec 2) (d a b p : Reg) (rm : BitVec 2) (x : Nat),
    let c := s.cluster s.myCluster
    let td := tileDesc (BitVec.ofNat 256 x)
    let w := Fmt.bits td.fmt / 8
    let cell (i j : Nat) : Nat :=
      let e := field ((u.cluster u.myCluster).accRow acc.toNat i) (32 * j) 32
      if td.fmt = 6 then e else (roundVal 8 rndRNE (decodeFloat 6 e)).1
    (s.runs (.only .mcc) → (s.g a).toNat % 32 = 0 → loadNat false 0 (s.g a) 32 s = .ok x u →
      checkStoreTile (s.g a) td u = .ok () u →
      ((u.cluster u.myCluster).busyUntil u.clock acc.toNat (List.range 128)).isNone = true →
      let at_ (i j : Nat) : Word := td.base + BitVec.ofNat 64 (i * td.stride + j * w)
      each (List.range td.rows) (fun i => do
        inFlight (.mst acc a) 1 (each (List.range td.k) (fun j => storeNat true 1 (at_ i j) w (cell i j)))
        clearCovered w (fun _ => 0) ((List.range td.k).map (fun j => (j, at_ i j)))
        record 1 (spanRange (td.base + BitVec.ofNat 64 (i * td.stride)).toNat (td.k * w) true)) u = .ok () v →
      exec (.mst acc a) s = .next (v.retire (.mst acc a) .seq)) ∧
    (∀ g, s.runs .threadOnly → s.cur.vqueue.length < 32 → s.cur.cut = none → c.mccOwner = some s.cur.launch → (s.g b).toNat < 128 →
      (c.busyUntil s.clock acc.toNat [(s.g b).toNat]).isNone = true →
      (Fmt.isFloat s.regs.fmt = true → s.regs.destGroup s.regs.fmt = some g → d.toNat % g = 0 →
        s.rowsWanted d.toNat s.regs.fmt g s.regs.start s.regs.len ≤ s.rowsFree →
        let got (i : Nat) : Nat × Events :=
          if i < 64 then roundVal s.regs.fmt (s.rnd rm i) (decodeFloat 6 (field (c.accRow acc.toNat (s.g b).toNat) (32 * i) 32))
          else (0, 0)
        vectorCompletes s (exec (.vmrd d acc b p rm) s) d s.regs.fmt g s.regs.len
          ((s.actives p).map (fun i => (i, (got i).1))) ((s.actives p).map (fun i => (i, (got i).2)))) ∧
      (d.toNat % tagGroup (s.tag d) = 0 → 6 ≤ tagFmt (s.tag d) → tagFmt (s.tag d) ≤ 12 →
        ∃ t, exec (.vmwr d acc b p) s = .next t ∧ t.regs.start = 0 ∧ t.cur.g = s.cur.g ∧ t.cur.v = s.cur.v ∧ t.cur.p = s.cur.p ∧
          t.mem = s.mem ∧
          (∀ i, i < 64 → field ((t.cluster s.myCluster).accRow acc.toNat (s.g b).toNat) (32 * i) 32 =
            if i ∈ s.actives p then s.bitsIn d.toNat i 6 % 2 ^ 32
            else field (c.accRow acc.toNat (s.g b).toNat) (32 * i) 32) ∧
          (∀ n r, r < 128 → (n ≠ acc.toNat ∨ r ≠ (s.g b).toNat) → (t.cluster s.myCluster).accRow n r = c.accRow n r))) ∧
    (∀ (i : Instr), s.runs .threadOnly → s.cur.vqueue.length < 32 → s.cur.cut = none →
      (i = .vmwr d acc b p ∧ d.toNat % tagGroup (s.tag d) = 0 ∧ 6 ≤ tagFmt (s.tag d) ∧ tagFmt (s.tag d) ≤ 12) ∨
        (i = .vmrd d acc b p rm ∧ Fmt.isFloat s.regs.fmt = true ∧ ∃ g, s.regs.destGroup s.regs.fmt = some g ∧ d.toNat % g = 0) →
      (c.mccOwner ≠ some s.cur.launch → exec i s = .next (settle i (trap 0x4D none (acc.setWidth 64)) s)) ∧
      (c.mccOwner = some s.cur.launch → 128 ≤ (s.g b).toNat → exec i s = .next (settle i (trap 0x4F (some (s.g b))) s))) ∧
    (s.runs .threadOnly → s.cur.vqueue.length < 32 → s.cur.cut = none →
      (Fmt.isFloat s.regs.fmt = false → exec (.vmrd d acc b p rm) s =
        .next (settle (.vmrd d acc b p rm) (mismatch none none none) s)) ∧
      (d.toNat % tagGroup (s.tag d) = 0 → tagFmt (s.tag d) < 6 ∨ 12 < tagFmt (s.tag d) → exec (.vmwr d acc b p) s =
        .next (settle (.vmwr d acc b p) (mismatch none none (some d)) s)))

/-! ## Engine commands -/

/-- R280, R281, R283, R284, R274, R291, R293, R294: an engine command whose record is read and whose fields and windows are
good is accepted at the end of its engine's queue, where the engine stands and the queue has a place; a lost engine traps and
a full queue makes the issuer wait, and ENGINE_QUEUE_ROOM then accepts its command where the queue has a place. -/
def Obligations.CommandsOfTowers : Prop :=
  ∀ (s u v : State) (d a b : Reg) (acq rel : Bool) (scope : BitVec 2) (x : Nat),
    let fld := recField x
    let src := (s.g a).toNat
    let dst := (s.g d).toNat
    let sc := scope.toNat
    let done (i : Instr) (engine : Nat) (va : Word) (chan : Option Nat) (w : Work) : Prop :=
      v.hasRoom engine v.myTower →
        exec i s = .next ((v.accepted engine v.myTower va acq rel sc chan w).retire i .seq) ∧
        ∀ (r : State) (id : Nat), r.waitsIn id .queue i → r.retry id = s → exec (.engineQueueRoom id) r =
          .next (((v.accepted engine v.myTower va acq rel sc chan w).retire i .seq).focus r.cur.id)
    (s.runs (.threadOr .copy) → readRecord (s.g b) 64 64 s = .ok x u →
      1 ≤ fld 0 4 → fld 0 4 ≤ 2 ^ 24 → 1 ≤ fld 4 4 → fld 4 4 ≤ 2 ^ 20 → fld 24 8 % 8 = 0 → fld 40 1 ≤ 7 ∨ fld 40 1 = 255 →
      fld 41 23 = 0 →
      (do checkNamed src
          checkWindow (spanOf src (recInt x 8) (fld 4 4) (fld 0 4))
          checkNamed dst
          checkWindow (spanOf dst (recInt x 16) (fld 4 4) (fld 0 4))
          checkWindow (fld 24 8, 8) : Exec Unit) u = .ok () v →
      done (.xcopy d a b acq rel scope) 1 (s.g b) (if fld 40 1 = 255 then v.freeChannel v.myTower else some (fld 40 1))
        (.copy dst src (fld 0 4) (fld 4 4) (recInt x 8) (recInt x 16) (fld 24 8) (fld 32 8) (fld 40 1))) ∧
    (s.runs (.threadOr .gleaner) → readRecord (s.g a) 64 64 s = .ok x u →
      fld 8 8 % 4 = 0 → fld 28 1 ∈ [1, 2, 4, 8] → fld 29 3 = 0 → fld 32 8 % 8 = 0 → fld 40 24 = 0 →
      (do checkWindow (fld 0 8, 1)
          checkWindow (fld 8 8, 4 * fld 24 4)
          checkWindow (fld 16 8, fld 24 4 * fld 28 1)
          checkWindow (fld 32 8, 8) : Exec Unit) u = .ok () v →
      done (.xgather a acq rel scope) 2 (s.g a) none
        (.gather (fld 0 8) (fld 8 8) (fld 16 8) (fld 24 4) (fld 28 1) (fld 32 8))) ∧
    (s.runs (.threadOr .gleaner) → readRecord (s.g a) 64 64 s = .ok x u →
      fld 0 8 % 4 = 0 → fld 16 8 % 8 = 0 → fld 24 8 % 4 = 0 → fld 36 4 = 0 → fld 40 8 % 8 = 0 → fld 48 16 = 0 →
      (do checkWindow (fld 0 8, 4 * fld 8 4)
          checkWindow (fld 16 8, 8 * fld 12 4)
          checkWindow (fld 24 8, 4 * fld 12 4 * fld 32 4)
          checkWindow (fld 40 8, 8) : Exec Unit) u = .ok () v →
      done (.xbin a acq rel scope) 2 (s.g a) none
        (.bin (fld 0 8) (fld 8 4) (fld 12 4) (fld 16 8) (fld 24 8) (fld 32 4) (fld 40 8))) ∧
    (s.runs (.threadOr .copy) → readRecord (s.g b) 32 32 s = .ok x u →
      src % 64 = 0 → dst % 64 = 0 → fld 0 8 % 64 = 0 → 64 ≤ fld 0 8 → fld 0 8 ≤ 2 ^ 40 →
      dst + fld 0 8 ≤ src ∨ src + fld 0 8 ≤ dst → fld 8 8 % 16 = 0 → fld 16 16 = 0 →
      (do checkWindow (src, fld 0 8)
          checkWindow (dst, fld 0 8)
          checkWindow (fld 8 8, 16) : Exec Unit) u = .ok () v →
      done (.xmove d a b acq rel scope) 1 (s.g b) (v.freeChannel v.myTower) (.move dst src (fld 0 8) (fld 8 8))) ∧
    (s.runs (.threadOr .copy) → readRecord (s.g a) 64 64 s = .ok x u →
      fld 0 8 % 8 = 0 → fld 8 8 % 8 = 0 → 8 ≤ fld 8 8 → fld 8 8 ≤ 2 ^ 40 → fld 16 8 % 64 = 0 → fld 24 8 % 64 = 0 →
      fld 16 8 < fld 24 8 → fld 32 8 % 64 = 0 → fld 40 24 = 0 →
      (do checkWindow (fld 0 8, fld 8 8)
          checkWindow (fld 32 8, 64) : Exec Unit) u = .ok () v →
      done (.xheal a acq rel scope) 1 (s.g a) (v.freeChannel v.myTower)
        (.heal (fld 0 8) (fld 8 8) (fld 16 8) (fld 24 8) (fld 32 8))) ∧
    (s.runs (.threadOr .copy) → readRecord (s.g a) 64 64 s = .ok x u →
      fld 0 8 % 64 = 0 → fld 8 8 % 64 = 0 → 64 ≤ fld 8 8 → fld 8 8 ≤ 2 ^ 40 → fld 16 8 % 8 = 0 → fld 24 4 ≤ 64 → fld 28 4 = 0 →
      fld 32 8 % 8 = 0 → fld 40 24 = 0 →
      (do checkWindow (fld 0 8, fld 8 8)
          checkWindow (fld 16 8, 8 * fld 24 4)
          checkWindow (fld 32 8, 8) : Exec Unit) u = .ok () v →
      done (.xreclaim a acq rel scope) 1 (s.g a) none (.reclaim (fld 0 8) (fld 8 8) (fld 16 8) (fld 24 4) (fld 32 8))) ∧
    (∀ (engine unit : Nat) (va : Word) (chan : Option Nat) (w : Work),
      (s.engineUp engine unit = false →
        accept engine unit va acq rel scope chan w s = .error (.trap { cause := 0x5B, val := some va }) s) ∧
      (s.engineUp engine unit = true → s.queueFull engine unit = true →
        accept engine unit va acq rel scope chan w s = .error (.wait .queue) s))

/-- R281, R288, R289, R295, R299, R300, R303: XINST, XPIN and XWEAR are accepted by the stack their address names, XSTREAM by the
tower's stream dispatcher, XSWEEP by its Lamplighter; XSBAR holds the streams it names until the thread's earlier commands have
completed, and with none left only acquires. -/
def Obligations.CommandsOfStacksAndStreams : Prop :=
  ∀ (s u v : State) (d a b : Reg) (acq rel : Bool) (scope : BitVec 2) (x pa : Nat),
    let fld := recField x
    let sc := scope.toNat
    let done (i : Instr) (engine unit : Nat) (va : Word) (rel : Bool) (w : Work) : Prop :=
      v.hasRoom engine unit → exec i s = .next ((v.accepted engine unit va acq rel sc none w).retire i .seq)
    (s.runs (.threadOr .install) → readRecord (s.g b) 32 32 s = .ok x u → (s.g d).toNat % 65536 = 0 → (s.g a).toNat % 64 = 0 →
      fld 0 8 % 65536 = 0 → 65536 ≤ fld 0 8 → fld 0 8 ≤ 2 ^ 40 → fld 8 8 % 32 = 0 → fld 16 8 % 8 = 0 →
      (do checkWindow ((s.g a).toNat, fld 0 8)
          checkWindow (fld 8 8, 32)
          checkWindow (fld 16 8, (if fld 16 8 = 0 then 0 else 8))
          flashPlace 0x54 (s.g d) (s.g b) : Exec Nat) u = .ok pa v →
      done (.xinst d a b acq rel scope) 4 (stackOf pa) (s.g b) rel
        (.install (s.g d).toNat (s.g a).toNat (fld 0 8) (fld 8 8) (fld 16 8) (BitVec.ofNat 64 (fld 24 8)))) ∧
    (s.runs (.threadOr .install) →
      (do checkWindow ((s.g d).toNat, 8)
          flashPlace 0x5C (s.g a) (s.g d) : Exec Nat) s = .ok pa v →
      done (.xpin d a b acq rel scope) 4 (stackOf pa) (s.g d) rel
        (.pin (s.g a).toNat ((s.g b).toNat % 2 ^ 63) ((s.g b).getLsbD 63) (s.g d).toNat)) ∧
    (s.runs (.threadOr .install) → flashPlace 0x54 (s.g a) 0 s = .ok pa v → v.hasRoom 4 (stackOf pa) →
      ∃ t : State, (d = 0 ∨ s.testedNext d = false → exec (.xwear d a) s = .next (t.retire (.xwear d a) .seq)) ∧
        (d ≠ 0 → s.testedNext d = true → exec (.xwear d a) s = .next (t.sleep .wear (.xwear d a))) ∧
        { t with cur := { t.cur with wearRegs := s.cur.wearRegs } } =
          v.accepted 4 (stackOf pa) 0 false false 0 none (.wear pa d.toNat) ∧
        t.cur.wearRegs = s.cur.wearRegs ++ (if d = 0 then [] else [(d.toNat, s.nextCmd)])) ∧
    (s.runs (.threadOr .stream) → readRecord (s.g a) 64 64 s = .ok x u →
      let ok (n : Nat) : Prop := 1 ≤ n ∧ n ≤ 2 ^ 24
      let c0 := fld 32 4; let c1 := fld 36 4; let c2 := fld 40 4
      let isThread := s.cur.kind = .thread ∨ s.cur.kind = .dispatcher
      let code := if fld 46 1 = 255 then s.cur.slotCode else 16 * s.cur.cluster + fld 46 1
      let e (o n : Nat) : Int := recInt x o * (n - 1 : Int)
      let es := [e 8 c0, e 16 c1, e 24 c2]
      ok c0 → ok c1 → c0 * c1 ≤ 2 ^ 32 → ok c2 → c0 * c1 * c2 ≤ 2 ^ 32 → fld 44 1 ≤ 10 → fld 45 1 ≤ 15 ∨ fld 45 1 = 255 →
      fld 46 1 < 16 ∨ (fld 46 1 = 255 ∧ isThread) → fld 47 1 ≤ 7 → fld 56 8 = 0 →
      (u.slotHolder s.cur.launch code).isSome = true →
      (do checkNamed (fld 0 8)
          checkWindow ((toWord ((fld 0 8 : Int) + es.foldl (fun n k => n + min 0 k) 0)).toNat,
            es.foldl (fun n k => n + k.natAbs) 0 + ceilDiv (Fmt.bits (fld 44 1)) 8) : Exec Unit) u = .ok () v →
      done (.xstream a acq scope) 5 v.myTower (s.g a) false
        (.stream { Handle.unbound with
            base := BitVec.ofNat 64 (fld 0 8), stride0 := BitVec.ofNat 64 (fld 8 8), stride1 := BitVec.ofNat 64 (fld 16 8),
            stride2 := BitVec.ofNat 64 (fld 24 8), count0 := BitVec.ofNat 32 c0, count1 := BitVec.ofNat 32 c1,
            count2 := BitVec.ofNat 32 c2, fmt := BitVec.ofNat 8 (fld 44 1), remaining := BitVec.ofNat 64 (c0 * c1 * c2),
            startTime := fld 48 8 } (fld 45 1) code (fld 47 1) (fld 48 8))) ∧
    (∀ (u1 u2 : State) (h w core : Nat) (l : Launch), s.runs (.threadOr .lamplighter) → readRecord (s.g a) 64 64 s = .ok x u →
      let hdr := fld 0 8
      let isThread := s.cur.kind = .thread ∨ s.cur.kind = .dispatcher
      fld 8 8 % 4 = 0 → 1 ≤ fld 16 1 → fld 16 1 ≤ 32 → fld 17 1 ≤ 64 → fld 18 1 ≤ 1 → fld 19 1 ≤ 15 → 1 ≤ fld 20 4 →
      fld 24 1 ≤ 3 ∨ (fld 24 1 = 255 ∧ isThread) → fld 25 39 = 0 →
      readRecord (BitVec.ofNat 64 hdr) 64 64 u = .ok h u1 →
      let n := recField h 0 4; let f : Fmt := recField h 4 1; let skip := recField h 8 8
      1 ≤ n → n ≤ 2 ^ 28 → f ≤ 10 → recField h 5 3 = 0 → skip % 8 = 0 → recField h 32 32 = 0 →
      readRecord (BitVec.ofNat 64 (fld 8 8)) (4 * fld 16 1) 4 u1 = .ok w u2 →
      (∀ y ∈ bodyWords w (fld 16 1), bodyAllows y = true) → u.sweepHost (fld 24 1) = some core →
      u2.launch? s.cur.launch = some l →
      (do checkWindow (hdr, 64 + ctxLines n * ctxPitch f)
          checkWindow (skip, 8 * ceilDiv (ctxLines n) 64) : Exec Unit) u2 = .ok () v →
      done (.xsweep a acq rel scope) 3 u2.myTower (s.g a) rel
        (.sweep hdr n f skip (bodyWords w (fld 16 1)) l.args (fld 18 1) (if fld 19 1 = 0 then 8 else fld 19 1) (fld 20 4) core
          (BitVec.ofNat 64 (fld 8 8)))) ∧
    (∀ (mask : BitVec 5) (t : State), s.runs (.threadOr .copy) →
      ((∀ c ∈ s.cmds, c.issuer = s.cur.id → s.nextCmd ≤ c.id) →
        acquireIf acq 0 sc { s with cur := s.cur.afterCmds (streamSet mask) s.nextCmd } = .ok () t →
        exec (.xsbar mask acq scope) s = .next (t.retire (.xsbar mask acq scope) .seq)) ∧
      ((∃ c ∈ s.cmds, c.issuer = s.cur.id ∧ c.id < s.nextCmd) →
        exec (.xsbar mask acq scope) s = .next (({ s with cur := { s.cur with holds := s.cur.holds ++
          [{ streams := streamSet mask, upTo := s.nextCmd, acq := if acq then some sc else none }] } } : State).retire
            (.xsbar mask acq scope) .seq))) ∧
    (∀ (r : State) (id : Nat) (g : Agent), s.agent? id = some g →
      exec (.xsbarDrain id) s = .next (eventStep (asAgent id (do
        modCur (fun a => { a with holds := a.holds.filter (fun h => !s.cmdsBefore id h.upTo) })
        each (g.holds.filter (fun h => s.cmdsBefore id h.upTo)) (fun h => do
          modCur (fun a => a.afterCmds h.streams h.upTo)
          match h.acq with
          | some scope => acquire 0 scope
          | none => pure ()))) s) ∧
      (∀ (streams : BitVec 13) (n : Nat) (x : Loose), x ∈ (g.afterCmds streams n).loose → 12 ≤ x.stream → x.cmd ≤ n →
        ∀ st, st < 12 → streams.getLsbD st = true → x.seen.getLsbD st = true) ∧
      (exec (.xsbarDrain id) s = .next r → ∃ g', r.agent? id = some g' ∧ ∀ h ∈ g'.holds, s.cmdsBefore id h.upTo = false))

/-- R284–R287, R275–R277, R393, R283, R247, R249: a copy, a gather or a bin whose turn has come is performed, its pieces, elements
or items in a free order, all that are left or one alone in a step (the model's choice: log entries 1, 5 and 32), until one
faults; after the last, or the fault, its completion word tells how many were performed and the command leaves its queue, once
what a release at .sys covers has arrived (R236). R291–R294, R199, R200, R251: a move copies each line that is not marked yet, marks it with its new address and a ticket,
and skips those marked; heals and reclaims are performed in their turn; a reclaimed line is unmarked and zero; the dirty bytes
of a stale copy of a marked line are performed where its mark leads, and no other byte changes. A command of which a write in flight
has been lost with its link performs nothing more (R346, R391). -/
def Obligations.EnginesThatMove : Prop :=
  (∀ (s s1 s2 t : State) (cmd : Nat) (c : Cmd) (now later : List Nat), s.isCommand cmd c → s.first c = true →
     (∀ (dst src rb rows : Nat) (ss ds : Int) (done start chan n : Nat) (rest : List Nat) (f : Option Failure),
       c.work = .copy dst src rb rows ss ds done start chan → start ≤ s.time c.unit →
       let ps := copyParts (copyPieces dst src rb rows ss ds)
       pickItems c ps.length (s.partSpans c ps) s = .ok (now, later) s1 → copyItems c ps now later s1 = .ok (rest, n, f) s2 →
       goOn { c with memo := s2.memoOf c } rest (n, 0) f (closeCmd c done ((if f.isSome then 3 else 1) * 2 ^ 60 + n)
         [{ base := (spanOf dst ds rows rb).1, stride := ds.natAbs, count := rows, width := rb, home := true }] f) s2 =
         .ok () t →
       exec (.xcopyExecute cmd) s = .next t ∧ (now ++ later).Perm (c.left.getD (List.range ps.length)) ∧
       (f = none → rest = later) ∧ (f.isSome ∨ (rest = [] ∧ s2.mayClose c = true) → left c t) ∧
       (f = none → c.left = none → c.tally = (0, 0) → later = [] → n = rows * rb)) ∧
     (∀ (src idx dst n w done : Nat) (k : Nat × Nat) (rest : List Nat) (f : Option Failure), c.work = .gather src idx dst n w done →
       pickItems c n (s.elemSpans c src idx dst w) s = .ok (now, later) s1 →
       runItems c (gatherItem c src idx dst w) now c.tally s1 = .ok (rest, k, f) s2 →
       goOn c (rest ++ later) k f (closeCmd c done ((if f.isSome then 3 else 1) * 2 ^ 60 + k.1 % 2 ^ 32)
         [spanRange dst (n * w) true] f) s2 = .ok () t →
       exec (.xgatherExecute cmd) s = .next t ∧ (now ++ later).Perm (c.left.getD (List.range n)) ∧
       (f = none → rest = [] ∧ k.1 = c.tally.1 + now.length) ∧
       (f.isSome ∨ (rest ++ later = [] ∧ s2.mayClose c = true) → left c t)) ∧
     (∀ (key n b ctr bkt slots done : Nat), c.work = .bin key n b ctr bkt slots done →
       pickItems c n (s.binSpans c key b ctr bkt slots) s = .ok (now, later) s1 →
       (∀ (s1' : State) (k : Nat × Nat) (rest : List Nat) (f : Option Failure), aloneItem c now s1 = .ok none s1' →
         binItems c key b ctr bkt slots now later s1' = .ok (rest, k, f) s2 →
         goOn { c with memo := c.memo.filter (fun e => rest.contains e.1) } rest k f
           (closeCmd c done ((if f.isSome then 3 else if k.1 - k.2 = 0 then 1 else 2) * 2 ^ 60 +
             (k.1 - k.2) % 2 ^ 28 * 2 ^ 32 + k.2 % 2 ^ 32)
             [spanRange ctr (8 * b) true, spanRange bkt (4 * b * slots) true] f) s2 = .ok () t →
         exec (.xbinExecute cmd) s = .next t ∧ (now ++ later).Perm (c.left.getD (List.range n)) ∧
         (f = none → rest = later) ∧ (f.isSome ∨ (rest = [] ∧ s2.mayClose c = true) → left c t)) ∧
       (∀ (s1' : State) (i slot : Nat), aloneItem c now s1 = .ok (some i) s1' →
         binKey c key b ctr bkt slots i s1' = .ok (some slot) s2 →
         now = [i] ∧ exec (.xbinExecute cmd) s = .next { s2 with cmds := s2.cmds.map (fun (d : Cmd) => if d.id = c.id then
           { c with started := true, left := some (i :: later), memo := (i, slot) :: c.memo } else d) }))) ∧
  (∀ (s s1 s2 t : State) (cmd : Nat) (c : Cmd), s.isCommand cmd c →
     (∀ (dst src n done m k ticket : Nat) (one : Bool) (f : Option Failure), c.work = .move dst src n done → s.turn c = true →
       drawBit s = .ok one s1 →
       let todo := c.left.getD (List.range (n / 64))
       let now := if one then 1 else todo.length
       moveLines c.ctx (moveRange dst src (todo.take now)) c.tally.1 c.tally.2 ((c.memo.lookup 0).getD 0) s1 =
         .ok (m, k, ticket, f) s2 →
       goOn { c with memo := [(0, ticket)] } (todo.drop now) (m, k) f
         (closeRecord c done [(0, leBytes 8 ticket), (8, leBytes 8 ((if f.isSome then 3 else if k = 0 then 1 else 2) * 2 ^ 60 +
           k % 2 ^ 28 * 2 ^ 32 + m % 2 ^ 32))] (spanRange dst n true) f) s2 = .ok () t →
       exec (.xmoveExecute cmd) s = .next t ∧ (f.isSome ∨ (todo.drop now = [] ∧ s2.mayClose c = true) → left c t) ∧
       (f = none → m + k = c.tally.1 + c.tally.2 + (todo.take now).length)) ∧
     (∀ (asid va src dst va' ticket : Nat), s.wf = true → src ≠ dst → va' < 2 ^ 64 → ticket < 2 ^ 64 →
       (∀ e ∈ s.latent, e.unit ≠ src) →
       let u := s.moveLine asid va src dst va' ticket
       (∀ k, k < 64 → memByte u.mem (64 * dst + k) = memByte s.mem (64 * src + k)) ∧ memNat u.mem (64 * src) 8 = va' ∧
       memNat u.mem (64 * src + 8) 8 = ticket ∧ (∀ k, 16 ≤ k → k < 64 → memByte u.mem (64 * src + k) = 0) ∧
       (∀ a, a / 64 ≠ src → a / 64 ≠ dst → memByte u.mem a = memByte s.mem a) ∧
       isMarked u src = true ∧ (∀ l, l ≠ src → isMarked u l = isMarked s l) ∧
       isPoisoned u dst = isPoisoned s src ∧ isPoisoned u src = false) ∧
     (∀ (rb rl lo hi done : Nat) (now later rest : List Nat) (k : Nat × Nat) (f : Option Failure), c.work = .heal rb rl lo hi done →
       s.first c = true →
       let since := (c.memo.lookup 0).getD (s.time c.unit)
       let word (i : Nat) : Nat := (BitVec.ofNat 64 (rb + 8 * i)).toNat
       pickItems c (rl / 8) (fun i => s.windowSpan c (word i, 8) true) s = .ok (now, later) s1 →
       runItems c (fun i => healWord c lo hi (word i)) now c.tally s1 = .ok (rest, k, f) s2 →
       goOn { c with memo := [(0, since)] } (rest ++ later) k f
         (closeRecord c done [(0, leBytes 8 rb ++ leBytes 8 rl ++ leBytes 8 lo ++ leBytes 8 hi ++ leBytes 8 since ++
           List.replicate 16 0), (56, leBytes 8 ((if f.isSome then 3 else 1) * 2 ^ 60 + k.1 % 2 ^ 32))]
         (spanRange rb rl true) f) s2 = .ok () t →
       exec (.xhealExecute cmd) s = .next t ∧ (now ++ later).Perm (c.left.getD (List.range (rl / 8))) ∧
       (f.isSome ∨ (rest ++ later = [] ∧ s2.mayClose c = true) → left c t)) ∧
     (∀ (base len list n done : Nat) (hs : List HealRec) (ls : List Nat), c.work = .reclaim base len list n done →
       readHeals c list n s = .ok hs s1 → s1.turn c = true → rangeLines s1 c.ctx base len = .ok ls →
       (∀ l ∈ ls, s1.ticketOf l < (s1.tower c.unit).oldtkt.toNat) →
       (∀ h ∈ hs, h.status = 1 ∧ h.lo ≤ base ∧ base + len ≤ h.hi ∧ ∀ l ∈ ls, s1.ticketOf l < h.time) →
       closeCmd c done (2 ^ 60 + ls.length % 2 ^ 32) [spanRange base len true] none (ls.foldl State.reclaimLine s1) = .ok () t →
       exec (.xreclaimExecute cmd) s = .next t ∧ left c t) ∧
     (∀ line, s.wf = true → (∀ a, a / 64 = line → memByte (s.reclaimLine line).mem a = 0) ∧
       isMarked (s.reclaimLine line) line = false ∧ ∀ g, (s.reclaimLine line).l1? g line = none) ∧
     (∀ (cl line : Nat) (l : L1Line), isMarked s line = true → s.l1? cl line = some l →
       exec (.movedAccessRetry cl line) s = .next (s.writeBack cl l) ∧
       (∀ x, (s.writeBack cl l).l1? cl line = some x → x.dirty = 0) ∧
       (∀ dst, s.wf = true → forwardLine s cl l.asid line = .ok dst →
         ∀ b, memByte (s.writeBack cl l).mem b =
           if b / 64 = dst ∧ l.dirty.getLsbD (b % 64) = true then byteOf l.data (b % 64) else memByte s.mem b)) ∧
     (∀ (one : Nat → Exec (Nat × Nat)) (now : List Nat) (n : Nat × Nat) (f : Failure), c.hit = some f →
       runItems c one now n s = .ok (now, n, some f) s))

/-- R295–R300, R332–R334, R288, R289, R394: an install builds and switches one logical block a step, or stops with status 3 or 4 where no build verifies or no spare is left, waits for its erasures, then
writes its record and, whether or not that faults, its flag; a pin counts its units up or down on its towers; XWEAR's register, or the word of the exception frame
that holds it, takes the wear word where it is still owed; a queued
erasure counts one; a binding reaches its handle. -/
def Obligations.GranaryCommands : Prop :=
  ∀ (s s1 s2 t : State) (cmd : Nat) (c : Cmd), s.isCommand cmd c →
    (∀ (dst src n rec_ flag : Nat) (fval : Word) (us : List (Nat × Nat)) (r : Built), c.work = .install dst src n rec_ flag fval →
      s.turn c = true → c.inst.status = 1 → c.inst.done < n →
      gatherUnits c src dst (((List.range ((n - c.inst.done) / 65536)).take 64).map (fun i => c.inst.done + 65536 * i)) none s =
        .ok us s1 → buildBlock c.unit 3 s1 = .ok r s2 →
      let become (u : State) (p : InstallPos) : State :=
        { u with cmds := u.cmds.map (fun (d : Cmd) => if d.id = c.id then { c with started := true, inst := p } else d) }
      exec (.xinstExecute cmd) s = .next (match r with
        | .block b => become (s2.switchBlock c.unit b us) { c.inst with
            done := c.inst.done + 65536 * us.length, bytes := c.inst.bytes + 65536 * us.length, erased := c.inst.erased + 1,
            wear := max c.inst.wear ((s2.stack c.unit).count b) }
        | .worn => become s2 { c.inst with status := 4, fault := 0x52, line := 0 }
        | .failed => become s2 { c.inst with status := 3, fault := 0x59, line := (BitVec.ofNat 64 (dst + c.inst.done)).toNat })) ∧
    (∀ (dst src n rec_ flag : Nat) (fval : Word), c.work = .install dst src n rec_ flag fval → s.turn c = true →
      c.inst.status ≠ 1 ∨ n ≤ c.inst.done → (s.stack c.unit).awaiting = [] →
      ∀ (r g : Except Failure Unit),
      orFail (engineReport c rec_ (installRecord c.inst)) (publishCmd s c (spanRange dst c.inst.bytes true)) = .ok r s1 →
      orFail (if flag ≠ 0 then engineReport c flag (leBytes 8 fval.toNat) else pure ()) s1 = .ok g s2 →
      finishCmd c rec_ (if c.inst.status = 3 then some (c.inst.fault, c.inst.line) else
        match r, g with
        | .error e, _ => some e
        | _, .error e => some e
        | _, _ => none) s2 = .ok () t →
      exec (.xinstExecute cmd) s = .next t ∧ left c t) ∧
    (∀ (base n : Nat) (unpin : Bool) (done : Nat) (us : List Nat) (f : Option Failure), c.work = .pin base n unpin done →
      s.turn c = true → pinUnits s c.ctx (pageStarts base n) [] = (us, f) →
      let act (w : Nat) : Tower × Nat × Bool := if unpin then (s.tower w).unpin us else (s.tower w).pin us
      let ws := s.pinTowers c
      let bytes := match ws with | [] => 0 | w :: _ => 65536 * (act w).2.1
      let st := if f.isSome then 3 else if ws.any (fun w => (act w).2.2) then 2 else 1
      closeCmd { c with rel := false } done (st * 2 ^ 60 + bytes) [] f
        (ws.foldl (fun (s' : State) w => s'.setTower w (act w).1) s) = .ok () t →
      exec (.xpinExecute cmd) s = .next t ∧ left c t) ∧
    (∀ (pa reg : Nat) (a : Agent), c.work = .wear pa reg → s.turn c = true → s.agent? c.issuer = some a →
      let x := s.stack c.unit
      let v : Word := BitVec.ofNat 64 (x.highest * 2 ^ 32 + x.count (x.back (blockOf pa)) % 2 ^ 32)
      let owed := (a.wearRegs.filter (fun e => e.2 == c.id)).map (fun e => e.1)
      ∃ t, exec (.xwearExecute cmd) s = .next t ∧ left c t ∧ ∃ b, t.agent? c.issuer = some b ∧ (∀ e ∈ b.wearRegs, e.2 ≠ c.id) ∧
        (owed = [] → b.g = a.g) ∧
        (owed = [reg] → reg < 32 → (reg ≠ 0 → b.g.toList.getD reg 0 = v) ∧
          ∀ k, k ≠ reg ∨ k = 0 → b.g.toList.getD k 0 = a.g.toList.getD k 0) ∧
        (∀ k, k < 4 → owed = [44 + k] → b.g = a.g ∧ (s.wf = true → memoryHolds (frameAt c.issuer + 8 * k) 8 v.toNat t ∧
          memorySameOutside (frameAt c.issuer + 8 * k) 8 s t))) ∧
    (∀ (stack block : Nat), block ∈ (s.stack stack).awaiting →
      let x := s.stack stack
      let y := x.erased block
      exec (.blockErase stack block) s = .next (s.setStack stack y) ∧ y.count block = x.count block + 1 ∧
        y.awaiting = x.awaiting.erase block ∧ (x.count block + 1 < 3000 → y.spares = x.spares ++ [block] ∧ y.retired = x.retired) ∧
        (3000 ≤ x.count block + 1 → y.spares = x.spares ∧ y.retired = block :: x.retired)) ∧
    (∀ (h : Handle) (port code k start : Nat), c.work = .stream h port code k start →
      (∀ d ∈ s.cmds, d.id < c.id → d.launch = c.launch → ∀ h' p' st', d.work ≠ .stream h' p' code k st') →
      (s.slotHolder c.launch code = none → ∃ t, exec (.xstreamBind cmd) s = .next t ∧ left c t ∧ t.mem = s.mem) ∧
      (∀ a, s.slotHolder c.launch code = some a → s.agent? a.id = some a → a.isSaved = false → port = 255 → k < 8 →
        ∃ t b, exec (.xstreamBind cmd) s = .next t ∧ left c t ∧ t.mem = s.mem ∧ t.agent? a.id = some b ∧
          { b.handles.toList.getD k Handle.unbound with port := none } =
            { h with port := none, win := if isWindow h.base then some c.place else none } ∧ b.g = a.g ∧ b.v = a.v))

/-- R303–R308, R335, R396: a sweep starts on a free host core with its status word read and cleared, ends past its last line,
passes over a line whose skip bit is 0, and runs a batch else, of at most eight lines; one of which a write in flight has been lost with its
link fails (R346, R391); CWAKE makes a context awake under its key and sets its line's
skip bit, but acts on no header whose format is above 10 (log entry 33, DEDUCED beside R307); CWAIT answers the status word once
enough sweeps have ended, at once or at its CWAIT_WAKE, and waits before. -/
def Obligations.Sweeps : Prop :=
  (∀ (s s1 s2 t : State) (cmd : Nat) (c : Cmd) (hdr n f skip : Nat) (body : List IWord) (args : Vector Word 8)
      (pol wt count core : Nat) (bodyAt : Word), s.isCommand cmd c →
    c.work = .sweep hdr n f skip body args pol wt count core bodyAt →
    (∀ old, c.pos.begun = false → s.turn c = true → s.hostFree c core = true →
      engineRead c (BitVec.ofNat 64 (hdr + 24)).toNat 8 s = .ok old s1 →
      engineWrite c (BitVec.ofNat 64 (hdr + 24)).toNat (leBytes 8 0) s1 = .ok () s2 →
      ∃ t, exec (.xsweepExecute cmd) s = .next t ∧ (t.core core).sweep = some c.id ∧ t.mem = s2.mem ∧
        ∀ d ∈ t.cmds, d.id = c.id → d = { c with started := true, pos := { SweepPos.start with
          begun := true, sw := 1, line := if old / 2 ^ 60 = 3 then old % 2 ^ 32 / 16 else 0, resumed := old / 2 ^ 60 == 3 } }) ∧
    (c.pos.begun = true → c.hit = none → ctxLines n ≤ c.pos.line → (s.core core).sweepSaved = false →
      endSweep c hdr n f count core s = .ok () t → exec (.xsweepExecute cmd) s = .next t) ∧
    (∀ x, c.pos.begun = true → c.hit = some x → failSweep c hdr core x (some (16 * c.pos.line)) s = .ok () t →
      exec (.xsweepExecute cmd) s = .next t) ∧
    (∀ x, c.pos.begun = true → c.hit = none → c.pos.line < ctxLines n → (s.core core).sweepSaved = false → pol ≠ 1 →
      c.pos.skipLine ≠ some (c.pos.line / 64) →
      engineRead c (BitVec.ofNat 64 (skip + 8 * (c.pos.line / 64))).toNat 8 s = .ok x s1 →
      x / 2 ^ (c.pos.line % 64) % 2 = 0 →
      exec (.sweepBatch cmd) s = .next { s1 with cmds := s1.cmds.map (fun (d : Cmd) => if d.id = c.id then { c with pos :=
        { c.pos with skipWord := BitVec.ofNat 64 x, skipLine := some (c.pos.line / 64), line := c.pos.line + 1 } } else d) }) ∧
    (∀ x p k, c.pos.begun = true → c.hit = none → c.pos.line < ctxLines n → (s.core core).sweepSaved = false → pol ≠ 1 →
      c.pos.skipLine ≠ some (c.pos.line / 64) →
      engineRead c (BitVec.ofNat 64 (skip + 8 * (c.pos.line / 64))).toNat 8 s = .ok x s1 →
      x / 2 ^ (c.pos.line % 64) % 2 = 1 →
      batchLines c skip pol (ctxLines n) 7 { c.pos with skipWord := BitVec.ofNat 64 x, skipLine := some (c.pos.line / 64) }
        (c.pos.line + 1) s1 = .ok (p, k) s2 →
      oneBatch c hdr n f skip body args bodyAt pol core c.pos.line (k + 1) p s2 = .ok () t →
      exec (.sweepBatch cmd) s = .next t ∧ k ≤ min 7 (ctxLines n - 1 - c.pos.line)) ∧
    (∀ p k, c.pos.begun = true → c.hit = none → c.pos.line < ctxLines n → (s.core core).sweepSaved = false → pol = 1 →
      batchLines c skip pol (ctxLines n) 7 c.pos (c.pos.line + 1) s = .ok (p, k) s1 →
      oneBatch c hdr n f skip body args bodyAt pol core c.pos.line (k + 1) p s1 = .ok () t →
      exec (.sweepBatch cmd) s = .next t ∧ k = min 7 (ctxLines n - 1 - c.pos.line))) ∧
  (∀ (s s1 s1' s2 s3 s4 s5 s6 s7 t : State) (d a b : Reg) (acq rel : Bool) (scope : BitVec 2) (h x y : Nat) (ph pl pk : Place),
    let va := s.g a
    let n := recField h 0 4; let f := recField h 4 1
    let e := (s.g b).toNat
    let i : Instr := .cwake d a b acq rel scope
    s.runs (.threadOr .lamplighter) → va.toNat % 64 = 0 → headerOffFlash 0x14 va s = .ok () s → releaseIf rel scope.toNat s = .ok () s1 →
    homePlace false .load 0 va s1 = .ok ph s1' → loadNat true 0 va 16 s1' = .ok h s2 →
    (n ≤ e ∨ 10 < f → acquireIf acq 1 scope.toNat s2 = .ok () t → exec i s = .next (t.retire i .seq)) ∧
    (e < n → f ≤ 10 →
      let at_ : Word := BitVec.ofNat 64 (ctxAddr va.toNat f e)
      let k : Word := BitVec.ofNat 64 (recField h 8 8 + e / 16 / 8)
      let fits (c : Nat) : Bool := c / 2 ^ 30 == 2 && ((s.g d).getLsbD 63 || c % 2 ^ 24 == (s.g d).toNat % 2 ^ 24)
      (do let p ← atomicPlace .atomic 0 at_
          anchor at_
          return p : Exec Place) s2 = .ok pl s3 →
      updateAt at_.toNat 0 pl 4 4 (fun c => if fits c then some (c % 2 ^ 30 + 2 ^ 30) else none) s3 = .ok x s4 →
      (fits x = false → acquireIf acq 1 scope.toNat (s2.flying s4 i 0) = .ok () t → exec i s = .next (t.retire i .seq)) ∧
      (fits x = true → (do
          record 0 (spanRange at_.toNat 4 true)
          let p ← atomicPlace .atomic 0 k
          anchor k
          return p : Exec Place) s4 = .ok pk s5 →
        updateAt k.toNat 0 pk 1 1 (fun z => some (z ||| 2 ^ (e / 16 % 8))) s5 = .ok y s6 →
        record 0 (spanRange k.toNat 1 true) s6 = .ok () s7 → acquireIf acq 1 scope.toNat (s2.flying s7 i 0) = .ok () t →
        exec i s = .next (t.retire i .seq)))) ∧
  (∀ (s s1 s2 s3 s4 s5 t : State) (d a b : Reg) (acq rel : Bool) (scope : BitVec 2) (k st : Nat) (pl ps : Place),
    let va := s.g a
    let i : Instr := .cwait d a b acq rel scope
    s.runs .threadOnly → va.toNat % 64 = 0 → headerOffFlash 0x26 (va + 16) s = .ok () s → releaseIf rel scope.toNat s = .ok () s1 →
    (do let p ← homePlace false .wait 0 (va + 16)
        anchor va
        return p : Exec Place) s1 = .ok pl s2 → readPlace 0 pl 8 s2 = .ok k s3 →
    (k < (s.g b).toNat → exec i s = .next (s3.sleep .cwait i)) ∧
    ((s.g b).toNat ≤ k → homePlace false .wait 0 (va + 24) s3 = .ok ps s4 → readPlace 0 ps 8 s4 = .ok st s5 →
      (do noteAwaited pl.loc
          acquireIf acq 1 scope.toNat : Exec Unit) s5 = .ok () t →
        exec i s = .next ((t.setG d (BitVec.ofNat 64 st)).retire i .seq) ∧
        ∀ (r : State) (id : Nat), r.waitsIn id .cwait i → r.retry id = s → exec (.cwaitWake id) r =
          .next (((t.setG d (BitVec.ofNat 64 st)).retire i .seq).focus r.cur.id)))

/-! ## Work -/

/-- R313, R368: LAUNCH releases at .dev, reads and checks its record, takes the lowest free table entry of its tower and answers the
identifier, the record's state word being written, or sent to the target of its bridge frame (R345); a record that the issuer may not store to (log entry 28), a misaligned or a bad one traps, the last with the offset of its
first bad field, and with the table full the thread waits
until LAUNCH_TABLE_ENTRY_FREE ends its wait with the same outcome, as FORK_BOUND and JOIN_COMPLETE end those of FORK and JOIN.
R34, R316, R364, R382: FORK binds an instance of every sequencer of every named stage, or waits, or traps where a tower or stack
of a stage is lost; JOIN waits for its stages, traps with their first unreported fault, and else acquires. Which sequencer an
instance takes, and which fault a JOIN reports, are the model's choice (log entries 4 and 29). -/
def Obligations.LaunchesForksAndJoins : Prop :=
  (∀ (s s1 s2 : State) (d a : Reg) (pl : Place) (ln : Word) (hops : Nat) (via : List Nat) (x : Nat), s.runs .threadOnly →
     let va := s.g a
     let i : Instr := .launch d a
     let w := s2.myTower
     release 2 s = .ok () s1 →
     (va.toNat % 64 ≠ 0 → exec i s = .next (settle i (trap 0x68 (some va) 0 0) s1)) ∧
     (∀ f : AFault, va.toNat % 64 = 0 → resolve s1 s1.ctx .store va = .error f →
       exec i s = .next (settle i (throw (f.trap va 0)) (s1.foundIn f.found))) ∧
     (va.toNat % 64 = 0 → resolve s1 s1.ctx .store va = .ok (ln, pl, hops, via) → loadNat true 0 va 256 s1 = .ok x s2 →
       (∀ o, firstBad (recordChecks s2 s2.ctx s2.prioCap x) = some o →
         exec i s = .next (settle i (trap 0x68 (some va) (BitVec.ofNat 64 o) 0) s2)) ∧
       (firstBad (recordChecks s2 s2.ctx s2.prioCap x) = none →
         ((∀ e, e < 1024 → (kvHas s2.launches (1024 * w + e)) = true) → exec i s = .next (s2.sleep .table i)) ∧
         (∀ e, e < 1024 → kvHas s2.launches (1024 * w + e) = false → (∀ k, k < e → kvHas s2.launches (1024 * w + k) = true) →
           let l : Launch := { launchOf s2 s2.ctx x pl.loc (1024 * w + e) (s2.time w) with
             away := match pl.cls with | .bridge tgt at_ => some (tgt, at_) | _ => none }
           let t := s2.acceptLaunch l
           exec i s = .next ((t.setG d (BitVec.ofNat 64 (1024 * w + e))).retire i .seq) ∧
           (∀ (r : State) (id : Nat), r.waitsIn id .table i → r.retry id = s → exec (.launchTableEntryFree id) r =
             .next (((t.setG d (BitVec.ofNat 64 (1024 * w + e))).retire i .seq).focus r.cur.id)) ∧
           t.launch? (1024 * w + e) = some l ∧
           l.started = 1 ∧ l.admitted = none ∧ l.faults = [] ∧
           (s2.wf = true → stateWordWritten t l 1 0 ∧ memorySameOutside pl.loc 8 s2 t ∧ (l.away ≠ none → t.mem = s2.mem)))))) ∧
  (∀ (s u : State) (mask : BitVec 8) (l : Launch), s.runs .threadOnly → s.launch? s.cur.launch = some l →
     (let st := l.toFork mask
      let i : Instr := .fork mask
      let seats := (st.map (fun e => (l.sequencers e.1 e.2).map (fun q => (e.1, e.2, q)))).flatten
      let ids := seats.map (fun x => x.2.2.1)
      (∀ e, st.find? (fun e => s.stageLost l e.2) = some e →
        exec i s = .next (settle i (trap 0x0C (some (mask.setWidth 64)) (BitVec.ofNat 64 e.1)) s)) ∧
      ((∀ e ∈ st, s.stageLost l e.2 = false) →
        ((∃ id ∈ ids, s.sequencerFree l.ident id = false) ∨ ¬ids.Nodup → exec i s = .next (s.sleep .fork i)) ∧
        ((∀ id ∈ ids, s.sequencerFree l.ident id = true) → ids.Nodup → ∃ t, exec i s = .next t ∧
          (∀ (r : State) (id : Nat), r.waitsIn id .fork i → r.retry id = s → exec (.forkBound id) r = .next (t.focus r.cur.id)) ∧
          t.mem = s.mem ∧ registersSame s t ∧ (∀ e ∈ seats, t.agent? e.2.2.1 = some (l.instanceAt e.1 e.2.1 e.2.2)) ∧
          (∃ l', t.launch? l.ident = some l' ∧ { l' with started := l.started } = l ∧
            ∀ k, k < 8 → (l'.started.getLsbD k = true ↔ l.started.getLsbD k = true ∨ ∃ e ∈ st, e.1 = k))))) ∧
     (let i : Instr := .join mask
      ((∃ e ∈ l.named mask, s.stageEnded l e.1 e.2 = false) → exec i s = .next (s.sleep .join i)) ∧
      ((∀ e ∈ l.named mask, s.stageEnded l e.1 e.2 = true) →
        ((∀ f ∈ l.faults, mask.getLsbD f.1 = false) → acquire 0 2 s = .ok () u →
          exec i s = .next (u.retire i .seq) ∧
          ∀ (r : State) (id : Nat), r.waitsIn id .join i → r.retry id = s →
            exec (.joinComplete id) r = .next ((u.retire i .seq).focus r.cur.id)) ∧
        (∀ f, l.faults.find? (fun f => mask.getLsbD f.1) = some f →
          exec i s = .next (settle i (trap 0x0D (some f.2.2) (BitVec.ofNat 64 (f.1 + 65536 * f.2.1)))
            { s with launches := kvSet s.launches l.ident { l with faults := l.faults.erase f } })))))

/-- R318, R317, R145, R18, R320, R30, R319, R39: yield, exit, id, gang and waitt; a gang forms for all its members at once, none of its
cores in another gang (a GANG with such a core waits: log entry 50, DEDUCED; GANG reads 0 in a thread that has not joined: log entry
59, DESIGN CHOICE). R321, R228, R231, R308, R281, R313, R316, R320, R39,
R188, R153: the step that ends a wait executes the waiting instruction again; where it waits again in the same way, the wait is
the same one (R360). -/
def Obligations.ThreadControlAndWakes : Prop :=
  (∀ (s u : State) (d a : Reg) (n : BitVec 8) (l : Launch), s.runs .any → s.launch? s.cur.launch = some l →
     (s.cur.kind = .thread → ∃ t : State, exec .yield s = .next (t.retire .yield .seq) ∧ { t with cores := s.cores } = s ∧
       (∀ q, q < 4 → q ≠ s.cur.id % 4 →
         (t.core s.myCore).credit.getD q 0 = (s.core s.myCore).credit.getD q 0) ∧
       (s.cur.id % 4 < (s.core s.myCore).credit.length →
         ∀ x ∈ (s.core s.myCore).credit, (t.core s.myCore).credit.getD (s.cur.id % 4) 0 ≤ x)) ∧
     (s.cur.kind ≠ .thread → exec .yield s = .next (s.retire .yield .seq)) ∧
     (s.cur.kind ≠ .mcc ∨ (∀ b ∈ (s.cluster s.myCluster).accBusy, b.2.2 < s.clock) →
       release 2 { s with cur := { s.cur with vqueue := [] } } = .ok () u →
       ∃ t, exec .exit s = .next t ∧ t.mem = u.mem ∧ t.cur.status = .ended 0 ∧ t.cur.rowsHeld = 0 ∧
         t.cur.anchorCore = false ∧ t.cur.anchorCluster = false ∧ t.cur.anchorTower = false ∧ t.cur.pending = [] ∧
         (∀ h, h < 8 → (t.handle h).port = none)) ∧
     (n.toNat < 8 → exec (.id d n) s = .next ((s.setG d (BitVec.ofNat 64 ([s.cur.thread, s.cur.core, s.cur.cluster, s.myTower,
       s.cur.stage, s.cur.gang.toNat, l.cores * l.threads, l.clusters].getD n.toNat 0))).retire (.id d n) .seq)) ∧
     (let i : Instr := .waitt a
      ((s.g a).toNat ≤ s.time s.myTower → exec i s = .next (s.retire i .seq) ∧
        ∀ (r : State) (id : Nat), r.waitsIn id .waitt i → r.retry id = s →
          exec (.waittExpire id) r = .next ((s.retire i .seq).focus r.cur.id)) ∧
      (s.time s.myTower < (s.g a).toNat → exec i s = .next (s.sleep .waitt i))) ∧
     (s.runs .threadOnly →
       let i : Instr := .gang d n
       let k := n.toNat
       let party := s.gangParty s.cur k
       let bad := exec i s = .next (settle i (trap 0x69 (some (n.setWidth 64)) (BitVec.ofNat 64 s.cur.core)) s)
       let asked : State := { s with cur := { s.cur with gangAsk := k } }
       let v (b : Agent) : BitVec 8 := BitVec.ofNat 8 (16 * k + b.core)
       let join (b : Agent) : Agent := if party.any (fun c => c.id == b.id) then
         { b with gang := v b, anchorCore := true, barriers := b.barriers.set 3 0 } else b
       let formed : State := { asked with cur := join asked.cur, others := s.others.map join }
       let done (t : State) : Prop := exec i s = .next (t.retire i .seq) ∧
         ∀ (r : State) (id : Nat), r.waitsIn id .gang i → r.retry id = s →
           exec (.gangComplete id) r = .next ((t.retire i .seq).focus r.cur.id)
       (l.cores < k ∨ k ≤ s.cur.core → bad) ∧
       (k ≤ l.cores → s.cur.core < k →
         (s.cur.gang ≠ 0 → s.cur.gang.toNat / 16 ≠ k → bad) ∧
         (s.cur.gang ≠ 0 → s.cur.gang.toNat / 16 = k → done (s.setG d (s.cur.gang.setWidth 64))) ∧
         (s.cur.gang = 0 → (∃ b ∈ party, b.gangAsk ≠ k ∧ ∃ c, b.status = .ended c) → bad) ∧
         (s.cur.gang = 0 → (∀ b ∈ party, b.gangAsk = k ∨ ∀ c, b.status ≠ .ended c) →
           let met := (∀ b ∈ party, b.id = s.cur.id ∨ b.gangAsk = k) ∧ party.length = k ∧ s.gangElsewhere party = false
           (met → done (formed.setG d ((v s.cur).setWidth 64))) ∧ (¬met → exec i s = .next (asked.sleep .gang i)))))) ∧
  (∀ (r t : State) (id : Nat) (a : Agent) (w : Wait) (i wake : Instr), r.agent? id = some a → a.status = .waiting w i →
     exec i (r.retry id) = .next t →
     (w = .waita ∧ wake = .waitaWake id ∧ a.kind ≠ .dispatcher ∧ (∃ d a b acq rel sc x, i = .waita d a b acq rel sc x)) ∨
     (w = .barrier ∧ wake = .barrierComplete id ∧ ∃ m acq rel sc, i = .barrier m acq rel sc) ∨
     (w = .cwait ∧ wake = .cwaitWake id ∧ ∃ d a b acq rel sc, i = .cwait d a b acq rel sc) ∨
     (w = .table ∧ wake = .launchTableEntryFree id ∧ ∃ d a, i = .launch d a) ∨
     (w = .fork ∧ wake = .forkBound id ∧ ∃ m, i = .fork m) ∨ (w = .join ∧ wake = .joinComplete id ∧ ∃ m, i = .join m) ∨
     (w = .gang ∧ wake = .gangComplete id ∧ ∃ d n, i = .gang d n) ∨ (w = .waitt ∧ wake = .waittExpire id ∧ ∃ a, i = .waitt a) ∨
     (w = .wfi ∧ wake = .wfiWake id ∧ ∃ a, i = .wfi a) ∨ (w = .update ∧ wake = .l2waysWrite id ∧ ∃ a k, i = .kset a k) ∨
     (w = .queue ∧ wake = .engineQueueRoom id ∧ ((∃ d a b acq rel sc, i = .xcopy d a b acq rel sc ∨ i = .xmove d a b acq rel sc ∨
       i = .xinst d a b acq rel sc ∨ i = .xpin d a b acq rel sc) ∨ (∃ a acq rel sc, i = .xgather a acq rel sc ∨
       i = .xbin a acq rel sc ∨ i = .xheal a acq rel sc ∨ i = .xreclaim a acq rel sc ∨ i = .xsweep a acq rel sc) ∨
       ∃ d a, i = .xwear d a)) →
     ((∀ j, t.cur.status ≠ .waiting w j) → exec wake r = .next (t.focus r.cur.id)) ∧
     (∀ j, t.cur.status = .waiting w j →
       exec wake r = .next (({ t with cur := { t.cur with waitSince := a.waitSince } } : State).focus r.cur.id)))

/-! ## Exceptions -/

/-- R350, R352–R355, R364, R371: a trap of a thread that no pager takes enters the handler, or stops the launch inside one or with
none; one of a sequencer ends its instance; forms of another stage kind raise ILLEGAL_INSN. R147, R148, R356, R77–R79: TRAP
enters the handler with its code, KEPC at the next instruction; ERET restores g12 to g15, mode and ie and goes on at KEPC, only
in supervisor mode and inside a trap, and traps where an error stands in the frame (R404); a hint only advances; a word that is no instruction raises ILLEGAL_INSN. -/
def Obligations.ExceptionsAndReturns : Prop :=
  (∀ (s : State) (i : Instr) (tr : Trap),
     let kcause : Word := BitVec.ofNat 64 (tr.cause + 256 * tr.hops + 2048 * tr.vec.toNat + 4096 * tr.late.toNat + 8192 * tr.strm +
       65536 * (if tr.strm = 1 then tr.hnd else 0))
     let ktval : Word := match tr.val with | some x => x | none => (wordOf i).setWidth 64
     let t := settle i (throw (.trap tr)) s
     (tr.cause ∉ [0x10, 0x11, 0x13] ∨ s.dev.fltbase = 0 →
       (s.takes → entered s t kcause ktval tr.val2 (if tr.next then s.cur.pc + 4 else s.cur.pc) tr.cause) ∧
       (s.cur.kind = .thread → s.regs.kstatus.getLsbD 8 = true → t = eventStep (stopLaunch s.cur.launch 0x07) s) ∧
       (s.cur.kind = .thread → s.regs.kstatus.getLsbD 8 = false → s.regs.kvec &&& 0x00FFFFFFFFFFFE00 = 0 →
         t = eventStep (stopLaunch s.cur.launch 0x0E) s) ∧
       (s.cur.kind ≠ .thread → s.cur.kind ≠ .dispatcher → t.cur.status = .ended (kcause.toNat % 128) ∧ t.regs.kcause = kcause ∧
         t.regs.ktval = ktval ∧ t.regs.ktval2 = tr.val2 ∧ t.mem = s.mem ∧ t.cur.g = s.cur.g ∧ t.cur.v = s.cur.v)) ∧
     (s.cur.status = .running →
       (s.cur.kind = .thread → exec (.mma 0) s = .next (settle (.mma 0) (trap 0x02) s) ∧
         exec (.mst 0 0) s = .next (settle (.mst 0 0) (trap 0x02) s)) ∧
       (s.cur.kind ≠ .thread → s.cur.kind ≠ .dispatcher → s.cur.kind ≠ .sweep → ∀ (d a b : Reg),
         exec (.vadd d a b 0) s = .next (settle (.vadd d a b 0) (trap 0x02) s) ∧
         exec (.fork 2) s = .next (settle (.fork 2) (trap 0x02) s) ∧ exec (.kget d 0x110) s = .next (settle (.kget d 0x110) (trap 0x02) s)))) ∧
  (∀ (s : State) (k : BitVec 12) (n : BitVec 26) (w : IWord),
     (s.runs .any → exec (.hint n) s = .next (s.retire (.hint n) .seq) ∧
       exec (.illegalInsn w) s = .next (settle (.illegalInsn w) (trap 0x02 (some (w.setWidth 64))) s) ∧
       (s.takes → ∃ t, exec (.illegalInsn w) s = .next t ∧ entered s t (0x02 + 8192 * 6) (w.setWidth 64) 0 s.cur.pc 0x02)) ∧
     (s.runs .threadOnly →
       (s.takes → ∃ t, exec (.trap k) s = .next t ∧ entered s t (0x01 + 8192 * 6) (k.setWidth 64) 0 (s.cur.pc + 4) 0x01) ∧
       (s.cur.user = true → exec .eret s = .next (settle .eret (trap 0x04) s)) ∧
       (s.cur.user = false → s.regs.kstatus.getLsbD 8 = false → exec .eret s = .next (settle .eret (trap 0x08) s)) ∧
       (s.cur.user = false → s.regs.kstatus.getLsbD 8 = true →
         let w : State := { s with cur := { s.cur with vqueue := [] } }
         ((∃ k, k < 32 ∧ errorUnit (frameAt s.cur.id + k) ∈ s.poison) → ∃ e u, checkFrame w = .error e u) ∧
         ∀ e u, checkFrame w = .error e u → exec .eret s = .next (settle .eret checkFrame w)) ∧
       (s.cur.user = false → s.regs.kstatus.getLsbD 8 = true → s.cleanBytes (frameAt s.cur.id) 32 → ∃ t, exec .eret s = .next t ∧ othersSame s t ∧
         t.cur.pc = s.regs.kepc ∧ t.cur.v = s.cur.v ∧ t.cur.p = s.cur.p ∧
         (∀ i : Fin 4, t.g (12 + BitVec.ofNat 5 i) = BitVec.ofNat 64 (memNat s.mem (frameAt s.cur.id + 8 * i) 8)) ∧
         (∀ r : Reg, r.toNat < 12 ∨ 15 < r.toNat → t.g r = s.g r) ∧
         { t.cur.regs with kstatus := s.regs.kstatus } = s.cur.regs ∧ t.regs.kstatus.getLsbD 0 = s.regs.kstatus.getLsbD 1 ∧
         t.regs.kstatus.getLsbD 4 = s.regs.kstatus.getLsbD 5 ∧ t.regs.kstatus.getLsbD 8 = false ∧
         ∀ j, j ≠ 0 → j ≠ 4 → j ≠ 8 → t.regs.kstatus.getLsbD j = s.regs.kstatus.getLsbD j)))

/-- R149, R154: KGET reads each control register of the table into gd, once earlier vector instructions have completed where it
reads what they write (R22). R150, R154, R91, R105–R109, R121, R128, R187–R189, R340, R351–R354: KSET writes the RW fields of
each control register; fields it may not write, and values it refuses, leave what was there; a change of L2WAYS' ways waits for
accesses of the tower's TSP and leaves what it cedes or takes back zero and free of errors; an active loop body is read again before its registers are written, and LOOPCTL with a length of 33 to
63 takes its register field alone (log entry 21, DEDUCED). The older instructions that use the register have completed. -/
def Obligations.ControlRegisters : Prop :=
  (∀ (s : State) (d : Reg) (k : BitVec 12), s.runs .threadOnly →
     let u : State := if k.toNat ∈ [2, 3, 4, 0x10, 0x13, 0x14, 0x15, 0x16, 0x17] then { s with cur := { s.cur with vqueue := [] } } else s
     let r := s.regs
     let t := s.tower s.myTower
     let reads (n : Nat) (x : Word) : Prop := k.toNat = n → (n < 0x102 ∧ n ≠ 0x100 ∨ s.cur.user = false) →
       exec (.kget d k) s = .next ((u.setG d x).retire (.kget d k) .seq)
     (reads 0x000 r.vl ∧ reads 0x001 r.vtype ∧ reads 0x002 r.vstart ∧ reads 0x003 r.vhigh ∧ reads 0x004 r.vdirty ∧
       reads 0x005 (BitVec.ofNat 64 r.vrlen) ∧ reads 0x010 r.fflags ∧ reads 0x011 r.frm ∧ reads 0x012 r.seed ∧
       reads 0x013 r.fidxNv ∧ reads 0x014 r.fidxDz ∧ reads 0x015 r.fidxOf ∧ reads 0x016 r.fidxUf ∧ reads 0x017 r.fidxNx ∧
       (∀ n : Fin 8, reads (0x020 + n) r.slen[n]) ∧ reads 0x030 r.loopAddr ∧ reads 0x031 r.loopCtl ∧
       reads 0x040 (BitVec.ofNat 64 (s.time s.myTower)) ∧ reads 0x041 (BitVec.ofNat 64 s.dirtyN) ∧ reads 0x100 t.l2ways ∧
       reads 0x101 t.oldtkt ∧ reads 0x102 t.injrate ∧ reads 0x103 t.deflcnt ∧ reads 0x180 r.kstatus ∧ reads 0x181 r.kcause ∧
       reads 0x182 r.kepc ∧ reads 0x183 r.ktval ∧ reads 0x184 r.ktval2 ∧ reads 0x185 r.kvec) ∧
     (k.toNat = 0x100 ∨ 0x102 ≤ k.toNat → s.cur.user = true →
       exec (.kget d k) s = .next (settle (.kget d k) (trap 0x04) s))) ∧
  (∀ (s' v : State) (a : Reg) (k : BitVec 12) (ws : List IWord), s'.runs .threadOnly →
     let s : State := { s' with cur := s'.cur.settle (creg.usedBy k.toNat) }
     let x := s.g a
     let i : Instr := .kset a k
     let r := s.regs
     let done (t : State) : Prop := exec i s' = .next (t.retire i .seq)
     let regs (q : Regs) : Prop := done (s.setRegs q)
     let tower (q : Tower) : Prop := done (s.setTower s.myTower q)
     let at_ (n : Nat) (p : Prop) : Prop := k.toNat = n → (n < 0x100 ∧ n ≠ 0x030 ∧ n ≠ 0x031 ∨ s.cur.user = false) → p
     at_ 0x002 (regs { r with vstart := x &&& 0x7FF }) ∧ at_ 0x004 (regs { r with vdirty := x &&& 0xFFFFFFFEFFFFFFFF }) ∧
     at_ 0x010 (regs { r with fflags := x &&& 0x1F }) ∧ at_ 0x012 (regs { r with seed := x }) ∧
     at_ 0x011 ((x.toNat % 8 ≤ 4 → regs { r with frm := x &&& 0xF }) ∧
       (4 < x.toNat % 8 → regs { r with frm := (r.frm &&& ~~~8) ||| (x &&& 8) })) ∧
     at_ 0x013 (regs { r with fidxNv := x }) ∧ at_ 0x014 (regs { r with fidxDz := x }) ∧ at_ 0x015 (regs { r with fidxOf := x }) ∧
     at_ 0x016 (regs { r with fidxUf := x }) ∧ at_ 0x017 (regs { r with fidxNx := x }) ∧
     (∀ n : Fin 8, at_ (0x020 + n) (
       (x.toNat % 2048 ≤ 128 → regs { r with slen := r.slen.set n (x &&& 0xFFFFFFFF800007FF) }) ∧
       (128 < x.toNat % 2048 → regs { r with slen := r.slen.set n ((x &&& 0xFFFFFFFF80000000) ||| (r.slen[n] &&& 0x7FF)) }))) ∧
     at_ 0x001 ((x.toNat / 512 % 16 ≤ 12 → x.toNat / 32 % 4 ≠ 3 →
         let f : Fmt := x.toNat / 512 % 16
         let n := min r.len (min (4096 * 2 ^ (x.toNat / 128 % 4) / Fmt.bits f) 1024)
         let vl := if Fmt.isBlock f then n / 32 * 32 else n
         let dlen := if Fmt.isBlock f then min r.dlen vl else vl
         regs { r with vtype := x &&& 0x1FE0, vl := BitVec.ofNat 64 (vl + 65536 * dlen) }) ∧
       (12 < x.toNat / 512 % 16 ∨ x.toNat / 32 % 4 = 3 → regs r)) ∧
     at_ 0x030 (let target := x &&& 0x00FFFFFFFFFFFFFC
       (r.loopCtl.toNat % 64 = 0 → regs { r with loopAddr := target }) ∧
       (r.loopCtl.toNat % 64 ≠ 0 → readBody target (r.loopCtl.toNat % 64) s = .ok ws v →
         done (({ v with cur := { v.cur with replay := Vector.ofFn (fun k => ws.getD k.val 0) } } : State).setRegs
           { v.regs with loopAddr := target }))) ∧
     at_ 0x031 ((x.toNat % 64 = 0 → regs { r with loopCtl := x &&& 0x7C0 }) ∧
       (32 < x.toNat % 64 → regs { r with loopCtl := (x &&& 0x7C0) ||| (r.loopCtl &&& 0x3F) }) ∧
       (x.toNat % 64 ≠ 0 → x.toNat % 64 ≤ 32 → readBody r.loopAddr (x.toNat % 64) s = .ok ws v →
         done (({ v with cur := { v.cur with replay := Vector.ofFn (fun k => ws.getD k.val 0) } } : State).setRegs
           { v.regs with loopCtl := x &&& 0x7FF }))) ∧
     at_ 0x100 (let t := s.tower s.myTower
       let stg := if x.toNat / 256 % 32 ≤ 12 ∧ t.pinned ≤ 2 ^ 31 * (x.toNat / 256 % 32) then x.toNat / 256 % 32 else t.l2ways.toNat / 256 % 32
       let ways := if x.toNat % 16 ≤ 8 then x.toNat % 16 else t.l2ways.toNat % 16
       (ways ≠ t.l2ways.toNat % 16 → s.tspPending s.myTower = true → exec i s' = .next (s.sleep .update i)) ∧
       (ways = t.l2ways.toNat % 16 ∨ s.tspPending s.myTower = false →
         let z := (if ways = t.l2ways.toNat % 16 then s else s.tspRead s.myTower).setWays s.myTower x
         done z ∧
         (∀ (u : State) (id : Nat), u.waitsIn id .update i → u.retry id = s' → exec (.l2waysWrite id) u =
           .next ((z.retire i .seq).focus u.cur.id)) ∧ (z.tower s.myTower).l2ways = BitVec.ofNat 64 (256 * stg + ways) ∧
         ∀ j, 2 ^ 23 * min ways (t.l2ways.toNat % 16) ≤ j → j < 2 ^ 23 * max ways (t.l2ways.toNat % 16) →
           let loc := 2 ^ 46 + s.myTower * 2 ^ 26 + j
           memByte z.mem loc = 0 ∧ errorUnit loc ∉ z.poison ∧ ∀ e ∈ z.latent, e.unit ≠ errorUnit loc)) ∧
     at_ 0x102 (tower { s.tower s.myTower with injrate := x &&& 0xFF }) ∧ at_ 0x103 (done { s.setTower s.myTower { s.tower s.myTower with deflcnt := x } with
         flits := s.flits.map (fun (f : Flit) => if f.src = position s.myTower then { f with stale := true } else f) }) ∧
     at_ 0x180 (regs { r with kstatus := x &&& 0xD33 }) ∧ at_ 0x181 (regs { r with kcause := x &&& 0x7FF7F }) ∧
     at_ 0x182 (regs { r with kepc := x &&& ~~~3 }) ∧ at_ 0x183 (regs { r with ktval := x }) ∧
     at_ 0x184 (regs { r with ktval2 := x }) ∧ at_ 0x185 (regs { r with kvec := x &&& 0x00FFFFFFFFFFFE00 }) ∧
     (0x100 ≤ k.toNat ∨ k.toNat = 0x030 ∨ k.toNat = 0x031 → s.cur.user = true → exec i s' = .next (settle i (trap 0x04) s')) ∧
     (∀ t ∈ s.cur.vqueue, creg.usedBy k.toNat t = true → t.snap = none ∧ t.late = none))

/-- R151–R153, R129: TLBINV, CFLUSH and WFI in the modes that may execute them; in user mode TLBINV, WFI and CFLUSH of a cluster
raise PRIV_INSN. TLBINV waits for what has been sent and performs the updates on their way before it removes translations (log
entry 61, DEDUCED). -/
def Obligations.Maintenance : Prop :=
  ∀ (s u : State) (d a : Reg), s.runs .threadOnly →
    (s.cur.user = true → exec (.tlbinv d a) s = .next (settle (.tlbinv d a) (trap 0x04) s) ∧
      exec (.cflush 2 a) s = .next (settle (.cflush 2 a) (trap 0x04) s) ∧
      exec (.wfi a) s = .next (settle (.wfi a) (trap 0x04) s)) ∧
    (s.cur.user = false → s.sent ≠ [] → exec (.tlbinv d a) s = .next s) ∧
    (s.cur.user = false → s.sent = [] → drainWhere (fun _ => true) s = .ok () u →
      let covers (e : TlbEntry) : Bool := decide (e.vbase ≤ (s.g a).toNat) && decide ((s.g a).toNat < e.vbase + e.size)
      let stay (ts : List TlbEntry) : List TlbEntry := if d = 0 then ts.filter (fun e => !covers e) else []
      u.bank = [] ∧ ∃ t : State, exec (.tlbinv d a) s = .next (t.retire (.tlbinv d a) .seq) ∧
        { t with towers := u.towers, clusters := u.clusters, cores := u.cores } =
          (let f (a : Agent) : Agent := { a.readDone (fun _ => true) with lateRead := none }
           { u with cur := f u.cur, others := u.others.map f }) ∧
        (∀ w, t.tower w = { u.tower w with tlb := stay (u.tower w).tlb }) ∧
        (∀ g, t.cluster g = { u.cluster g with tlb := stay (u.cluster g).tlb }) ∧
        (∀ k, t.core k = { u.core k with tlb := (u.core k).tlb.map (fun e => (e.1, stay e.2)) })) ∧
    (s.passes 0 → exec (.cflush 0 a) s = .next ((s.flushAddress (s.g a)).retire (.cflush 0 a) .seq)) ∧
    (¬s.passes 0 → exec (.cflush 0 a) s = .next s) ∧
    (∀ pl, translate s s.ctx .probe (s.g a) = .ok pl → pl.cls = .dram ∨ pl.cls = .flash →
      (s.flushAddress (s.g a)).l1? s.myCluster (pl.loc / 64) = none) ∧
    (drainBank s.cur.id s = .ok () u →
      exec (.cflush 1 a) s = .next ((u.writeBackThread u.myCluster u.cur.id).retire (.cflush 1 a) .seq)) ∧
    (s.cur.user = false →
      each ((s.agents.filter (fun b => placeCluster s.dev.towerok b.id == s.myCluster)).map (fun b => b.id)) drainBank s = .ok () u →
      exec (.cflush 2 a) s = .next ((u.flushCluster s.myCluster).retire (.cflush 2 a) .seq) ∧
      ((u.flushCluster s.myCluster).cluster s.myCluster).l1 = []) ∧
    (s.cur.user = false →
      (s.cur.pending ≠ [] ∨ (s.g a ≠ 0 ∧ (s.g a).toNat ≤ s.time s.myTower) →
        exec (.wfi a) s = .next (s.retire (.wfi a) .seq) ∧
        ∀ (r : State) (id : Nat), r.waitsIn id .wfi (.wfi a) → r.retry id = s →
          exec (.wfiWake id) r = .next ((s.retire (.wfi a) .seq).focus r.cur.id)) ∧
      (s.cur.pending = [] → (s.g a = 0 ∨ s.time s.myTower < (s.g a).toNat) → exec (.wfi a) s = .next (s.sleep .wfi (.wfi a))))

/-- R359, R360, R37: what is pending stands in the order of its codes, and the event of the lowest code, the first, is delivered at a cut: a thread enters its handler, another instance ends;
the watchdog and the budget warning make theirs pending. R314, R315, R37, R365: a launch is admitted at a placement that meets
its demand, its threads standing at their entry with its arguments; it ends once its instances and commands have; a stop, by the error of
a register, an accumulator or a walk (R350, R404; a LAUNCH_STOP of another cause changes nothing: log entry 22, DEDUCED), a timeout
and a kill leave the cause in its state word. The cycles of a budget count from admission (log entry 60, DESIGN CHOICE). -/
def Obligations.EventsAndLaunchLife : Prop :=
  (∀ (s : State) (ag : Nat) (a : Agent), s.agent? ag = some a →
     let w := s.focus ag
     let kcause (p : Pending) : Word := BitVec.ofNat 64 (p.code + 1024 + 8192 * (if p.code = 0x51 then 7 else 6))
     (∀ p rest, a.pending = p :: rest → a.takesEvents = true →
       (w.takes → ∃ u : State, exec (.asyncEventDeliver ag) s = .next (u.focus s.cur.id) ∧ u.cur.pending = rest ∧
         entered w u (kcause p) p.val p.val2 a.pc p.code) ∧
       (a.kind ≠ .thread → a.kind ≠ .dispatcher → ∃ u : State, exec (.asyncEventDeliver ag) s = .next (u.focus s.cur.id) ∧
         u.cur.pending = rest ∧ u.cur.status = .ended (p.code % 128) ∧ u.regs.kcause = kcause p ∧ u.regs.ktval = p.val ∧
         u.regs.ktval2 = p.val2 ∧ u.mem = s.mem)) ∧
     (∀ c i, a.status = .waiting c i → c ≠ .table → c ≠ .queue → c ≠ .gangLoad → c ≠ .vqueue → c ≠ .update → c ≠ .wear →
       a.kind ≠ .dispatcher → (a.kind = .thread → a.regs.kstatus.getLsbD 4 = true) → a.waitSince + 2 ^ 32 ≤ s.clock →
       (∀ p ∈ a.pending, p.code ≠ 0x06) →
       let ps := addPending a.pending { code := 0x06, val := (wordOf i).setWidth 64, val2 := 0 }
       exec (.watchdog ag) s = .next (({ w with cur := { a with pending := ps } } : State).focus s.cur.id)) ∧
     (∀ x, s.launch? a.launch = some x → a.kind = .thread → a.regs.kstatus.getLsbD 10 = true → a.budgetWarned = false →
       x.admitted.isSome = true → x.budget - x.budget / 16 ≤ s.ran x → (∀ c, a.status ≠ .ended c) → a.status ≠ .free →
       let ps := addPending a.pending { code := 0x0A, val := 0, val2 := 0 }
       exec (.budgetWarn ag) s = .next (({ w with cur := { a with budgetWarned := true, pending := ps } } : State).focus s.cur.id))) ∧
  (∀ (ps : List Pending) (p : Pending), (addPending ps p).Perm (p :: ps) ∧
     (ps.Pairwise (fun x y => x.code ≤ y.code) → (addPending ps p).Pairwise (fun x y => x.code ≤ y.code) ∧
       ∃ q, (addPending ps p).head? = some q ∧ ∀ x ∈ p :: ps, q.code ≤ x.code)) ∧
  (∀ (s : State) (l : Nat) (x : Launch), s.wf = true → s.launch? l = some x →
     (∀ place, s.dev.phase = 7 → s.eligible x = true → s.placeOk x place = true →
       (∀ e ∈ s.launches, e.1 = l ∨ s.eligible e.2 = false ∨ e.2.before x = false) →
       ∃ t, exec (.launchAdmit l place) s = .next t ∧ t.mem = (s.writeState x 2 0).mem ∧
         t.sent = (s.writeState x 2 0).sent ∧ stateWordWritten t x 2 0 ∧
         ∀ q ∈ seatsOf place, ∃ a, t.agent? q.1 = some a ∧ a.kind = .thread ∧ a.status = .running ∧ a.launch = x.ident ∧
           a.thread = q.2.1 ∧ a.core = q.2.2.1 ∧ a.cluster = q.2.2.2 ∧ a.pc = (x.stages[0]).entry ∧ a.asid = x.asid ∧
           (∀ k : Fin 32, a.g[k] = if h : 4 ≤ k.val ∧ k.val - 4 < 8 then x.args[k.val - 4]'h.2 else 0) ∧
           a.regs = Regs.fresh s.dev.vecbase) ∧
     (x.admitted.isSome = true → s.allEnded l = true → s.cmdsDone l = true → s.launchArrived l = true →
       ∃ t, exec (.launchEnd l) s = .next t ∧ launchGone t x l 3 0) ∧
     (∀ cause, (0x78 ≤ cause ∧ cause ≤ 0x7B → ∃ t, exec (.launchStop l cause) s = .next t ∧ launchGone t x l 4 cause) ∧
       (¬(0x78 ≤ cause ∧ cause ≤ 0x7B) → exec (.launchStop l cause) s = .next s)) ∧
     (x.admitted.isSome = true → x.budget < s.ran x → ∃ t, exec (.launchTimeout l) s = .next t ∧ launchGone t x l 4 0x6E) ∧
     (∀ v : Word, v.toNat % 16384 = l → ∃ t, exec (.kill v) s = .next t ∧ launchGone t x l 4 0x6B))

/-! ## What happens beside the programs -/

/-- R14–R16, R38, R187, R332, R348, R399: bring-up: power applied anew, which keeps flash and the Granary's blocks (log entry 39, DESIGN
CHOICE), then the phases in their order, each of which stops the
device where it fails; a step out of its order changes nothing. -/
def Obligations.BringUp : Prop :=
  ∀ (s : State) (ok : Bool) (failed : BitVec 12) (buses : List BusReport) (g : BitVec 4) (wear : List WearReport)
      (skew : List Nat), s.wf = true →
    let dev := s.dev
    let stopped (p : Nat) (t : State) : Prop := t = { s with dev := { dev with phase := 0xFF, failphase := p } }
    let ended (p : Nat) (t : State) : Prop :=
      if t.dev.towerok = 0 then t.dev.phase = 0xFF ∧ t.dev.failphase = p else t.dev.phase = p ∧ t.dev.failphase = dev.failphase
    let calm (p : Nat) (i : Instr) : Prop := dev.phase + 1 ≠ p → exec i s = .next s
    (∃ t, exec .powerOn s = .next t ∧ t.dev = Device.reset ∧ t.cur = Agent.fresh 0 .thread ∧ t.others = [] ∧ t.marks = [] ∧
      t.poison = [] ∧ t.towers = [] ∧ t.clusters = [] ∧ t.cores = [] ∧ t.launches = [] ∧ t.cmds = [] ∧ t.granary = s.granary ∧
      ∀ a, memByte t.mem a = if 2 ^ 42 ≤ a ∧ a < 2 ^ 43 then memByte s.mem a else 0) ∧
    (dev.phase = 0 → ∃ t, exec (.firmwareVerified ok) s = .next t ∧
      (ok = true → t = { s with dev := { dev with phase := 1 } }) ∧ (ok = false → stopped 1 t)) ∧
    (dev.phase = 1 → ∃ t, exec (.fabricTrained ok) s = .next t ∧ (ok = false → stopped 2 t) ∧
      (ok = true → t.dev = { dev with phase := 2, towerok := 0xFFF, planesOff := 0 } ∧ t.flits = [] ∧ t.mem = s.mem ∧
        ∀ k, (t.tower k).injrate = 0 ∧ (t.tower k).deflcnt = 0 ∧ (t.tower k).injected = [])) ∧
    (dev.phase = 2 → ∃ t, exec (.verticalBusesRepaired failed buses) s = .next t ∧ ended 3 t ∧ t.mem = s.mem ∧
      (∀ k, k < 12 → (t.dev.towerok.getLsbD k = true ↔
        dev.towerok.getLsbD k = true ∧ failed.getLsbD k = false ∧ (t.tower k).pairLost = false))) ∧
    (dev.phase = 3 → ∃ t, exec (.dramInitialised failed) s = .next t ∧ ended 4 t ∧ t.marks = [] ∧ t.poison = [] ∧
      t.dev.towerok = dev.towerok &&& ~~~failed ∧ (∀ k, (t.tower k).l2ways = 0x400) ∧
      ∀ a, memByte t.mem a = if a < 2 ^ 42 then 0 else memByte s.mem a) ∧
    (dev.phase = 4 → ∃ t, exec (.granaryOnline g wear) s = .next t ∧ ended 5 t ∧ t.dev.granaryok = g ∧
      t.dev.towerok = dev.towerok ∧ t.mem = s.mem ∧
      ∀ j, j < 4 → t.stack j = (wear.filter (fun r => r.stack == j)).foldl Stack.report Stack.fresh) ∧
    (dev.phase = 5 → ∃ t, exec (.timeAligned failed skew) s = .next t ∧ ended 6 t ∧ t.timeZero = s.clock ∧
      t.dev.towerok = dev.towerok &&& ~~~failed ∧ ∀ k, k < 12 → (t.tower k).skew = min 2 (skew.getD k 0)) ∧
    (dev.phase = 6 → dev.towerok = 0 → ∃ t, exec .ready s = .next t ∧ stopped 7 t) ∧
    (dev.phase = 6 → dev.towerok ≠ 0 → ∃ t, exec .ready s = .next t ∧ t.dev = { dev with phase := 7 } ∧ t.mem = s.mem ∧
      ∀ fn, fn = 0 ∨ (fn ∈ dev.vfcfg.map (fun e => e.1) ∧ s.vfEnabled fn = true) →
        ∃ a, t.agent? (7000 + fn) = some a ∧ a.kind = .dispatcher ∧ a.user = false ∧
          a.status = .waiting .waita (.waita 0 0 0 true false 2 true) ∧ a.regs.kvec = dev.vecbase) ∧
    calm 1 (.firmwareVerified ok) ∧ calm 2 (.fabricTrained ok) ∧ calm 3 (.verticalBusesRepaired failed buses) ∧
    calm 4 (.dramInitialised failed) ∧ calm 5 (.granaryOnline g wear) ∧ calm 6 (.timeAligned failed skew) ∧ calm 7 .ready

/-- R21, R24–R28, R41, R42, R143, R184, R330, R331, R345, R357, R358, R342, R254, R402: the pipes: a head that is ready for a pipe is its
queue's first instruction of the pipe's class with beats left, an FMA one on the pipe it began on (R24), whose convoy's pipes earlier
convoys leave free (R28) and whose next beats' sources are written (R26); of the heads one that has waited 224 cycles wins, the oldest
first, else one of the highest priority, by their shares (R41); each of the four grants issues a burst of the winner, 8 beats at most
(R41, R42), never more than the instruction has, leaves every other instruction's beats, and issues none while the pipe's last burst
runs; an issued beat of the FMA and ALU pipes is
written, of an instruction of a free choice (log entry 5); the oldest instruction leaves once all are; a full queue's oldest entry
makes room (log entry 35, DEDUCED); a response arrives for the oldest memory instruction that waits for its element, which may be
read only then (log entry 7), and whose beats are written once all their elements have arrived, or which is undone from that element
on with a late trap there where the response brings a cause (log entry 63, DEDUCED); else a response is kept for the vector load to
come, once older memory instructions have completed and no XSBAR holds its stream (log entry 37, DEDUCED), and a cause is met by the next
read of its place, of a lane slice in the slice of the element; an acknowledgement ends the wait for what was sent, of an agent, of a
command, or of a sender that is no more (log entry 83, DEDUCED). -/
def Obligations.VectorPipes : Prop :=
  ∀ (s : State) (core ag : Nat) (a : Agent),
    exec (.arbiterGrant core) s = .next ([0, 1, 2, 3].foldl (fun s pipe => s.grantPipe core pipe) s) ∧
    (∀ pipe, (s.grantPipe core pipe).mem = s.mem ∧ (s.grantPipe core pipe).clusters = s.clusters ∧
      (s.clock < kvGet 0 (s.core core).busy pipe → (s.grantPipe core pipe).cores = s.cores ∧
        (s.grantPipe core pipe).agents.map (fun b => b.vqueue.map (fun t => t.issued)) =
          s.agents.map (fun b => b.vqueue.map (fun t => t.issued))) ∧
      ((∀ b ∈ s.agents, ∀ t ∈ b.vqueue, t.issued ≤ t.beats) → ∀ b ∈ (s.grantPipe core pipe).agents, ∀ t ∈ b.vqueue, t.issued ≤ t.beats)) ∧
    (∀ pipe, pipe < 4 →
      let hs := s.heads core pipe
      let c := s.core core
      let waited (h : Head) : Nat := s.clock - h.since
      let share (h : Head) : Int := c.credit.getD h.q 0 + Int.ofNat h.weight
      let fits (t : VToken) : Prop := t.pipe = pipe - 1 ∧ t.issued < t.beats ∧ (pipe < 2 → t.on = none ∨ t.on = some pipe)
      let count (ts : List VToken) (k : Nat) : Nat := (ts.filter (fun u => u.pipe == k)).length
      (∀ h ∈ hs, h.q < 5 ∧ ∃ b t, s.agent? (queueAgent core h.q) = some b ∧ b.vqueue[h.slot]? = some t ∧ fits t ∧
        (∀ j u, j < h.slot → b.vqueue[j]? = some u → ¬fits u) ∧
        (∀ m ∈ b.vqueue, m.convoy = t.convoy →
          count ((b.vqueue.take h.slot).filter (fun u => u.convoy < t.convoy && u.issued < u.beats)) m.pipe +
            count (b.vqueue.filter (fun u => u.convoy == t.convoy)) m.pipe ≤ classWidth m.pipe) ∧
        ∀ j u, j < h.slot → b.vqueue[j]? = some u → t.issued < chained t u) ∧
      (hs ≠ [] → (c.winner s.clock hs).isSome = true) ∧
      (kvGet 0 c.busy pipe ≤ s.clock → hs = [] → (s.grantPipe core pipe).agents = s.agents) ∧
      (∀ w shared, kvGet 0 c.busy pipe ≤ s.clock → c.winner s.clock hs = some (w, shared) →
        w ∈ hs ∧
        ((∃ h ∈ hs, 224 ≤ waited h) → 224 ≤ waited w ∧ ∀ h ∈ hs, waited h ≤ waited w) ∧
        ((∀ h ∈ hs, waited h < 224) → ∀ h ∈ hs, h.prio ≤ w.prio ∧ (h.prio = w.prio → share h ≤ share w)) ∧
        ∃ b t n, s.agent? (queueAgent core w.q) = some b ∧ b.vqueue[w.slot]? = some t ∧ 0 < n ∧ n ≤ 8 ∧ t.issued + n ≤ t.beats ∧
          (∀ j u, j < w.slot → b.vqueue[j]? = some u → t.issued + n ≤ chained t u) ∧
          (n = 8 ∨ t.issued + n = t.beats ∨ ∃ j u, j < w.slot ∧ b.vqueue[j]? = some u ∧ t.issued + n = chained t u) ∧
          kvGet 0 ((s.grantPipe core pipe).core core).busy pipe = s.clock + n ∧
          ∀ id x, s.agent? id = some x → ∃ y, (s.grantPipe core pipe).agent? id = some y ∧
            y.vqueue.map (fun u => u.issued) = (if id = queueAgent core w.q then
              (x.vqueue.map (fun u => u.issued)).modify w.slot (fun k => k + n) else x.vqueue.map (fun u => u.issued)))) ∧
    (∀ t u : VToken, (t.reads &&& u.writes = 0 → chained t u = t.beats) ∧ (u.beats ≤ u.written → chained t u = t.beats) ∧
      (t.reads &&& u.writes ≠ 0 → u.written < u.beats →
        (u.whole = true → chained t u = 0) ∧
        (u.whole = false → t.far &&& u.writes = 0 → t.ratio = (1, 1) → t.block = 1 → 0 < u.bits →
          chained t u = u.written * 512 / u.bits * t.bits / 512))) ∧
    (∀ (r : Response), r.found = none →
      (∀ (c : Cmd) (ln : Word) (pl : Place) (hops tgt addr : Nat) (via : List Nat), s.cmds.find? (fun c => cmdAgent c.id == ag) = some c →
        resolve s c.ctx .probe (BitVec.ofNat 64 r.va) = .ok (ln, pl, hops, via) → pl.cls = .bridge tgt addr →
        (∃ x ∈ s.sent, x.agent = ag ∧ x.tgt = tgt ∧ x.addr / 64 = addr / 64) →
        ∃ u, exec (.memoryResponseArrival ag r) s = .next u ∧
          acknowledged s u (fun x => x.agent = ag ∧ x.tgt = tgt ∧ x.addr / 64 = addr / 64)) ∧
      ((∀ c ∈ s.cmds, cmdAgent c.id ≠ ag) → s.agent? ag = none →
        ∃ u, exec (.memoryResponseArrival ag r) s = .next u ∧ acknowledged s u (fun x => x.agent = ag ∧ x.addr / 64 = r.va / 64))) ∧
    (s.agent? ag = some a →
      let w := s.focus ag
      let back (u : State) : Out := .next (u.focus s.cur.id)
      let with_ (b : Agent) : Out := back { w with cur := b }
      ((∃ t ∈ a.vqueue, t.pipe ≠ 2 ∧ t.written < t.issued) → ∃ t pre u post, exec (.beatWrite ag) s = .next t ∧ t.mem = s.mem ∧
        a.vqueue = pre ++ u :: post ∧ u.pipe ≠ 2 ∧ u.written < u.issued ∧
        t.agent? ag = some { a with vqueue := pre ++ { u with written := u.written + 1 } :: post }) ∧
      (∀ t rest, a.vqueue = t :: rest → t.beats ≤ t.written →
        exec (.vectorCommit ag) s = with_ { a with vqueue := rest }) ∧
      (∀ i, a.status = .waiting .vqueue i → exec (.vqueueRoom ag) s =
        with_ { a with status := .running, vqueue := if 32 ≤ a.vqueue.length then a.vqueue.drop 1 else a.vqueue }) ∧
      (∀ (r : Response) (ln : Word) (pl : Place) (hops : Nat) (via : List Nat), (∀ c ∈ s.cmds, cmdAgent c.id ≠ ag) →
        let va : Word := BitVec.ofNat 64 r.va
        let line := pl.loc / 64
        let waits (u : VToken) : Bool := u.pipe == 2 && decide (u.written < u.issued) &&
          (u.awaits.isEmpty || u.awaits.any (fun e => e.elem == r.elem && e.va == r.va && decide (e.hi < u.issued)))
        let noted (u : State) (e : Reassembly) : State := { u with cur := { u.cur with reassembly := u.cur.reassembly ++ [e] } }
        (∀ (pre post : List VToken) (t : VToken), a.vqueue = pre ++ t :: post → waits t = true → (∀ u ∈ pre, waits u = false) →
          (r.found = none → (∀ x ∈ s.sent, x.agent ≠ a.id) →
            let t' : VToken := t.arrived r.elem r.va
            (t.awaits = [] → t' = { t with written := t.written + 1 }) ∧
            (t.awaits ≠ [] → let es := t.awaits.filter (fun e => e.elem != r.elem || e.va != r.va)
              t' = { t with awaits := es, written := min t.issued (es.foldl (fun n e => min n e.lo) t.beats) }) ∧
            (t.late = none → exec (.memoryResponseArrival ag r) s = with_ { a with vqueue := pre ++ t' :: post }) ∧
            (∀ v, readLate pre.length t r w = .ok () v → exec (.memoryResponseArrival ag r) s =
              back { v with cur := { v.cur with vqueue := v.cur.vqueue.modify pre.length (fun t => t.arrived r.elem r.va) } })) ∧
          (∀ (c : Nat) (cp : Checkpoint), r.found = some c → responseCause c = true → c ≠ 0x77 → t.snap = some cp →
            (∃ e ∈ t.awaits, e.elem = r.elem ∧ e.va = r.va) → resolve w (w.streamCtx cp.stream) .load va = .ok (ln, pl, hops, via) →
            w.errorFits c { pl with loc := pl.loc + r.va % 64 } = true →
            let val2 : Word := if c = 0x1E then BitVec.ofNat 64 (stackOf pl.loc) else 0
            let u := w.foundError { unit := errorUnit (pl.loc + r.va % 64), cause := c, val2 := val2 }
            let undone : Agent := u.cur.rollBack cp r.elem pre
            undone.pc = cp.pc ∧ undone.g = cp.g ∧ undone.v = cp.v ∧ undone.p = cp.p ∧ undone.vqueue = pre ∧
            undone.handles = cp.handles ∧ undone.replay = cp.replay ∧ undone.lateRead = none ∧
            undone.regs.vstart = BitVec.ofNat 64 r.elem ∧
            exec (.memoryResponseArrival ag r) s = back (settle w.nextInstr (throw (.trap {
              cause := c, val := some (faultValue c line va), val2 := val2, strm := streamCode cp.stream, late := true, hops := hops,
              hnd := if 4 ≤ cp.stream ∧ cp.stream < 12 then cp.stream - 4 else 0, vec := true })) { u with cur := undone }))) ∧
        (r.found = some 0x77 →
          let at_ : Place := { loc := 2 ^ 47 + (16 * w.myCore + r.elem % 16) * 2 ^ 14 + r.va % 2 ^ 14, cls := .window }
          w.errorFits 0x77 at_ = true →
          exec (.memoryResponseArrival ag r) s = back (w.addLatent { unit := errorUnit at_.loc, cause := 0x77, val2 := 0 })) ∧
        (∀ l, r.found = some 0x74 → (∀ t ∈ a.vqueue, waits t = false) → resolve w w.ctx .probe va = .ok (ln, pl, hops, via) →
          w.l1? w.myCluster line = some l →
          exec (.memoryResponseArrival ag r) s = back (w.spoilL1 w.myCluster (r.va % 64) l)) ∧
        (∀ c, r.found = some c → responseCause c = true → c ≠ 0x74 → c ≠ 0x77 → (∀ t ∈ a.vqueue, waits t = false) →
          resolve w w.ctx .probe va = .ok (ln, pl, hops, via) →
          let at_ : Place := { pl with loc := pl.loc + r.va % 64 }
          w.errorFits c at_ = true → exec (.memoryResponseArrival ag r) s = back (w.addLatent {
            unit := errorUnit at_.loc, cause := c, val2 := if c = 0x1E then BitVec.ofNat 64 (stackOf pl.loc) else 0 })) ∧
        (∀ t addr, r.found = none → resolve w w.ctx .probe va = .ok (ln, pl, hops, via) → pl.cls = .bridge t addr →
          (∃ x ∈ s.sent, x.agent = a.id ∧ x.tgt = t ∧ x.addr / 64 = addr / 64) →
          ∃ u, exec (.memoryResponseArrival ag r) s = .next u ∧
            acknowledged s u (fun x => x.agent = a.id ∧ x.tgt = t ∧ x.addr / 64 = addr / 64)) ∧
        (∀ e, r.found = none → resolve w w.ctx .probe va = .error e → (∀ t ∈ a.vqueue, waits t = false) →
          (∃ x ∈ s.sent, x.agent = a.id ∧ x.addr / 64 = r.va / 64) →
          ∃ u, exec (.memoryResponseArrival ag r) s = .next u ∧
            acknowledged s u (fun x => x.agent = a.id ∧ x.addr / 64 = r.va / 64)) ∧
        (∀ (i : Instr) (f : Nat → Word) (p : Reg) (st : Nat),
          r.found = none → (∀ t ∈ a.vqueue, waits t = false) → w.upcoming = some i → vectorLoad i = true →
          w.vecAccess i = some (f, p, st) → resolve w w.ctx .probe va = .ok (ln, pl, hops, via) → pl.cls = .dram ∨ pl.cls = .flash →
          a.kind = .thread → a.status = .running → a.reassembly.length < 16 → w.ordered i = false → r.elem ∈ w.actives p →
          (∀ t ∈ a.vqueue, t.pipe ≠ 2 ∨ t.beats ≤ t.written) → w.passes st →
          (∀ x ∈ s.sent, ¬(x.agent = a.id ∧ x.addr / 64 = r.va / 64)) →
          f r.elem = va → (w.actives p).find? (fun j => serves st (w.loadBeat i) f (w.actives p) j r.elem) = some r.elem →
          va.toNat % 64 + elemBytes w.regs.fmt ≤ 64 → r.src % 32 = sourceOf pl → (st = 1 → w.l1? w.myCluster line = none) →
          (∀ e ∈ a.loose, e.word / 8 ≠ line) →
          (∀ e ∈ a.reassembly, serves st (w.loadBeat i) f (w.actives p) e.elem r.elem = false) →
          (4 ≤ st → (∀ e ∈ (w.handle (st - 4)).ahead, e.1 ≠ (w.handle (st - 4)).cursor.toNat + r.elem) ∧
            ∀ k ∈ w.actives p, k < r.elem → w.readBefore st f (w.actives p) k = true) →
          let kept (data : BitVec 512) (cause : Nat) (val2 : Word) : Reassembly := {
            elem := r.elem, va := r.va, line := line, src := r.src % 32, age := r.age % 1024, cause := cause, val2 := val2, data := data }
          (∀ data cause val2 v, responseData va pl w = .ok (data, cause, val2) v →
            (st ≠ 1 ∨ cause ≠ 0 → exec (.memoryResponseArrival ag r) s = back (noted v (kept data cause val2))) ∧
            (∀ n v', st = 1 → cause = 0 → l1Load w.ctx w.myCluster .load 1 va pl (va.toNat % 64) 1 v = .ok n v' →
              exec (.memoryResponseArrival ag r) s = back (noted v' (kept data cause val2)))) ∧
          (pl.cls = .dram → (∀ b ∈ w.others, b.loose = []) → (∀ e ∈ w.latent, e.unit ≠ errorUnit pl.loc) →
            responseData va pl w =
              .ok (w.homeLine line, if w.poison.contains (errorUnit pl.loc) then poisonCause pl.loc else 0, 0) w))))

/-- R116, R323–R327, R363, R385, R397: a saved thread's area begins with kind 0x03, its launch and its pc, and its rows return to
the pool, at once or, by a free choice (log entry 5), once an elementwise form it executes next has been cut at one of its elements
(R162); a restored thread runs; row pressure saves the thread of its core that holds the most rows; a sweep context is saved
between batches; the pager's answers, read where the record was posted: 1 resumes, 2 resumes and denies with PAGER_DENY, a saved agent
once it is restored, and any other stops the launch with the original cause. -/
def Obligations.SavingAndRestoring : Prop :=
  ∀ (s u : State) (ag : Nat) (a : Agent), s.agent? ag = some a →
    let w := s.focus ag
    let cutAt (ks : List Nat) (i : Instr) (id : Nat) (r : State) : Prop := ∃ k ∈ ks, ∃ t b, exec i s = .next t ∧ t.mem = s.mem ∧
      r.agent? id = some b ∧ t.agent? id = some { b with cut := some k }
    (saveThread .saved w = .ok () u → a.saveable = true →
      (exec (.preempt ag) s = .next (u.focus s.cur.id) ∨ cutAt w.cutPoints (.preempt ag) ag s) ∧ u.cur.status = .saved ∧ u.cur.rowsHeld = 0 ∧
      (s.wf = true → memNat u.mem (s.saveAddr (saveSlot a.id)) 8 = 3 ∧
        memNat u.mem (s.saveAddr (saveSlot a.id) + 8) 8 = a.launch % 2 ^ 64 ∧
        memNat u.mem (s.saveAddr (saveSlot a.id) + 16) 8 = a.pc.toNat)) ∧
    (∀ core v, placeCore a.id = core → (a.kind = .thread ∨ a.kind = .sweep) →
      s.agents.find? (fun b => placeCore b.id == core &&
        ((b.kind == .sweep && !(s.core core).sweepSaved) || (b.kind == .thread && b.status == .running)) &&
        (match b.stall with | none => false | some k => decide (k + 512 ≤ s.clock))) = some a →
      let r := s.putAgent { a with stall := some s.clock }
      let prio (b : Agent) : Nat := (r.queueRank core (if b.kind = .sweep then 4 else 0) b).1
      r.rowVictim core a = some v →
      (exec (.rowStallPreempt core) s = .next (r.saveAway v.id) ∨ cutAt (r.focus v.id).cutPoints (.rowStallPreempt core) v.id r) ∧
        placeCore v.id = core ∧ v.id ≠ a.id ∧ 0 < v.rowsHeld ∧
        ∀ b ∈ r.agents, b.saveable = true → placeCore b.id = core → b.id ≠ a.id → v.rowsHeld < b.rowsHeld →
          prio a < prio b) ∧
    (a.status = .saved → ag < 8192 → resumeThread ag w = .ok () u →
      exec (.contextRestore ag ag) s = .next (u.focus s.cur.id) ∧ u.cur.status = .running) ∧
    (∀ core c, ag = sweepId core → (s.core core).sweepSaved = false →
      s.cmds.find? (fun c => (s.core core).sweep == some c.id) = some c →
      s.areaUsable (s.saveAddr (saveSlot ag)) = true →
      ∃ t, exec (.sweepContextSave core) s = .next t ∧ (t.core core).sweepSaved = true ∧
        t.mem = memPuts s.mem (s.saveAddr (saveSlot ag)) (w.sweepArea c) ∧
        ∃ b, t.agent? ag = some b ∧ b.rowsHeld = 0 ∧ b.g = a.g) ∧
    (∀ saved cause, a.status = .paged saved cause →
      let answer := memNat s.mem (a.postedAt + 64 * seatOf ag) 8
      (answer = 0 → exec (.pagerAnswer ag) s = .next s) ∧
      (answer = 1 → saved = false → ∃ t b, exec (.pagerAnswer ag) s = .next t ∧ t.mem = s.mem ∧ t.agent? ag = some b ∧
        b = { a with status := .running }) ∧
      (answer = 1 → saved = true → resumeThread ag w = .ok () u →
        exec (.pagerAnswer ag) s = .next (u.focus s.cur.id) ∧ u.cur.status = .running) ∧
      (answer = 2 → saved = false → ∃ t b, exec (.pagerAnswer ag) s = .next t ∧ t.agent? ag = some b ∧
        (a.kind ≠ .thread → a.kind ≠ .dispatcher → b.status = .ended 0x18 ∧ b.regs.ktval2 = BitVec.ofNat 64 cause ∧
          b.regs.ktval = BitVec.ofNat 64 (memNat s.mem (a.postedAt + 64 * seatOf ag + 32) 8))) ∧
      (answer = 2 → saved = true → resumeThread ag w = .ok () u →
        exec (.pagerAnswer ag) s = agentEvent ag (.hint 0) (denyFault ag cause) (u.focus s.cur.id) ∧
        ∀ v : State, denyFault ag cause v =
          (trap 0x18 (some (BitVec.ofNat 64 (memNat v.mem (v.cur.postedAt + 64 * seatOf ag + 32) 8))) (BitVec.ofNat 64 cause) : Exec Unit) v) ∧
      (3 ≤ answer → exec (.pagerAnswer ag) s = .next ((eventStep (stopLaunch a.launch cause) w).focus s.cur.id) ∧
        ∀ x, s.wf = true → s.launch? a.launch = some x → ∃ t, exec (.pagerAnswer ag) s = .next t ∧ launchGone t x a.launch 4 cause))

/-- R190, R196–R198, R201, R223, R244, R251, R253, R404, R290, R334, R394: lines and translations are filled, a clean line with an
uncorrectable error anew from its home (L1_FILL of such a line is that refill: log entry 45, DEDUCED), no level of translations past its size (a
walk's translation is retained in the tower: log entry 8, DESIGN CHOICE), dirty lines of which a write-back is due written back, elements
read ahead, ports handed
on, units staged, and OLDTKT brought up to a bound it never falls from. -/
def Obligations.CachesAndTables : Prop :=
  ∀ (s t : State) (cl n m : Nat),
    (∀ (pl : Place) (line : Nat),
      let va : Word := BitVec.ofNat 64 n
      let c : Ctx := { id := 16 * cl, kind := .thread, asid := m, user := false }
      cl < 384 → translate s c .probe va = .ok pl → pl.cls = .dram ∨ pl.cls = .flash →
      (∀ pl' byte, (∀ l, s.l1? cl (pl.loc / 64) = some l → l.valid &&& ~~~l.dirty = 0) → translate s c .load va = .ok pl' →
        byte = ((List.range 64).filter (fun i => (s.l1? cl (pl.loc / 64)).all (fun l => !l.dirty.getLsbD i))).headD 0 →
        (l1Load c cl .load 0 va pl byte 1 s = .ok line t →
          exec (.l1Fill cl m n) s = .next t ∧ ∃ l, t.l1? cl line = some l ∧ l.valid.getLsbD byte = true) ∧
        (∀ e, l1Load c cl .load 0 va pl byte 1 s = .error e t → exec (.l1Fill cl m n) s = .next (s.errorsFound t))) ∧
      (∀ l byte, s.l1? cl (pl.loc / 64) = some l → l.valid &&& ~~~l.dirty ≠ 0 →
        byte = ((List.range 64).filter (fun i => !l.dirty.getLsbD i)).headD 0 → (do
          modify (fun s => if l.dirty = 0 then s.l1Drop cl l.pline else s.l1Set cl { l with valid := l.dirty })
          countCorrected (cl / 32)
          l1Load c cl .probe 0 va pl byte 1 : Exec Nat) s = .ok line t →
        exec (.l1Fill cl m n) s = .next t ∧
          (cl / 32 < 12 → (t.tower (cl / 32)).cecount = satInc (s.tower (cl / 32)).cecount))) ∧
    (∀ l, s.l1? cl n = some l → exec (.writebackApply cl n) s = .next (if s.leaves cl l = true then s.writeBack cl l else s)) ∧
    (∀ l, s.leaves cl l = true ↔ ((∃ v, s.victim cl l.pline = some v ∧ v.pline = l.pline) ∨
      ∃ id ∈ l.threads, ∃ v, s.oldestDirty cl id = some v ∧ v.pline = l.pline)) ∧
    (∀ w, ∃ t, exec (.pageWalk w m n) s = .next t ∧ t.mem = s.mem ∧
      (∀ k, (t.tower k).tlb.length ≤ max 524288 (s.tower k).tlb.length) ∧
      (∀ g, (t.cluster g).tlb.length ≤ max 2048 (s.cluster g).tlb.length) ∧
      ∀ (leaf : Word) (size : Nat),
        let e : TlbEntry := { asid := m, vbase := n / size * size, size := size, leaf := leaf }
        s.towerUp w = true → walk s .load m n = .ok (leaf, size) →
        (∀ x ∈ (s.tower w).tlb, x.covers m n = false ∧ x.covers m e.vbase = false) →
        e ∈ (t.tower w).tlb ∧ ((s.tower w).tlb.length < 524288 → (t.tower w).tlb = e :: (s.tower w).tlb) ∧
        (∀ g x, x ∈ (t.cluster g).tlb → x ∈ (s.cluster g).tlb ∨ x = e ∧ g / 32 = w)) ∧
    (∀ (ag h x : Nat) (a : Agent), s.agent? ag = some a → a.kind = .thread → h < 8 →
      let w := s.focus ag
      let hd := w.handle h
      hd.port.isSome = true → w.handleBusy h = false → hd.ahead.length < 4 * hd.aheadLen → hd.ahead.length < hd.remaining.toNat →
      w.cur.reassembly = [] ∨ (∀ x, w.upcoming.bind w.vecAccess = some x → x.2.2 ≠ 4 + h) →
      let e := hd.cursor.toNat + hd.ahead.length
      loadNat true (4 + h) (hd.addr e) (elemBytes hd.format) w = .ok x t →
      exec (.handleRunaheadRead ag h) s =
        .next ((t.setHandle h { t.handle h with ahead := hd.ahead ++ [(e, BitVec.ofNat 64 x)] }).focus s.cur.id)) ∧
    (∀ (id h p : Nat) (rest : List (Nat × Nat)) (a : Agent), (s.cluster cl).portQueue = (id, h) :: rest → s.agent? id = some a →
      p < 16 → kvHas (s.cluster cl).ports p = false → (∀ q, q < p → kvHas (s.cluster cl).ports q = true) →
      ∃ t, exec (.portHandoff cl) s = .next t ∧ t.mem = s.mem ∧ (t.cluster cl).portQueue = rest ∧
        kvGet (0, 0) (t.cluster cl).ports p = (id, h) ∧
        (h < 8 → ∃ b, t.agent? id = some b ∧ (b.handles.toList.getD h Handle.unbound).port = some p)) ∧
    (∀ w, 2 ^ 26 ≤ n → n < 2 ^ 27 → s.towerUp w = true → s.dev.granaryok.getLsbD (stackOf (65536 * n)) = true →
      0 < (s.tower w).stagingUnits →
      exec (.stagingFill w n) s = .next (s.setTower w ((s.tower w).fillUnit n)) ∧
      ((∃ u ∈ (s.tower w).staging, kvGet 0 (s.tower w).pins u = 0) ∨ (s.tower w).staging.length < (s.tower w).stagingUnits ∨
        n ∈ (s.tower w).staging → n ∈ ((s.tower w).fillUnit n).staging)) ∧
    (∀ w, (∀ u ∈ s.bank, 2 ^ 43 ≤ u.loc) → ∃ x, exec (.oldtktUpdate w) s = .next (s.setTower w { s.tower w with oldtkt := x }) ∧
      ((∀ k, s.time k < 2 ^ 64) → (s.tower w).oldtkt.toNat ≤ x.toNat ∧
        ((∀ k, k < 12 → s.towerUp k = true → (s.tower w).oldtkt.toNat + 3 ≤ s.time k) →
          ∀ k, k < 12 → s.towerUp k = true → x.toNat + 3 ≤ s.time k)))

/-- R9, R337–R340, R406: one fabric cycle moves each flit of a plane by one link or keeps it at its router, in nothing but where it
stands and comes from; none that is not at its destination is lost; a request is injected at age 0 towards its destination where its
router is free, unless the budget of the window is spent, or 512 flits of the plane are in flight; ages rise every eighth cycle; a window clears its counts; a request's bad copy is discarded, posted, and logged
by its link segment; a plane with 16 such errors on a segment is disabled, and a second one stops every launch. R343, R345, R346, R391,
R407, R358: a link that goes down clears its bit and is posted; each access in flight over it ends in a REMOTE_LINK trap of its agent,
a load of its queue from its element on, a store not acknowledged, in doubt, with its thread back at it, another when the instruction
comes to it, with the doubt bit of LINK_DOWN's operand (log entries 36, 63 and 83, DEDUCED); a command with a write over the link stops
with REMOTE_LINK at its lowest address; nothing sent over the link is acknowledged after; a link that comes up sets its bit. A host access that fails is an error that the next read of its place
meets in a late trap of its cause (log entry 37, DEDUCED), one that reaches a peer's marked line in ADDR_BAD with the peer's address
(R345), and a .sys release whose writes stay unacknowledged traps with SYS_RELEASE. -/
def Obligations.FabricAndLinks : Prop :=
  (∀ (s : State) (plane : Nat) (req : FlitReq),
     (plane < 4 → s.dev.planesOff.getLsbD plane = false →
       (∀ f ∈ s.flits, s.planeOf f.plane = plane → f.age ≤ if s.shared plane then 512 else 256) → s.planeDue plane = false →
       ∃ t, exec (.flitRoute plane []) s = .next t ∧ { t with flits := s.flits, towers := s.towers } = s ∧
         (∀ f, s.planeOf f.plane ≠ plane → (f ∈ t.flits ↔ f ∈ s.flits)) ∧
         (∀ f ∈ t.flits, s.planeOf f.plane = plane → ∃ g ∈ s.flits, { f with pos := g.pos, came := g.came } = g ∧ g.pos < 18 ∧
           (f.pos = g.pos ∨ ∃ d, neighbour g.pos d = some f.pos)) ∧
         (∀ g ∈ s.flits, s.planeOf g.plane = plane → g.pos < 18 → g.dst ≠ g.pos →
           ∃ f ∈ t.flits, { f with pos := g.pos, came := g.came } = g) ∧
         ∀ k, { t.tower k with deflcnt := (s.tower k).deflcnt } = s.tower k) ∧
     (plane < 4 → s.dev.planesOff.getLsbD plane = false → s.planeDue plane = false → s.planeOf req.plane = plane → req.plane < 4 →
       req.src < 18 → req.dst < 18 →
       let u := unitAt req.src
       let limit := (s.tower u).injrate.toNat % 256
       let spent : Prop := u < 12 ∧ limit ≠ 0 ∧ limit ≤ kvGet 0 (s.tower u).injected plane
       (∀ d p, (∀ f ∈ s.flits, s.planeOf f.plane ≠ plane) → (productive req.src req.dst).head? = some d → neighbour req.src d = some p →
         (spent → exec (.flitRoute plane [req]) s = .next s) ∧
         (¬spent → ∃ t, exec (.flitRoute plane [req]) s = .next t ∧ t.mem = s.mem ∧
           t.flits = s.flits ++ [({ plane := req.plane, src := req.src, dst := req.dst, pos := p, age := 0, req := req.req } : Flit)] ∧
           (u < 12 → kvGet 0 (t.tower u).injected plane = kvGet 0 (s.tower u).injected plane + 1))) ∧
       (req.src = req.dst → exec (.flitRoute plane [req]) s = exec (.flitRoute plane []) s) ∧
       (∀ t, (∀ f ∈ s.flits, f.pos < 18 ∧ f.dst ≠ f.pos ∧ f.age ≤ 256) → 512 ≤ (s.flits.filter (fun f => s.planeOf f.plane == plane)).length →
         exec (.flitRoute plane []) s = .next t → exec (.flitRoute plane [req]) s = .next t)) ∧
     (∃ t, exec .flitAgeStep s = .next t ∧ t.fabricClock = s.fabricClock + 1 ∧ { t with fabricClock := s.fabricClock, flits := s.flits } = s ∧
       ((s.fabricClock + 1) % 8 ≠ 0 → t.flits = s.flits) ∧
       ((s.fabricClock + 1) % 8 = 0 → t.flits = s.flits.map (fun (f : Flit) => { f with age := min 1023 (f.age + 1) }))) ∧
     (s.fabricClock % 64 = 0 → ∃ t, exec .injrateWindow s = .next t ∧ { t with towers := s.towers } = s ∧
       ∀ k, t.tower k = { s.tower k with injected := [] }) ∧
     (∀ f : Flit, s.flits.find? (fun f => f.carries req) = some f →
       exec (.requestResend req) s = .next (({ s with
         flits := s.flits.erase f,
         hdrErrors := s.hdrErrors.filter (fun e => decide (s.fabricClock ≤ e.2.2 + 2 ^ 20)) ++
           [(s.planeOf f.plane, (min f.came f.pos, max f.came f.pos), s.fabricClock)] } : State).logError 0x7E (unitAt f.pos) 0
             (BitVec.ofNat 64 req.req))) ∧
     (s.planeDue plane = false → exec (.planeFail plane) s = .next s) ∧
     (plane < 4 → s.dev.planesOff.getLsbD plane = false → s.planeDue plane = true →
       let u := ({ s with dev := { s.dev with planesOff := s.dev.planesOff ||| (1#4 <<< plane) } } : State).logError 0x6D 16 0
         (BitVec.ofNat 64 plane)
       (s.dev.planesOff = 0 → exec (.planeFail plane) s = .next u) ∧
       (s.dev.planesOff ≠ 0 → ∃ t, exec (.planeFail plane) s = .next t ∧ ∀ e ∈ s.launches, t.launch? e.1 = none))) ∧
  (∀ (s : State) (link ag va : Nat) (hit : List LinkHit) (kind : HostError) (a : Agent),
     (link < 16 → s.dev.linkstat.getLsbD link = true →
       let down (r : State) : State := ({ r with dev := { r.dev with linkstat := r.dev.linkstat &&& ~~~(1#64 <<< link) } } : State).logError
         0x61 (16 + link / 8) (BitVec.ofNat 64 link) 0
       let hits (h : LinkHit) : Bool := (s.agent? h.ag).any (fun a => (s.bridgeOf a h.va).any (fun e => e.1 == link))
       let ended (r : State) : State := (r.hitCmds link).dropSent (r.sent.filter (fun w => w.tgt == link))
       let waits (b : Agent) : Bool := (s.linkLoad b link).isSome || (s.linkStore b link).isSome
       ((∀ b ∈ s.agents, waits b = false) →
         (hit.all (fun h => !hits h) = true → exec (.linkDown link hit) s = .next (down (ended s))) ∧
         (∀ h b, hit = [h] → hits h = true → (ended s).agent? h.ag = some b → ((ended s).focus h.ag).accesses h.va = true →
           exec (.linkDown link hit) s = .next (down ((ended s).putAgent { b with
             linkHit := some (b.pc, h.va, BitVec.ofNat 64 (link + if h.doubt then 256 else 0)) })))) ∧
       (∀ b, s.agents.filter waits = [b] → s.agent? b.id = some b → hit = [] →
         (∀ x, s.linkLoad b link = some x → s.linkStore b link = none →
           exec (.linkDown link hit) s = .next (down (ended (s.endLoad b.id link x)))) ∧
         (∀ x, s.linkLoad b link = none → s.linkStore b link = some x →
           exec (.linkDown link hit) s = .next (down (ended (s.endStore b.id link x)))) ∧
         (∀ x y, s.linkLoad b link = some x → s.linkStore b link = some y → exec (.linkDown link hit) s =
           .next (down (ended (if x.2.1.issued ≤ y.2.snap.issued then s.endLoad b.id link x else s.endStore b.id link y))))) ∧
       (∃ t, exec (.linkDown link hit) s = .next t ∧ ∀ x ∈ t.sent, x.tgt ≠ link) ∧
       (acknowledged (s.hitCmds link) (ended s) (fun x => x.tgt = link)) ∧
       ({ s.hitCmds link with cmds := s.cmds } = s ∧ (s.hitCmds link).cmds.length = s.cmds.length ∧
         ∀ (i : Nat) (c : Cmd), s.cmds[i]? = some c →
           let mine (x : Sent) : Prop := x ∈ s.sent ∧ x.tgt = link ∧
             (x.agent = cmdAgent c.id ∨ 8192 ≤ x.agent ∧ (s.core (x.agent - 8192)).sweep = some c.id)
           ((∀ x, ¬mine x) → (s.hitCmds link).cmds[i]? = some c) ∧
           (∀ x, mine x → (∀ y, mine y → x.va ≤ y.va) → (s.hitCmds link).cmds[i]? = some { c with hit := some (0x61, x.va) }))) ∧
     (∀ (u : Unacked) (i k : Nat) (at_ : Word), s.agent? ag = some a →
       let w := s.focus ag
       let start := u.snap.regs.vstart.toNat % 2048
       let back (j : Nat) : State := { w with cur := { w.cur.rollBack u.snap j [] with unacked := w.cur.unacked.take i } }
       let major := (wordOf u.instr).toNat / 2 ^ 26
       let vec : Bool := decide (0x1A ≤ major ∧ major ≤ 0x26)
       ((back start).lostAt link u = (k, at_) → s.endStore ag link (i, u) = (settle u.instr (throw (.trap {
         cause := 0x61, val := some at_, val2 := BitVec.ofNat 64 (link + 256), strm := streamCode u.snap.stream, late := true, hops := 0,
         hnd := if 4 ≤ u.snap.stream ∧ u.snap.stream < 12 then u.snap.stream - 4 else 0, vec := vec }))
           (back (if vec then k else start))).focus s.cur.id) ∧
       (∀ x, (back start).vecAccess u.instr = none → (back start).scalarAccess u.instr = some x →
         (back start).lostAt link u = (0, x))) ∧
     (∀ c (cp : Checkpoint) (e : Awaited) (i : Nat), s.agent? ag = some a → a.vqueue[i]? = some c → c.snap = some cp →
       let w := s.focus ag
       s.endLoad ag link (i, cp, e) = (settle (.hint 0) (throw (.trap {
         cause := 0x61, val := some (BitVec.ofNat 64 e.va), val2 := BitVec.ofNat 64 link, strm := streamCode cp.stream, late := true, hops := 0,
         hnd := if 4 ≤ cp.stream ∧ cp.stream < 12 then cp.stream - 4 else 0, vec := true }))
           { w with cur := w.cur.rollBack cp e.elem (w.cur.vqueue.take i) }).focus s.cur.id) ∧
     (link < 16 → ∃ t, exec (.linkUp link) s = .next t ∧
       t = { s with dev := { s.dev with linkstat := s.dev.linkstat ||| (1#64 <<< link) } } ∧ t.dev.linkstat.getLsbD link = true) ∧
     (s.agent? ag = some a → a.status = .running →
       (∀ t at_ loc, kind ≠ .releaseUnacked →
         translate s { id := a.id, kind := a.kind, asid := a.asid, user := a.user } .probe (BitVec.ofNat 64 va) =
           .ok { loc := loc, cls := .bridge t at_ } →
         let cause := match kind with
           | .missing => 0x64 | .unsupported => 0x65 | .aborted => 0x66 | .poisoned => 0x63 | .releaseUnacked => 0x6F | .marked => 0x12
         (if kind = .marked then t < 16 else (t = 0x10 ∨ t = 0x11 ∨ kind = .poisoned)) →
         exec (.hostTimeout ag va kind) s = .next (s.addLatent {
           unit := errorUnit loc, cause := cause, val2 := if kind = .marked then BitVec.ofNat 64 at_ else 0 })) ∧
       ((∃ x ∈ s.sent, x.agent = ag) → (s.focus ag).upcoming.bind releaseScope = some 3 →
         let w := s.focus ag
         exec (.hostTimeout ag va .releaseUnacked) s = .next ((settle w.nextInstr (trap 0x6F) w).focus s.cur.id))) ∧
     (∀ (e : Latent) (st loc hops : Nat) (at_ : Word), s.latent.find? (fun x => x.unit == errorUnit loc) = some e →
       checkPoison st at_ loc hops s = .error (lateStop e.cause (loc / 64) at_ e.val2 st hops) (s.foundError e)))

/-- R346, R347, R402, R403, R14, R193, R325, R344, R348, R349, R354, R362, R405: the host: inbound writes to DRAM of standing towers perform
at their homes and elsewhere, in flash, staging, a bridge frame, a lost tower or a marked line, change nothing of memory (log entry
43, DESIGN CHOICE); a virtual function's access outside its slice is only posted; reads change nothing but what becomes of an error that
stands in what they read (R402); a register write changes its RW fields; a bad aperture or slice leaves its register; a report is signed over digest, nonce and
BOOTSTAT. -/
def Obligations.HostInterface : Prop :=
  ∀ (s : State) (fn off : Nat) (data : List Byte) (v : Word) (x : BitVec 128), s.wf = true →
    (let size := data.length
     let ok (a : Nat) : Prop := s.inboundOk a = true
     (off + size ≤ 2 ^ 43 → ∃ t, exec (.inboundWrite 0 off data) s = .next t ∧ t.cur = s.cur ∧
       (∀ k, k < size → ok (off + k) → memByte t.mem (off + k) = data.getD k 0) ∧
       (∀ a, ¬(off ≤ a ∧ a < off + size) ∨ ¬ok a → memByte t.mem a = memByte s.mem a)) ∧
     (fn ≠ 0 → fn < 256 → s.bar2 fn off size = none →
       exec (.inboundWrite fn off data) s = .next (s.logError 0x6C 16 (BitVec.ofNat 64 off) (BitVec.ofNat 64 fn)) ∧
       exec (.hostRead fn off size) s = .next (s.logError 0x6C 16 (BitVec.ofNat 64 off) (BitVec.ofNat 64 fn))) ∧
     (fn = 0 → s.bar2 fn off size = none → exec (.hostRead fn off size) s = .next s) ∧
     (∀ a, s.bar2 fn off size = some a →
       let read (e : Latent) : Bool := decide (0 < size ∧ a / 64 ≤ e.unit ∧ e.unit ≤ (a + size - 1) / 64)
       exec (.hostRead fn off size) s =
         .next ((s.latent.filter (fun e => read e && poisons e.cause)).foldl State.foundError s) ∧
       ((∀ e ∈ s.latent, read e = false) → exec (.hostRead fn off size) s = .next s)) ∧
     (∀ a, s.bar2 fn off size = some a → fn ≠ 0 →
       (kvGet 0 s.dev.vfcfg fn).getLsbD 0 = true ∧ s.slice fn ≤ a ∧ a + size ≤ s.slice fn + 2 ^ 32)) ∧
    (let d := s.dev
     let writes (o : Nat) (d' : Device) : Prop := exec (.registerWrite o v) s = .next { s with dev := d' }
     writes 0x8 { d with astbase := v &&& 0x7FFFFFFF000 } ∧ writes 0x10 { d with ctxbase := v &&& 0x7FFFFFF0000 } ∧
     writes 0x18 { d with vecbase := v &&& 0x00FFFFFFFFFFFE00 } ∧ writes 0x20 { d with fltbase := v &&& 0x7FFFFFFF000 } ∧
     writes 0x30 { d with errbase := v &&& 0x7FFFFFE0000 } ∧
     (∀ k, k < 4 → ∃ d', writes (0x200 + 8 * k) d' ∧ field d'.nonce (64 * k) 64 = v.toNat ∧ { d' with nonce := d.nonce } = d ∧
       ∀ j, j < 4 → j ≠ k → field d'.nonce (64 * j) 64 = field d.nonce (64 * j) 64) ∧
     writes 0 d ∧ writes 0x38 d ∧ writes 0x80 d) ∧
    (∀ n, n < 16 →
      let base := field x 30 13 * 2 ^ 30
      let len := field x 48 8 * 2 ^ 30
      let good : Prop := s.plainDram base len = true ∧ s.meetsAperture n base len = false ∧ field x 64 30 = 0
      (good → ∃ y, exec (.aper n x) s = .next { s with dev := { s.dev with apers := kvSet s.dev.apers n y } } ∧
        y.getLsbD 0 = x.getLsbD 0 ∧ field y 30 13 = field x 30 13 ∧ field y 48 16 = field x 48 16 ∧ field y 64 64 = field x 64 64 ∧
        field y 1 29 = 0 ∧ field y 43 5 = 0) ∧
      (¬good → exec (.aper n x) s = .next s)) ∧
    (1 ≤ fn → fn ≤ 128 →
      let base := v.toNat / 2 ^ 32 % 2 ^ 11 * 2 ^ 32
      let good : Prop := s.plainDram base (2 ^ 32) = true ∧ s.meetsAperture 16 base (2 ^ 32) = false
      (good → ∃ t, exec (.vfcfg fn v) s = .next t ∧ kvGet 0 t.dev.vfcfg fn = v &&& 0xFFFF07FF00000001 ∧ t.mem = s.mem ∧
        (s.dev.phase = 7 → v.getLsbD 0 = true → s.agent? (7000 + fn) = none →
          ∃ a, t.agent? (7000 + fn) = some a ∧ a.kind = .dispatcher) ∧
        (s.dev.phase = 7 → v.getLsbD 0 = false → ∀ a, t.agent? (7000 + fn) = some a → a.status = .free)) ∧
      (¬good → exec (.vfcfg fn v) s = .next s)) ∧
    (exec (.attctl v) s = .next { s with dev := { s.dev with attctl := s.dev.attctl || v == 1 } }) ∧
    (s.dev.attctl = true → ∃ d : Device, exec .attestationReportReady s = .next { s with dev := d } ∧ d.attctl = false ∧
      { d with attctl := true, report := s.dev.report } = s.dev ∧ field d.report 0 256 = Config.firmwareDigest.toNat ∧
      field d.report 256 256 = s.dev.nonce.toNat ∧
      field d.report 512 32 = s.dev.phase % 256 * 2 ^ 24 + s.dev.failphase % 256 * 2 ^ 16 + s.dev.towerok.toNat * 16 +
        s.dev.granaryok.toNat ∧
      field d.report 768 512 = (Config.sign s.dev.attested).toNat)

/-- R399–R402, R405, R408, R381, R382: buses are retrained and tested; corrected errors count and uncorrectable ones poison their
line; a machine check stops the launches of its tower; a lost tower's or stack's bit is cleared and its queued commands are over. -/
def Obligations.HardwareFailures : Prop :=
  ∀ (s : State) (k n wires line : Nat), s.wf = true → k < 12 →
    (n < 4096 → ((s.tower k).bus n).retraining = false →
      exec (.busRetrain k n) s = .next (s.setTower k { s.tower k with
        buses := kvSet (s.tower k).buses n { (s.tower k).bus n with retraining := true } }) ∧
      exec (.busTest k n false) s = exec (.busRetrain k n) s) ∧
    exec (.busTest k n true) s = .next s ∧
    (n < 4096 → wires ≤ 36 → ((s.tower k).bus n).retraining = true →
      let u := s.setTower k { s.tower k with buses := kvSet (s.tower k).buses n { wires := wires, retraining := false } }
      (wires < 16 → (u.tower k).pairLost = false → exec (.busRetrainDone k n wires) s =
        .next (u.logError 0x7D k (BitVec.ofNat 64 n) 2)) ∧
      (16 ≤ wires → (u.tower k).pairLost = false → exec (.busRetrainDone k n wires) s =
        .next (u.logError 0 k (BitVec.ofNat 64 n) (if wires < 32 then 1 else 0))) ∧
      ((u.tower k).pairLost = true → s.towerUp k = true →
        ∃ t, exec (.busRetrainDone k n wires) s = .next t ∧ t.towerUp k = false)) ∧
    (dramTower (64 * line) = some k →
      exec (.patrolScrub line .clean) s = .next s ∧
      exec (.patrolScrub line .corrected) s = .next (s.setTower k { s.tower k with
        cecount := if (s.tower k).cecount = 0xFFFFFFFFFFFFFFFF then 0xFFFFFFFFFFFFFFFF else (s.tower k).cecount + 1 }) ∧
      ∃ t, exec (.patrolScrub line .uncorrectable) s = .next t ∧ isPoisoned t line = true ∧
        ∀ l, l ≠ line → isPoisoned t l = isPoisoned s l) ∧
    (∃ t, exec (.mcheck k) s = .next t ∧ t.dev.towerok = s.dev.towerok ∧
      ∀ e ∈ s.launches, e.2.onTower k = true → t.launch? e.1 = none) ∧
    (s.towerUp k = true → s.dev.phase = 7 → ∃ t, exec (.towerLost k) s = .next t ∧ t.towerUp k = false ∧
      (∀ e ∈ s.launches, e.2.onTower k = true → t.launch? e.1 = none) ∧
      (∀ c ∈ t.cmds, c.engine = 4 ∨ c.unit ≠ k)) ∧
    (∀ j, j < 4 → s.dev.granaryok.getLsbD j = true → ∃ t, exec (.granaryStackFailed j) s = .next t ∧
      t.dev.granaryok = s.dev.granaryok &&& ~~~(1#4 <<< j) ∧ t.mem = s.mem ∧ (∀ c ∈ t.cmds, c.engine ≠ 4 ∨ c.unit ≠ j))

/-! ## Steps, words, reset, invariants -/

/-- A word at the pc that decodes is what step executes, as one cycle of the clock, where nothing else is due: the schedule names no
other occurrence, no event or hold ends first, and no register the word may name awaits an XWEAR (R67, R73, R333; log entry 4). -/
def Obligations.StepRunsDecoded : Prop :=
  ∀ (s u : State) (w : IWord) (i : Instr), s.sched = [] → s.dev.phase ≠ 0xFF → s.cur.status = .running →
    s.cur.pending = [] → s.cur.holds = [] → fetch s = .ok w u → u.cur.wearRegs = [] → decode w = some i →
    step s = (match exec i (u.noteLate w) with
      | .next t => .next { t with clock := t.clock + 1 }
      | .fault f => .fault f
      | .refused r => .refused r)

/-- R67, R141, R143, R190: the word at the pc comes from the replay buffer inside the body of an active LOOPV, else from the bytes of
the cluster L1's line where it holds them, none of them poisoned; fetching changes no memory and nothing of the agent. -/
def Obligations.FetchReads : Prop :=
  (∀ (s : State) (k : Nat) (h : k < 32), let len := s.regs.loopCtl.toNat % 64
    s.cur.pc = s.regs.loopAddr + 4 * BitVec.ofNat 64 k → k < len → fetch s = .ok s.cur.replay[k] s) ∧
  (∀ (s : State) (pl : Place) (l : L1Line), let off := s.cur.pc.toNat % 64
    s.regs.loopCtl.toNat % 64 = 0 → s.cur.loose = [] → off % 4 = 0 → l.bad = 0 → isWindow s.cur.pc = false →
    translate s s.ctx .fetch s.cur.pc = .ok pl → pl.cls = .dram ∨ pl.cls = .flash →
    s.l1? s.myCluster (pl.loc / 64) = some l → (∀ k, k < 4 → l.valid.getLsbD (off + k) = true) →
    ∃ t, fetch s = .ok (BitVec.ofNat 32 (leNat ((List.range 4).map (fun k => byteOf l.data (off + k))))) t ∧
      t.mem = s.mem ∧ t.cur = s.cur ∧ { t with clusters := s.clusters, others := s.others } = s)

/-- R70–R79: words written out from the spec's encodings decode to their instructions, and words of no instruction to none. -/
def Obligations.DecodedWords : Prop :=
  decode 0x058C6800 = some (.add 12 12 13) ∧ decode 0x058D700C = some (.div 12 13 14) ∧
  decode 0x298D0003 = some (.slli 12 13 3) ∧ decode 0x11801234 = some (.ori 12 0 0x1234) ∧
  decode 0x48210000 = some (.jr 1 0) ∧ decode 0x48A40004 = some (.loopv 5 4) ∧
  decode 0xC4000070 = some (.trap 7) ∧ decode 0xC4000001 = some .eret ∧ decode 0xC5800112 = some (.kget 12 0x011) ∧
  decode 0xC40D0123 = some (.kset 13 0x012) ∧ decode 0xC1800015 = some (.id 12 2) ∧
  decode 0x00000000 = none ∧ decode 0xFFFFFFFF = none

/-- R14, R34, R129, R187 and log entries 2 and 3: the machine after reset: BOOTSTAT 0, nothing runs, memory lists nothing, a thread's
registers at their start values. The values of registers the spec gives no start for are the model's choice (log entry 2). -/
def Obligations.AfterReset : Prop :=
  State.reset.wf = true ∧ State.reset.dev.bootstat = 0 ∧ State.reset.mem = [] ∧ State.reset.launches = [] ∧
  State.reset.cmds = [] ∧ State.reset.cur.status = .free ∧ State.reset.others = [] ∧
  (∀ n : Reg, State.reset.g n = 0) ∧ (∀ n, n < 32 → State.reset.v n = VReg.fresh) ∧ State.reset.regs.vtype = 0xC20 ∧
  State.reset.regs.kstatus = 0x10 ∧ State.reset.regs.fidxNv = 0xFFFFFFFFFFFFFFFF ∧ (∀ k, (State.reset.tower k).l2ways = 0x400) ∧
  step State.reset = .next { State.reset with clock := 1 }

/-- R70–R76: decoding the encoding of any well-formed instruction of the opcode tables gives it back, every operand at every value
the encoding admits. -/
def Obligations.DecodeOfEncode : Prop :=
  ∀ i : Instr, (encode? i).isSome = true → i.wellFormed = true → decode (encode i) = some i

/-- R68–R79: a word that decodes is the word of its instruction, whose fields are in range: no bit that an encoding fixes is ignored,
and two words never stand for one instruction. -/
def Obligations.WordsAreExact : Prop :=
  ∀ (w : IWord) (i : Instr), decode w = some i → i.wellFormed = true ∧ encode? i = some w

/-- Every step keeps the memory's canonical form: locations rise and no listed byte is 0, so that equal memories are equal data (the
model's own form: log entry 6). -/
def Obligations.StepKeepsMemoryForm : Prop :=
  ∀ s t : State, s.wf = true → step s = .next t → t.wf = true
end

