-- ==== Sys2Proof/Laws/Encoding.lean ====
section
/-! SUPPORT. The laws of a word's fields: what reading a field of a word made of placed fields gives (R68). They are
what the round trip of decode and encode rests on. -/

namespace Sys2Proof.Laws

@[simp] theorem bits_or (x y : IWord) (lo len : Nat) : bits (x ||| y) lo len = bits x lo len ||| bits y lo len := by
  simp [bits, BitVec.extractLsb'_or]

@[simp] theorem bits_literal (n lo len : Nat) (h : n < 2 ^ 32) :
    bits (BitVec.ofNat 32 n) lo len = BitVec.ofNat len (n >>> lo) := by
  apply BitVec.eq_of_toNat_eq
  simp only [bits, BitVec.extractLsb'_toNat, BitVec.toNat_ofNat, Nat.mod_eq_of_lt h]

theorem bits_put_same {n : Nat} (lo : Nat) (x : BitVec n) (h : lo + n ≤ 32) : bits (put lo x) lo n = x := by
  ext i hi
  simp only [bits, put, BitVec.getElem_extractLsb', BitVec.getLsbD_shiftLeft, BitVec.getLsbD_setWidth]
  have : lo + i < 32 := by omega
  have : i < 32 := by omega
  simp [*]

theorem bits_put_other {n : Nat} (lo lo' len : Nat) (x : BitVec n) (h : lo' + n ≤ lo ∨ lo + len ≤ lo') :
    bits (put lo' x) lo len = 0#len := by
  ext i hi
  simp only [bits, put, BitVec.getElem_extractLsb', BitVec.getLsbD_shiftLeft, BitVec.getLsbD_setWidth]
  rcases h with h | h
  · have : n ≤ lo + i - lo' := by omega
    simp [BitVec.getLsbD_of_ge x _ this]
  · have : lo + i < lo' := by omega
    simp [this]

end Sys2Proof.Laws
end

