-- ==== Sys2Proof/Laws/Memory.lean ====
section
/-! SUPPORT. The laws of memory bytes: the canonical form, reads after writes. -/

namespace Sys2Proof.Laws

open Sys2Proof.Machine

/-- Every location listed lies above `a`, by the first one. -/
def above (a : Nat) : List Host.Cell → Bool
  | [] => true
  | (b, _) :: _ => decide (a < b)

theorem wf_cons (a : Nat) (x : Byte) (m : List Host.Cell) :
    Memory.wf ((a, x) :: m) = (x != 0 && above a m && Memory.wf m) := by
  cases m with
  | nil => simp [Memory.wf, above]
  | cons e m => obtain ⟨b, y⟩ := e; rfl

theorem memPut_above (c a : Nat) (x : Byte) (m : List Host.Cell) (h : above c m) (hw : Memory.wf m) (hc : c < a) :
    above c (memPut m a x) := by
  cases m with
  | nil => by_cases hx : x = 0#8 <;> simp [memPut, hx, above, hc]
  | cons e m =>
    obtain ⟨b, y⟩ := e
    rw [wf_cons] at hw
    simp only [above, decide_eq_true_eq] at h
    simp only [Bool.and_eq_true] at hw
    unfold memPut
    split
    · split
      · cases m with
        | nil => rfl
        | cons e m => obtain ⟨d, z⟩ := e; have := hw.1.2; simp [above] at this ⊢; omega
      · simp [above, hc]
    · split
      · split <;> simp [above, hc, h]
      · simp [above, h]

/-- Writing a byte keeps the canonical form. -/
theorem memPut_wf (m : List Host.Cell) (a : Nat) (x : Byte) (h : Memory.wf m) : Memory.wf (memPut m a x) := by
  induction m with
  | nil => by_cases hx : x = 0#8 <;> simp [memPut, hx, Memory.wf]
  | cons e m ih =>
    obtain ⟨b, y⟩ := e
    have hw := h
    rw [wf_cons] at h
    simp only [Bool.and_eq_true] at h
    unfold memPut
    split
    · split
      · exact h.2
      · rename_i hab hx
        subst hab
        have hx' : ¬ x = 0#8 := hx
        rw [wf_cons]
        simp [hx', h.1.2, h.2]
    · split
      · split
        · exact hw
        · rename_i hx
          have hx' : ¬ x = 0#8 := hx
          rw [wf_cons]
          simp [above, *]
      · rw [wf_cons]
        simp only [Bool.and_eq_true]
        exact ⟨⟨h.1.1, memPut_above _ _ _ _ h.1.2 h.2 (by omega)⟩, ih h.2⟩

/-- Writing bytes keeps the canonical form. -/
theorem memPuts_wf (xs : List Byte) (m : List Host.Cell) (a : Nat) (h : Memory.wf m) : Memory.wf (memPuts m a xs) := by
  induction xs generalizing m a with
  | nil => exact h
  | cons x xs ih => exact ih _ _ (memPut_wf _ _ _ h)

/-- Writing a little-endian value keeps the canonical form. -/
theorem memPutNat_wf (m : List Host.Cell) (a n x : Nat) (h : Memory.wf m) : Memory.wf (memPutNat m a n x) :=
  memPuts_wf _ _ _ h

theorem filter_above (p : Host.Cell → Bool) (a : Nat) (m : List Host.Cell) (h : Memory.wf m) (ha : above a m) :
    above a (m.filter p) := by
  induction m generalizing a with
  | nil => rfl
  | cons e m ih =>
    obtain ⟨b, y⟩ := e
    rw [wf_cons] at h
    simp only [Bool.and_eq_true] at h
    simp only [above, decide_eq_true_eq] at ha
    rw [List.filter_cons]
    split
    · simp [above, ha]
    · have := ih b h.2 h.1.2
      cases hf : m.filter p with
      | nil => rfl
      | cons e m' => obtain ⟨c, z⟩ := e; rw [hf] at this; simp [above] at this ⊢; omega

/-- Dropping listed bytes keeps the canonical form. -/
theorem filter_wf (p : Host.Cell → Bool) (m : List Host.Cell) (h : Memory.wf m) : Memory.wf (m.filter p) := by
  induction m with
  | nil => rfl
  | cons e m ih =>
    obtain ⟨b, y⟩ := e
    rw [wf_cons] at h
    simp only [Bool.and_eq_true] at h
    rw [List.filter_cons]
    split
    · rw [wf_cons]
      simp only [Bool.and_eq_true]
      exact ⟨⟨h.1.1, filter_above _ _ _ h.2 h.1.2⟩, ih h.2⟩
    · exact ih h.2

theorem memByte_above (m : List Host.Cell) (a : Nat) (h : above a m) : memByte m a = 0 := by
  cases m with
  | nil => rfl
  | cons e m =>
    obtain ⟨b, y⟩ := e
    simp only [above, decide_eq_true_eq] at h
    have : ¬ b = a := by omega
    simp [memByte, this, h]

theorem memByte_below (m : List Host.Cell) (a b : Nat) (hw : Memory.wf m) (h : above a m) (hb : b ≤ a) :
    memByte m b = 0 := by
  apply memByte_above
  cases m with
  | nil => rfl
  | cons e m => obtain ⟨c, y⟩ := e; simp [above] at h ⊢; omega

/-- A read after a write of a byte: the byte at its location, every other as before. -/
theorem memByte_memPut (m : List Host.Cell) (a : Nat) (x : Byte) (b : Nat) (h : Memory.wf m) :
    memByte (memPut m a x) b = if b = a then x else memByte m b := by
  induction m with
  | nil =>
    by_cases hx : x = 0
    · simp [memPut, hx, memByte]
    · simp only [memPut, hx, if_false, memByte]
      by_cases hb : a = b
      · simp [hb]
      · have : ¬ b = a := fun k => hb k.symm
        simp [hb, this]
  | cons e m ih =>
    obtain ⟨c, y⟩ := e
    have hw := h
    rw [wf_cons] at h
    simp only [Bool.and_eq_true] at h
    unfold memPut
    by_cases hac : a = c
    · subst hac
      simp only [if_true]
      by_cases hx : x = 0
      · simp only [hx, if_true]
        by_cases hb : b = a
        · subst hb
          simp [memByte_above _ _ h.1.2]
        · simp only [hb, if_false, memByte]
          have : ¬ a = b := fun k => hb k.symm
          simp only [this, if_false]
          by_cases hlt : b < a
          · have := memByte_below m a b h.2 h.1.2 (by omega)
            simp [hlt, this]
          · simp [hlt]
      · simp only [hx, if_false, memByte]
        by_cases hb : b = a
        · simp [hb]
        · have : ¬ a = b := fun k => hb k.symm
          simp [hb, this]
    · simp only [hac, if_false]
      by_cases hlt : a < c
      · simp only [hlt, if_true]
        by_cases hx : x = 0
        · simp only [hx, if_true]
          by_cases hb : b = a
          · subst hb
            have : ¬ c = b := by omega
            simp [memByte, this, hlt]
          · simp [hb]
        · simp only [hx, if_false]
          by_cases hb : b = a
          · simp [hb, memByte]
          · simp only [hb, if_false]
            have hne : ¬ a = b := fun k => hb k.symm
            rw [memByte]
            simp only [hne, if_false]
            by_cases hb2 : b < a
            · have h1 : ¬ c = b := by omega
              have h2 : b < c := by omega
              simp [hb2, memByte, h1, h2]
            · simp [hb2]
      · simp only [hlt, if_false, memByte]
        by_cases hcb : c = b
        · subst hcb
          have : ¬ c = a := fun k => hac k.symm
          simp [this]
        · simp only [hcb, if_false]
          by_cases hbc : b < c
          · have : ¬ b = a := by omega
            simp [hbc, this]
          · simp only [hbc, if_false]
            exact ih h.2

/-- A read after a write of bytes: those written at their locations, every other byte as before. -/
theorem memByte_memPuts (xs : List Byte) (m : List Host.Cell) (a b : Nat) (h : Memory.wf m) :
    memByte (memPuts m a xs) b = if h : a ≤ b ∧ b - a < xs.length then xs[b - a] else memByte m b := by
  induction xs generalizing m a with
  | nil => simp [memPuts]
  | cons x xs ih =>
    rw [memPuts, ih _ _ (memPut_wf _ _ _ h), memByte_memPut _ _ _ _ h]
    by_cases hb : b = a
    · subst hb
      simp
    · by_cases h1 : a + 1 ≤ b ∧ b - (a + 1) < xs.length
      · have h2 : a ≤ b ∧ b - a < (x :: xs).length := by simp only [List.length_cons]; omega
        rw [dif_pos h1, dif_pos h2]
        have h3 : b - a = (b - (a + 1)) + 1 := by omega
        simp only [h3, List.getElem_cons_succ]
      · have h2 : ¬ (a ≤ b ∧ b - a < (x :: xs).length) := by simp only [List.length_cons]; omega
        rw [dif_neg h1, dif_neg h2, if_neg hb]

@[simp] theorem leBytes_length (n x : Nat) : (leBytes n x).length = n := by
  induction n generalizing x with
  | zero => rfl
  | succ n ih => simp [leBytes, ih]

/-- Reading a value's bytes back gives the value in that many bytes. -/
theorem leNat_leBytes (n x : Nat) : leNat (leBytes n x) = x % 256 ^ n := by
  induction n generalizing x with
  | zero => simp [leBytes, leNat, Nat.mod_one]
  | succ n ih =>
    rw [leBytes, leNat, ih, Nat.pow_succ, Nat.mul_comm (256 ^ n) 256, Nat.mod_mul]
    simp

theorem memBytes_length (m : List Host.Cell) (a n : Nat) : (memBytes m a n).length = n := by
  induction n generalizing a with
  | zero => rfl
  | succ n ih => simp [memBytes, ih]

theorem memBytes_eq (m : List Host.Cell) (a n : Nat) (xs : List Byte) (hx : xs.length = n)
    (h : ∀ i (k : i < xs.length), memByte m (a + i) = xs[i]) : memBytes m a n = xs := by
  induction n generalizing a xs with
  | zero => cases xs with
    | nil => rfl
    | cons x xs => simp at hx
  | succ n ih =>
    cases xs with
    | nil => simp at hx
    | cons x xs =>
      rw [memBytes]
      have h0 := h 0 (by simp)
      simp only [Nat.add_zero, List.getElem_cons_zero] at h0
      rw [h0, ih (a + 1) xs (by simpa using hx)]
      intro i k
      have := h (i + 1) (by simpa using k)
      simpa [Nat.add_assoc, Nat.add_comm 1 i] using this

/-- A value read back from where it was written. -/
theorem memNat_memPutNat (m : List Host.Cell) (a n x : Nat) (h : Memory.wf m) :
    memNat (memPutNat m a n x) a n = x % 256 ^ n := by
  rw [← leNat_leBytes]
  unfold memNat memPutNat
  congr 1
  apply memBytes_eq _ _ _ _ (by simp)
  intro i k
  rw [memByte_memPuts _ _ _ _ h]
  simp only [leBytes_length] at k
  have hk : a ≤ a + i ∧ a + i - a < (leBytes n x).length := by simp only [leBytes_length]; omega
  rw [dif_pos hk]
  simp only [Nat.add_sub_cancel_left]

end Sys2Proof.Laws
end

