-- ==== Sys2Proof/Laws/State.lean ====
section
/-! SUPPORT. One lemma per field of State and of its current agent for each update of the state. -/

namespace Sys2Proof.Laws

open Sys2Proof.Machine

/-! ### State.setG -/

@[simp] theorem setG_others (s : State) (n : Reg) (x : Word) : (s.setG n x).others = s.others := by unfold State.setG; split <;> rfl
@[simp] theorem setG_sched (s : State) (n : Reg) (x : Word) : (s.setG n x).sched = s.sched := by unfold State.setG; split <;> rfl
@[simp] theorem setG_mem (s : State) (n : Reg) (x : Word) : (s.setG n x).mem = s.mem := by unfold State.setG; split <;> rfl
@[simp] theorem setG_marks (s : State) (n : Reg) (x : Word) : (s.setG n x).marks = s.marks := by unfold State.setG; split <;> rfl
@[simp] theorem setG_poison (s : State) (n : Reg) (x : Word) : (s.setG n x).poison = s.poison := by unfold State.setG; split <;> rfl
@[simp] theorem setG_latent (s : State) (n : Reg) (x : Word) : (s.setG n x).latent = s.latent := by unfold State.setG; split <;> rfl
@[simp] theorem setG_hdrErrors (s : State) (n : Reg) (x : Word) : (s.setG n x).hdrErrors = s.hdrErrors := by unfold State.setG; split <;> rfl
@[simp] theorem setG_towers (s : State) (n : Reg) (x : Word) : (s.setG n x).towers = s.towers := by unfold State.setG; split <;> rfl
@[simp] theorem setG_clusters (s : State) (n : Reg) (x : Word) : (s.setG n x).clusters = s.clusters := by unfold State.setG; split <;> rfl
@[simp] theorem setG_cores (s : State) (n : Reg) (x : Word) : (s.setG n x).cores = s.cores := by unfold State.setG; split <;> rfl
@[simp] theorem setG_granary (s : State) (n : Reg) (x : Word) : (s.setG n x).granary = s.granary := by unfold State.setG; split <;> rfl
@[simp] theorem setG_launches (s : State) (n : Reg) (x : Word) : (s.setG n x).launches = s.launches := by unfold State.setG; split <;> rfl
@[simp] theorem setG_cmds (s : State) (n : Reg) (x : Word) : (s.setG n x).cmds = s.cmds := by unfold State.setG; split <;> rfl
@[simp] theorem setG_nextCmd (s : State) (n : Reg) (x : Word) : (s.setG n x).nextCmd = s.nextCmd := by unfold State.setG; split <;> rfl
@[simp] theorem setG_bank (s : State) (n : Reg) (x : Word) : (s.setG n x).bank = s.bank := by unfold State.setG; split <;> rfl
@[simp] theorem setG_flits (s : State) (n : Reg) (x : Word) : (s.setG n x).flits = s.flits := by unfold State.setG; split <;> rfl
@[simp] theorem setG_sent (s : State) (n : Reg) (x : Word) : (s.setG n x).sent = s.sent := by unfold State.setG; split <;> rfl
@[simp] theorem setG_dev (s : State) (n : Reg) (x : Word) : (s.setG n x).dev = s.dev := by unfold State.setG; split <;> rfl
@[simp] theorem setG_clock (s : State) (n : Reg) (x : Word) : (s.setG n x).clock = s.clock := by unfold State.setG; split <;> rfl
@[simp] theorem setG_timeZero (s : State) (n : Reg) (x : Word) : (s.setG n x).timeZero = s.timeZero := by unfold State.setG; split <;> rfl
@[simp] theorem setG_fabricClock (s : State) (n : Reg) (x : Word) : (s.setG n x).fabricClock = s.fabricClock := by unfold State.setG; split <;> rfl
@[simp] theorem setG_fresh (s : State) (n : Reg) (x : Word) : (s.setG n x).fresh = s.fresh := by unfold State.setG; split <;> rfl
@[simp] theorem setG_cur_id (s : State) (n : Reg) (x : Word) : (s.setG n x).cur.id = s.cur.id := by unfold State.setG; split <;> rfl
@[simp] theorem setG_cur_kind (s : State) (n : Reg) (x : Word) : (s.setG n x).cur.kind = s.cur.kind := by unfold State.setG; split <;> rfl
@[simp] theorem setG_cur_launch (s : State) (n : Reg) (x : Word) : (s.setG n x).cur.launch = s.cur.launch := by unfold State.setG; split <;> rfl
@[simp] theorem setG_cur_stage (s : State) (n : Reg) (x : Word) : (s.setG n x).cur.stage = s.cur.stage := by unfold State.setG; split <;> rfl
@[simp] theorem setG_cur_thread (s : State) (n : Reg) (x : Word) : (s.setG n x).cur.thread = s.cur.thread := by unfold State.setG; split <;> rfl
@[simp] theorem setG_cur_core (s : State) (n : Reg) (x : Word) : (s.setG n x).cur.core = s.cur.core := by unfold State.setG; split <;> rfl
@[simp] theorem setG_cur_cluster (s : State) (n : Reg) (x : Word) : (s.setG n x).cur.cluster = s.cur.cluster := by unfold State.setG; split <;> rfl
@[simp] theorem setG_cur_asid (s : State) (n : Reg) (x : Word) : (s.setG n x).cur.asid = s.cur.asid := by unfold State.setG; split <;> rfl
@[simp] theorem setG_cur_status (s : State) (n : Reg) (x : Word) : (s.setG n x).cur.status = s.cur.status := by unfold State.setG; split <;> rfl
@[simp] theorem setG_cur_pc (s : State) (n : Reg) (x : Word) : (s.setG n x).cur.pc = s.cur.pc := by unfold State.setG; split <;> rfl
@[simp] theorem setG_cur_v (s : State) (n : Reg) (x : Word) : (s.setG n x).cur.v = s.cur.v := by unfold State.setG; split <;> rfl
@[simp] theorem setG_cur_p (s : State) (n : Reg) (x : Word) : (s.setG n x).cur.p = s.cur.p := by unfold State.setG; split <;> rfl
@[simp] theorem setG_cur_regs (s : State) (n : Reg) (x : Word) : (s.setG n x).cur.regs = s.cur.regs := by unfold State.setG; split <;> rfl
@[simp] theorem setG_cur_replay (s : State) (n : Reg) (x : Word) : (s.setG n x).cur.replay = s.cur.replay := by unfold State.setG; split <;> rfl
@[simp] theorem setG_cur_handles (s : State) (n : Reg) (x : Word) : (s.setG n x).cur.handles = s.cur.handles := by unfold State.setG; split <;> rfl
@[simp] theorem setG_cur_ranges (s : State) (n : Reg) (x : Word) : (s.setG n x).cur.ranges = s.cur.ranges := by unfold State.setG; split <;> rfl
@[simp] theorem setG_cur_overflow (s : State) (n : Reg) (x : Word) : (s.setG n x).cur.overflow = s.cur.overflow := by unfold State.setG; split <;> rfl
@[simp] theorem setG_cur_mark (s : State) (n : Reg) (x : Word) : (s.setG n x).cur.mark = s.cur.mark := by unfold State.setG; split <;> rfl
@[simp] theorem setG_cur_fenceRanges (s : State) (n : Reg) (x : Word) : (s.setG n x).cur.fenceRanges = s.cur.fenceRanges := by unfold State.setG; split <;> rfl
@[simp] theorem setG_cur_loose (s : State) (n : Reg) (x : Word) : (s.setG n x).cur.loose = s.cur.loose := by unfold State.setG; split <;> rfl
@[simp] theorem setG_cur_holds (s : State) (n : Reg) (x : Word) : (s.setG n x).cur.holds = s.cur.holds := by unfold State.setG; split <;> rfl
@[simp] theorem setG_cur_pending (s : State) (n : Reg) (x : Word) : (s.setG n x).cur.pending = s.cur.pending := by unfold State.setG; split <;> rfl
@[simp] theorem setG_cur_waitSince (s : State) (n : Reg) (x : Word) : (s.setG n x).cur.waitSince = s.cur.waitSince := by unfold State.setG; split <;> rfl
@[simp] theorem setG_cur_gang (s : State) (n : Reg) (x : Word) : (s.setG n x).cur.gang = s.cur.gang := by unfold State.setG; split <;> rfl
@[simp] theorem setG_cur_gangAsk (s : State) (n : Reg) (x : Word) : (s.setG n x).cur.gangAsk = s.cur.gangAsk := by unfold State.setG; split <;> rfl
@[simp] theorem setG_cur_anchorCore (s : State) (n : Reg) (x : Word) : (s.setG n x).cur.anchorCore = s.cur.anchorCore := by unfold State.setG; split <;> rfl
@[simp] theorem setG_cur_anchorCluster (s : State) (n : Reg) (x : Word) : (s.setG n x).cur.anchorCluster = s.cur.anchorCluster := by unfold State.setG; split <;> rfl
@[simp] theorem setG_cur_anchorTower (s : State) (n : Reg) (x : Word) : (s.setG n x).cur.anchorTower = s.cur.anchorTower := by unfold State.setG; split <;> rfl
@[simp] theorem setG_cur_barriers (s : State) (n : Reg) (x : Word) : (s.setG n x).cur.barriers = s.cur.barriers := by unfold State.setG; split <;> rfl
@[simp] theorem setG_cur_wearRegs (s : State) (n : Reg) (x : Word) : (s.setG n x).cur.wearRegs = s.cur.wearRegs := by unfold State.setG; split <;> rfl
@[simp] theorem setG_cur_reassembly (s : State) (n : Reg) (x : Word) : (s.setG n x).cur.reassembly = s.cur.reassembly := by unfold State.setG; split <;> rfl
@[simp] theorem setG_cur_vqueue (s : State) (n : Reg) (x : Word) : (s.setG n x).cur.vqueue = s.cur.vqueue := by unfold State.setG; split <;> rfl
@[simp] theorem setG_cur_budgetWarned (s : State) (n : Reg) (x : Word) : (s.setG n x).cur.budgetWarned = s.cur.budgetWarned := by unfold State.setG; split <;> rfl
@[simp] theorem setG_cur_stall (s : State) (n : Reg) (x : Word) : (s.setG n x).cur.stall = s.cur.stall := by unfold State.setG; split <;> rfl
@[simp] theorem setG_cur_cut (s : State) (n : Reg) (x : Word) : (s.setG n x).cur.cut = s.cur.cut := by unfold State.setG; split <;> rfl
@[simp] theorem setG_cur_allNext (s : State) (n : Reg) (x : Word) : (s.setG n x).cur.allNext = s.cur.allNext := by unfold State.setG; split <;> rfl
@[simp] theorem setG_cur_postedAt (s : State) (n : Reg) (x : Word) : (s.setG n x).cur.postedAt = s.cur.postedAt := by unfold State.setG; split <;> rfl
@[simp] theorem setG_cur_linkHit (s : State) (n : Reg) (x : Word) : (s.setG n x).cur.linkHit = s.cur.linkHit := by unfold State.setG; split <;> rfl
@[simp] theorem setG_cur_lateRead (s : State) (n : Reg) (x : Word) : (s.setG n x).cur.lateRead = s.cur.lateRead := by unfold State.setG; split <;> rfl
@[simp] theorem setG_cur_unacked (s : State) (n : Reg) (x : Word) : (s.setG n x).cur.unacked = s.cur.unacked := by unfold State.setG; split <;> rfl
@[simp] theorem setG_cur_seat (s : State) (n : Reg) (x : Word) : (s.setG n x).cur.seat = s.cur.seat := by unfold State.setG; split <;> rfl

/-- A register written reads as written; g0 reads as 0 (R71). -/
theorem g_setG (s : State) (n m : Reg) (x : Word) :
    (s.setG n x).g m = if m = n ∧ n ≠ 0 then x else s.g m := by
  unfold State.g State.setG
  by_cases hn : n = 0
  · simp [hn]
  · by_cases hm : m = 0
    · rw [if_pos hm, if_pos hm, if_neg (fun h : m = n ∧ n ≠ 0 => hn (h.1 ▸ hm))]
    · rw [if_neg hn, if_neg hm, if_neg hm]
      by_cases h : m = n
      · subst h; rw [if_pos ⟨rfl, hn⟩]; simp
      · have : ¬ n.toNat = m.toNat := fun k => h (BitVec.eq_of_toNat_eq k.symm)
        simp [h, this]

@[simp] theorem g_zero (s : State) : s.g 0 = 0 := rfl

@[simp] theorem setG_zero (s : State) (x : Word) : s.setG 0 x = s := rfl

/-! ### State.setPc -/

@[simp] theorem setPc_others (s : State) (x : Word) : (s.setPc x).others = s.others := rfl
@[simp] theorem setPc_sched (s : State) (x : Word) : (s.setPc x).sched = s.sched := rfl
@[simp] theorem setPc_mem (s : State) (x : Word) : (s.setPc x).mem = s.mem := rfl
@[simp] theorem setPc_marks (s : State) (x : Word) : (s.setPc x).marks = s.marks := rfl
@[simp] theorem setPc_poison (s : State) (x : Word) : (s.setPc x).poison = s.poison := rfl
@[simp] theorem setPc_latent (s : State) (x : Word) : (s.setPc x).latent = s.latent := rfl
@[simp] theorem setPc_hdrErrors (s : State) (x : Word) : (s.setPc x).hdrErrors = s.hdrErrors := rfl
@[simp] theorem setPc_towers (s : State) (x : Word) : (s.setPc x).towers = s.towers := rfl
@[simp] theorem setPc_clusters (s : State) (x : Word) : (s.setPc x).clusters = s.clusters := rfl
@[simp] theorem setPc_cores (s : State) (x : Word) : (s.setPc x).cores = s.cores := rfl
@[simp] theorem setPc_granary (s : State) (x : Word) : (s.setPc x).granary = s.granary := rfl
@[simp] theorem setPc_launches (s : State) (x : Word) : (s.setPc x).launches = s.launches := rfl
@[simp] theorem setPc_cmds (s : State) (x : Word) : (s.setPc x).cmds = s.cmds := rfl
@[simp] theorem setPc_nextCmd (s : State) (x : Word) : (s.setPc x).nextCmd = s.nextCmd := rfl
@[simp] theorem setPc_bank (s : State) (x : Word) : (s.setPc x).bank = s.bank := rfl
@[simp] theorem setPc_flits (s : State) (x : Word) : (s.setPc x).flits = s.flits := rfl
@[simp] theorem setPc_sent (s : State) (x : Word) : (s.setPc x).sent = s.sent := rfl
@[simp] theorem setPc_dev (s : State) (x : Word) : (s.setPc x).dev = s.dev := rfl
@[simp] theorem setPc_clock (s : State) (x : Word) : (s.setPc x).clock = s.clock := rfl
@[simp] theorem setPc_timeZero (s : State) (x : Word) : (s.setPc x).timeZero = s.timeZero := rfl
@[simp] theorem setPc_fabricClock (s : State) (x : Word) : (s.setPc x).fabricClock = s.fabricClock := rfl
@[simp] theorem setPc_fresh (s : State) (x : Word) : (s.setPc x).fresh = s.fresh := rfl
@[simp] theorem setPc_cur_id (s : State) (x : Word) : (s.setPc x).cur.id = s.cur.id := rfl
@[simp] theorem setPc_cur_kind (s : State) (x : Word) : (s.setPc x).cur.kind = s.cur.kind := rfl
@[simp] theorem setPc_cur_launch (s : State) (x : Word) : (s.setPc x).cur.launch = s.cur.launch := rfl
@[simp] theorem setPc_cur_stage (s : State) (x : Word) : (s.setPc x).cur.stage = s.cur.stage := rfl
@[simp] theorem setPc_cur_thread (s : State) (x : Word) : (s.setPc x).cur.thread = s.cur.thread := rfl
@[simp] theorem setPc_cur_core (s : State) (x : Word) : (s.setPc x).cur.core = s.cur.core := rfl
@[simp] theorem setPc_cur_cluster (s : State) (x : Word) : (s.setPc x).cur.cluster = s.cur.cluster := rfl
@[simp] theorem setPc_cur_asid (s : State) (x : Word) : (s.setPc x).cur.asid = s.cur.asid := rfl
@[simp] theorem setPc_cur_status (s : State) (x : Word) : (s.setPc x).cur.status = s.cur.status := rfl
@[simp] theorem setPc_cur_g (s : State) (x : Word) : (s.setPc x).cur.g = s.cur.g := rfl
@[simp] theorem setPc_cur_v (s : State) (x : Word) : (s.setPc x).cur.v = s.cur.v := rfl
@[simp] theorem setPc_cur_p (s : State) (x : Word) : (s.setPc x).cur.p = s.cur.p := rfl
@[simp] theorem setPc_cur_regs (s : State) (x : Word) : (s.setPc x).cur.regs = s.cur.regs := rfl
@[simp] theorem setPc_cur_replay (s : State) (x : Word) : (s.setPc x).cur.replay = s.cur.replay := rfl
@[simp] theorem setPc_cur_handles (s : State) (x : Word) : (s.setPc x).cur.handles = s.cur.handles := rfl
@[simp] theorem setPc_cur_ranges (s : State) (x : Word) : (s.setPc x).cur.ranges = s.cur.ranges := rfl
@[simp] theorem setPc_cur_overflow (s : State) (x : Word) : (s.setPc x).cur.overflow = s.cur.overflow := rfl
@[simp] theorem setPc_cur_mark (s : State) (x : Word) : (s.setPc x).cur.mark = s.cur.mark := rfl
@[simp] theorem setPc_cur_fenceRanges (s : State) (x : Word) : (s.setPc x).cur.fenceRanges = s.cur.fenceRanges := rfl
@[simp] theorem setPc_cur_loose (s : State) (x : Word) : (s.setPc x).cur.loose = s.cur.loose := rfl
@[simp] theorem setPc_cur_holds (s : State) (x : Word) : (s.setPc x).cur.holds = s.cur.holds := rfl
@[simp] theorem setPc_cur_pending (s : State) (x : Word) : (s.setPc x).cur.pending = s.cur.pending := rfl
@[simp] theorem setPc_cur_waitSince (s : State) (x : Word) : (s.setPc x).cur.waitSince = s.cur.waitSince := rfl
@[simp] theorem setPc_cur_gang (s : State) (x : Word) : (s.setPc x).cur.gang = s.cur.gang := rfl
@[simp] theorem setPc_cur_gangAsk (s : State) (x : Word) : (s.setPc x).cur.gangAsk = s.cur.gangAsk := rfl
@[simp] theorem setPc_cur_anchorCore (s : State) (x : Word) : (s.setPc x).cur.anchorCore = s.cur.anchorCore := rfl
@[simp] theorem setPc_cur_anchorCluster (s : State) (x : Word) : (s.setPc x).cur.anchorCluster = s.cur.anchorCluster := rfl
@[simp] theorem setPc_cur_anchorTower (s : State) (x : Word) : (s.setPc x).cur.anchorTower = s.cur.anchorTower := rfl
@[simp] theorem setPc_cur_barriers (s : State) (x : Word) : (s.setPc x).cur.barriers = s.cur.barriers := rfl
@[simp] theorem setPc_cur_wearRegs (s : State) (x : Word) : (s.setPc x).cur.wearRegs = s.cur.wearRegs := rfl
@[simp] theorem setPc_cur_reassembly (s : State) (x : Word) : (s.setPc x).cur.reassembly = s.cur.reassembly := rfl
@[simp] theorem setPc_cur_vqueue (s : State) (x : Word) : (s.setPc x).cur.vqueue = s.cur.vqueue := rfl
@[simp] theorem setPc_cur_budgetWarned (s : State) (x : Word) : (s.setPc x).cur.budgetWarned = s.cur.budgetWarned := rfl
@[simp] theorem setPc_cur_stall (s : State) (x : Word) : (s.setPc x).cur.stall = s.cur.stall := rfl
@[simp] theorem setPc_cur_cut (s : State) (x : Word) : (s.setPc x).cur.cut = s.cur.cut := rfl
@[simp] theorem setPc_cur_allNext (s : State) (x : Word) : (s.setPc x).cur.allNext = s.cur.allNext := rfl
@[simp] theorem setPc_cur_postedAt (s : State) (x : Word) : (s.setPc x).cur.postedAt = s.cur.postedAt := rfl
@[simp] theorem setPc_cur_linkHit (s : State) (x : Word) : (s.setPc x).cur.linkHit = s.cur.linkHit := rfl
@[simp] theorem setPc_cur_lateRead (s : State) (x : Word) : (s.setPc x).cur.lateRead = s.cur.lateRead := rfl
@[simp] theorem setPc_cur_unacked (s : State) (x : Word) : (s.setPc x).cur.unacked = s.cur.unacked := rfl
@[simp] theorem setPc_cur_seat (s : State) (x : Word) : (s.setPc x).cur.seat = s.cur.seat := rfl
@[simp] theorem setPc_cur_pc (s : State) (x : Word) : (s.setPc x).cur.pc = x := rfl
@[simp] theorem setPc_g (s : State) (x : Word) (n : Reg) : (s.setPc x).g n = s.g n := rfl

/-! ### State.setRegs -/

@[simp] theorem setRegs_others (s : State) (r : Regs) : (s.setRegs r).others = s.others := rfl
@[simp] theorem setRegs_sched (s : State) (r : Regs) : (s.setRegs r).sched = s.sched := rfl
@[simp] theorem setRegs_mem (s : State) (r : Regs) : (s.setRegs r).mem = s.mem := rfl
@[simp] theorem setRegs_marks (s : State) (r : Regs) : (s.setRegs r).marks = s.marks := rfl
@[simp] theorem setRegs_poison (s : State) (r : Regs) : (s.setRegs r).poison = s.poison := rfl
@[simp] theorem setRegs_latent (s : State) (r : Regs) : (s.setRegs r).latent = s.latent := rfl
@[simp] theorem setRegs_hdrErrors (s : State) (r : Regs) : (s.setRegs r).hdrErrors = s.hdrErrors := rfl
@[simp] theorem setRegs_towers (s : State) (r : Regs) : (s.setRegs r).towers = s.towers := rfl
@[simp] theorem setRegs_clusters (s : State) (r : Regs) : (s.setRegs r).clusters = s.clusters := rfl
@[simp] theorem setRegs_cores (s : State) (r : Regs) : (s.setRegs r).cores = s.cores := rfl
@[simp] theorem setRegs_granary (s : State) (r : Regs) : (s.setRegs r).granary = s.granary := rfl
@[simp] theorem setRegs_launches (s : State) (r : Regs) : (s.setRegs r).launches = s.launches := rfl
@[simp] theorem setRegs_cmds (s : State) (r : Regs) : (s.setRegs r).cmds = s.cmds := rfl
@[simp] theorem setRegs_nextCmd (s : State) (r : Regs) : (s.setRegs r).nextCmd = s.nextCmd := rfl
@[simp] theorem setRegs_bank (s : State) (r : Regs) : (s.setRegs r).bank = s.bank := rfl
@[simp] theorem setRegs_flits (s : State) (r : Regs) : (s.setRegs r).flits = s.flits := rfl
@[simp] theorem setRegs_sent (s : State) (r : Regs) : (s.setRegs r).sent = s.sent := rfl
@[simp] theorem setRegs_dev (s : State) (r : Regs) : (s.setRegs r).dev = s.dev := rfl
@[simp] theorem setRegs_clock (s : State) (r : Regs) : (s.setRegs r).clock = s.clock := rfl
@[simp] theorem setRegs_timeZero (s : State) (r : Regs) : (s.setRegs r).timeZero = s.timeZero := rfl
@[simp] theorem setRegs_fabricClock (s : State) (r : Regs) : (s.setRegs r).fabricClock = s.fabricClock := rfl
@[simp] theorem setRegs_fresh (s : State) (r : Regs) : (s.setRegs r).fresh = s.fresh := rfl
@[simp] theorem setRegs_cur_id (s : State) (r : Regs) : (s.setRegs r).cur.id = s.cur.id := rfl
@[simp] theorem setRegs_cur_kind (s : State) (r : Regs) : (s.setRegs r).cur.kind = s.cur.kind := rfl
@[simp] theorem setRegs_cur_launch (s : State) (r : Regs) : (s.setRegs r).cur.launch = s.cur.launch := rfl
@[simp] theorem setRegs_cur_stage (s : State) (r : Regs) : (s.setRegs r).cur.stage = s.cur.stage := rfl
@[simp] theorem setRegs_cur_thread (s : State) (r : Regs) : (s.setRegs r).cur.thread = s.cur.thread := rfl
@[simp] theorem setRegs_cur_core (s : State) (r : Regs) : (s.setRegs r).cur.core = s.cur.core := rfl
@[simp] theorem setRegs_cur_cluster (s : State) (r : Regs) : (s.setRegs r).cur.cluster = s.cur.cluster := rfl
@[simp] theorem setRegs_cur_asid (s : State) (r : Regs) : (s.setRegs r).cur.asid = s.cur.asid := rfl
@[simp] theorem setRegs_cur_status (s : State) (r : Regs) : (s.setRegs r).cur.status = s.cur.status := rfl
@[simp] theorem setRegs_cur_g (s : State) (r : Regs) : (s.setRegs r).cur.g = s.cur.g := rfl
@[simp] theorem setRegs_cur_pc (s : State) (r : Regs) : (s.setRegs r).cur.pc = s.cur.pc := rfl
@[simp] theorem setRegs_cur_v (s : State) (r : Regs) : (s.setRegs r).cur.v = s.cur.v := rfl
@[simp] theorem setRegs_cur_p (s : State) (r : Regs) : (s.setRegs r).cur.p = s.cur.p := rfl
@[simp] theorem setRegs_cur_replay (s : State) (r : Regs) : (s.setRegs r).cur.replay = s.cur.replay := rfl
@[simp] theorem setRegs_cur_handles (s : State) (r : Regs) : (s.setRegs r).cur.handles = s.cur.handles := rfl
@[simp] theorem setRegs_cur_ranges (s : State) (r : Regs) : (s.setRegs r).cur.ranges = s.cur.ranges := rfl
@[simp] theorem setRegs_cur_overflow (s : State) (r : Regs) : (s.setRegs r).cur.overflow = s.cur.overflow := rfl
@[simp] theorem setRegs_cur_mark (s : State) (r : Regs) : (s.setRegs r).cur.mark = s.cur.mark := rfl
@[simp] theorem setRegs_cur_fenceRanges (s : State) (r : Regs) : (s.setRegs r).cur.fenceRanges = s.cur.fenceRanges := rfl
@[simp] theorem setRegs_cur_loose (s : State) (r : Regs) : (s.setRegs r).cur.loose = s.cur.loose := rfl
@[simp] theorem setRegs_cur_holds (s : State) (r : Regs) : (s.setRegs r).cur.holds = s.cur.holds := rfl
@[simp] theorem setRegs_cur_pending (s : State) (r : Regs) : (s.setRegs r).cur.pending = s.cur.pending := rfl
@[simp] theorem setRegs_cur_waitSince (s : State) (r : Regs) : (s.setRegs r).cur.waitSince = s.cur.waitSince := rfl
@[simp] theorem setRegs_cur_gang (s : State) (r : Regs) : (s.setRegs r).cur.gang = s.cur.gang := rfl
@[simp] theorem setRegs_cur_gangAsk (s : State) (r : Regs) : (s.setRegs r).cur.gangAsk = s.cur.gangAsk := rfl
@[simp] theorem setRegs_cur_anchorCore (s : State) (r : Regs) : (s.setRegs r).cur.anchorCore = s.cur.anchorCore := rfl
@[simp] theorem setRegs_cur_anchorCluster (s : State) (r : Regs) : (s.setRegs r).cur.anchorCluster = s.cur.anchorCluster := rfl
@[simp] theorem setRegs_cur_anchorTower (s : State) (r : Regs) : (s.setRegs r).cur.anchorTower = s.cur.anchorTower := rfl
@[simp] theorem setRegs_cur_barriers (s : State) (r : Regs) : (s.setRegs r).cur.barriers = s.cur.barriers := rfl
@[simp] theorem setRegs_cur_wearRegs (s : State) (r : Regs) : (s.setRegs r).cur.wearRegs = s.cur.wearRegs := rfl
@[simp] theorem setRegs_cur_reassembly (s : State) (r : Regs) : (s.setRegs r).cur.reassembly = s.cur.reassembly := rfl
@[simp] theorem setRegs_cur_vqueue (s : State) (r : Regs) : (s.setRegs r).cur.vqueue = s.cur.vqueue := rfl
@[simp] theorem setRegs_cur_budgetWarned (s : State) (r : Regs) : (s.setRegs r).cur.budgetWarned = s.cur.budgetWarned := rfl
@[simp] theorem setRegs_cur_stall (s : State) (r : Regs) : (s.setRegs r).cur.stall = s.cur.stall := rfl
@[simp] theorem setRegs_cur_cut (s : State) (r : Regs) : (s.setRegs r).cur.cut = s.cur.cut := rfl
@[simp] theorem setRegs_cur_allNext (s : State) (r : Regs) : (s.setRegs r).cur.allNext = s.cur.allNext := rfl
@[simp] theorem setRegs_cur_postedAt (s : State) (r : Regs) : (s.setRegs r).cur.postedAt = s.cur.postedAt := rfl
@[simp] theorem setRegs_cur_linkHit (s : State) (r : Regs) : (s.setRegs r).cur.linkHit = s.cur.linkHit := rfl
@[simp] theorem setRegs_cur_lateRead (s : State) (r : Regs) : (s.setRegs r).cur.lateRead = s.cur.lateRead := rfl
@[simp] theorem setRegs_cur_unacked (s : State) (r : Regs) : (s.setRegs r).cur.unacked = s.cur.unacked := rfl
@[simp] theorem setRegs_cur_seat (s : State) (r : Regs) : (s.setRegs r).cur.seat = s.cur.seat := rfl
@[simp] theorem setRegs_cur_regs (s : State) (r : Regs) : (s.setRegs r).cur.regs = r := rfl
@[simp] theorem setRegs_regs (s : State) (r : Regs) : (s.setRegs r).regs = r := rfl
@[simp] theorem setRegs_g (s : State) (r : Regs) (n : Reg) : (s.setRegs r).g n = s.g n := rfl

/-! ### State.setTower -/

@[simp] theorem setTower_others (s : State) (k : Nat) (x : Tower) : (s.setTower k x).others = s.others := rfl
@[simp] theorem setTower_sched (s : State) (k : Nat) (x : Tower) : (s.setTower k x).sched = s.sched := rfl
@[simp] theorem setTower_mem (s : State) (k : Nat) (x : Tower) : (s.setTower k x).mem = s.mem := rfl
@[simp] theorem setTower_marks (s : State) (k : Nat) (x : Tower) : (s.setTower k x).marks = s.marks := rfl
@[simp] theorem setTower_poison (s : State) (k : Nat) (x : Tower) : (s.setTower k x).poison = s.poison := rfl
@[simp] theorem setTower_latent (s : State) (k : Nat) (x : Tower) : (s.setTower k x).latent = s.latent := rfl
@[simp] theorem setTower_hdrErrors (s : State) (k : Nat) (x : Tower) : (s.setTower k x).hdrErrors = s.hdrErrors := rfl
@[simp] theorem setTower_clusters (s : State) (k : Nat) (x : Tower) : (s.setTower k x).clusters = s.clusters := rfl
@[simp] theorem setTower_cores (s : State) (k : Nat) (x : Tower) : (s.setTower k x).cores = s.cores := rfl
@[simp] theorem setTower_granary (s : State) (k : Nat) (x : Tower) : (s.setTower k x).granary = s.granary := rfl
@[simp] theorem setTower_launches (s : State) (k : Nat) (x : Tower) : (s.setTower k x).launches = s.launches := rfl
@[simp] theorem setTower_cmds (s : State) (k : Nat) (x : Tower) : (s.setTower k x).cmds = s.cmds := rfl
@[simp] theorem setTower_nextCmd (s : State) (k : Nat) (x : Tower) : (s.setTower k x).nextCmd = s.nextCmd := rfl
@[simp] theorem setTower_bank (s : State) (k : Nat) (x : Tower) : (s.setTower k x).bank = s.bank := rfl
@[simp] theorem setTower_flits (s : State) (k : Nat) (x : Tower) : (s.setTower k x).flits = s.flits := rfl
@[simp] theorem setTower_sent (s : State) (k : Nat) (x : Tower) : (s.setTower k x).sent = s.sent := rfl
@[simp] theorem setTower_dev (s : State) (k : Nat) (x : Tower) : (s.setTower k x).dev = s.dev := rfl
@[simp] theorem setTower_clock (s : State) (k : Nat) (x : Tower) : (s.setTower k x).clock = s.clock := rfl
@[simp] theorem setTower_timeZero (s : State) (k : Nat) (x : Tower) : (s.setTower k x).timeZero = s.timeZero := rfl
@[simp] theorem setTower_fabricClock (s : State) (k : Nat) (x : Tower) : (s.setTower k x).fabricClock = s.fabricClock := rfl
@[simp] theorem setTower_fresh (s : State) (k : Nat) (x : Tower) : (s.setTower k x).fresh = s.fresh := rfl
@[simp] theorem setTower_cur (s : State) (k : Nat) (x : Tower) : (s.setTower k x).cur = s.cur := rfl

/-! ### State.setCluster -/

@[simp] theorem setCluster_others (s : State) (k : Nat) (x : Cluster) : (s.setCluster k x).others = s.others := rfl
@[simp] theorem setCluster_sched (s : State) (k : Nat) (x : Cluster) : (s.setCluster k x).sched = s.sched := rfl
@[simp] theorem setCluster_mem (s : State) (k : Nat) (x : Cluster) : (s.setCluster k x).mem = s.mem := rfl
@[simp] theorem setCluster_marks (s : State) (k : Nat) (x : Cluster) : (s.setCluster k x).marks = s.marks := rfl
@[simp] theorem setCluster_poison (s : State) (k : Nat) (x : Cluster) : (s.setCluster k x).poison = s.poison := rfl
@[simp] theorem setCluster_latent (s : State) (k : Nat) (x : Cluster) : (s.setCluster k x).latent = s.latent := rfl
@[simp] theorem setCluster_hdrErrors (s : State) (k : Nat) (x : Cluster) : (s.setCluster k x).hdrErrors = s.hdrErrors := rfl
@[simp] theorem setCluster_towers (s : State) (k : Nat) (x : Cluster) : (s.setCluster k x).towers = s.towers := rfl
@[simp] theorem setCluster_cores (s : State) (k : Nat) (x : Cluster) : (s.setCluster k x).cores = s.cores := rfl
@[simp] theorem setCluster_granary (s : State) (k : Nat) (x : Cluster) : (s.setCluster k x).granary = s.granary := rfl
@[simp] theorem setCluster_launches (s : State) (k : Nat) (x : Cluster) : (s.setCluster k x).launches = s.launches := rfl
@[simp] theorem setCluster_cmds (s : State) (k : Nat) (x : Cluster) : (s.setCluster k x).cmds = s.cmds := rfl
@[simp] theorem setCluster_nextCmd (s : State) (k : Nat) (x : Cluster) : (s.setCluster k x).nextCmd = s.nextCmd := rfl
@[simp] theorem setCluster_bank (s : State) (k : Nat) (x : Cluster) : (s.setCluster k x).bank = s.bank := rfl
@[simp] theorem setCluster_flits (s : State) (k : Nat) (x : Cluster) : (s.setCluster k x).flits = s.flits := rfl
@[simp] theorem setCluster_sent (s : State) (k : Nat) (x : Cluster) : (s.setCluster k x).sent = s.sent := rfl
@[simp] theorem setCluster_dev (s : State) (k : Nat) (x : Cluster) : (s.setCluster k x).dev = s.dev := rfl
@[simp] theorem setCluster_clock (s : State) (k : Nat) (x : Cluster) : (s.setCluster k x).clock = s.clock := rfl
@[simp] theorem setCluster_timeZero (s : State) (k : Nat) (x : Cluster) : (s.setCluster k x).timeZero = s.timeZero := rfl
@[simp] theorem setCluster_fabricClock (s : State) (k : Nat) (x : Cluster) : (s.setCluster k x).fabricClock = s.fabricClock := rfl
@[simp] theorem setCluster_fresh (s : State) (k : Nat) (x : Cluster) : (s.setCluster k x).fresh = s.fresh := rfl
@[simp] theorem setCluster_cur (s : State) (k : Nat) (x : Cluster) : (s.setCluster k x).cur = s.cur := rfl

/-! ### State.setCore -/

@[simp] theorem setCore_others (s : State) (k : Nat) (x : Core) : (s.setCore k x).others = s.others := rfl
@[simp] theorem setCore_sched (s : State) (k : Nat) (x : Core) : (s.setCore k x).sched = s.sched := rfl
@[simp] theorem setCore_mem (s : State) (k : Nat) (x : Core) : (s.setCore k x).mem = s.mem := rfl
@[simp] theorem setCore_marks (s : State) (k : Nat) (x : Core) : (s.setCore k x).marks = s.marks := rfl
@[simp] theorem setCore_poison (s : State) (k : Nat) (x : Core) : (s.setCore k x).poison = s.poison := rfl
@[simp] theorem setCore_latent (s : State) (k : Nat) (x : Core) : (s.setCore k x).latent = s.latent := rfl
@[simp] theorem setCore_hdrErrors (s : State) (k : Nat) (x : Core) : (s.setCore k x).hdrErrors = s.hdrErrors := rfl
@[simp] theorem setCore_towers (s : State) (k : Nat) (x : Core) : (s.setCore k x).towers = s.towers := rfl
@[simp] theorem setCore_clusters (s : State) (k : Nat) (x : Core) : (s.setCore k x).clusters = s.clusters := rfl
@[simp] theorem setCore_granary (s : State) (k : Nat) (x : Core) : (s.setCore k x).granary = s.granary := rfl
@[simp] theorem setCore_launches (s : State) (k : Nat) (x : Core) : (s.setCore k x).launches = s.launches := rfl
@[simp] theorem setCore_cmds (s : State) (k : Nat) (x : Core) : (s.setCore k x).cmds = s.cmds := rfl
@[simp] theorem setCore_nextCmd (s : State) (k : Nat) (x : Core) : (s.setCore k x).nextCmd = s.nextCmd := rfl
@[simp] theorem setCore_bank (s : State) (k : Nat) (x : Core) : (s.setCore k x).bank = s.bank := rfl
@[simp] theorem setCore_flits (s : State) (k : Nat) (x : Core) : (s.setCore k x).flits = s.flits := rfl
@[simp] theorem setCore_sent (s : State) (k : Nat) (x : Core) : (s.setCore k x).sent = s.sent := rfl
@[simp] theorem setCore_dev (s : State) (k : Nat) (x : Core) : (s.setCore k x).dev = s.dev := rfl
@[simp] theorem setCore_clock (s : State) (k : Nat) (x : Core) : (s.setCore k x).clock = s.clock := rfl
@[simp] theorem setCore_timeZero (s : State) (k : Nat) (x : Core) : (s.setCore k x).timeZero = s.timeZero := rfl
@[simp] theorem setCore_fabricClock (s : State) (k : Nat) (x : Core) : (s.setCore k x).fabricClock = s.fabricClock := rfl
@[simp] theorem setCore_fresh (s : State) (k : Nat) (x : Core) : (s.setCore k x).fresh = s.fresh := rfl
@[simp] theorem setCore_cur (s : State) (k : Nat) (x : Core) : (s.setCore k x).cur = s.cur := rfl

/-! ### State.setStack -/

@[simp] theorem setStack_others (s : State) (k : Nat) (x : Stack) : (s.setStack k x).others = s.others := rfl
@[simp] theorem setStack_sched (s : State) (k : Nat) (x : Stack) : (s.setStack k x).sched = s.sched := rfl
@[simp] theorem setStack_mem (s : State) (k : Nat) (x : Stack) : (s.setStack k x).mem = s.mem := rfl
@[simp] theorem setStack_marks (s : State) (k : Nat) (x : Stack) : (s.setStack k x).marks = s.marks := rfl
@[simp] theorem setStack_poison (s : State) (k : Nat) (x : Stack) : (s.setStack k x).poison = s.poison := rfl
@[simp] theorem setStack_latent (s : State) (k : Nat) (x : Stack) : (s.setStack k x).latent = s.latent := rfl
@[simp] theorem setStack_hdrErrors (s : State) (k : Nat) (x : Stack) : (s.setStack k x).hdrErrors = s.hdrErrors := rfl
@[simp] theorem setStack_towers (s : State) (k : Nat) (x : Stack) : (s.setStack k x).towers = s.towers := rfl
@[simp] theorem setStack_clusters (s : State) (k : Nat) (x : Stack) : (s.setStack k x).clusters = s.clusters := rfl
@[simp] theorem setStack_cores (s : State) (k : Nat) (x : Stack) : (s.setStack k x).cores = s.cores := rfl
@[simp] theorem setStack_launches (s : State) (k : Nat) (x : Stack) : (s.setStack k x).launches = s.launches := rfl
@[simp] theorem setStack_cmds (s : State) (k : Nat) (x : Stack) : (s.setStack k x).cmds = s.cmds := rfl
@[simp] theorem setStack_nextCmd (s : State) (k : Nat) (x : Stack) : (s.setStack k x).nextCmd = s.nextCmd := rfl
@[simp] theorem setStack_bank (s : State) (k : Nat) (x : Stack) : (s.setStack k x).bank = s.bank := rfl
@[simp] theorem setStack_flits (s : State) (k : Nat) (x : Stack) : (s.setStack k x).flits = s.flits := rfl
@[simp] theorem setStack_sent (s : State) (k : Nat) (x : Stack) : (s.setStack k x).sent = s.sent := rfl
@[simp] theorem setStack_dev (s : State) (k : Nat) (x : Stack) : (s.setStack k x).dev = s.dev := rfl
@[simp] theorem setStack_clock (s : State) (k : Nat) (x : Stack) : (s.setStack k x).clock = s.clock := rfl
@[simp] theorem setStack_timeZero (s : State) (k : Nat) (x : Stack) : (s.setStack k x).timeZero = s.timeZero := rfl
@[simp] theorem setStack_fabricClock (s : State) (k : Nat) (x : Stack) : (s.setStack k x).fabricClock = s.fabricClock := rfl
@[simp] theorem setStack_fresh (s : State) (k : Nat) (x : Stack) : (s.setStack k x).fresh = s.fresh := rfl
@[simp] theorem setStack_cur (s : State) (k : Nat) (x : Stack) : (s.setStack k x).cur = s.cur := rfl

/-! ### State.setV -/

@[simp] theorem setV_others (s : State) (n : Nat) (r : VReg) : (s.setV n r).others = s.others := by unfold State.setV; split <;> rfl
@[simp] theorem setV_sched (s : State) (n : Nat) (r : VReg) : (s.setV n r).sched = s.sched := by unfold State.setV; split <;> rfl
@[simp] theorem setV_mem (s : State) (n : Nat) (r : VReg) : (s.setV n r).mem = s.mem := by unfold State.setV; split <;> rfl
@[simp] theorem setV_marks (s : State) (n : Nat) (r : VReg) : (s.setV n r).marks = s.marks := by unfold State.setV; split <;> rfl
@[simp] theorem setV_poison (s : State) (n : Nat) (r : VReg) : (s.setV n r).poison = s.poison := by unfold State.setV; split <;> rfl
@[simp] theorem setV_latent (s : State) (n : Nat) (r : VReg) : (s.setV n r).latent = s.latent := by unfold State.setV; split <;> rfl
@[simp] theorem setV_hdrErrors (s : State) (n : Nat) (r : VReg) : (s.setV n r).hdrErrors = s.hdrErrors := by unfold State.setV; split <;> rfl
@[simp] theorem setV_towers (s : State) (n : Nat) (r : VReg) : (s.setV n r).towers = s.towers := by unfold State.setV; split <;> rfl
@[simp] theorem setV_clusters (s : State) (n : Nat) (r : VReg) : (s.setV n r).clusters = s.clusters := by unfold State.setV; split <;> rfl
@[simp] theorem setV_cores (s : State) (n : Nat) (r : VReg) : (s.setV n r).cores = s.cores := by unfold State.setV; split <;> rfl
@[simp] theorem setV_granary (s : State) (n : Nat) (r : VReg) : (s.setV n r).granary = s.granary := by unfold State.setV; split <;> rfl
@[simp] theorem setV_launches (s : State) (n : Nat) (r : VReg) : (s.setV n r).launches = s.launches := by unfold State.setV; split <;> rfl
@[simp] theorem setV_cmds (s : State) (n : Nat) (r : VReg) : (s.setV n r).cmds = s.cmds := by unfold State.setV; split <;> rfl
@[simp] theorem setV_nextCmd (s : State) (n : Nat) (r : VReg) : (s.setV n r).nextCmd = s.nextCmd := by unfold State.setV; split <;> rfl
@[simp] theorem setV_bank (s : State) (n : Nat) (r : VReg) : (s.setV n r).bank = s.bank := by unfold State.setV; split <;> rfl
@[simp] theorem setV_flits (s : State) (n : Nat) (r : VReg) : (s.setV n r).flits = s.flits := by unfold State.setV; split <;> rfl
@[simp] theorem setV_sent (s : State) (n : Nat) (r : VReg) : (s.setV n r).sent = s.sent := by unfold State.setV; split <;> rfl
@[simp] theorem setV_dev (s : State) (n : Nat) (r : VReg) : (s.setV n r).dev = s.dev := by unfold State.setV; split <;> rfl
@[simp] theorem setV_clock (s : State) (n : Nat) (r : VReg) : (s.setV n r).clock = s.clock := by unfold State.setV; split <;> rfl
@[simp] theorem setV_timeZero (s : State) (n : Nat) (r : VReg) : (s.setV n r).timeZero = s.timeZero := by unfold State.setV; split <;> rfl
@[simp] theorem setV_fabricClock (s : State) (n : Nat) (r : VReg) : (s.setV n r).fabricClock = s.fabricClock := by unfold State.setV; split <;> rfl
@[simp] theorem setV_fresh (s : State) (n : Nat) (r : VReg) : (s.setV n r).fresh = s.fresh := by unfold State.setV; split <;> rfl
@[simp] theorem setV_cur_id (s : State) (n : Nat) (r : VReg) : (s.setV n r).cur.id = s.cur.id := by unfold State.setV; split <;> rfl
@[simp] theorem setV_cur_kind (s : State) (n : Nat) (r : VReg) : (s.setV n r).cur.kind = s.cur.kind := by unfold State.setV; split <;> rfl
@[simp] theorem setV_cur_launch (s : State) (n : Nat) (r : VReg) : (s.setV n r).cur.launch = s.cur.launch := by unfold State.setV; split <;> rfl
@[simp] theorem setV_cur_stage (s : State) (n : Nat) (r : VReg) : (s.setV n r).cur.stage = s.cur.stage := by unfold State.setV; split <;> rfl
@[simp] theorem setV_cur_thread (s : State) (n : Nat) (r : VReg) : (s.setV n r).cur.thread = s.cur.thread := by unfold State.setV; split <;> rfl
@[simp] theorem setV_cur_core (s : State) (n : Nat) (r : VReg) : (s.setV n r).cur.core = s.cur.core := by unfold State.setV; split <;> rfl
@[simp] theorem setV_cur_cluster (s : State) (n : Nat) (r : VReg) : (s.setV n r).cur.cluster = s.cur.cluster := by unfold State.setV; split <;> rfl
@[simp] theorem setV_cur_asid (s : State) (n : Nat) (r : VReg) : (s.setV n r).cur.asid = s.cur.asid := by unfold State.setV; split <;> rfl
@[simp] theorem setV_cur_status (s : State) (n : Nat) (r : VReg) : (s.setV n r).cur.status = s.cur.status := by unfold State.setV; split <;> rfl
@[simp] theorem setV_cur_g (s : State) (n : Nat) (r : VReg) : (s.setV n r).cur.g = s.cur.g := by unfold State.setV; split <;> rfl
@[simp] theorem setV_cur_pc (s : State) (n : Nat) (r : VReg) : (s.setV n r).cur.pc = s.cur.pc := by unfold State.setV; split <;> rfl
@[simp] theorem setV_cur_p (s : State) (n : Nat) (r : VReg) : (s.setV n r).cur.p = s.cur.p := by unfold State.setV; split <;> rfl
@[simp] theorem setV_cur_regs (s : State) (n : Nat) (r : VReg) : (s.setV n r).cur.regs = s.cur.regs := by unfold State.setV; split <;> rfl
@[simp] theorem setV_cur_replay (s : State) (n : Nat) (r : VReg) : (s.setV n r).cur.replay = s.cur.replay := by unfold State.setV; split <;> rfl
@[simp] theorem setV_cur_handles (s : State) (n : Nat) (r : VReg) : (s.setV n r).cur.handles = s.cur.handles := by unfold State.setV; split <;> rfl
@[simp] theorem setV_cur_ranges (s : State) (n : Nat) (r : VReg) : (s.setV n r).cur.ranges = s.cur.ranges := by unfold State.setV; split <;> rfl
@[simp] theorem setV_cur_overflow (s : State) (n : Nat) (r : VReg) : (s.setV n r).cur.overflow = s.cur.overflow := by unfold State.setV; split <;> rfl
@[simp] theorem setV_cur_mark (s : State) (n : Nat) (r : VReg) : (s.setV n r).cur.mark = s.cur.mark := by unfold State.setV; split <;> rfl
@[simp] theorem setV_cur_fenceRanges (s : State) (n : Nat) (r : VReg) : (s.setV n r).cur.fenceRanges = s.cur.fenceRanges := by unfold State.setV; split <;> rfl
@[simp] theorem setV_cur_loose (s : State) (n : Nat) (r : VReg) : (s.setV n r).cur.loose = s.cur.loose := by unfold State.setV; split <;> rfl
@[simp] theorem setV_cur_holds (s : State) (n : Nat) (r : VReg) : (s.setV n r).cur.holds = s.cur.holds := by unfold State.setV; split <;> rfl
@[simp] theorem setV_cur_pending (s : State) (n : Nat) (r : VReg) : (s.setV n r).cur.pending = s.cur.pending := by unfold State.setV; split <;> rfl
@[simp] theorem setV_cur_waitSince (s : State) (n : Nat) (r : VReg) : (s.setV n r).cur.waitSince = s.cur.waitSince := by unfold State.setV; split <;> rfl
@[simp] theorem setV_cur_gang (s : State) (n : Nat) (r : VReg) : (s.setV n r).cur.gang = s.cur.gang := by unfold State.setV; split <;> rfl
@[simp] theorem setV_cur_gangAsk (s : State) (n : Nat) (r : VReg) : (s.setV n r).cur.gangAsk = s.cur.gangAsk := by unfold State.setV; split <;> rfl
@[simp] theorem setV_cur_anchorCore (s : State) (n : Nat) (r : VReg) : (s.setV n r).cur.anchorCore = s.cur.anchorCore := by unfold State.setV; split <;> rfl
@[simp] theorem setV_cur_anchorCluster (s : State) (n : Nat) (r : VReg) : (s.setV n r).cur.anchorCluster = s.cur.anchorCluster := by unfold State.setV; split <;> rfl
@[simp] theorem setV_cur_anchorTower (s : State) (n : Nat) (r : VReg) : (s.setV n r).cur.anchorTower = s.cur.anchorTower := by unfold State.setV; split <;> rfl
@[simp] theorem setV_cur_barriers (s : State) (n : Nat) (r : VReg) : (s.setV n r).cur.barriers = s.cur.barriers := by unfold State.setV; split <;> rfl
@[simp] theorem setV_cur_wearRegs (s : State) (n : Nat) (r : VReg) : (s.setV n r).cur.wearRegs = s.cur.wearRegs := by unfold State.setV; split <;> rfl
@[simp] theorem setV_cur_reassembly (s : State) (n : Nat) (r : VReg) : (s.setV n r).cur.reassembly = s.cur.reassembly := by unfold State.setV; split <;> rfl
@[simp] theorem setV_cur_vqueue (s : State) (n : Nat) (r : VReg) : (s.setV n r).cur.vqueue = s.cur.vqueue := by unfold State.setV; split <;> rfl
@[simp] theorem setV_cur_budgetWarned (s : State) (n : Nat) (r : VReg) : (s.setV n r).cur.budgetWarned = s.cur.budgetWarned := by unfold State.setV; split <;> rfl
@[simp] theorem setV_cur_stall (s : State) (n : Nat) (r : VReg) : (s.setV n r).cur.stall = s.cur.stall := by unfold State.setV; split <;> rfl
@[simp] theorem setV_cur_cut (s : State) (n : Nat) (r : VReg) : (s.setV n r).cur.cut = s.cur.cut := by unfold State.setV; split <;> rfl
@[simp] theorem setV_cur_allNext (s : State) (n : Nat) (r : VReg) : (s.setV n r).cur.allNext = s.cur.allNext := by unfold State.setV; split <;> rfl
@[simp] theorem setV_cur_postedAt (s : State) (n : Nat) (r : VReg) : (s.setV n r).cur.postedAt = s.cur.postedAt := by unfold State.setV; split <;> rfl
@[simp] theorem setV_cur_linkHit (s : State) (n : Nat) (r : VReg) : (s.setV n r).cur.linkHit = s.cur.linkHit := by unfold State.setV; split <;> rfl
@[simp] theorem setV_cur_lateRead (s : State) (n : Nat) (r : VReg) : (s.setV n r).cur.lateRead = s.cur.lateRead := by unfold State.setV; split <;> rfl
@[simp] theorem setV_cur_unacked (s : State) (n : Nat) (r : VReg) : (s.setV n r).cur.unacked = s.cur.unacked := by unfold State.setV; split <;> rfl
@[simp] theorem setV_cur_seat (s : State) (n : Nat) (r : VReg) : (s.setV n r).cur.seat = s.cur.seat := by unfold State.setV; split <;> rfl

/-! ### State.setHandle -/

@[simp] theorem setHandle_others (s : State) (n : Nat) (r : Handle) : (s.setHandle n r).others = s.others := by unfold State.setHandle; split <;> rfl
@[simp] theorem setHandle_sched (s : State) (n : Nat) (r : Handle) : (s.setHandle n r).sched = s.sched := by unfold State.setHandle; split <;> rfl
@[simp] theorem setHandle_mem (s : State) (n : Nat) (r : Handle) : (s.setHandle n r).mem = s.mem := by unfold State.setHandle; split <;> rfl
@[simp] theorem setHandle_marks (s : State) (n : Nat) (r : Handle) : (s.setHandle n r).marks = s.marks := by unfold State.setHandle; split <;> rfl
@[simp] theorem setHandle_poison (s : State) (n : Nat) (r : Handle) : (s.setHandle n r).poison = s.poison := by unfold State.setHandle; split <;> rfl
@[simp] theorem setHandle_latent (s : State) (n : Nat) (r : Handle) : (s.setHandle n r).latent = s.latent := by unfold State.setHandle; split <;> rfl
@[simp] theorem setHandle_hdrErrors (s : State) (n : Nat) (r : Handle) : (s.setHandle n r).hdrErrors = s.hdrErrors := by unfold State.setHandle; split <;> rfl
@[simp] theorem setHandle_towers (s : State) (n : Nat) (r : Handle) : (s.setHandle n r).towers = s.towers := by unfold State.setHandle; split <;> rfl
@[simp] theorem setHandle_clusters (s : State) (n : Nat) (r : Handle) : (s.setHandle n r).clusters = s.clusters := by unfold State.setHandle; split <;> rfl
@[simp] theorem setHandle_cores (s : State) (n : Nat) (r : Handle) : (s.setHandle n r).cores = s.cores := by unfold State.setHandle; split <;> rfl
@[simp] theorem setHandle_granary (s : State) (n : Nat) (r : Handle) : (s.setHandle n r).granary = s.granary := by unfold State.setHandle; split <;> rfl
@[simp] theorem setHandle_launches (s : State) (n : Nat) (r : Handle) : (s.setHandle n r).launches = s.launches := by unfold State.setHandle; split <;> rfl
@[simp] theorem setHandle_cmds (s : State) (n : Nat) (r : Handle) : (s.setHandle n r).cmds = s.cmds := by unfold State.setHandle; split <;> rfl
@[simp] theorem setHandle_nextCmd (s : State) (n : Nat) (r : Handle) : (s.setHandle n r).nextCmd = s.nextCmd := by unfold State.setHandle; split <;> rfl
@[simp] theorem setHandle_bank (s : State) (n : Nat) (r : Handle) : (s.setHandle n r).bank = s.bank := by unfold State.setHandle; split <;> rfl
@[simp] theorem setHandle_flits (s : State) (n : Nat) (r : Handle) : (s.setHandle n r).flits = s.flits := by unfold State.setHandle; split <;> rfl
@[simp] theorem setHandle_sent (s : State) (n : Nat) (r : Handle) : (s.setHandle n r).sent = s.sent := by unfold State.setHandle; split <;> rfl
@[simp] theorem setHandle_dev (s : State) (n : Nat) (r : Handle) : (s.setHandle n r).dev = s.dev := by unfold State.setHandle; split <;> rfl
@[simp] theorem setHandle_clock (s : State) (n : Nat) (r : Handle) : (s.setHandle n r).clock = s.clock := by unfold State.setHandle; split <;> rfl
@[simp] theorem setHandle_timeZero (s : State) (n : Nat) (r : Handle) : (s.setHandle n r).timeZero = s.timeZero := by unfold State.setHandle; split <;> rfl
@[simp] theorem setHandle_fabricClock (s : State) (n : Nat) (r : Handle) : (s.setHandle n r).fabricClock = s.fabricClock := by unfold State.setHandle; split <;> rfl
@[simp] theorem setHandle_fresh (s : State) (n : Nat) (r : Handle) : (s.setHandle n r).fresh = s.fresh := by unfold State.setHandle; split <;> rfl
@[simp] theorem setHandle_cur_id (s : State) (n : Nat) (r : Handle) : (s.setHandle n r).cur.id = s.cur.id := by unfold State.setHandle; split <;> rfl
@[simp] theorem setHandle_cur_kind (s : State) (n : Nat) (r : Handle) : (s.setHandle n r).cur.kind = s.cur.kind := by unfold State.setHandle; split <;> rfl
@[simp] theorem setHandle_cur_launch (s : State) (n : Nat) (r : Handle) : (s.setHandle n r).cur.launch = s.cur.launch := by unfold State.setHandle; split <;> rfl
@[simp] theorem setHandle_cur_stage (s : State) (n : Nat) (r : Handle) : (s.setHandle n r).cur.stage = s.cur.stage := by unfold State.setHandle; split <;> rfl
@[simp] theorem setHandle_cur_thread (s : State) (n : Nat) (r : Handle) : (s.setHandle n r).cur.thread = s.cur.thread := by unfold State.setHandle; split <;> rfl
@[simp] theorem setHandle_cur_core (s : State) (n : Nat) (r : Handle) : (s.setHandle n r).cur.core = s.cur.core := by unfold State.setHandle; split <;> rfl
@[simp] theorem setHandle_cur_cluster (s : State) (n : Nat) (r : Handle) : (s.setHandle n r).cur.cluster = s.cur.cluster := by unfold State.setHandle; split <;> rfl
@[simp] theorem setHandle_cur_asid (s : State) (n : Nat) (r : Handle) : (s.setHandle n r).cur.asid = s.cur.asid := by unfold State.setHandle; split <;> rfl
@[simp] theorem setHandle_cur_status (s : State) (n : Nat) (r : Handle) : (s.setHandle n r).cur.status = s.cur.status := by unfold State.setHandle; split <;> rfl
@[simp] theorem setHandle_cur_g (s : State) (n : Nat) (r : Handle) : (s.setHandle n r).cur.g = s.cur.g := by unfold State.setHandle; split <;> rfl
@[simp] theorem setHandle_cur_pc (s : State) (n : Nat) (r : Handle) : (s.setHandle n r).cur.pc = s.cur.pc := by unfold State.setHandle; split <;> rfl
@[simp] theorem setHandle_cur_v (s : State) (n : Nat) (r : Handle) : (s.setHandle n r).cur.v = s.cur.v := by unfold State.setHandle; split <;> rfl
@[simp] theorem setHandle_cur_p (s : State) (n : Nat) (r : Handle) : (s.setHandle n r).cur.p = s.cur.p := by unfold State.setHandle; split <;> rfl
@[simp] theorem setHandle_cur_regs (s : State) (n : Nat) (r : Handle) : (s.setHandle n r).cur.regs = s.cur.regs := by unfold State.setHandle; split <;> rfl
@[simp] theorem setHandle_cur_replay (s : State) (n : Nat) (r : Handle) : (s.setHandle n r).cur.replay = s.cur.replay := by unfold State.setHandle; split <;> rfl
@[simp] theorem setHandle_cur_ranges (s : State) (n : Nat) (r : Handle) : (s.setHandle n r).cur.ranges = s.cur.ranges := by unfold State.setHandle; split <;> rfl
@[simp] theorem setHandle_cur_overflow (s : State) (n : Nat) (r : Handle) : (s.setHandle n r).cur.overflow = s.cur.overflow := by unfold State.setHandle; split <;> rfl
@[simp] theorem setHandle_cur_mark (s : State) (n : Nat) (r : Handle) : (s.setHandle n r).cur.mark = s.cur.mark := by unfold State.setHandle; split <;> rfl
@[simp] theorem setHandle_cur_fenceRanges (s : State) (n : Nat) (r : Handle) : (s.setHandle n r).cur.fenceRanges = s.cur.fenceRanges := by unfold State.setHandle; split <;> rfl
@[simp] theorem setHandle_cur_loose (s : State) (n : Nat) (r : Handle) : (s.setHandle n r).cur.loose = s.cur.loose := by unfold State.setHandle; split <;> rfl
@[simp] theorem setHandle_cur_holds (s : State) (n : Nat) (r : Handle) : (s.setHandle n r).cur.holds = s.cur.holds := by unfold State.setHandle; split <;> rfl
@[simp] theorem setHandle_cur_pending (s : State) (n : Nat) (r : Handle) : (s.setHandle n r).cur.pending = s.cur.pending := by unfold State.setHandle; split <;> rfl
@[simp] theorem setHandle_cur_waitSince (s : State) (n : Nat) (r : Handle) : (s.setHandle n r).cur.waitSince = s.cur.waitSince := by unfold State.setHandle; split <;> rfl
@[simp] theorem setHandle_cur_gang (s : State) (n : Nat) (r : Handle) : (s.setHandle n r).cur.gang = s.cur.gang := by unfold State.setHandle; split <;> rfl
@[simp] theorem setHandle_cur_gangAsk (s : State) (n : Nat) (r : Handle) : (s.setHandle n r).cur.gangAsk = s.cur.gangAsk := by unfold State.setHandle; split <;> rfl
@[simp] theorem setHandle_cur_anchorCore (s : State) (n : Nat) (r : Handle) : (s.setHandle n r).cur.anchorCore = s.cur.anchorCore := by unfold State.setHandle; split <;> rfl
@[simp] theorem setHandle_cur_anchorCluster (s : State) (n : Nat) (r : Handle) : (s.setHandle n r).cur.anchorCluster = s.cur.anchorCluster := by unfold State.setHandle; split <;> rfl
@[simp] theorem setHandle_cur_anchorTower (s : State) (n : Nat) (r : Handle) : (s.setHandle n r).cur.anchorTower = s.cur.anchorTower := by unfold State.setHandle; split <;> rfl
@[simp] theorem setHandle_cur_barriers (s : State) (n : Nat) (r : Handle) : (s.setHandle n r).cur.barriers = s.cur.barriers := by unfold State.setHandle; split <;> rfl
@[simp] theorem setHandle_cur_wearRegs (s : State) (n : Nat) (r : Handle) : (s.setHandle n r).cur.wearRegs = s.cur.wearRegs := by unfold State.setHandle; split <;> rfl
@[simp] theorem setHandle_cur_reassembly (s : State) (n : Nat) (r : Handle) : (s.setHandle n r).cur.reassembly = s.cur.reassembly := by unfold State.setHandle; split <;> rfl
@[simp] theorem setHandle_cur_vqueue (s : State) (n : Nat) (r : Handle) : (s.setHandle n r).cur.vqueue = s.cur.vqueue := by unfold State.setHandle; split <;> rfl
@[simp] theorem setHandle_cur_budgetWarned (s : State) (n : Nat) (r : Handle) : (s.setHandle n r).cur.budgetWarned = s.cur.budgetWarned := by unfold State.setHandle; split <;> rfl
@[simp] theorem setHandle_cur_stall (s : State) (n : Nat) (r : Handle) : (s.setHandle n r).cur.stall = s.cur.stall := by unfold State.setHandle; split <;> rfl
@[simp] theorem setHandle_cur_cut (s : State) (n : Nat) (r : Handle) : (s.setHandle n r).cur.cut = s.cur.cut := by unfold State.setHandle; split <;> rfl
@[simp] theorem setHandle_cur_allNext (s : State) (n : Nat) (r : Handle) : (s.setHandle n r).cur.allNext = s.cur.allNext := by unfold State.setHandle; split <;> rfl
@[simp] theorem setHandle_cur_postedAt (s : State) (n : Nat) (r : Handle) : (s.setHandle n r).cur.postedAt = s.cur.postedAt := by unfold State.setHandle; split <;> rfl
@[simp] theorem setHandle_cur_linkHit (s : State) (n : Nat) (r : Handle) : (s.setHandle n r).cur.linkHit = s.cur.linkHit := by unfold State.setHandle; split <;> rfl
@[simp] theorem setHandle_cur_lateRead (s : State) (n : Nat) (r : Handle) : (s.setHandle n r).cur.lateRead = s.cur.lateRead := by unfold State.setHandle; split <;> rfl
@[simp] theorem setHandle_cur_unacked (s : State) (n : Nat) (r : Handle) : (s.setHandle n r).cur.unacked = s.cur.unacked := by unfold State.setHandle; split <;> rfl
@[simp] theorem setHandle_cur_seat (s : State) (n : Nat) (r : Handle) : (s.setHandle n r).cur.seat = s.cur.seat := by unfold State.setHandle; split <;> rfl

/-! ### State.raise -/

@[simp] theorem raise_others (s : State) (e : Events) : (s.raise e).others = s.others := rfl
@[simp] theorem raise_sched (s : State) (e : Events) : (s.raise e).sched = s.sched := rfl
@[simp] theorem raise_mem (s : State) (e : Events) : (s.raise e).mem = s.mem := rfl
@[simp] theorem raise_marks (s : State) (e : Events) : (s.raise e).marks = s.marks := rfl
@[simp] theorem raise_poison (s : State) (e : Events) : (s.raise e).poison = s.poison := rfl
@[simp] theorem raise_latent (s : State) (e : Events) : (s.raise e).latent = s.latent := rfl
@[simp] theorem raise_hdrErrors (s : State) (e : Events) : (s.raise e).hdrErrors = s.hdrErrors := rfl
@[simp] theorem raise_towers (s : State) (e : Events) : (s.raise e).towers = s.towers := rfl
@[simp] theorem raise_clusters (s : State) (e : Events) : (s.raise e).clusters = s.clusters := rfl
@[simp] theorem raise_cores (s : State) (e : Events) : (s.raise e).cores = s.cores := rfl
@[simp] theorem raise_granary (s : State) (e : Events) : (s.raise e).granary = s.granary := rfl
@[simp] theorem raise_launches (s : State) (e : Events) : (s.raise e).launches = s.launches := rfl
@[simp] theorem raise_cmds (s : State) (e : Events) : (s.raise e).cmds = s.cmds := rfl
@[simp] theorem raise_nextCmd (s : State) (e : Events) : (s.raise e).nextCmd = s.nextCmd := rfl
@[simp] theorem raise_bank (s : State) (e : Events) : (s.raise e).bank = s.bank := rfl
@[simp] theorem raise_flits (s : State) (e : Events) : (s.raise e).flits = s.flits := rfl
@[simp] theorem raise_sent (s : State) (e : Events) : (s.raise e).sent = s.sent := rfl
@[simp] theorem raise_dev (s : State) (e : Events) : (s.raise e).dev = s.dev := rfl
@[simp] theorem raise_clock (s : State) (e : Events) : (s.raise e).clock = s.clock := rfl
@[simp] theorem raise_timeZero (s : State) (e : Events) : (s.raise e).timeZero = s.timeZero := rfl
@[simp] theorem raise_fabricClock (s : State) (e : Events) : (s.raise e).fabricClock = s.fabricClock := rfl
@[simp] theorem raise_fresh (s : State) (e : Events) : (s.raise e).fresh = s.fresh := rfl
@[simp] theorem raise_cur_id (s : State) (e : Events) : (s.raise e).cur.id = s.cur.id := rfl
@[simp] theorem raise_cur_kind (s : State) (e : Events) : (s.raise e).cur.kind = s.cur.kind := rfl
@[simp] theorem raise_cur_launch (s : State) (e : Events) : (s.raise e).cur.launch = s.cur.launch := rfl
@[simp] theorem raise_cur_stage (s : State) (e : Events) : (s.raise e).cur.stage = s.cur.stage := rfl
@[simp] theorem raise_cur_thread (s : State) (e : Events) : (s.raise e).cur.thread = s.cur.thread := rfl
@[simp] theorem raise_cur_core (s : State) (e : Events) : (s.raise e).cur.core = s.cur.core := rfl
@[simp] theorem raise_cur_cluster (s : State) (e : Events) : (s.raise e).cur.cluster = s.cur.cluster := rfl
@[simp] theorem raise_cur_asid (s : State) (e : Events) : (s.raise e).cur.asid = s.cur.asid := rfl
@[simp] theorem raise_cur_status (s : State) (e : Events) : (s.raise e).cur.status = s.cur.status := rfl
@[simp] theorem raise_cur_g (s : State) (e : Events) : (s.raise e).cur.g = s.cur.g := rfl
@[simp] theorem raise_cur_pc (s : State) (e : Events) : (s.raise e).cur.pc = s.cur.pc := rfl
@[simp] theorem raise_cur_v (s : State) (e : Events) : (s.raise e).cur.v = s.cur.v := rfl
@[simp] theorem raise_cur_p (s : State) (e : Events) : (s.raise e).cur.p = s.cur.p := rfl
@[simp] theorem raise_cur_replay (s : State) (e : Events) : (s.raise e).cur.replay = s.cur.replay := rfl
@[simp] theorem raise_cur_handles (s : State) (e : Events) : (s.raise e).cur.handles = s.cur.handles := rfl
@[simp] theorem raise_cur_ranges (s : State) (e : Events) : (s.raise e).cur.ranges = s.cur.ranges := rfl
@[simp] theorem raise_cur_overflow (s : State) (e : Events) : (s.raise e).cur.overflow = s.cur.overflow := rfl
@[simp] theorem raise_cur_mark (s : State) (e : Events) : (s.raise e).cur.mark = s.cur.mark := rfl
@[simp] theorem raise_cur_fenceRanges (s : State) (e : Events) : (s.raise e).cur.fenceRanges = s.cur.fenceRanges := rfl
@[simp] theorem raise_cur_loose (s : State) (e : Events) : (s.raise e).cur.loose = s.cur.loose := rfl
@[simp] theorem raise_cur_holds (s : State) (e : Events) : (s.raise e).cur.holds = s.cur.holds := rfl
@[simp] theorem raise_cur_pending (s : State) (e : Events) : (s.raise e).cur.pending = s.cur.pending := rfl
@[simp] theorem raise_cur_waitSince (s : State) (e : Events) : (s.raise e).cur.waitSince = s.cur.waitSince := rfl
@[simp] theorem raise_cur_gang (s : State) (e : Events) : (s.raise e).cur.gang = s.cur.gang := rfl
@[simp] theorem raise_cur_gangAsk (s : State) (e : Events) : (s.raise e).cur.gangAsk = s.cur.gangAsk := rfl
@[simp] theorem raise_cur_anchorCore (s : State) (e : Events) : (s.raise e).cur.anchorCore = s.cur.anchorCore := rfl
@[simp] theorem raise_cur_anchorCluster (s : State) (e : Events) : (s.raise e).cur.anchorCluster = s.cur.anchorCluster := rfl
@[simp] theorem raise_cur_anchorTower (s : State) (e : Events) : (s.raise e).cur.anchorTower = s.cur.anchorTower := rfl
@[simp] theorem raise_cur_barriers (s : State) (e : Events) : (s.raise e).cur.barriers = s.cur.barriers := rfl
@[simp] theorem raise_cur_wearRegs (s : State) (e : Events) : (s.raise e).cur.wearRegs = s.cur.wearRegs := rfl
@[simp] theorem raise_cur_reassembly (s : State) (e : Events) : (s.raise e).cur.reassembly = s.cur.reassembly := rfl
@[simp] theorem raise_cur_vqueue (s : State) (e : Events) : (s.raise e).cur.vqueue = s.cur.vqueue := rfl
@[simp] theorem raise_cur_budgetWarned (s : State) (e : Events) : (s.raise e).cur.budgetWarned = s.cur.budgetWarned := rfl
@[simp] theorem raise_cur_stall (s : State) (e : Events) : (s.raise e).cur.stall = s.cur.stall := rfl
@[simp] theorem raise_cur_cut (s : State) (e : Events) : (s.raise e).cur.cut = s.cur.cut := rfl
@[simp] theorem raise_cur_allNext (s : State) (e : Events) : (s.raise e).cur.allNext = s.cur.allNext := rfl
@[simp] theorem raise_cur_postedAt (s : State) (e : Events) : (s.raise e).cur.postedAt = s.cur.postedAt := rfl
@[simp] theorem raise_cur_linkHit (s : State) (e : Events) : (s.raise e).cur.linkHit = s.cur.linkHit := rfl
@[simp] theorem raise_cur_lateRead (s : State) (e : Events) : (s.raise e).cur.lateRead = s.cur.lateRead := rfl
@[simp] theorem raise_cur_unacked (s : State) (e : Events) : (s.raise e).cur.unacked = s.cur.unacked := rfl
@[simp] theorem raise_cur_seat (s : State) (e : Events) : (s.raise e).cur.seat = s.cur.seat := rfl
@[simp] theorem raise_g (s : State) (e : Events) (n : Reg) : (s.raise e).g n = s.g n := rfl

/-! ### Keyed data -/

@[simp] theorem kvGet_kvSet_same {α : Type} (d : α) (m : KV α) (k : Nat) (x : α) : kvGet d (kvSet m k x) k = x := by
  induction m with
  | nil => simp [kvSet, kvGet]
  | cons e m ih =>
    obtain ⟨j, y⟩ := e
    unfold kvSet
    split
    · simp [kvGet]
    · rename_i h
      split
      · simp [kvGet]
      · have : ¬ j = k := fun h' => h h'.symm
        simp [kvGet, this, ih]

@[simp] theorem kvGet_kvSet_other {α : Type} (d : α) (m : KV α) (k j : Nat) (x : α) (h : k ≠ j) :
    kvGet d (kvSet m k x) j = kvGet d m j := by
  induction m with
  | nil => simp [kvSet, kvGet, h]
  | cons e m ih =>
    obtain ⟨i, y⟩ := e
    unfold kvSet
    split
    · rename_i hk
      subst hk
      simp [kvGet, h]
    · split
      · simp [kvGet, h]
      · simp [kvGet, ih]

@[simp] theorem tower_setTower (s : State) (k : Nat) (t : Tower) : (s.setTower k t).tower k = t := kvGet_kvSet_same _ _ _ _
@[simp] theorem cluster_setCluster (s : State) (k : Nat) (c : Cluster) : (s.setCluster k c).cluster k = c :=
  kvGet_kvSet_same _ _ _ _
@[simp] theorem core_setCore (s : State) (k : Nat) (c : Core) : (s.setCore k c).core k = c := kvGet_kvSet_same _ _ _ _
@[simp] theorem stack_setStack (s : State) (k : Nat) (x : Stack) : (s.setStack k x).stack k = x := kvGet_kvSet_same _ _ _ _

end Sys2Proof.Laws
end

