-- ==== Sys2Proof/Laws/Ops.lean ====
section
/-! SUPPORT. What each shared operation can do, said once: the monad's steps, the frame of an instruction, the end of one,
taking an exception and returning from one, and the frames of events. -/

namespace Sys2Proof.Machine

variable {α β : Type}

/-! ### The monad -/

@[simp] theorem exec_pure (a : α) (s : State) : (pure a : Exec α) s = .ok a s := rfl
@[simp] theorem exec_get (s : State) : (get : Exec State) s = .ok s s := rfl
@[simp] theorem exec_set (t s : State) : (set t : Exec PUnit) s = .ok ⟨⟩ t := rfl
@[simp] theorem exec_modify (f : State → State) (s : State) : (modify f : Exec PUnit) s = .ok ⟨⟩ (f s) := rfl
@[simp] theorem exec_throw (e : Stop) (s : State) : (throw e : Exec α) s = .error e s := rfl
@[simp] theorem exec_trap (c : Nat) (v : Option Word) (v2 : Word) (st : Nat) (s : State) :
    (trap c v v2 st : Exec α) s = .error (.trap { cause := c, val := v, val2 := v2, strm := st }) s := rfl
@[simp] theorem exec_idle (s : State) : (idle : Exec α) s = .error .idle s := rfl
@[simp] theorem exec_getG (n : Reg) (s : State) : getG n s = .ok (s.g n) s := rfl
@[simp] theorem exec_putG (n : Reg) (x : Word) (s : State) : putG n x s = .ok ⟨⟩ (s.setG n x) := rfl
@[simp] theorem exec_getCur (s : State) : getCur s = .ok s.cur s := rfl
@[simp] theorem exec_getRegs (s : State) : getRegs s = .ok s.regs s := rfl
@[simp] theorem exec_modCur (f : Agent → Agent) (s : State) : modCur f s = .ok ⟨⟩ { s with cur := f s.cur } := rfl
@[simp] theorem exec_modRegs (f : Regs → Regs) (s : State) : modRegs f s = .ok ⟨⟩ (s.setRegs (f s.regs)) := rfl
@[simp] theorem exec_modTower (w : Nat) (f : Tower → Tower) (s : State) :
    modTower w f s = .ok ⟨⟩ (s.setTower w (f (s.tower w))) := rfl
@[simp] theorem exec_modCluster (g : Nat) (f : Cluster → Cluster) (s : State) :
    modCluster g f s = .ok ⟨⟩ (s.setCluster g (f (s.cluster g))) := rfl
@[simp] theorem exec_modDev (f : Device → Device) (s : State) : modDev f s = .ok ⟨⟩ { s with dev := f s.dev } := rfl
@[simp] theorem exec_need_true (s : State) : need true s = .ok ⟨⟩ s := rfl
@[simp] theorem exec_need_false (s : State) : need false s = .error .idle s := rfl

theorem exec_need {b : Bool} (h : b = true) (s : State) : need b s = .ok ⟨⟩ s := by subst h; rfl

/-- What follows a computation that answers runs on from its answer. -/
theorem exec_bind_ok {x : Exec α} {f : α → Exec β} {s t : State} {a : α} (h : x s = .ok a t) :
    (x >>= f) s = f a t := by simp [bind, EStateM.bind, h]

/-- What follows a computation that stops does not run. -/
theorem exec_bind_error {x : Exec α} {f : α → Exec β} {s t : State} {e : Stop} (h : x s = .error e t) :
    (x >>= f) s = .error e t := by simp [bind, EStateM.bind, h]

/-- A computation of two parts answers only where both do. -/
theorem exec_bind_eq_ok {x : Exec α} {f : α → Exec β} {s t : State} {b : β} (h : (x >>= f) s = .ok b t) :
    ∃ a u, x s = .ok a u ∧ f a u = .ok b t := by
  cases hx : x s with
  | ok a u => exact ⟨a, u, rfl, (exec_bind_ok hx).symm.trans h⟩
  | error e u => exact absurd ((exec_bind_error hx).symm.trans h) (by simp)

/-- A part that must hold, held. -/
theorem orTrap_ok (va : Word) (st : Nat) {x : Except AFault α} {a : α} (h : x = .ok a) (s : State) :
    orTrap va st x s = .ok a s := by subst h; rfl

theorem orTrap_error (va : Word) (st : Nat) {x : Except AFault α} {f : AFault} (h : x = .error f) (s : State) :
    orTrap va st x s = .error (f.trap va st) (s.foundIn f.found) := by subst h; rfl

theorem attempt_ok {x : Exec α} {s t : State} {a : α} (h : x s = .ok a t) : attempt x s = .ok (.ok a) t := by
  simp [attempt, h]

theorem attempt_error {x : Exec α} {s t : State} {e : Stop} (h : x s = .error e t) : attempt x s = .ok (.error e) t := by
  simp [attempt, h]

/-! ### What becomes of a computation -/

theorem settle_ok (i : Instr) {x : Exec Unit} {s t : State} (h : x s = .ok () t) : settle i x s = t := by
  simp [settle, h]

theorem settle_idle (i : Instr) {x : Exec Unit} {s t : State} (h : x s = .error .idle t) : settle i x s = t := by
  simp [settle, h]

theorem settle_wait (i : Instr) {x : Exec Unit} {s t : State} {w : Wait} (h : x s = .error (.wait w) t) :
    settle i x s = { t with cur := { t.cur with status := .waiting w i, waitSince := t.clock } } := by
  simp [settle, h]

theorem settle_trap (i : Instr) {x : Exec Unit} {s t u : State} {p : Trap} (h : x s = .error (.trap p) t)
    (k : takeTrap p i t = .ok () u) : settle i x s = u := by
  simp [settle, h, k]

theorem settle_stop (i : Instr) {x : Exec Unit} {s t : State} {c : Nat} (h : x s = .error (.stop c) t) :
    settle i x s = eventStep (stopLaunch t.cur.launch c) t := by
  simp [settle, h]

theorem event_ok {x : Exec Unit} {s t : State} (h : x s = .ok () t) : event x s = .next t := by
  simp [event, eventStep, h]

theorem event_stop {x : Exec Unit} {s t : State} {e : Stop} (h : x s = .error e t) : event x s = .next t := by
  simp [event, eventStep, h]

theorem asAgent_self {x : Exec α} {s t : State} {a : α} (h : x s = .ok a t) (k : t.cur.id = s.cur.id) :
    asAgent s.cur.id x s = .ok a t := by
  simp [asAgent, State.agent?, State.focus, h, k]

@[simp] theorem agent_self (s : State) : s.agent? s.cur.id = some s.cur := by simp [State.agent?]
@[simp] theorem focus_self (s : State) : s.focus s.cur.id = s := by simp [State.focus]

/-! ### The frame of an instruction -/

/-- An instruction whose body answers completes: its effect, then its end. -/
theorem insn_ok {c : Who} {i : Instr} {body : Exec Flow} {s t : State} {f : Flow} (hr : s.runs c)
    (h : body s = .ok f t) : insn c i body s = .next (t.retire i f) := by
  have hb : (do let f ← body; modify (fun s => s.retire i f) : Exec Unit) s = .ok () (t.retire i f) := by
    rw [exec_bind_ok h]; rfl
  simp [insn, hr.1, hr.2, settle_ok i hb]

/-- An instruction whose body stops: its trap or wait takes effect, and the instruction has not completed. -/
theorem insn_error {c : Who} {i : Instr} {body : Exec Flow} {s t : State} {e : Stop} (hr : s.runs c)
    (h : body s = .error e t) : insn c i body s = .next (settle i (throw e) t) := by
  have hb : (do let f ← body; modify (fun s => s.retire i f) : Exec Unit) s = .error e t := exec_bind_error h
  simp only [insn, hr.1, hr.2, ne_eq, not_true_eq_false, if_false, if_true, settle, hb, exec_throw]

/-- A form that its stage kind may not execute raises ILLEGAL_INSN (R371). -/
theorem insn_notAdmitted {c : Who} {i : Instr} {body : Exec Flow} {s : State} (h1 : s.cur.status = .running)
    (h2 : c.admits s.cur.kind = false) : insn c i body s = .next (settle i (trap 0x02) s) := by
  simp [insn, h1, h2]

theorem insn_notRunning {c : Who} {i : Instr} {body : Exec Flow} {s : State} (h : s.cur.status ≠ .running) :
    insn c i body s = .next s := by simp [insn, h]

/-- An instruction whose effect is a function of the state completes wherever it may execute. -/
theorem plain_ok {c : Who} {i : Instr} {f : State → State} {s : State} (hr : s.runs c) :
    plain c i f s = .next ((f s).retire i .seq) := insn_ok hr (by rfl)

/-- With no cut due the state is as it is without one. -/
theorem uncut_self {s : State} (h : s.cur.cut = none) : { s with cur := { s.cur with cut := none } } = s := by
  rw [← h]

/-- An instruction that no pre-emption cuts goes on to its end. -/
theorem finishCut_none {s : State} (h : s.cur.cut = none) : finishCut s = .ok () s := by
  refine (exec_bind_ok (exec_getCur s)).trans ?_
  rw [h]; rfl

/-- What a vector instruction does, before its end. -/
theorem queued_ok {pipe : Nat} {i : Instr} {body : Exec Unit} {s t : State} (h : body s = .ok () t) :
    queued pipe i body s = .ok () (t.enqueue (VToken.of pipe i s t)) :=
  (exec_bind_ok (exec_get s)).trans (exec_bind_ok h)

/-- A vector instruction with room in its queue that no pre-emption cuts, and whose body answers, completes, and its place is
taken (R21). -/
theorem vinsn_ok {pipe : Nat} {i : Instr} {body : Exec Unit} {s t : State} (hr : s.runs .threadOnly)
    (hq : s.cur.vqueue.length < 32) (hc : s.cur.cut = none) (h : body s = .ok () t) (hc' : t.cur.cut = none) :
    vinsn pipe i body s = .next ((t.enqueue (VToken.of pipe i s t)).retire i .seq) := by
  refine insn_ok hr ?_
  have hq' : ¬ 32 ≤ s.cur.vqueue.length := by omega
  have hu : modCur (fun a => { a with cut := none }) s = .ok () s := congrArg (EStateM.Result.ok ()) (uncut_self hc)
  have hf : finishCut (t.enqueue (VToken.of pipe i s t)) = .ok () (t.enqueue (VToken.of pipe i s t)) := finishCut_none hc'
  refine (exec_bind_ok (exec_getCur s)).trans ?_
  rw [if_neg hq']
  split
  · exact (exec_bind_ok hu).trans ((exec_bind_ok (queued_ok h)).trans (exec_bind_ok hf))
  · exact (exec_bind_ok (queued_ok h)).trans (exec_bind_ok hf)

/-- A vector instruction whose body stops: its trap or stall takes effect; a form that no pre-emption cuts has forgotten the cut. -/
theorem vinsn_error {pipe : Nat} {i : Instr} {body : Exec Unit} {s t : State} {e : Stop} (hr : s.runs .threadOnly)
    (hq : s.cur.vqueue.length < 32) (h : body (if cuttable i then s else s.uncut) = .error e t) :
    vinsn pipe i body s = .next (settle i (throw e) t) := by
  refine insn_error hr ?_
  have hq' : ¬ 32 ≤ s.cur.vqueue.length := by omega
  have hb : ∀ u, body u = .error e t → queued pipe i body u = .error e t := fun u hu =>
    (exec_bind_ok (exec_get u)).trans (exec_bind_error hu)
  refine (exec_bind_ok (exec_getCur s)).trans ?_
  rw [if_neg hq']
  cases hc : cuttable i
  · rw [hc] at h
    exact (exec_bind_ok (t := s.uncut) rfl).trans (exec_bind_error (hb _ h))
  · rw [hc] at h
    exact exec_bind_error (hb _ h)

/-- A vector instruction that finds its queue full waits for a place (R21). -/
theorem vinsn_full {pipe : Nat} {i : Instr} {body : Exec Unit} {s : State}
    (hr : s.runs .threadOnly) (hq : 32 ≤ s.cur.vqueue.length) :
    vinsn pipe i body s =
      .next { s with cur := { s.cur with status := .waiting .vqueue i, waitSince := s.clock } } := by
  refine (insn_error (e := .wait .vqueue) (t := s) hr ?_).trans rfl
  refine (exec_bind_ok (exec_getCur s)).trans ?_
  rw [if_pos hq]
  rfl

/-! ### The end of an instruction (R141, R359) -/

/-- Without an active LOOPV the pc moves to the next word. -/
theorem advance_noLoop {s : State} (h : wbits s.regs.loopCtl 5 0 = 0) : s.advance = s.setPc (s.cur.pc + 4) := by
  simp [State.advance, h]

/-- The end of an instruction changes nothing but the pc, the LOOPV state and what is pending. -/
theorem advance_frame (s : State) :
    s.advance = { s with cur := { s.cur with
      pc := s.advance.cur.pc, regs := { s.cur.regs with loopCtl := s.advance.cur.regs.loopCtl } } } := by
  unfold State.advance
  dsimp only
  split
  · split <;> rfl
  · rfl

theorem stepTrap_off {s : State} (i : Instr) (h : ksStep s.regs.kstatus = false) : s.stepTrap i = s := by
  simp [State.stepTrap, h]

theorem retire_plain {s : State} (i : Instr) (h : wbits s.regs.loopCtl 5 0 = 0) (k : ksStep s.regs.kstatus = false) :
    s.retire i .seq = s.setPc (s.cur.pc + 4) := by
  rw [State.retire, advance_noLoop h]
  exact stepTrap_off (s := s.setPc (s.cur.pc + 4)) i k

/-! ### Exceptions (R355, R356, R361) -/

/-- With a handler, outside a trap, an exception enters the handler. -/
theorem takeException_ok {kcause ktval ktval2 kepc : Word} {cause : Nat} {s : State}
    (h1 : ksIntrap s.regs.kstatus = false) (h2 : wbits s.regs.kvec 55 9 ≠ 0) :
    takeException kcause ktval ktval2 kepc cause s =
      .ok () ({ s with cur := { s.cur with status := .running } }.enter kcause ktval ktval2 kepc cause) := by
  have : takeException kcause ktval ktval2 kepc cause s =
      (if ksIntrap s.regs.kstatus then throw (.stop 0x07)
       else if wbits s.regs.kvec 55 9 = 0 then throw (.stop 0x0E)
       else set ({ s with cur := { s.cur with status := .running } }.enter kcause ktval ktval2 kepc cause) : Exec Unit) s := rfl
  rw [this]; simp [h1, h2]

/-- A trap of a control thread that the pager does not take enters its handler. -/
theorem takeTrap_thread {t : Trap} {i : Instr} {s : State} (hk : s.cur.kind = .thread)
    (hp : pagerCause t.cause = false ∨ s.dev.fltbase = 0) :
    takeTrap t i s =
      takeException (t.word false) (t.tval i) t.val2 (if t.next then s.cur.pc + 4 else s.cur.pc) t.cause
        { s with cur := { s.cur with linkHit := none } } := by
  have : takeTrap t i s = (if pagerCause t.cause && s.dev.fltbase != 0 && s.cur.kind != .dispatcher
      then pagerRoute t (t.tval i)
      else match s.cur.kind with
      | .thread => takeException (t.word false) (t.tval i) t.val2 (if t.next then s.cur.pc + 4 else s.cur.pc) t.cause
      | .dispatcher => takeException (t.word false) (t.tval i) t.val2 (if t.next then s.cur.pc + 4 else s.cur.pc) t.cause
      | _ => endInstance (t.word false) (t.tval i) t.val2) { s with cur := { s.cur with linkHit := none } } := rfl
  rw [this, hk]
  rcases hp with h | h <;> simp [h]

/-- A trap of a sequencer instance that the pager does not take ends the instance (R364). -/
theorem takeTrap_sequencer {t : Trap} {i : Instr} {s : State} (hk : s.cur.kind ≠ .thread) (hd : s.cur.kind ≠ .dispatcher)
    (hp : pagerCause t.cause = false ∨ s.dev.fltbase = 0) :
    takeTrap t i s = endInstance (t.word false) (t.tval i) t.val2 { s with cur := { s.cur with linkHit := none } } := by
  have : takeTrap t i s = (if pagerCause t.cause && s.dev.fltbase != 0 && s.cur.kind != .dispatcher
      then pagerRoute t (t.tval i)
      else match s.cur.kind with
      | .thread => takeException (t.word false) (t.tval i) t.val2 (if t.next then s.cur.pc + 4 else s.cur.pc) t.cause
      | .dispatcher => takeException (t.word false) (t.tval i) t.val2 (if t.next then s.cur.pc + 4 else s.cur.pc) t.cause
      | _ => endInstance (t.word false) (t.tval i) t.val2) { s with cur := { s.cur with linkHit := none } } := rfl
  rw [this]
  have hp' : (pagerCause t.cause && s.dev.fltbase != 0 && s.cur.kind != .dispatcher) = false := by
    rcases hp with h | h <;> simp [h]
  rw [hp']
  cases hc : s.cur.kind <;> simp_all

/-! ### What is noted, sent and acknowledged -/

@[simp] theorem lateFrom_lateRead (s : State) (i : Instr) (va : Word) :
    (s.lateFrom i va).cur.lateRead = some { instr := i, va := va } := rfl
@[simp] theorem lateFrom_mem (s : State) (i : Instr) (va : Word) : (s.lateFrom i va).mem = s.mem := rfl
@[simp] theorem lateFrom_regs (s : State) (i : Instr) (va : Word) : (s.lateFrom i va).cur.regs = s.cur.regs := rfl
@[simp] theorem lateFrom_g (s : State) (i : Instr) (va : Word) (n : Reg) : (s.lateFrom i va).g n = s.g n := rfl

/-- What a word notes is nothing but whether an access before it may still be ordered after a store to come (R412). -/
theorem noteLate_cases (s : State) (w : IWord) :
    s.noteLate w = s ∨ s.noteLate w = { s with cur := { s.cur with lateRead := none } } := by
  unfold State.noteLate
  split
  · exact .inl rfl
  · split
    · exact .inl rfl
    · exact .inr rfl
@[simp] theorem noteLate_mem (s : State) (w : IWord) : (s.noteLate w).mem = s.mem := by
  rcases noteLate_cases s w with h | h <;> rw [h]
@[simp] theorem noteLate_none (s : State) (w : IWord) (h : s.cur.lateRead = none) : s.noteLate w = s := by
  simp [State.noteLate, h]

/-- What an instruction sends adds to the stores in flight and to nothing else (R345). -/
theorem flying_cases (s t : State) (i : Instr) (st : Nat) :
    s.flying t i st = t ∨ ∃ us, s.flying t i st = { t with cur := { t.cur with unacked := us } } := by
  unfold State.flying
  dsimp only
  split
  · exact .inl rfl
  · exact .inr ⟨_, rfl⟩
@[simp] theorem flying_mem (s t : State) (i : Instr) (st : Nat) : (s.flying t i st).mem = t.mem := by
  rcases flying_cases s t i st with h | ⟨us, h⟩ <;> rw [h]
theorem flying_unsent (s t : State) (i : Instr) (st : Nat) (h : t.sent = s.sent) : s.flying t i st = t := by
  simp [State.flying, h]

/-- Of what is dropped nothing is left in flight, and nothing else is gone (R345, R346). -/
theorem mem_dropSent (s : State) (ws : List Sent) (x : Sent) : x ∈ (s.dropSent ws).sent ↔ x ∈ s.sent ∧ x ∉ ws := by
  simp [State.dropSent]
@[simp] theorem dropSent_mem (s : State) (ws : List Sent) : (s.dropSent ws).mem = s.mem := rfl
theorem dropSent_agent? (s : State) (ws : List Sent) (id : Nat) :
    (s.dropSent ws).agent? id = (s.agent? id).map (fun a => a.stillSent (s.dropSent ws).sent) := by
  have h (a : Agent) : (a.stillSent (s.dropSent ws).sent).id = a.id := rfl
  unfold State.agent?
  show (if (s.cur.stillSent (s.dropSent ws).sent).id = id then some (s.cur.stillSent (s.dropSent ws).sent)
    else (s.others.map (fun a => a.stillSent (s.dropSent ws).sent)).find? (fun a => a.id == id)) = _
  rw [h]
  split
  · rfl
  · rw [List.find?_map]
    rfl

end Sys2Proof.Machine
end

