-- ==== Sys2Proof/Laws/Keeps.lean ====
section
/-! SUPPORT. The shared operations keep memory in its canonical form: `Keeps x` says that `x`, started where memory has the
form, leaves it so, whether it completes or stops. -/

namespace Sys2Proof.Laws

open Sys2Proof.Machine

variable {α β : Type}

/-- The state of a result has memory in its form. -/
def Kept : EStateM.Result Stop State α → Prop
  | .ok _ t => t.wf = true
  | .error _ t => t.wf = true

/-- A computation keeps the form of memory. -/
def Keeps (x : Exec α) : Prop := ∀ s : State, s.wf = true → Kept (x s)

theorem wf_of_mem {s t : State} (h : t.mem = s.mem) (hs : s.wf = true) : t.wf = true := by
  unfold State.wf at *; rw [h]; exact hs

theorem wf_puts {s t : State} {a : Nat} {xs : List Byte} (h : t.mem = memPuts s.mem a xs) (hs : s.wf = true) :
    t.wf = true := by
  unfold State.wf at *; rw [h]; exact memPuts_wf _ _ _ hs

theorem wf_putNat {s t : State} {a n x : Nat} (h : t.mem = memPutNat s.mem a n x) (hs : s.wf = true) :
    t.wf = true := by
  unfold State.wf at *; rw [h]; exact memPutNat_wf _ _ _ _ hs

theorem foldl_wf (f : State → β → State) (h : ∀ s b, s.wf = true → (f s b).wf = true) (xs : List β) :
    ∀ s : State, s.wf = true → (xs.foldl f s).wf = true := by
  induction xs with
  | nil => exact fun _ hs => hs
  | cons x xs ih => exact fun s hs => ih _ (h s x hs)

theorem foldl_mem (f : State → β → State) (h : ∀ s b, (f s b).mem = s.mem) (xs : List β) :
    ∀ s : State, (xs.foldl f s).mem = s.mem := by
  induction xs with
  | nil => exact fun _ => rfl
  | cons x xs ih => exact fun s => (ih _).trans (h s x)

/-! ### The monad -/

theorem keeps_pure (a : α) : Keeps (pure a : Exec α) := fun _ hs => hs
theorem keeps_throw (e : Stop) : Keeps (throw e : Exec α) := fun _ hs => hs
theorem keeps_trap (c : Nat) (v : Option Word) (v2 : Word) (st : Nat) : Keeps (trap c v v2 st : Exec α) := fun _ hs => hs
theorem keeps_idle : Keeps (idle : Exec α) := fun _ hs => hs
theorem keeps_get : Keeps (get : Exec State) := fun _ hs => hs
theorem keeps_getG (n : Reg) : Keeps (getG n) := fun _ hs => hs
theorem keeps_getCur : Keeps getCur := fun _ hs => hs
theorem keeps_getRegs : Keeps getRegs := fun _ hs => hs
theorem keeps_need (b : Bool) : Keeps (need b) := by cases b <;> exact fun _ hs => hs
theorem keeps_set {t : State} (h : t.wf = true) : Keeps (set t : Exec PUnit) := fun _ _ => h
theorem keeps_modify {f : State → State} (h : ∀ s, s.wf = true → (f s).wf = true) : Keeps (modify f : Exec PUnit) := h
theorem keeps_modify_mem {f : State → State} (h : ∀ s, (f s).mem = s.mem) : Keeps (modify f : Exec PUnit) :=
  fun s hs => wf_of_mem (h s) hs

theorem keeps_bind {x : Exec α} {f : α → Exec β} (hx : Keeps x) (hf : ∀ a, Keeps (f a)) : Keeps (x >>= f) := by
  intro s hs
  have h := hx s hs
  show Kept (EStateM.bind x f s)
  unfold EStateM.bind
  split
  · next a t e => rw [e] at h; exact hf a t h
  · next e t he => rw [he] at h; exact h

/-- After `get` the form is known of the state read. -/
theorem keeps_get_bind {f : State → Exec β} (hf : ∀ s, s.wf = true → Keeps (f s)) : Keeps (get >>= f) :=
  fun s hs => hf s hs s hs

theorem keeps_ite {p : Prop} [Decidable p] {x y : Exec α} (hx : Keeps x) (hy : Keeps y) : Keeps (if p then x else y) := by
  split <;> assumption

theorem keeps_putG (n : Reg) (x : Word) : Keeps (putG n x) := keeps_modify_mem (fun s => setG_mem s n x)
theorem keeps_modCur (f : Agent → Agent) : Keeps (modCur f) := keeps_modify_mem (fun _ => rfl)
theorem keeps_modRegs (f : Regs → Regs) : Keeps (modRegs f) := keeps_modify_mem (fun _ => rfl)
theorem keeps_modTower (w : Nat) (f : Tower → Tower) : Keeps (modTower w f) := keeps_modify_mem (fun _ => rfl)
theorem keeps_modCluster (g : Nat) (f : Cluster → Cluster) : Keeps (modCluster g f) := keeps_modify_mem (fun _ => rfl)
theorem keeps_modCore (k : Nat) (f : Core → Core) : Keeps (modCore k f) := keeps_modify_mem (fun _ => rfl)
theorem keeps_modStack (j : Nat) (f : Stack → Stack) : Keeps (modStack j f) := keeps_modify_mem (fun _ => rfl)
theorem keeps_modDev (f : Device → Device) : Keeps (modDev f) := keeps_modify_mem (fun _ => rfl)
theorem keeps_drawBit : Keeps drawBit := fun _ hs => hs
theorem keeps_drawRow : Keeps drawRow := fun _ hs => hs
theorem keeps_drawBelow (n : Nat) : Keeps (drawBelow n) := by
  unfold drawBelow; split <;> exact fun _ hs => hs

theorem keeps_each (xs : List α) {f : α → Exec Unit} (h : ∀ a, Keeps (f a)) : Keeps (each xs f) := by
  induction xs with
  | nil => exact keeps_pure _
  | cons x xs ih => exact keeps_bind (h x) (fun _ => ih)

theorem keeps_eachGet (xs : List α) {f : α → Exec β} (h : ∀ a, Keeps (f a)) : Keeps (eachGet xs f) := by
  induction xs with
  | nil => exact keeps_pure _
  | cons x xs ih => exact keeps_bind (h x) (fun _ => keeps_bind ih (fun _ => keeps_pure _))

theorem keeps_eachFold (xs : List α) {f : β → α → Exec β} (h : ∀ b a, Keeps (f b a)) : ∀ z, Keeps (eachFold xs z f) := by
  induction xs with
  | nil => exact fun _ => keeps_pure _
  | cons x xs ih => exact fun z => keeps_bind (h z x) (fun _ => ih _)

theorem keeps_shuffle (n : Nat) : ∀ xs : List α, Keeps (shuffle n xs) := by
  induction n with
  | zero => exact fun _ => keeps_pure _
  | succ n ih =>
    intro xs
    refine keeps_bind (keeps_drawBelow _) (fun k => ?_)
    split
    · exact keeps_pure _
    · exact keeps_bind (ih _) (fun _ => keeps_pure _)

theorem keeps_attempt {x : Exec α} (h : Keeps x) : Keeps (attempt x) := by
  intro s hs
  have hx := h s hs
  unfold attempt
  split
  · next a t e => rw [e] at hx; exact hx
  · next a t e => rw [e] at hx; exact hx

theorem focus_mem (s : State) (id : Nat) : (s.focus id).mem = s.mem := by
  unfold State.focus; split
  · rfl
  · split <;> rfl

theorem putAgent_mem (s : State) (a : Agent) : (s.putAgent a).mem = s.mem := by
  unfold State.putAgent; split
  · rfl
  · split <;> rfl

theorem keeps_asAgent (id : Nat) {x : Exec α} (h : Keeps x) : Keeps (asAgent id x) := by
  intro s hs
  unfold asAgent
  split
  · exact hs
  · have hx := h _ (wf_of_mem (focus_mem s id) hs)
    split
    · next a t e => rw [e] at hx; exact wf_of_mem (focus_mem t _) hx
    · next a t e => rw [e] at hx; exact wf_of_mem (focus_mem t _) hx

theorem keeps_eventStep {x : Exec Unit} (h : Keeps x) {s : State} (hs : s.wf = true) : (eventStep x s).wf = true := by
  have hx := h s hs
  unfold eventStep
  split
  · next a t e => rw [e] at hx; exact hx
  · next a t e => rw [e] at hx; exact hx

/-! ### L1 lines -/

theorem putMasked_wf {m : List Host.Cell} (line : Nat) (d : BitVec 512) (k : BitVec 64) (h : Memory.wf m = true) :
    Memory.wf (putMasked m line d k) = true := by
  unfold putMasked
  generalize maskBytes k = xs
  induction xs generalizing m with
  | nil => exact h
  | cons x xs ih => exact ih (memPut_wf _ _ _ h)

theorem logError_wf (s : State) (c u : Nat) (w d : Word) (hs : s.wf = true) : (s.logError c u w d).wf = true := by
  unfold State.logError
  dsimp only
  split
  · exact hs
  · unfold State.wf at *
    apply memPutNat_wf
    apply memPutNat_wf
    apply memPutNat_wf
    apply memPutNat_wf
    exact hs

theorem foundError_wf (s : State) (e : Latent) (hs : s.wf = true) : (s.foundError e).wf = true := by
  unfold State.foundError
  dsimp only
  split
  · exact logError_wf _ _ _ _ _ hs
  · exact hs

theorem foundIn_wf (s : State) (u : Option Nat) (hs : s.wf = true) : (s.foundIn u).wf = true := by
  unfold State.foundIn
  split
  · exact hs
  · exact foundError_wf _ _ hs

theorem findLines_wf (s : State) (a n : Nat) (hs : s.wf = true) : (s.findLines a n).wf = true := by
  unfold State.findLines State.findWhere
  exact foldl_wf _ foundError_wf _ s hs

@[simp] theorem cleanUnits_mem (s : State) (p : Nat → Bool) : (s.cleanUnits p).mem = s.mem := rfl
@[simp] theorem cleanUnits_cur (s : State) (p : Nat → Bool) : (s.cleanUnits p).cur = s.cur := rfl
@[simp] theorem cleanUnits_g (s : State) (p : Nat → Bool) (n : Reg) : (s.cleanUnits p).g n = s.g n := rfl

theorem keeps_orTrap (va : Word) (st : Nat) (x : Except AFault α) : Keeps (orTrap va st x) := by
  cases x
  · exact keeps_bind (keeps_modify (fun s hs => foundIn_wf s _ hs)) (fun _ => keeps_throw _)
  · exact keeps_pure _

theorem writeBack_wf (s : State) (g : Nat) (l : L1Line) (hs : s.wf = true) : (s.writeBack g l).wf = true := by
  unfold State.writeBack
  split
  · exact hs
  · dsimp only
    split
    · split
      · refine putMasked_wf _ _ _ ?_; split <;> exact hs
      · exact logError_wf _ _ _ _ _ hs
    · refine putMasked_wf _ _ _ ?_; split <;> exact hs

theorem flushLine_wf (s : State) (g pl : Nat) (hs : s.wf = true) : (s.flushLine g pl).wf = true := by
  unfold State.flushLine
  split
  · exact hs
  · exact writeBack_wf _ _ _ hs

theorem l1Insert_wf (s : State) (g : Nat) (l : L1Line) (hs : s.wf = true) : (s.l1Insert g l).wf = true := by
  unfold State.l1Insert
  split
  · exact hs
  · exact flushLine_wf _ _ _ hs

theorem limitDirty_wf (s : State) (g id pl : Nat) (hs : s.wf = true) : (s.limitDirty g id pl).wf = true := by
  unfold State.limitDirty
  split
  · exact hs
  · split
    · exact hs
    · exact writeBack_wf _ _ _ hs

theorem writeBackThread_wf (s : State) (g id : Nat) (hs : s.wf = true) : (s.writeBackThread g id).wf = true :=
  foldl_wf _ (fun s l => writeBack_wf s g l) _ s hs

theorem flushRanges_wf (s : State) (g : Nat) (rs : List WRange) (hs : s.wf = true) : (s.flushRanges g rs).wf = true := by
  unfold State.flushRanges
  exact foldl_wf _ (fun (s : State) (l : L1Line) hs => flushLine_wf s g l.pline hs) _ s hs

/-! ### Accesses -/

theorem keeps_anchor (va : Word) : Keeps (anchor va) := by
  unfold anchor
  split
  · split <;> exact keeps_modCur _
  · exact keeps_pure _

theorem keeps_pickPoint (p : Loose → Bool) (es : List Loose) : Keeps (pickPoint p es) :=
  keeps_bind (keeps_drawBelow _) (fun _ => keeps_pure _)

theorem keeps_noteSeen (p : Loose → Bool) (st k : Nat) : Keeps (noteSeen p st k) := keeps_modCur _

theorem keeps_noteShown (b : Bool) (p : Loose → Bool) : Keeps (noteShown b p) :=
  keeps_modify_mem (fun s => by split <;> rfl)

theorem keeps_seeWord (st : Nat) (b : Bool) (word : Nat) (now : BitVec 64) : Keeps (seeWord st b word now) :=
  keeps_bind keeps_getCur (fun _ => keeps_bind (keeps_pickPoint _ _) (fun _ => keeps_bind (keeps_noteSeen _ _ _)
    (fun _ => keeps_bind (keeps_noteShown _ _) (fun _ => keeps_pure _))))

theorem keeps_putWord (st : Nat) (b : Bool) (word : Nat) (m x y : BitVec 64) (at_ : Bool) (k cmd : Nat) :
    Keeps (putWord st b word m x y at_ k cmd) :=
  keeps_bind keeps_getCur (fun _ => keeps_bind (keeps_modCur _) (fun _ => keeps_pure _))

theorem keeps_storeWord (st : Nat) (b : Bool) (word : Nat) (m x y : BitVec 64) : Keeps (storeWord st b word m x y) :=
  keeps_bind keeps_getCur (fun _ => keeps_bind (keeps_pickPoint _ _) (fun _ => keeps_putWord _ _ _ _ _ _ _ _ _))

theorem keeps_putMem (loc : Nat) (ys : List Byte) :
    Keeps (modify (fun s => { s with mem := memPuts s.mem loc ys }) : Exec PUnit) :=
  keeps_modify (fun _ hs => memPuts_wf _ _ _ hs)

theorem keeps_seeBytes (st loc n : Nat) : Keeps (seeBytes st loc n) :=
  keeps_bind keeps_get (fun _ => keeps_bind (keeps_seeWord _ _ _ _) (fun _ => keeps_pure _))

theorem keeps_putBytes (st loc : Nat) (xs : List Byte) : Keeps (putBytes st loc xs) :=
  keeps_bind keeps_get (fun _ => keeps_bind (keeps_storeWord _ _ _ _ _ _) (fun _ => keeps_modify (fun s hs => by
    dsimp only; split <;> exact memPuts_wf _ _ _ hs)))

theorem keeps_seeLine (st line : Nat) : Keeps (seeLine st line) :=
  keeps_bind keeps_getCur (fun _ => keeps_bind (keeps_pickPoint _ _) (fun _ => keeps_bind (keeps_noteSeen _ _ _)
    (fun _ => keeps_bind (keeps_noteShown _ _) (fun _ => keeps_bind keeps_get (fun _ => keeps_pure _)))))

theorem keeps_checkPoison (st : Nat) (va : Word) (loc hops : Nat) : Keeps (checkPoison st va loc hops) := by
  unfold checkPoison
  refine keeps_get_bind (fun s hs => ?_)
  split
  · exact keeps_bind (keeps_set (foundError_wf _ _ hs)) (fun _ => keeps_throw _)
  · split
    · exact keeps_throw _
    · exact keeps_pure _

theorem keeps_checkSpan (st : Nat) (va : Word) (loc n hops : Nat) : Keeps (checkSpan st va loc n hops) := by
  unfold checkSpan
  refine keeps_bind keeps_get (fun s => ?_)
  split
  · exact keeps_pure _
  · exact keeps_each _ (fun _ => keeps_checkPoison _ _ _ _)

theorem keeps_checkSend (st : Nat) (va : Word) (loc : Nat) : Keeps (checkSend st va loc) := by
  unfold checkSend
  refine keeps_bind keeps_get (fun s => ?_)
  split
  · exact keeps_pure _
  · exact keeps_checkPoison _ _ _ _

theorem keeps_bridgeRead (a n : Nat) : Keeps (bridgeRead a n) := fun _ hs => hs
theorem keeps_bridgeWrite (id t a : Nat) (xs : List Byte) (va : Nat) : Keeps (bridgeWrite id t a xs va) := keeps_modify_mem (fun _ => rfl)

theorem keeps_touchLine (g pl : Nat) : Keeps (touchLine g pl) := by
  refine keeps_modify_mem (fun s => ?_)
  split <;> rfl

theorem keeps_readStaged (c : Ctx) (pl : Place) : Keeps (readStaged c pl) := by
  unfold readStaged
  refine keeps_bind keeps_get (fun s => ?_)
  dsimp only
  split
  · exact keeps_modTower _ _
  · exact keeps_pure _

theorem keeps_l1Load (c : Ctx) (g : Nat) (acc : Acc) (st : Nat) (va : Word) (pl : Place) (off n : Nat) :
    Keeps (l1Load c g acc st va pl off n) := by
  have fill : ∀ (loc hops : Nat) (pl : Place) (f : State → State), (∀ s, (f s).mem = s.mem) →
      Keeps (do checkPoison st va loc hops; readStaged c pl; modify f : Exec PUnit) := fun _ _ _ f h =>
    keeps_bind (keeps_checkPoison _ _ _ _) (fun _ => keeps_bind (keeps_readStaged _ _) (fun _ => keeps_modify_mem h))
  unfold l1Load
  refine keeps_bind keeps_get (fun s => ?_)
  dsimp only
  split
  · split
    · exact keeps_pure _
    · exact keeps_bind (keeps_orTrap _ _ _) (fun r => keeps_bind (fill _ _ _ _ (fun _ => rfl))
        (fun _ => keeps_pure _))
  · refine keeps_bind (keeps_orTrap _ _ _) (fun r => ?_)
    split
    · split
      · exact keeps_pure _
      · exact keeps_bind (fill _ _ _ _ (fun _ => rfl)) (fun _ => keeps_pure _)
    · exact keeps_bind (keeps_checkPoison _ _ _ _) (fun _ => keeps_bind (keeps_readStaged _ _) (fun _ =>
        keeps_bind (keeps_modify (fun s hs => wf_of_mem rfl (l1Insert_wf s _ _ hs))) (fun _ => keeps_pure _)))

theorem keeps_loadPiece (c : Ctx) (acc : Acc) (st : Nat) (a k : Nat) : Keeps (loadPiece c acc st a k) := by
  unfold loadPiece
  refine keeps_bind keeps_get (fun s => keeps_bind (keeps_orTrap _ _ _) (fun pl => ?_))
  split
  · exact keeps_bind (keeps_checkPoison _ _ _ _) (fun _ => keeps_bridgeRead _ _)
  · exact keeps_bind (keeps_checkPoison _ _ _ _) (fun _ => keeps_seeBytes _ _ _)
  · refine keeps_bind (keeps_l1Load _ _ _ _ _ _ _ _) (fun line => keeps_bind (keeps_touchLine _ _) (fun _ =>
      keeps_bind keeps_get (fun t => ?_)))
    split
    · exact keeps_pure _
    · dsimp only
      split
      · exact keeps_bind (keeps_throw _) (fun _ => keeps_bind (keeps_seeWord _ _ _ _) (fun _ => keeps_pure _))
      · exact keeps_bind (keeps_seeWord _ _ _ _) (fun _ => keeps_pure _)

theorem keeps_homePiece (c : Ctx) (acc : Acc) (st : Nat) (a k : Nat) : Keeps (homePiece c acc st a k) := by
  unfold homePiece
  refine keeps_bind keeps_get (fun s => keeps_bind (keeps_orTrap _ _ _) (fun pl => ?_))
  split
  · exact keeps_bind (keeps_checkPoison _ _ _ _) (fun _ => keeps_bridgeRead _ _)
  · exact keeps_bind (keeps_checkPoison _ _ _ _) (fun _ => keeps_seeBytes _ _ _)
  · exact keeps_bind (keeps_orTrap _ _ _) (fun r => keeps_bind (keeps_checkPoison _ _ _ _) (fun _ =>
      keeps_bind (keeps_readStaged _ _) (fun _ => keeps_seeBytes _ _ _)))

theorem keeps_passBar (st : Nat) : Keeps (passBar st) := keeps_bind keeps_getCur (fun _ => keeps_need _)

/-- A load keeps the form. -/
theorem keeps_loadNat (home : Bool) (st : Nat) (va : Word) (n : Nat) : Keeps (loadNat home st va n) := by
  unfold loadNat
  refine keeps_bind (keeps_passBar _) (fun _ => keeps_bind keeps_get (fun s => keeps_bind (keeps_eachGet _ (fun p => ?_))
    (fun _ => keeps_bind (keeps_anchor _) (fun _ => keeps_pure _))))
  exact keeps_ite (keeps_homePiece _ _ _ _ _) (keeps_loadPiece _ _ _ _ _)

theorem keeps_readLine (key : Nat × Nat) {x : Exec Nat} (h : Keeps x) (seen : LinesRead) : Keeps (readLine key x seen) := by
  unfold readLine
  split
  · exact keeps_pure _
  · exact keeps_bind h (fun _ => keeps_pure _)

theorem keeps_linePiece (st a k : Nat) (seen : LinesRead) : Keeps (linePiece st a k seen) := by
  unfold linePiece
  refine keeps_bind keeps_get (fun s => keeps_bind (keeps_orTrap _ _ _) (fun r => ?_))
  split
  dsimp only
  split
  · exact keeps_bind (keeps_checkPoison _ _ _ _) (fun _ => keeps_bind
      (keeps_readLine _ (keeps_bind (keeps_bridgeRead _ _) (fun _ => keeps_pure _)) _) (fun _ => keeps_pure _))
  · exact keeps_bind (keeps_checkSpan _ _ _ _ _) (fun _ => keeps_bind (keeps_readLine _
      (keeps_bind (keeps_readStaged _ _) (fun _ => keeps_bind (keeps_seeLine _ _) (fun _ => keeps_pure _))) _)
      (fun _ => keeps_pure _))

theorem keeps_lineParts (st : Nat) (xs : List (Nat × Nat)) : ∀ seen, Keeps (lineParts st xs seen) := by
  induction xs with
  | nil => exact fun _ => keeps_pure _
  | cons x xs ih => exact fun _ => keeps_bind (keeps_linePiece _ _ _ _) (fun _ => keeps_bind (ih _) (fun _ => keeps_pure _))

/-- A load by lines keeps the form. -/
theorem keeps_loadLines (st : Nat) (va : Word) (n : Nat) (seen : LinesRead) : Keeps (loadLines st va n seen) :=
  keeps_bind (keeps_passBar _) (fun _ => keeps_bind (keeps_lineParts _ _ _)
    (fun _ => keeps_bind (keeps_anchor _) (fun _ => keeps_pure _)))

theorem keeps_l1Store (c : Ctx) (g : Nat) (st : Nat) (va : Word) (pl : Place) : Keeps (l1Store c g st va pl) := by
  unfold l1Store
  refine keeps_get_bind (fun s hs => ?_)
  dsimp only
  split
  · exact keeps_pure _
  · refine keeps_bind (keeps_orTrap _ _ _) (fun r => ?_)
    split
    · exact keeps_pure _
    · exact keeps_bind (keeps_set (l1Insert_wf _ _ _ hs)) (fun _ => keeps_pure _)

theorem keeps_storePiece (c : Ctx) (st : Nat) (a : Nat) (xs : List Byte) : Keeps (storePiece c st a xs) := by
  unfold storePiece
  refine keeps_bind keeps_get (fun s => keeps_bind (keeps_orTrap _ _ _) (fun pl => ?_))
  split
  · exact keeps_bind (keeps_checkSend _ _ _) (fun _ => keeps_bridgeWrite _ _ _ _ _)
  · exact keeps_putBytes _ _ _
  · refine keeps_bind (keeps_l1Store _ _ _ _ _) (fun line => keeps_bind
      (keeps_modify (fun s hs => limitDirty_wf s _ _ _ hs)) (fun _ => keeps_bind keeps_get (fun t => ?_)))
    split
    · exact keeps_pure _
    · refine keeps_bind (keeps_pickPoint _ _) (fun k => ?_)
      split
      · exact keeps_bind (keeps_putWord _ _ _ _ _ _ _ _ _) (fun _ => keeps_modify (fun s hs => memPuts_wf _ _ _ hs))
      · exact keeps_bind (keeps_storeWord _ _ _ _ _ _) (fun _ => keeps_modify_mem (fun _ => rfl))

theorem keeps_homeStorePiece (c : Ctx) (acc : Acc) (st : Nat) (a : Nat) (xs : List Byte) :
    Keeps (homeStorePiece c acc st a xs) := by
  unfold homeStorePiece
  refine keeps_bind keeps_get (fun s => keeps_bind (keeps_orTrap _ _ _) (fun pl => ?_))
  split
  · exact keeps_bind (keeps_checkSend _ _ _) (fun _ => keeps_bridgeWrite _ _ _ _ _)
  · exact keeps_putBytes _ _ _
  · exact keeps_bind (keeps_orTrap _ _ _) (fun r => keeps_putBytes _ _ _)

theorem keeps_checkAccess (home : Bool) (acc : Acc) (st : Nat) (va : Word) (n : Nat) : Keeps (checkAccess home acc st va n) := by
  unfold checkAccess
  refine keeps_bind (keeps_passBar _) (fun _ => keeps_bind keeps_get (fun s => keeps_each _ (fun p =>
    keeps_bind (keeps_orTrap _ _ _) (fun _ => ?_))))
  split
  · exact keeps_bind (keeps_orTrap _ _ _) (fun _ => keeps_pure _)
  · exact keeps_pure _

/-- A store keeps the form. -/
theorem keeps_storeNat (home : Bool) (st : Nat) (va : Word) (n x : Nat) : Keeps (storeNat home st va n x) := by
  unfold storeNat
  refine keeps_bind (keeps_checkAccess _ _ _ _ _) (fun _ => keeps_bind keeps_get (fun s => keeps_bind (keeps_each _
    (fun p => ?_)) (fun _ => keeps_anchor _)))
  exact keeps_ite (keeps_homeStorePiece _ _ _ _ _) (keeps_storePiece _ _ _ _)

theorem keeps_checkPlace (acc : Acc) (st : Nat) (va : Word) : Keeps (checkPlace acc st va) :=
  keeps_bind (keeps_passBar _) (fun _ => keeps_bind keeps_get (fun _ => keeps_bind (keeps_orTrap _ _ _) (fun _ =>
    keeps_checkPoison _ _ _ _)))

theorem keeps_homePlace (drop : Bool) (acc : Acc) (st : Nat) (va : Word) : Keeps (homePlace drop acc st va) := by
  unfold homePlace
  refine keeps_bind (keeps_passBar _) (fun _ => keeps_bind keeps_get (fun s => keeps_bind (keeps_orTrap _ _ _) (fun r => ?_)))
  have rest : ∀ (pl : Place) (hops : Nat), Keeps (do
      checkPoison st va (pl.loc + wbits va 5 0) hops
      match pl.cls with
      | .bridge t a => return { loc := pl.loc + wbits va 5 0, cls := .bridge t a }
      | _ => return { pl with loc := pl.loc + wbits va 5 0 } : Exec Place) := by
    intro pl hops
    refine keeps_bind (keeps_checkPoison _ _ _ _) (fun _ => ?_)
    split <;> exact keeps_pure _
  split
  dsimp only
  split
  · refine keeps_bind (keeps_modify (fun t ht => ?_)) (fun _ => rest _ _)
    split
    · exact flushLine_wf _ _ _ ht
    · split
      · exact ht
      · exact writeBack_wf _ _ _ ht
  · exact rest _ _

theorem keeps_atomicPlace (acc : Acc) (st : Nat) (va : Word) : Keeps (atomicPlace acc st va) := keeps_homePlace _ _ _ _

theorem keeps_noteAwaited (loc : Nat) : Keeps (noteAwaited loc) := keeps_modCur _

theorem keeps_readPlace (st : Nat) (pl : Place) (n : Nat) : Keeps (readPlace st pl n) := by
  unfold readPlace
  split
  · exact keeps_bind (keeps_bridgeRead _ _) (fun _ => keeps_pure _)
  · exact keeps_bind (keeps_seeBytes _ _ _) (fun _ => keeps_pure _)

theorem keeps_writePlace (st : Nat) (pl : Place) (n x : Nat) : Keeps (writePlace st pl n x) := by
  unfold writePlace
  split
  · exact keeps_bind keeps_getCur (fun _ => keeps_bridgeWrite _ _ _ _ _)
  · exact keeps_putBytes _ _ _

/-- An atomic step on a word keeps the form. -/
theorem keeps_updateAt (va st : Nat) (pl : Place) (n m : Nat) (f : Nat → Option Nat) : Keeps (updateAt va st pl n m f) := by
  unfold updateAt
  split
  · refine keeps_bind (keeps_bridgeRead _ _) (fun xs => ?_)
    dsimp only
    split
    · exact keeps_bind (keeps_pure _) (fun _ => keeps_pure _)
    · exact keeps_bind keeps_getCur (fun _ => keeps_bind (keeps_bridgeWrite _ _ _ _ _) (fun _ => keeps_pure _))
  · refine keeps_bind keeps_getCur (fun a => keeps_bind (keeps_pickPoint _ _) (fun k => keeps_bind keeps_get (fun s => ?_)))
    dsimp only
    refine keeps_bind (keeps_noteShown _ _) (fun _ => ?_)
    split
    · exact keeps_bind (keeps_noteSeen _ _ _) (fun _ => keeps_pure _)
    · exact keeps_bind (keeps_noteSeen _ _ _) (fun _ => keeps_bind (keeps_putWord _ _ _ _ _ _ _ _ _) (fun _ =>
        keeps_bind (keeps_putMem _ _) (fun _ => keeps_pure _)))

theorem keeps_updatePlace (st : Nat) (pl : Place) (n m : Nat) (f : Nat → Option Nat) : Keeps (updatePlace st pl n m f) :=
  keeps_updateAt _ _ _ _ _ _

/-! ### Ordering -/

theorem publish_mem (s : State) (w scope : Nat) (es : List RangeEntry) : (s.publish w scope es).mem = s.mem := by
  unfold State.publish
  exact foldl_mem (fun (s : State) (k : Nat) => s.setTower k _) (fun _ _ => rfl) _ s

theorem publishPhys_mem (s : State) (b n : Nat) : (s.publishPhys b n).mem = s.mem := publish_mem _ _ _ _

theorem publishCmd_mem (s : State) (c : Cmd) (r : WRange) : (publishCmd s c r).mem = s.mem := by
  unfold publishCmd
  split
  · exact publish_mem _ _ _ _
  · rfl

theorem performAdd_wf (s : State) (u : BankAdd) (hs : s.wf = true) : (s.performAdd u).wf = true := by
  unfold State.performAdd
  dsimp only
  split
  · exact foundIn_wf _ _ hs
  · exact memPutNat_wf _ _ _ _ (foundIn_wf _ _ hs)

theorem keeps_record (st : Nat) (r : WRange) : Keeps (record st r) := by
  unfold record
  split
  · exact keeps_pure _
  · exact keeps_modCur _

theorem keeps_drainWhere (p : BankAdd → Bool) : Keeps (drainWhere p) := by
  unfold drainWhere
  refine keeps_bind keeps_get (fun s => ?_)
  dsimp only
  split
  · exact keeps_pure _
  · exact keeps_bind (keeps_shuffle _ _) (fun order => keeps_modify (fun t ht =>
      wf_of_mem (s := (order ++ (s.bank.filter p).filter BankAdd.inOrder).foldl State.performAdd t) rfl
        (foldl_wf _ performAdd_wf _ t ht)))

theorem keeps_drainBank (id : Nat) : Keeps (drainBank id) := keeps_drainWhere _

theorem keeps_release (scope : Nat) : Keeps (release scope) := by
  unfold release
  refine keeps_bind keeps_getCur (fun a => keeps_bind (keeps_drainBank _) (fun _ => keeps_modify (fun s hs => ?_)))
  exact wf_of_mem (publish_mem _ _ _ _) (writeBackThread_wf _ _ _ hs)

theorem keeps_invalidate (scope : Nat) : Keeps (invalidate scope) := by
  refine keeps_modify_mem (fun s => ?_)
  dsimp only
  split <;> rfl

theorem keeps_acquire (own : BitVec 13) (scope : Nat) : Keeps (acquire own scope) := by
  have rest : Keeps (do
      modify (fun s => { s with cur := { s.cur with loose := settleLoose (joinSeen own threadStreams s.cur.loose) } })
      invalidate scope : Exec Unit) := keeps_bind (keeps_modify_mem (fun _ => rfl)) (fun _ => keeps_invalidate _)
  unfold acquire
  dsimp only
  split
  · exact keeps_bind keeps_getCur (fun _ => keeps_bind (keeps_drainBank _) (fun _ => rest))
  · exact rest

theorem keeps_releaseIf (b : Bool) (scope : Nat) : Keeps (releaseIf b scope) := by
  cases b
  · exact keeps_pure _
  · exact keeps_bind keeps_get (fun _ => keeps_bind (keeps_need _) (fun _ => keeps_release _))

theorem keeps_acquireIf (b : Bool) (own : BitVec 13) (scope : Nat) : Keeps (acquireIf b own scope) := by
  cases b
  · exact keeps_pure _
  · exact keeps_acquire _ _

theorem keeps_fenceOrder (e l : BitVec 13) : Keeps (fenceOrder e l) := by
  have step1 : ∀ (b : Bool) (g : Nat) (t : State), t.wf = true →
      (if b = true then t.writeBackThread g t.cur.id else t).wf = true := by
    intro b g t ht; split
    · exact writeBackThread_wf _ _ _ ht
    · exact ht
  have order : Keeps (modify (fun s : State =>
      let g := s.myCluster
      let a := { s.cur with loose := joinLoose e l s.cur.loose }
      let s := { s with cur := a.readDone (fun t => t.snap.any (fun c => e.getLsbD c.stream)) }
      let h := s.cur.homeStreams
      let s := if l &&& h != 0 then s.writeBackThread g s.cur.id else s
      let s := if e &&& h != 0 && l &&& ~~~h != 0 then
          let hit := s.cur.fenceRanges.filter (fun x => e.getLsbD x.1)
          let s := s.flushRanges g (hit.map (fun x => x.2))
          { s with cur := { s.cur with fenceRanges := s.cur.fenceRanges.filter (fun x => !e.getLsbD x.1) } }
        else s
      if l &&& 0xFF0#13 != 0 then { s with cur := s.cur.dropAhead } else s) : Exec PUnit) := by
    refine keeps_modify (fun s hs => ?_)
    extract_lets g _ a s1 h s2 hit s3 b s4
    have w2 : s2.wf = true := step1 (l &&& h != 0) g s1 hs
    have w3 : s4.wf = true := by
      change State.wf (ite _ _ _) = true
      split
      · exact flushRanges_wf s2 g _ w2
      · exact w2
    split
    · exact w3
    · exact w3
  unfold fenceOrder
  dsimp only
  split
  · exact keeps_bind keeps_getCur (fun _ => keeps_bind (keeps_drainBank _) (fun _ => order))
  · exact order

/-! ### Exceptions, stops and the frame of an instruction -/

theorem enter_wf (s : State) (a b c d : Word) (k : Nat) (hs : s.wf = true) : (s.enter a b c d k).wf = true := by
  have h : (s.enter a b c d k).mem = memPutNat (memPutNat (memPutNat (memPutNat s.mem (frameLoc s.cur.id) 8
      (s.g 12).toNat) (frameLoc s.cur.id + 8) 8 (s.g 13).toNat) (frameLoc s.cur.id + 16) 8 (s.g 14).toNat)
      (frameLoc s.cur.id + 24) 8 (s.g 15).toNat := by
    unfold State.enter
    simp
  unfold State.wf at *
  rw [h]
  exact memPutNat_wf _ _ _ _ (memPutNat_wf _ _ _ _ (memPutNat_wf _ _ _ _ (memPutNat_wf _ _ _ _ hs)))

theorem leave_mem (s : State) : s.leave.mem = s.mem := by unfold State.leave; simp

theorem keeps_takeException (a b c d : Word) (k : Nat) : Keeps (takeException a b c d k) := by
  unfold takeException
  refine keeps_get_bind (fun s hs => ?_)
  split
  · exact keeps_throw _
  · split
    · exact keeps_throw _
    · exact keeps_set (enter_wf _ _ _ _ _ _ hs)

@[simp] theorem handPort_mem (s : State) (g : Nat) : (s.handPort g).mem = s.mem := by
  unfold State.handPort
  dsimp only
  split
  · split
    · rfl
    · split
      · exact putAgent_mem _ _
      · rfl
  · rfl

theorem handPorts_mem (s : State) (g : Nat) : (s.handPorts g).mem = s.mem :=
  foldl_mem (fun (s : State) (_ : Nat) => s.handPort g) (fun s _ => handPort_mem s g) _ s

theorem releasePort_mem (s : State) (h : Nat) : (s.releasePort h).mem = s.mem := by
  unfold State.releasePort State.freePort
  simp

theorem handChannel_mem (s : State) (u : Nat) : (s.handChannel u).mem = s.mem := by
  unfold State.handChannel
  split <;> rfl

theorem dropCmds_mem (s : State) (l : Nat) : (s.dropCmds l).mem = s.mem :=
  foldl_mem (fun (s : State) (c : Cmd) => s.handChannel c.unit) (fun s c => handChannel_mem s c.unit) _ _

theorem freeLaunch_mem (s : State) (l : Nat) : (s.freeLaunch l).mem = s.mem :=
  foldl_mem (fun (u : State) (e : Nat × Cluster) => u.handPorts e.1) (fun u e => handPorts_mem u e.1) _ _

theorem dropHandles_mem (s : State) : s.dropHandles.mem = s.mem := by
  unfold State.dropHandles
  refine foldl_mem (fun (s : State) (h : Nat) => (s.setHandle h { s.handle h with ahead := [] }).releasePort h)
    (fun s h => ?_) _ s
  rw [releasePort_mem, setHandle_mem]

theorem keeps_saveThread (st : Status) : Keeps (saveThread st) := by
  unfold saveThread
  refine keeps_bind keeps_getCur (fun a => keeps_bind (keeps_drainBank _) (fun _ => keeps_bind (keeps_modify (fun s hs =>
    wf_of_mem (dropHandles_mem _) (writeBackThread_wf _ _ _ hs))) (fun _ => keeps_bind (keeps_modCur _) (fun _ =>
    keeps_get_bind (fun s hs => ?_)))))
  dsimp only
  split
  · refine keeps_bind (keeps_modify (fun _ ht => findLines_wf _ _ _ ht)) (fun _ => keeps_bind (keeps_throw _) (fun _ => keeps_set ?_))
    unfold State.wf at *
    dsimp only
    apply memPuts_wf
    exact hs
  · refine keeps_set ?_
    unfold State.wf at *
    dsimp only
    apply memPuts_wf
    exact hs

theorem keeps_endInstance (a b c : Word) : Keeps (endInstance a b c) := by
  unfold endInstance
  refine keeps_bind (keeps_modCur _) (fun _ => keeps_bind (keeps_modCur _) (fun _ => keeps_modify_mem (fun s => ?_)))
  unfold State.noteFault
  split <;> rfl

theorem clearPendingBit_wf (s : State) (a : Agent) (hs : s.wf = true) : (s.clearPendingBit a).wf = true :=
  memPut_wf _ _ _ hs

theorem writeState_wf (s : State) (l : Launch) (st c : Nat) (hs : s.wf = true) : (s.writeState l st c).wf = true := by
  unfold State.writeState
  dsimp only
  split
  · exact wf_putNat (s := s) rfl hs
  · exact hs

theorem keeps_giveUp (c : Cmd) : Keeps (giveUp c) := by
  unfold giveUp
  refine keeps_bind keeps_get (fun s => ?_)
  split
  · split
    · exact keeps_bridgeWrite _ _ _ _ _
    · exact keeps_modify (fun s hs => wf_putNat (s := s) rfl hs)
    · exact keeps_pure _
  · exact keeps_pure _

theorem keeps_releaseLaunch (l : Nat) : Keeps (releaseLaunch l) :=
  keeps_bind keeps_get (fun _ => keeps_each _ (fun _ => keeps_asAgent _ (keeps_release _)))

/-- Stopping a launch keeps the form. -/
theorem keeps_stopLaunch (l c : Nat) : Keeps (stopLaunch l c) := by
  unfold stopLaunch
  refine keeps_bind keeps_get (fun s => ?_)
  split
  · refine keeps_bind (keeps_each _ keeps_giveUp) (fun _ => keeps_bind (keeps_modify_mem (fun s => dropCmds_mem s _)) (fun _ =>
      keeps_bind (keeps_modify_mem (fun _ => rfl)) (fun _ => keeps_bind (keeps_releaseLaunch _) (fun _ => keeps_bind (keeps_modify (fun s hs => foldl_wf _ (fun s a hs => ?_) _ s hs))
        (fun _ => keeps_modify (fun s hs => ?_))))))
    · split
      · exact clearPendingBit_wf _ _ hs
      · exact hs
    · split
      · exact hs
      · exact wf_of_mem (freeLaunch_mem _ _) (writeState_wf s _ _ _ hs)
  · exact keeps_modCur _

theorem keeps_postRecord (t : Trap) (v pc : Word) : Keeps (postRecord t v pc) := by
  unfold postRecord
  refine keeps_bind (keeps_modify_mem (fun _ => rfl)) (fun _ => keeps_get_bind (fun s hs => ?_))
  dsimp only
  split
  · exact keeps_bind (keeps_modify (fun _ ht => findLines_wf _ _ _ (findLines_wf _ _ _ ht))) (fun _ => keeps_throw _)
  · refine keeps_set (wf_of_mem ((publishPhys_mem _ _ _).trans ((publishPhys_mem _ _ _).trans (publishPhys_mem _ _ _))) ?_)
    unfold State.wf at *
    dsimp only
    apply memPutNat_wf
    apply memPut_wf
    apply memPuts_wf
    exact hs

theorem keeps_pagerRoute (t : Trap) (v : Word) : Keeps (pagerRoute t v) := by
  unfold pagerRoute
  refine keeps_bind keeps_getCur (fun a => ?_)
  dsimp only
  split
  · exact keeps_bind (keeps_saveThread _) (fun _ => keeps_postRecord _ _ _)
  · exact keeps_bind (keeps_modCur _) (fun _ => keeps_postRecord _ _ _)

/-- Taking a trap by any route keeps the form. -/
theorem keeps_takeTrap (t : Trap) (i : Instr) : Keeps (takeTrap t i) := by
  unfold takeTrap
  refine keeps_bind (keeps_modCur _) (fun _ => keeps_bind keeps_get (fun s => ?_))
  dsimp only
  split
  · exact keeps_pagerRoute _ _
  · split
    · exact keeps_takeException _ _ _ _ _
    · exact keeps_takeException _ _ _ _ _
    · exact keeps_endInstance _ _ _

/-- Whatever becomes of a computation, the state it leaves has the form. -/
theorem settle_wf (i : Instr) {x : Exec Unit} (h : Keeps x) {s : State} (hs : s.wf = true) : (settle i x s).wf = true := by
  have hx := h s hs
  have stop : ∀ (c : Nat) (u : State), u.wf = true → (eventStep (stopLaunch u.cur.launch c) u).wf = true :=
    fun c u hu => keeps_eventStep (keeps_stopLaunch _ _) hu
  unfold settle
  dsimp only
  split
  · next t e => rw [e] at hx; exact hx
  · next t u e =>
    rw [e] at hx
    have ht := keeps_takeTrap t i u hx
    split
    · next v e2 => rw [e2] at ht; exact ht
    · next c v e2 => rw [e2] at ht; exact stop _ _ ht
    · next v e2 => rw [e2] at ht; exact ht
  · next w u e => rw [e] at hx; exact hx
  · next c u e => rw [e] at hx; exact stop _ _ hx
  · next u e => rw [e] at hx; exact hx

/-- The outcome of a step is a next state with the form. -/
def NextWf (o : Host.Outcome State Fault Refusal) : Prop := ∀ t, o = .next t → t.wf = true

theorem nextWf_next {t : State} (h : t.wf = true) : NextWf (.next t) := by
  intro u hu
  cases hu
  exact h

theorem event_wf {x : Exec Unit} (h : Keeps x) {s : State} (hs : s.wf = true) : NextWf (event x s) :=
  nextWf_next (keeps_eventStep h hs)

theorem agentEvent_wf (id : Nat) (i : Instr) {x : Exec Unit} (h : Keeps x) {s : State} (hs : s.wf = true) :
    NextWf (agentEvent id i x s) := by
  unfold agentEvent
  split
  · exact nextWf_next hs
  · exact nextWf_next (wf_of_mem (focus_mem _ _) (settle_wf i h (wf_of_mem (focus_mem _ _) hs)))

theorem retire_mem (s : State) (i : Instr) (f : Flow) : (s.retire i f).mem = s.mem := by
  have ha : s.advance.mem = s.mem := by unfold State.advance; dsimp only; split <;> (try split) <;> rfl
  have hp : ∀ t : State, (t.stepTrap i).mem = t.mem := by intro t; unfold State.stepTrap; split <;> rfl
  unfold State.retire
  split
  · rw [hp, ha]
  · rw [hp]; rfl
  · rfl

/-- The frame of an instruction keeps the form where its body does. -/
theorem insn_wf (c : Who) (i : Instr) {body : Exec Flow} (h : Keeps body) {s : State} (hs : s.wf = true) :
    NextWf (insn c i body s) := by
  unfold insn
  split
  · exact nextWf_next hs
  · refine nextWf_next (settle_wf i ?_ hs)
    split
    · exact keeps_bind h (fun f => keeps_modify_mem (fun s => retire_mem s i f))
    · exact keeps_trap _ _ _ _

theorem plain_wf (c : Who) (i : Instr) {f : State → State} (h : ∀ s, (f s).mem = s.mem) {s : State} (hs : s.wf = true) :
    NextWf (plain c i f s) :=
  insn_wf c i (keeps_bind (keeps_modify_mem h) (fun _ => keeps_pure _)) hs

theorem keeps_finishCut : Keeps finishCut := by
  unfold finishCut
  refine keeps_bind keeps_getCur (fun a => ?_)
  split
  · exact keeps_pure _
  · refine keeps_bind keeps_getRegs (fun r => ?_)
    split
    · exact keeps_bind (keeps_saveThread _) (fun _ => keeps_idle)
    · exact keeps_modCur _

theorem keeps_queued (pipe : Nat) (i : Instr) {body : Exec Unit} (h : Keeps body) : Keeps (queued pipe i body) :=
  keeps_bind keeps_get (fun _ => keeps_bind h (fun _ => keeps_modify_mem (fun _ => rfl)))

/-- The frame of a vector instruction keeps the form where its body does. -/
theorem vinsn_wf (pipe : Nat) (i : Instr) {body : Exec Unit} (h : Keeps body) {s : State}
    (hs : s.wf = true) : NextWf (vinsn pipe i body s) := by
  refine insn_wf .threadOnly i ?_ hs
  refine keeps_bind keeps_getCur (fun a => ?_)
  have rest : Keeps (do queued pipe i body; finishCut; return Flow.seq : Exec Flow) :=
    keeps_bind (keeps_queued pipe i h) (fun _ => keeps_bind keeps_finishCut (fun _ => keeps_pure _))
  have cut : Keeps (do
      if !cuttable i then modCur (fun a => { a with cut := none })
      queued pipe i body; finishCut; return Flow.seq : Exec Flow) := by
    dsimp only
    split
    · exact keeps_bind (keeps_modCur _) (fun _ => rest)
    · exact rest
  dsimp only
  split
  · exact keeps_bind (keeps_throw _) (fun _ => cut)
  · exact cut

/-! ### Vector operands and results -/

theorem keeps_setVstart (x : Nat) : Keeps (setVstart x) := keeps_modRegs _
theorem keeps_vstartBad : Keeps (vstartBad : Exec α) := keeps_bind keeps_getRegs (fun _ => keeps_trap _ _ _ _)
theorem keeps_mismatch (a b d : Option Reg) : Keeps (mismatch a b d : Exec α) := keeps_bind keeps_get (fun _ => keeps_trap _ _ _ _)

theorem keeps_checkSource (v : Reg) : Keeps (checkSource v) := by
  refine keeps_bind keeps_get (fun s => ?_)
  dsimp only
  split
  · exact keeps_trap _ _ _ _
  · exact keeps_pure _

theorem keeps_needGroup (f : Fmt) : Keeps (needGroup f) := by
  refine keeps_bind keeps_getRegs (fun r => ?_)
  split
  · exact keeps_trap _ _ _ _
  · exact keeps_pure _

theorem keeps_checkAlign (vd : Reg) (f : Fmt) (g : Nat) : Keeps (checkAlign vd f g) := by
  unfold checkAlign
  split
  · exact keeps_trap _ _ _ _
  · exact keeps_pure _

theorem keeps_checkDest (vd : Reg) (f : Fmt) : Keeps (checkDest vd f) :=
  keeps_bind (keeps_needGroup _) (fun _ => keeps_bind (keeps_checkAlign _ _ _) (fun _ => keeps_pure _))

theorem keeps_checkLoadDest (vd : Reg) : Keeps (checkLoadDest vd) := by
  refine keeps_bind keeps_getRegs (fun r => ?_)
  split
  · exact keeps_trap _ _ _ _
  · exact keeps_pure _

theorem keeps_needStartZero : Keeps needStartZero := by
  refine keeps_bind keeps_getRegs (fun r => ?_)
  split
  · exact keeps_vstartBad
  · exact keeps_pure _

theorem keeps_checkRestart (vd : Reg) (f : Fmt) (g : Nat) (srcs : List Reg) : Keeps (checkRestart vd f g srcs) := by
  refine keeps_bind keeps_get (fun s => ?_)
  dsimp only
  split
  · split
    · exact keeps_bind keeps_vstartBad (fun _ => keeps_modCur _)
    · exact keeps_modCur _
  · exact keeps_pure _

theorem keeps_needRows (n : Nat) : Keeps (needRows n) := by
  refine keeps_bind keeps_get (fun s => ?_)
  split
  · exact keeps_bind (keeps_modCur _) (fun _ => keeps_throw _)
  · exact keeps_modCur _

theorem mapRows_mem (s : State) (vd : Nat) (f : Fmt) (g lo hi : Nat) : (s.mapRows vd f g lo hi).mem = s.mem :=
  foldl_mem _ (fun s _ => setV_mem s _ _) _ s

theorem keeps_takeRows (vd : Nat) (f : Fmt) (g lo hi : Nat) : Keeps (takeRows vd f g lo hi) :=
  keeps_bind keeps_get (fun _ => keeps_bind (keeps_needRows _) (fun _ => keeps_modify_mem (fun s => mapRows_mem s _ _ _ _ _)))

theorem keeps_takeRowsTwo (vd : Nat) (f : Fmt) (g vb : Nat) (f' : Fmt) (g' lo hi : Nat) :
    Keeps (takeRowsTwo vd f g vb f' g' lo hi) :=
  keeps_bind keeps_get (fun _ => keeps_bind (keeps_needRows _) (fun _ =>
    keeps_modify_mem (fun s => (mapRows_mem _ _ _ _ _ _).trans (mapRows_mem s _ _ _ _ _))))

theorem keeps_writeGroup (vd : Nat) (f : Fmt) (g lo len : Nat) (xs : List (Nat × Nat)) : Keeps (writeGroup vd f g lo len xs) :=
  keeps_modify_mem (fun s => by
    dsimp only
    refine foldl_mem _ (fun t j => ?_) _ s
    exact setV_mem t _ _)

theorem setScale_mem (s : State) (vd : Nat) (x : BitVec 512) : (s.setScale vd x).mem = s.mem := by
  unfold State.setScale
  dsimp only
  split
  · exact setV_mem s _ _
  · exact setV_mem s _ _

theorem keeps_writeScales (vd : Nat) (ws : List (Nat × Nat)) : Keeps (writeScales vd ws) :=
  keeps_modify_mem (fun s => by
    dsimp only
    split
    · rfl
    · exact setScale_mem s _ _)

theorem keeps_trimScales (vd len : Nat) : Keeps (trimScales vd len) := by
  refine keeps_modify_mem (fun s => ?_)
  split
  · rfl
  · exact setScale_mem s _ _

theorem keeps_writePred (pd : Reg) (len : Nat) (xs : List (Nat × Bool)) : Keeps (writePred pd len xs) := by
  refine keeps_modify_mem (fun s => ?_)
  split <;> rfl

theorem keeps_flags (xs : List (Nat × Events)) : Keeps (flags xs) :=
  keeps_modify_mem (fun s => foldl_mem _ (fun s e => by unfold State.flag; dsimp only; split <;> rfl) _ s)

theorem keeps_endStrip : Keeps endStrip := keeps_bind keeps_get (fun _ => keeps_setVstart _)

theorem keeps_writeResult (vd : Reg) (f : Fmt) (g : Nat) (rs : List (Nat × Nat × Events)) : Keeps (writeResult vd f g rs) :=
  keeps_bind keeps_getRegs (fun _ => keeps_bind (keeps_takeRows _ _ _ _ _) (fun _ => keeps_bind (keeps_writeGroup _ _ _ _ _ _)
    (fun _ => keeps_bind (keeps_flags _) (fun _ => keeps_endStrip))))

end Sys2Proof.Laws
end

