-- ==== Sys2Proof/Tests/Slice0.lean ====
section
/-! SUPPORT. Tests: words refused by WellFormed, words decoded, single steps, and a witness for the hypotheses of each
statement. -/

set_option Elab.async false

namespace Sys2Proof.Tests

open Sys2Proof Sys2Proof.Machine

/-! ## Small states -/

/-- Thread 0 of tower 0 in user mode, at pc 0x1000 of a page mapped to frame 0x10000. -/
def thread0 : State := State.reset.probe 0

/-- The MCC of cluster 0. -/
def mcc0 : State := State.reset.probe 0x9C000000

/-- Scalar registers set. -/
def gs (xs : List (Nat × Word)) (s : State) : State := xs.foldl (fun s e => s.setG (BitVec.ofNat 5 e.1) e.2) s

/-- Control registers changed. -/
def regs (f : Regs → Regs) (s : State) : State := s.setRegs (f s.regs)

/-- Bytes put into memory. -/
def bytes (at_ : Nat) (xs : List Byte) (s : State) : State := { s with mem := memPuts s.mem at_ xs }

/-- In supervisor mode. -/
def super (s : State) : State := regs (fun r => { r with kstatus := 0x11 }) s

/-- With an event pending. -/
def eventful (s : State) : State := { s with cur := { s.cur with pending := [{ code := 0x09, val := 1, val2 := 2 }] } }

/-- The state an instruction or step leads to. -/
def nextOf (o : Out) : State :=
  match o with
  | .next t => t
  | .fault _ => State.reset
  | .refused _ => State.reset

/-- The computation completes, and its answer and state are as wanted. -/
def gives {α : Type} (x : Exec α) (s : State) (p : α → State → Bool) : Bool :=
  match x s with
  | .ok a t => p a t
  | .error _ _ => false

/-- The computation stops as wanted. -/
def stops {α : Type} (x : Exec α) (s : State) (p : Stop → State → Bool) : Bool :=
  match x s with
  | .ok _ _ => false
  | .error e t => p e t

/-- The state after a computation. -/
def after {α : Type} (x : Exec α) (s : State) : State :=
  match x s with
  | .ok _ t => t
  | .error _ t => t

/-- The instruction leads to a state as wanted. -/
def leads (o : Out) (p : State → Bool) : Bool :=
  match o with
  | .next t => p t
  | .fault _ => false
  | .refused _ => false

/-- An address translates, to a place as wanted. -/
def reaches (s : State) (acc : Acc) (va : Word) (p : Place → Bool) : Bool :=
  match translate s s.ctx acc va with
  | .ok pl => p pl
  | .error _ => false

/-! ## Witnesses: scalar integers and control -/

theorem thread0_runs : thread0.runs .any ∧ thread0.runs .threadOnly :=
  ⟨⟨by decide +kernel, by decide +kernel⟩, ⟨by decide +kernel, by decide +kernel⟩⟩

theorem mcc0_runs : mcc0.runs .any ∧ mcc0.runs (.only .mcc) :=
  ⟨⟨by decide +kernel, by decide +kernel⟩, ⟨by decide +kernel, by decide +kernel⟩⟩

/-- ScalarIntegers, ImmediateShifts, SelAndConstant, ConditionalBranches: `thread0_runs`, with no active LOOPV. -/
theorem witness_noLoop : thread0.runs .any ∧ thread0.regs.loopCtl.toNat % 64 = 0 := ⟨thread0_runs.1, by decide +kernel⟩

theorem witness_ScalarDivision_zero : (gs [(1, -7)] thread0).runs .any ∧ (gs [(1, -7)] thread0).g 2 = 0 :=
  ⟨⟨by decide +kernel, by decide +kernel⟩, by decide +kernel⟩
def divExtreme : State := gs [(1, 0x8000000000000000), (2, -1)] thread0
theorem witness_ScalarDivision_extreme : divExtreme.runs .any ∧ divExtreme.g 1 = 0x8000000000000000 ∧
    divExtreme.g 2 = 0xFFFFFFFFFFFFFFFF := ⟨⟨by decide +kernel, by decide +kernel⟩, by decide +kernel⟩
def divPlain : State := gs [(1, 0x8000000000000000), (2, 1)] thread0
theorem witness_ScalarDivision_plain : divPlain.runs .any ∧ divPlain.g 2 ≠ 0 ∧
    ¬(divPlain.g 1 = 0x8000000000000000 ∧ divPlain.g 2 = 0xFFFFFFFFFFFFFFFF) :=
  ⟨⟨by decide +kernel, by decide +kernel⟩, by decide +kernel⟩

/-- At the last word of a one-word LOOPV body counted by g5. -/
def lastWord (n : Word) : State := gs [(5, n)] (regs (fun r => { r with loopAddr := 0x1000, loopCtl := 5 * 64 + 1 }) thread0)
/-- The end of the body, with `n` left in the counting register. -/
def atEnd (n : Word) : Bool :=
  let s := lastWord n
  s.regs.loopCtl.toNat % 64 != 0 && s.cur.pc == s.regs.loopAddr + 4 * BitVec.ofNat 64 (s.regs.loopCtl.toNat % 64 - 1) &&
  s.g (BitVec.ofNat 5 (s.regs.loopCtl.toNat / 64)) == n
theorem witness_EndOfInstruction : atEnd 0 = true ∧ atEnd 1 = true := by decide +kernel

def vl3 (f : Nat) (s : State) : State := regs (fun r => { r with vl := 0x30003, vtype := BitVec.ofNat 64 (512 * f + 32) }) s
theorem witness_PredicateBranches : (vl3 6 thread0).runs .threadOnly ∧
    (2 < (vl3 6 thread0).regs.vl.toNat % 2048 ∧ ((vl3 6 thread0).p 0).getLsbD 2 = true) ∧
    (∀ k, k < (vl3 6 thread0).regs.vl.toNat % 2048 → ((vl3 6 thread0).p 0).getLsbD k = true) ∧
    (∀ k, k < (vl3 6 thread0).regs.vl.toNat % 2048 → ((vl3 6 thread0).p 1).getLsbD k = false) :=
  ⟨⟨by decide +kernel, by decide +kernel⟩, by decide +kernel⟩

/-- add g1, g1, g1 at the next two words. -/
def body2 (s : State) : State := bytes 0x10004 (leBytes 4 0x04210800 ++ leBytes 4 0x04210800) s
def loopStarts (n : Word) : Bool :=
  let s := gs [(5, n)] (body2 thread0)
  s.regs.loopCtl.toNat % 64 == 0 && gives (readBody (s.cur.pc + 4) 2) s (fun ws u => ws.length == 2 && u.g 5 == n)
theorem witness_LoopStart : loopStarts 0 = true ∧ loopStarts 7 = true := by decide +kernel
theorem witness_LoopActive : (lastWord 1).runs .threadOnly ∧ (lastWord 1).regs.loopCtl.toNat % 64 ≠ 0 :=
  ⟨⟨by decide +kernel, by decide +kernel⟩, by decide +kernel⟩

/-! ## Witnesses: scalar floating point and memory -/

theorem witness_ScalarFloat : (decodeFloat 6 0x7FC00000).isNan = true ∧ (decodeFloat 6 0x3F800000).isNan = false ∧
    (gs [(1, 0x7FC00000), (2, 0x3F800000)] thread0).runs .threadOnly :=
  ⟨by decide +kernel, by decide +kernel, ⟨by decide +kernel, by decide +kernel⟩⟩
theorem witness_ScalarConversions : (∀ x ∈ [(5 : BitVec 4), 8], 5 ≤ x.toNat ∧ x.toNat ≤ 8) ∧
    (∀ f ∈ [(5 : Nat), 10], 5 ≤ f ∧ f ≤ 10 ∧ (decodeFloat f (Fmt.nan f)).isNan = true ∧ (decodeFloat f 0).isNan = false ∧
      Fmt.nan f < 2 ^ Fmt.bits f) ∧ (thread0.rnd 0 0).fz = false ∧ (thread0.rnd 0 0).mode ≤ 4 := by decide +kernel

/-- A word of data at 0x1100, and a pointer to it in g1. -/
def data1 : State := gs [(1, 0x1100), (2, 0x80F1)] (bytes 0x10100 (leBytes 8 0x1122334455667788) thread0)
theorem witness_ScalarLoads : ∀ n ∈ [1, 2, 4, 8],
    gives (loadNat false 0 (data1.g 1 + (0 : BitVec 13).signExtend 64) n) data1 (fun x _ => x == 0x1122334455667788 % 256 ^ n) = true := by
  decide +kernel
theorem witness_ScalarStores : ∀ n ∈ [1, 2, 4, 8],
    gives (do storeNat false 0 (data1.g 1 + (0 : BitVec 13).signExtend 64) n ((data1.g 2).toNat % 2 ^ (8 * n))
              record 0 { base := 0x1100, stride := n, count := 1, width := n, home := false }) data1
      (fun _ v => v.cur.ranges.length == 1) = true := by decide +kernel
theorem witness_Scratchpad : thread0.wf = true ∧ thread0.cur.kind = .thread ∧ thread0.cur.loose = [] ∧
    thread0.cur.holds = [] ∧ 2 ^ 18 - 8 + 8 ≤ 2 ^ 18 := by decide +kernel

/-- The line of 0x1100 in the L1, read, then written. -/
def hit1 : State := after (loadNat false 0 0x1100 8) data1
def hit2 : State := after (storeNat false 0 0x1100 8 5) data1
theorem witness_LoadHitsL1 : hit1.cur.loose = [] ∧ hit1.cur.holds = [] ∧ isWindow 0x1100 = false ∧
    reaches hit1 .load 0x1100 (fun pl => pl.cls == .dram && (match hit1.l1? hit1.myCluster (pl.loc / 64) with
      | some l => (List.range 8).all (fun k => l.valid.getLsbD (0 + k))
      | none => false)) = true := by decide +kernel
def joined2 : State := { hit2 with cur := { hit2.cur with loose := [] } }
theorem witness_StoreHitsL1 : joined2.cur.loose = [] ∧ joined2.cur.holds = [] ∧
    reaches joined2 .store 0x1100 (fun pl => pl.cls == .dram && !isMarked joined2 (pl.loc / 64) &&
      (match joined2.l1? joined2.myCluster (pl.loc / 64) with
      | some l => l.threads.contains joined2.cur.id
      | none => false)) = true := by decide +kernel
theorem witness_HomeLoads : gives (loadNat true 0 0x1100 8) data1 (fun x _ => x == 0x1122334455667788) = true ∧
    stops (loadNat true 0 0x5000 8) data1 (fun _ _ => true) = true := by decide +kernel

/-- A pointer at 0x1100 to the line of 0x1140, which is marked and forwards to 0x1180. -/
def moved1 : State :=
  let s := gs [(1, 0x1100), (2, 0x1148), (3, 0x1188)] (bytes 0x10100 (leBytes 8 0x1148) (bytes 0x10140 (leBytes 8 0x1180) thread0))
  { s with marks := [0x10140 / 64] }
theorem witness_PointerLoads : ((gs [(1, 0x1101)] thread0).g 1).toNat % 8 ≠ 0 ∧ (moved1.g 1).toNat % 8 = 0 ∧
    gives (do let p ← loadNat false 0 (moved1.g 1) 8
              let q ← resolvePointer (BitVec.ofNat 64 p)
              healPointer (moved1.g 1) (BitVec.ofNat 64 p) q
              return q) moved1 (fun q _ => q == 0x1188) = true ∧
    gives (do let p ← loadNat false 0 (data1.g 1) 8
              return (p, ← resolvePointer (BitVec.ofNat 64 p))) data1 (fun e _ => e.2 == BitVec.ofNat 64 e.1) = true := by
  decide +kernel
theorem witness_PointersResolve : moved1.g 2 ≠ moved1.g 3 ∧
    gives (do let p ← resolvePointer (moved1.g 2)
              let q ← resolvePointer (moved1.g 3)
              return p == q) moved1 (fun b _ => b) = true ∧
    reaches moved1 .load 0x1188 (fun pl => pl.cls == .dram && !isMarked moved1 (pl.loc / 64)) = true := by decide +kernel


/-! ## Witnesses: atomics, tickets, waits, fences, barriers -/

/-- Words 3 and 10 at 0x1100 and 0x1108, 32-bit words 3 and 10 at 0x1110; a pointer to the first in g1. -/
def words1 (b : Word) : State :=
  gs [(1, 0x1100), (2, b)] (bytes 0x10100 (leBytes 8 3 ++ leBytes 8 10 ++ leBytes 4 3 ++ leBytes 4 10) thread0)

/-- The accesses of an atomic of `n` bytes at `va`: its release, place, anchor and read. -/
def atomicReads (acc : Acc) (va : Word) (n : Nat) : Exec (Place × Nat) := do
  releaseIf true 2
  let pl ← atomicPlace acc 0 va
  anchor va
  return (pl, ← readPlace 0 pl n)
theorem witness_Atomics : (∀ n ∈ [4, 8], (0x1100 : Word).toNat % n = 0 ∧
    gives (atomicReads .atomic 0x1100 n) (words1 9) (fun e u => e.2 == 3 && u.wf && u.cur.loose == [] && e.1.cls == .dram) = true) ∧
    (∀ n ∈ [4, 8], (0x1101 : Word).toNat % n ≠ 0) ∧ (0x1108 : Word).toNat % 16 ≠ 0 := by decide +kernel

/-- A ticket of 8-byte words: next 3, limit 10. -/
def ticketReads : Exec (Nat × Nat) := do
  let (pl, next) ← atomicReads .atomic 0x1100 8
  return (next, ← readPlace 0 { pl with loc := pl.loc + 8 } 8)
theorem witness_Tickets : gives ticketReads (words1 7) (fun e u => e == (3, 10) && u.wf && u.cur.loose == []) = true ∧
    3 + ((words1 7).g 2).toNat ≤ 10 ∧ ¬3 + ((words1 8).g 2).toNat ≤ 10 ∧ ((words1 0).g 2).toNat = 0 := by decide +kernel

theorem witness_WaitOnAddress : gives (atomicReads .wait 0x1100 8) (words1 3) (fun e _ => e.2 == 3) = true ∧
    gives (atomicReads .wait 0x1100 8) (words1 4) (fun e _ => e.2 == 3) = true ∧ (words1 4).cur.kind ≠ .dispatcher ∧
    ((words1 4).sleep .waita (.waita 3 1 2 false true 2 true)).retry 0 = words1 4 := by decide +kernel

/-- The waits: an agent put to sleep stands in its wait, and executes its instruction again in the state it slept in. -/
theorem sleep_waits (s : State) (w : Wait) (i : Instr) : (s.sleep w i).waitsIn s.cur.id w i := by
  refine ⟨(s.sleep w i).cur, ?_, rfl⟩
  simp [State.sleep, State.agent?]
theorem sleep_retry (s : State) (w : Wait) (i : Instr) (h : s.cur.status = .running) (c : s.cur.waitSince = s.clock) :
    (s.sleep w i).retry s.cur.id = s := by
  have e : (s.sleep w i).focus s.cur.id = s.sleep w i := by simp [State.focus, State.sleep]
  simp only [State.retry, e]
  obtain ⟨cur⟩ := s
  cases cur
  simp_all [State.sleep]

/-- Thread 1 of the core beside thread 0. -/
def pair : State := thread0.putAgent { Agent.fresh 1 .thread with status := .running }
theorem witness_Fences : thread0.runs .any ∧ thread0.myTower < 12 ∧ thread0.nothingSent := ⟨thread0_runs.1, by decide +kernel⟩
theorem witness_Barriers : pair.runs .threadOnly ∧ gives (releaseIf true 2) pair (fun _ u => !u.allArrived 0) = true ∧
    gives (releaseIf true 2) thread0 (fun _ u => u.allArrived 3) = true ∧
    (thread0.sleep .barrier (.barrier 3 false false 0)).retry 0 = thread0 :=
  ⟨⟨by decide +kernel, by decide +kernel⟩, by decide +kernel⟩

/-! ## Witnesses: vector length, registers -/

theorem witness_VectorLength : ∀ e ∈ [(0x1820, true), (0x1A20, false), (0x1860, false), (0x1821, false)],
    (e.1 / 512 % 16 ≤ 12 ∧ e.1 / 32 % 4 ≠ 3 ∧ e.1 % 32 = 0 ↔ e.2 = true) := by decide +kernel
theorem witness_Retag : thread0.runs .threadOnly ∧ thread0.cur.vqueue.length < 32 ∧ (1 : Reg).toNat % 2 ^ (1 : BitVec 2).toNat ≠ 0 ∧
    (8 : Reg).toNat % 2 ^ (3 : BitVec 2).toNat = 0 ∧ (24 : Reg).toNat % 2 ^ (3 : BitVec 2).toNat = 0 ∧
    (List.range 8).foldl (fun n j => n + newRows (thread0.v (8 + j)) (retagMember thread0 24 6 8 j)) 0 ≤ thread0.rowsFree := ⟨thread0_runs.2, by decide +kernel⟩

/-- v1 and v2 hold three INT32 elements each; g1 points to the scratchpad. -/
def ints : State :=
  let s := gs [(1, 0x00FE000000000000), (2, 0x00FE000000000001), (3, 1), (4, 8)] (vl3 3 thread0)
  let r (x : Nat) : VReg := { VReg.fresh with tag := mkTag 3 1, wlen := 3, image := BitVec.ofNat 4096 x, rows := 1 }
  (s.setV 1 (r (1 + 2 * 2 ^ 32 + 3 * 2 ^ 64))).setV 2 (r (4 + 2 * 2 ^ 32 + (2 ^ 32 - 1) * 2 ^ 64))
def spilled : State := nextOf (exec (.vspill 1 1) ints)
def saved1 : State := nextOf (exec (.vsave 5 1) (gs [(1, 0x00FE000000000000)] thread0))
theorem witness_Spill : (1 : Reg).toNat % tagGroup (ints.tag 1) = 0 ∧ (ints.g 1).toNat % 64 = 0 ∧ (ints.g 2).toNat % 64 ≠ 0 ∧
    gives (storeBytes (ints.g 1) (ints.spillBytes 1 3)) ints.uncut.committed (fun _ _ => true) = true ∧
    gives (storeBytes (ints.g 1) ints.vareaBytes) { ints with cur := { ints.cur with vqueue := [] } } (fun _ _ => true) = true := by
  decide +kernel
theorem witness_RestoreFrame : gives (do
      let head ← loadBytes (spilled.g 1) 64
      let (v, f, g, _, len) := frameHead head
      return (head, v, g, ← loadBytes (spilled.g 1 + 64) (frameSize f len - 64))) { spilled with cur := { spilled.cur with vqueue := [] } }
    (fun e u => areaNat e.1 0 1 == 2 && frameOk e.1 && decide ((List.range e.2.2.1).foldl (fun n j => n +
      newRows (u.v (e.2.1 + j)) (frameMember (e.1 ++ e.2.2.2) j)) 0 ≤ u.rowsFree)) = true := by decide +kernel
theorem witness_RestoreArea : gives (do
      let head ← loadBytes (saved1.g 1) 64
      let desc := head ++ (← loadBytes (saved1.g 1 + 64) 128)
      return (head, desc, ← loadBytes (saved1.g 1 + 192) (areaNat desc 48 8 - 192))) { saved1 with cur := { saved1.cur with vqueue := [] } }
    (fun e u => areaNat e.1 0 1 == 1 && vareaOk e.2.1 && decide (u.vareaNew (e.2.1 ++ e.2.2) ≤ u.rowsFree)) = true := by
  decide +kernel
theorem witness_RestoreBad : gives (loadBytes (ints.g 1) 64) ints (fun head _ => areaNat head 0 1 == 0) = true := by decide +kernel

/-! ## Witnesses: vector arithmetic -/

theorem ints_runs : ints.runs .threadOnly := ⟨by decide +kernel, by decide +kernel⟩
theorem witness_VectorIntegers : VectorReady ints 3 [1, 2] 3 1 ints.regs.start ints.regs.len ∧ mayRestart ints 3 [1, 2] 3 1 ∧
    promote 3 3 = 3 ∧ Fmt.isInt 3 = true ∧ ints.opFmt [1, 2, 3] = 3 :=
  ⟨⟨ints_runs, by decide +kernel, by decide +kernel, by decide +kernel, by decide +kernel, by decide +kernel, by decide +kernel⟩,
    .inl (by decide +kernel), by decide +kernel⟩
theorem witness_Vmacc : VectorReady ints 2 [1, 2, 2] 3 1 ints.regs.start ints.regs.len ∧ mayRestart ints 2 [1, 2, 2] 3 1 :=
  ⟨⟨ints_runs, by decide +kernel, by decide +kernel, by decide +kernel, by decide +kernel, by decide +kernel, by decide +kernel⟩,
    .inl (by decide +kernel)⟩

/-- v1 and v2 hold three FP32 elements each. -/
def floats : State :=
  let s := gs [(1, 1)] (vl3 6 thread0)
  let r (x : Nat) : VReg := { VReg.fresh with tag := mkTag 6 1, wlen := 3, image := BitVec.ofNat 4096 x, rows := 1 }
  ((s.setV 1 (r (0x3F800000 + 0x40000000 * 2 ^ 32 + 0x7FC00000 * 2 ^ 64))).setV 2
    (r (0x40400000 + 0x40000000 * 2 ^ 32 + 0x3F800000 * 2 ^ 64))).setV 3 (r 0)
theorem floats_runs : floats.runs .threadOnly := ⟨by decide +kernel, by decide +kernel⟩
theorem witness_VectorFloats : (∀ srcs ∈ [[(1 : Reg)], [1, 2], [1, 2, 3]], floats.opFmt srcs = 6) ∧ Fmt.isFloat 6 = true ∧
    VectorReady floats 3 [1, 2, 3] 6 1 floats.regs.start floats.regs.len ∧ mayRestart floats 3 [1, 2, 3] 6 1 :=
  ⟨by decide +kernel, by decide +kernel,
    ⟨floats_runs, by decide +kernel, by decide +kernel, by decide +kernel, by decide +kernel, by decide +kernel, by decide +kernel⟩,
    .inl (by decide +kernel)⟩
theorem witness_VectorClass : VectorReady floats 4 [1] (classFmt 6) 1 floats.regs.start floats.regs.len :=
  ⟨floats_runs, by decide +kernel, by decide +kernel, by decide +kernel, by decide +kernel, by decide +kernel, by decide +kernel⟩
theorem witness_VectorConvert : VectorReady ints 4 [1] 3 1 ints.regs.start ints.regs.len ∧ ints.regs.fmt = 3 ∧ Fmt.isBlock 3 = false ∧
    Fmt.isInt 3 = true ∧ Fmt.bits 3 ≤ Fmt.bits 3 :=
  ⟨⟨ints_runs, by decide +kernel, by decide +kernel, by decide +kernel, by decide +kernel, by decide +kernel, by decide +kernel⟩, by decide +kernel⟩
theorem witness_ConvertWithResidual : VectorReady floats 4 [1] 6 1 floats.regs.start floats.regs.len ∧
    VectorReady floats 5 [1] 6 1 floats.regs.start floats.regs.len ∧ (4 : Reg).toNat + 1 ≤ (5 : Reg).toNat ∧
    floats.rowsWanted 4 6 1 0 3 + floats.rowsWanted 5 6 1 0 3 ≤ floats.rowsFree :=
  ⟨⟨floats_runs, by decide +kernel, by decide +kernel, by decide +kernel, by decide +kernel, by decide +kernel, by decide +kernel⟩,
    ⟨floats_runs, by decide +kernel, by decide +kernel, by decide +kernel, by decide +kernel, by decide +kernel, by decide +kernel⟩, by decide +kernel⟩

/-- The cause of the trap of R160's checks: a misaligned source, a class refused, no group, a misaligned destination, a VSTART inside. -/
def caught (s : State) (whole : Bool) (srcs : List Reg) (legal : Bool) (dests : List (Reg × Fmt)) : Nat :=
  match s.checkTrap whole srcs legal 0 dests with
  | none => 0
  | some x => match x s with
    | .error (.trap t) _ => t.cause
    | _ => 1
def checks (s : State) (whole : Bool) (srcs : List Reg) (legal : Fmt → Bool) (d : Reg) : Nat :=
  caught s whole srcs (legal (s.opFmt srcs)) [(d, s.opFmt srcs)]
def retagged (f g : Nat) (s : State) : State := s.setV 1 { s.v 1 with tag := mkTag f g }
def typed (t : Nat) (s : State) : State := regs (fun r => { r with vtype := BitVec.ofNat 64 t }) s
def inside (s : State) : State := regs (fun r => { r with vstart := 1 }) s
theorem witness_CheckTraps :
    checks (retagged 3 2 ints) false [1, 2] Fmt.isInt 3 = 0x41 ∧ checks floats false [1, 2] Fmt.isInt 3 = 0x05 ∧
    checks floats false [1, 2, 3] Fmt.isInt 3 = 0x05 ∧ checks (typed (512 + 3 * 128 + 32) (retagged 4 1 ints)) false [1, 2] Fmt.isInt 8 = 0x42 ∧
    checks (typed (3 * 512 + 128 + 32) ints) false [1, 2] Fmt.isInt 3 = 0x41 ∧
    checks (inside (retagged 1 1 ints)) false [1, 2] Fmt.isInt 1 = 0x49 ∧
    checks ints false [1] Fmt.isFloat 3 = 0x05 ∧ checks ints false [1, 2] Fmt.isFloat 3 = 0x05 ∧ checks ints false [1, 2, 3] Fmt.isFloat 3 = 0x05 ∧
    caught ints false [1] (Fmt.isFloat (ints.opFmt [1])) [(3, classFmt (ints.opFmt [1]))] = 0x05 ∧
    checks (inside ints) true [1] (fun _ => true) 3 = 0x49 ∧ caught floats true [1, 2] (Fmt.isInt (tagFmt (floats.tag 2))) [(3, 6)] = 0x05 ∧
    caught (typed (11 * 512 + 32) ints) false [] (!Fmt.isBlock 11) [(3, 11)] = 0x05 ∧ caught (retagged 3 2 ints) false [1] true [] = 0x41 ∧
    checks floats true [1, 2] Fmt.isInt 3 = 0x05 ∧ checks ints true [1, 2] Fmt.isFloat 3 = 0x05 ∧
    checks (inside ints) true [1, 2] (fun _ => true) 3 = 0x49 ∧ caught (retagged 3 2 ints) false [1, 2] true [] = 0x41 := by decide +kernel
theorem witness_ConversionTraps : caught (typed (11 * 512 + 32) ints) false [1] (!Fmt.isBlock 11) [(3, 11)] = 0x05 ∧
    caught ints false [1] (Fmt.isBlock (tagFmt (ints.tag 1))) [(3, 6)] = 0x05 ∧
    caught floats false [1] (Fmt.isInt (tagFmt (floats.tag 1)) && Fmt.isInt floats.regs.fmt) [(3, 6)] = 0x05 ∧
    caught ints false [1] (Fmt.isFloat (tagFmt (ints.tag 1)) && Fmt.isFloat ints.regs.fmt) [(3, 3), (4, 3)] = 0x05 := by decide +kernel

/-- One block: VL 32 in BFP8 over an FP32 source group; v8 holds a block. -/
def blocks : State :=
  let s := regs (fun r => { r with vl := 0x200020, vtype := BitVec.ofNat 64 (512 * 11 + 32) }) thread0
  let r : VReg := { VReg.fresh with tag := mkTag 6 1, wlen := 32, image := 0x3F800000, rows := 3 }
  (s.setV 1 r).setV 8 { r with tag := mkTag 11 1, scaleRow := true, scale := 0x7F7F }
theorem blocks_runs : blocks.runs .threadOnly := ⟨by decide +kernel, by decide +kernel⟩
theorem witness_Quantize : VectorReady blocks 3 [1] blocks.regs.fmt 1 blocks.regs.start blocks.regs.len ∧
    quantSource (tagFmt (blocks.tag 1)) = true ∧ Fmt.isBlock blocks.regs.fmt = true ∧ blocks.regs.start % 32 = 0 ∧
    0 < blocks.regs.len / 32 ∧ 31 < 1 * capacity blocks.regs.fmt :=
  ⟨⟨blocks_runs, by decide +kernel, by decide +kernel, by decide +kernel, by decide +kernel, by decide +kernel, by decide +kernel⟩, by decide +kernel⟩
theorem witness_QuantizeTraps : caught ints false [1] (quantSource (tagFmt (ints.tag 1)) && Fmt.isBlock ints.regs.fmt) [] = 0x05 ∧
    caught blocks false [1] (quantSource (tagFmt (blocks.tag 1)) && Fmt.isBlock blocks.regs.fmt) [] = 0 ∧
    blocks.regs.destGroup blocks.regs.fmt = some 1 ∧ (inside blocks).regs.start % 32 ≠ 0 ∧
    (typed (11 * 512 + 128 + 32) blocks).regs.destGroup 11 = some 2 ∧ (3 : Reg).toNat % 2 ≠ 0 := by decide +kernel
theorem witness_Dequantize : VectorReady blocks 4 [8] 6 4 blocks.regs.start blocks.regs.len ∧ Fmt.isBlock (tagFmt (blocks.tag 8)) = true :=
  ⟨⟨blocks_runs, by decide +kernel, by decide +kernel, by decide +kernel, by decide +kernel, by decide +kernel, by decide +kernel⟩, by decide +kernel⟩
theorem witness_QuantizedBlock : (List.replicate 32 (Val.fin false 1 0)).length = 32 ∧
    (∀ x ∈ List.replicate 32 (Val.fin false 1 0), x = .fin false 1 0) ∧ Val.nan ∈ Val.nan :: List.replicate 31 (Val.fin false 1 0) := by
  decide +kernel

/-! ## Witnesses: predicates, permutes, reductions -/

theorem witness_VectorPredicates : ints.runs .threadOnly ∧ ints.cur.vqueue.length < 32 ∧ ints.cur.cut = none ∧ (1 : Reg).toNat % tagGroup (ints.tag 1) = 0 ∧
    (2 : Reg).toNat % tagGroup (ints.tag 2) = 0 := ⟨ints_runs, by decide +kernel⟩
theorem witness_Moves : VectorReady ints 3 [1, 2] (ints.moveFmt 1) 1 0 ints.regs.len ∧ ints.regs.start = 0 ∧
    Fmt.isInt (tagFmt (ints.tag 2)) = true ∧ Fmt.isBlock ints.regs.fmt = false ∧ VectorReady ints 3 [] 3 1 0 3 ∧
    (1 : Reg).toNat % tagGroup (ints.tag 1) = 0 :=
  ⟨⟨ints_runs, by decide +kernel, by decide +kernel, by decide +kernel, by decide +kernel, by decide +kernel, by decide +kernel⟩, by decide +kernel,
    by decide +kernel, by decide +kernel,
    ⟨ints_runs, by decide +kernel, by decide +kernel, by decide +kernel, by decide +kernel, by decide +kernel, by decide +kernel⟩, by decide +kernel⟩
theorem witness_Reductions : VectorReady ints 3 [1, 2] 3 1 0 ints.regs.len ∧ ints.opFmt [1, 2] = 3 ∧ ints.opFmt [2] = 3 ∧
    VectorReady floats 4 [1, 2] 6 1 0 floats.regs.len ∧ floats.regs.start = 0 :=
  ⟨⟨ints_runs, by decide +kernel, by decide +kernel, by decide +kernel, by decide +kernel, by decide +kernel, by decide +kernel⟩, by decide +kernel,
    by decide +kernel, ⟨floats_runs, by decide +kernel, by decide +kernel, by decide +kernel, by decide +kernel, by decide +kernel, by decide +kernel⟩,
    by decide +kernel⟩
theorem witness_Prune : VectorReady ints 3 [1] (ints.moveFmt 1) 1 0 (2 * ((ints.regs.len + 3) / 4)) ∧ ints.regs.start = 0 ∧
    0 < (ints.regs.len + 3) / 4 ∧ 2 * 0 + 1 < 1 * capacity (ints.moveFmt 1) :=
  ⟨⟨ints_runs, by decide +kernel, by decide +kernel, by decide +kernel, by decide +kernel, by decide +kernel, by decide +kernel⟩, by decide +kernel⟩


/-! ## Witnesses: vector memory -/

/-- Where a window address stands, and that it names the thread's scratchpad. -/
def padLoc (s : State) (va : Word) : Nat := 2 ^ 44 + placeCore s.cur.id * 2 ^ 18 + (va - 0x00FE000000000000).toNat
theorem inScratchpad_of (s : State) (va : Word) (n : Nat) (h : (va - 0x00FE000000000000).toNat + n ≤ 2 ^ 18) :
    s.inScratchpad va n (padLoc s va) := ⟨(va - 0x00FE000000000000).toNat, by
    rw [BitVec.ofNat_toNat, BitVec.setWidth_eq]; bv_omega, h, rfl⟩

/-- Three INT32 elements to load: bases at 0x1100, at the end of the page and in the scratchpad; v5 holds offsets. -/
def mem3 : State :=
  let s := gs [(1, 0x1100), (2, 0x1FF8), (3, 4), (4, 0x00FE000000000000), (5, 0x1102)] (bytes 0x10100 (leBytes 8 7) ints)
  s.setV 5 { VReg.fresh with tag := mkTag 3 1, wlen := 3, image := BitVec.ofNat 4096 (4 * 2 ^ 32 + 8 * 2 ^ 64), rows := 1 }
theorem mem3_runs : mem3.runs .threadOnly := ⟨by decide +kernel, by decide +kernel⟩
theorem mem3_ready : LoadReady mem3 3 := ⟨mem3_runs, by decide +kernel, by decide +kernel, by decide +kernel, by decide +kernel⟩

/-- A load's reads give as many elements as wanted, and its rows are free. -/
def readsAll (s : State) (d n : Nat) (f : Nat → Exec (Nat × Option (Nat × Nat))) : Bool :=
  gives (do releaseIf false 0
            upToFault f (s.actives 0)) s.noStall (fun e u => e.1.length == n && e.2.isNone &&
    decide (u.rowsWanted d u.regs.fmt u.regs.group u.regs.start u.regs.len ≤ u.rowsFree))
def plainRead (va : Nat → Word) (i : Nat) : Exec (Nat × Option (Nat × Nat)) := do
  return (← readElem false 1 3 (va i) i (fun e => serves 1 (fun k => k) va [0, 1, 2] e i), none)
theorem witness_VectorLoads :
    readsAll mem3 3 3 (readWithScale false 1 3 3 (mem3.actives 0) (unitAddr 3 0x1100) (fun b => 2 * BitVec.ofNat 64 b) 0) = true ∧
    readsAll mem3 3 3 (plainRead (fun i => mem3.g 1 + BitVec.ofNat 64 i * mem3.g 3)) = true ∧
    readsAll mem3 3 3 (plainRead (unitAddr 3 0x1100)) = true ∧ mem3.actives 0 = [0, 1, 2] ∧ mem3.passes 1 := by decide +kernel
theorem witness_IndexedLoads : (5 : Reg).toNat % tagGroup (mem3.tag 5) = 0 ∧ Fmt.isInt (tagFmt (mem3.tag 5)) = true ∧
    mem3.passes 2 ∧ readsAll mem3 3 3 (fun i => do
      let loc ← laneLoc 2 4 i (BitVec.ofNat 64 (mem3.elem 5 i))
      checkPoison 2 (BitVec.ofNat 64 (mem3.elem 5 i)) loc
      return (leNat (← seeBytes 2 loc 4), none)) = true ∧
    gives (do releaseIf false 0
              gatherElems 3 (fun i => i * max (Fmt.bits 3) (mem3.widest [5]) / 512)
                (fun i => mem3.g 1 + BitVec.ofNat 64 (mem3.elem 5 i)) (mem3.actives 0) []) mem3.noStall (fun e u =>
      e.1.length == 3 && e.2.isNone && decide (u.rowsWanted 3 3 1 0 3 ≤ u.rowsFree)) = true := by decide +kernel
theorem witness_VldffStops : gives (do
      releaseIf false 0
      upToFault (plainRead (unitAddr 3 (mem3.g 2))) (mem3.actives 0)) mem3.noStall
    (fun e u => e.1.length == 2 && (match e.2 with | some (k, _) => k == 2 | none => false) &&
      decide (u.rowsWanted 3 u.regs.fmt u.regs.group u.regs.start 2 ≤ u.rowsFree)) = true := by decide +kernel
theorem witness_VectorLoadFaults : gives (do
      releaseIf false 0
      upToFault (readWithScale false 1 3 3 (mem3.actives 0) (unitAddr 3 (mem3.g 2)) (fun b => 2 * BitVec.ofNat 64 b) 0)
        (mem3.actives 0)) mem3.noStall
    (fun e _ => e.1.length == 2 && (match e.2 with | some (k, .trap _) => k == 2 | _ => false)) = true ∧
    mem3.regs.len ≤ mem3.regs.group * capacity mem3.regs.fmt := by decide +kernel

/-- VTYPE BFP8 and VL 32, scale words at 0x1102. -/
def memBlock : State := regs (fun r => { r with vl := 0x200020, vtype := BitVec.ofNat 64 (512 * 11 + 32) }) mem3
theorem memBlock_ready : LoadReady memBlock 3 :=
  ⟨⟨by decide +kernel, by decide +kernel⟩, by decide +kernel, by decide +kernel, by decide +kernel, by decide +kernel⟩
theorem witness_BlockLoad : Fmt.isBlock memBlock.regs.fmt = true ∧ (5 : Reg) ≠ 0 ∧ (memBlock.g 5).toNat % 2 = 0 ∧
    readsAll memBlock 3 32 (readWithScale false 1 11 32 (memBlock.actives 0) (unitAddr 11 0x1100)
      (fun b => memBlock.g 5 + 2 * BitVec.ofNat 64 b) 0) = true := by decide +kernel

/-- VSTART at VL. -/
def past : State := regs (fun r => { r with vstart := 3 }) mem3
theorem witness_EmptyAccesses : past.runs .threadOnly ∧ past.cur.vqueue.length < 32 ∧ past.regs.len ≤ past.regs.start ∧
    (3 : Reg).toNat % past.regs.group = 0 ∧ past.rowsWanted 3 past.regs.fmt past.regs.group past.regs.len past.regs.len ≤ past.rowsFree ∧
    past.rowsWanted 3 past.regs.fmt past.regs.group past.regs.start past.regs.len ≤ past.rowsFree :=
  ⟨⟨by decide +kernel, by decide +kernel⟩, by decide +kernel⟩

theorem witness_VectorStores : mem3.runs .threadOnly ∧ mem3.passes 1 ∧ mem3.regs.start < mem3.regs.len ∧ (1 : Reg).toNat % tagGroup (mem3.tag 1) = 0 ∧
    gives (storeWithScale false 1 3 1 3 3 (mem3.actives 0) (unitAddr 3 0x1100) (fun b => 2 * BitVec.ofNat 64 b) 0 (fun last =>
      record 1 { base := (unitAddr 3 0x1100 0).toNat, stride := elemBytes 3, count := min last 3 - 0, width := elemBytes 3,
                 home := false })) mem3.uncut.committed (fun _ _ => true) = true ∧
    gives (storeWithScale false 1 3 1 3 3 (mem3.actives 0) (fun i => 0x1100 + BitVec.ofNat 64 i * mem3.g 3) (fun _ => 0) 0 (fun last =>
      record 1 (strideRange (0x1100 + BitVec.ofNat 64 0 * mem3.g 3) (mem3.g 3) (last - 0) (elemBytes 3) false))) mem3.uncut.committed
      (fun _ _ => true) = true := ⟨mem3_runs, by decide +kernel⟩
def storeBlock : State := memBlock.setV 8 { VReg.fresh with tag := mkTag 11 1, wlen := 32, image := 1, rows := 1, scaleRow := true }
theorem witness_BlockStore : Fmt.isBlock (tagFmt (storeBlock.tag 8)) = true ∧ (8 : Reg).toNat % tagGroup (storeBlock.tag 8) = 0 ∧
    gives (storeWithScale false 1 11 8 32 32 (storeBlock.actives 0) (unitAddr 11 0x1100)
      (fun b => storeBlock.g 5 + 2 * BitVec.ofNat 64 b) 0 (fun last => do
        let hi := min last 32
        if 0 < hi then record 1 (spanRange (unitAddr 11 0x1100 0).toNat ((hi - 1) * Fmt.bits 11 / 8 + 1 - 0 * Fmt.bits 11 / 8) false)
        if 0 < hi then record 1 (spanRange (storeBlock.g 5).toNat (2 * ((hi - 1) / 32 + 1 - 0)) false))) storeBlock.uncut.committed
      (fun _ _ => true) = true := by decide +kernel

/-- A scalar load noted, which a vector store that follows may go before. -/
theorem witness_NotedLoad : (nextOf (exec (.ldd 3 1 0) data1)).cur.lateRead.isSome = true := by decide +kernel
/-- An indexed store to generic memory, and to the lane slices. -/
def scatters (ls : Bool) : Bool := gives (do
    let addr (i : Nat) : Word := mem3.g (if ls then 0 else 1) + BitVec.ofNat 64 (mem3.elem 5 i)
    drainBank mem3.cur.id
    scatterElems 3 (mem3.actives 0)
      (fun i => if ls then laneLoc 3 4 i (addr i) else do
        checkAccess true .store 3 (addr i) 4
        return 0)
      (fun i loc => if ls then putBytes 3 loc (leBytes 4 (mem3.elem 1 i)) else storeNat true 3 (addr i) 4 (mem3.elem 1 i))
      (fun _ done => if ls then pure () else do
        clearCovered 4 (fun i => i * max (Fmt.bits 3) (mem3.widest [5]) / 512) (done.map (fun e => (e.1, addr e.1)))
        recordSpan 3 4 (done.map (fun e => (addr e.1).toNat)))) mem3.uncut.committed (fun _ _ => true)
theorem witness_IndexedStores : mem3.passes 3 ∧ (5 : Reg).toNat % tagGroup (mem3.tag 5) = 0 ∧ Fmt.isInt (tagFmt (mem3.tag 5)) = true ∧
    Fmt.isBlock (tagFmt (mem3.tag 1)) = false ∧ scatters false = true ∧ scatters true = true := by decide +kernel

/-- Nothing in a state is in error. -/
theorem clean_of (s : State) (h : s.poison = []) (l : s.latent = []) (loc n : Nat) : s.cleanBytes loc n := by
  intro k _
  simp [h, l]
/-- Where an element's bytes stand in its lane's slice. -/
def laneAt (s : State) (w k : Nat) (va : Word) : Nat := 2 ^ 47 + (16 * placeCore s.cur.id + k * w % 64 / 4) * 2 ^ 14 + va.toNat
theorem witness_Lanes : (∀ k ∈ mem3.actives 0, mem3.inLane (elemBytes 3) k (mem3.g 0 + BitVec.ofNat 64 (mem3.elem 5 k))
      (laneAt mem3 (elemBytes 3) k (mem3.g 0 + BitVec.ofNat 64 (mem3.elem 5 k)))) ∧
    (∀ k ∈ mem3.actives 0, ∀ loc, mem3.cleanBytes loc (elemBytes 3)) := by
  refine ⟨fun k hk => ⟨?_, ?_, rfl⟩, fun k _ loc => clean_of mem3 (by decide +kernel) (by decide +kernel) loc _⟩ <;>
    (revert k; decide +kernel)

/-- The three addresses of each form lie in the scratchpad. -/
theorem witness_VectorScratchpad : mem3.settled ∧ mem3.cur.reassembly = [] ∧
    (∀ k ∈ mem3.actives 0, mem3.inScratchpad (mem3.g 4 + BitVec.ofNat 64 (k * Fmt.bits 3 / 8)) (elemBytes 3)
      (padLoc mem3 (mem3.g 4 + BitVec.ofNat 64 (k * Fmt.bits 3 / 8)))) ∧
    (∀ k ∈ mem3.actives 0, mem3.inScratchpad (mem3.g 4 + BitVec.ofNat 64 k * mem3.g 3) (elemBytes 3)
      (padLoc mem3 (mem3.g 4 + BitVec.ofNat 64 k * mem3.g 3))) ∧
    (∀ k ∈ mem3.actives 0, mem3.inScratchpad (mem3.g 4 + BitVec.ofNat 64 (mem3.elem 5 k)) (elemBytes 3)
      (padLoc mem3 (mem3.g 4 + BitVec.ofNat 64 (mem3.elem 5 k)))) ∧
    mem3.bank.filter (fun b => b.agent == mem3.cur.id) = [] :=
  ⟨⟨by decide +kernel, by decide +kernel, by decide +kernel⟩, by decide +kernel,
    fun k hk => inScratchpad_of _ _ _ (by revert k; decide +kernel), fun k hk => inScratchpad_of _ _ _ (by revert k; decide +kernel),
    fun k hk => inScratchpad_of _ _ _ (by revert k; decide +kernel), by decide +kernel⟩

theorem witness_ScatterAdd : mem3.cur.status = .running ∧ mem3.cur.vqueue.length < 32 ∧ mem3.regs.start < mem3.regs.len ∧ 3 ≤ tagFmt (mem3.tag 1) ∧ tagFmt (mem3.tag 1) ≤ 4 ∧ mem3.wf = true ∧
    (∀ k ∈ mem3.actives 0, (mem3.g 4 + BitVec.ofNat 64 (mem3.elem 5 k)).toNat % elemBytes 3 = 0) ∧
    (∀ k ∈ mem3.actives 0, (mem3.g 1 + BitVec.ofNat 64 (mem3.elem 5 k)).toNat % elemBytes 3 = 0 ∧
      isWindow (mem3.g 1 + BitVec.ofNat 64 (mem3.elem 5 k)) = false ∧
      (match resolve mem3 mem3.ctx .store (mem3.g 1 + BitVec.ofNat 64 (mem3.elem 5 k)) with
        | .ok (_, pl, _, _) => pl.cls == .dram && !isPoisoned mem3 (pl.loc / 64)
        | .error _ => false) = true) := by decide +kernel

/-- Three updates in flight, and the line of the first marked with a target that does not translate. -/
def flying : State := nextOf (exec (.vscadd 1 1 5 0 false 0) mem3)
/-- The same into the scratchpad, where they perform in their order. -/
def flyingPad : State := nextOf (exec (.vscadd 1 4 5 0 false 0) mem3)
def stray : State := { bytes 0x10100 (leBytes 8 0x5000) flying with marks := [0x10100 / 64] }
theorem witness_UpdatePerforms : flying.wf = true ∧ flying.bank.length = 3 ∧
    (flying.bank.head?).all (fun u => flying.addLoc u == some u.loc && !isMarked flying (u.loc / 64)) = true ∧
    (flying.bank.all (fun u => !u.inOrder)) = true ∧ flying.latent = [] ∧ flying.poison = [] ∧
    (({ flying with poison := [errorUnit 0x10100] } : State).bank.head?).any (fun u => errorUnit u.loc == errorUnit 0x10100) = true ∧
    (flyingPad.bank.head?).any (fun u => u.inOrder && flyingPad.addLoc u == some u.loc) = true ∧
    (stray.bank.head?).all (fun u => stray.addLoc u == none) = true := by decide +kernel

/-! ## Witnesses: strips -/

/-- Strip records at 0x1100 (good: three INT32 elements of the scratchpad) and at 0x1140 (format 13). -/
def strips : State :=
  gs [(1, 0x1100), (2, 0x1140), (3, 0x1101)] (bytes 0x10140 (leBytes 16 0 ++ leBytes 16 (13 * 2 ^ 32))
    (bytes 0x10100 (leBytes 8 0x00FE000000000000 ++ leBytes 8 4 ++ leBytes 4 3 ++ leBytes 4 3 ++ leBytes 8 0) ints))
def readStrip (va : Word) : Exec (BitVec 256) := do
  let lo ← loadNat false 0 va 16
  let hi ← loadNat false 0 (va + 16) 16
  return BitVec.ofNat 256 (lo + hi * 2 ^ 128)
theorem witness_StripBinding : (strips.g 3).toNat % 32 ≠ 0 ∧ (strips.g 1).toNat % 32 = 0 ∧ (strips.g 2).toNat % 32 = 0 ∧
    gives (readStrip (strips.g 1)) strips (fun r _ => decide (field r 160 8 = 3) && field r 168 24 == 0) = true ∧
    gives (readStrip (strips.g 2)) strips (fun r _ => decide (13 ≤ field r 160 8)) = true := by decide +kernel
/-- Handles that wait for a port, one free and none free; a record of no element. -/
theorem witness_StripPorts :
    (let given := ({ Cluster.fresh with portQueue := [(0, 3)] } : Cluster).dropPort 0 2
     given.portQueue = [(0, 3)] ∧ (List.range 16).find? (fun q => !kvHas given.ports q) = some 0) ∧
    ((List.range 16).find? (fun q => !kvHas ((List.range 16).map (fun q => (q, ((0, 0) : Nat × Nat)))) q) = none) ∧
    gives (readStrip (strips.g 1)) (bytes 0x10110 (leBytes 4 0) strips) (fun r _ => field r 128 32 == 0) = true ∧
    gives (readStrip (strips.g 1)) strips (fun r _ => field r 128 32 == 3) = true := by decide +kernel
def bound : State := nextOf (exec (.vstrip 2 1) strips)
theorem bound_ready : LoadReady bound 3 :=
  ⟨⟨by decide +kernel, by decide +kernel⟩, by decide +kernel, by decide +kernel, by decide +kernel, by decide +kernel⟩
theorem witness_StripLoads : (bound.handle 2).format = bound.regs.fmt ∧ bound.handleBusy 2 = false ∧ bound.cur.gang = 0 ∧
    bound.passes 6 ∧
    readsAll bound 3 3 (stripElem 2 (bound.handle 2) 3 (bound.actives 0)) = true ∧ (bound.handle 3).isUnbound = true ∧
    (regs (fun r => { r with vtype := 0xC20 }) bound).regs.fmt ≠ (bound.handle 2).format := by decide +kernel
theorem witness_StripStores : bound.settled ∧ bound.cleanResponses ∧ (1 : Reg).toNat % tagGroup (bound.tag 1) = 0 ∧
    (bound.handle 2).format = tagFmt (bound.tag 1) ∧ Fmt.isBlock (bound.handle 2).format = false ∧
    (∀ i ∈ bound.actives 0, bound.inScratchpad ((bound.handle 2).addr ((bound.handle 2).cursor.toNat + i)) 4
      (padLoc bound ((bound.handle 2).addr ((bound.handle 2).cursor.toNat + i)))) :=
  ⟨⟨by decide +kernel, by decide +kernel, by decide +kernel⟩, by decide +kernel, by decide +kernel, by decide +kernel, by decide +kernel,
    fun k hk => inScratchpad_of _ _ _ (by revert k; decide +kernel)⟩

/-- Threads 0 and 4 in a gang of two, thread 0 current; then both waiting in the same load. -/
def gang2 : State :=
  let a : Agent := { bound.cur with gang := 0x20 }
  { bound with cur := a, others := [{ a with id := 4, core := 1, gang := 0x21 }] }
def meet2 : State :=
  let i : Instr := .vgsld 3 2 0 0
  { gang2 with cur := { gang2.cur with status := .waiting .gangLoad i },
               others := gang2.others.map (fun a => { a with status := .waiting .gangLoad i }) }
def orphan2 : State :=
  let s := gang2.focus 4
  { s with others := s.others.map (fun a => { a with status := .ended 0 }) }
theorem witness_GangWaits : gang2.cur.gang ≠ 0 ∧ gang2.gangOrphan gang2.cur = false ∧
    (match (gang2.gangOf gang2.cur).find? (fun b => b.core == 0) with
      | some b => b.handles[2].format == gang2.regs.fmt
      | none => false) = true ∧ orphan2.cur.gang ≠ 0 ∧ orphan2.gangOrphan orphan2.cur = true ∧
    gang2.rowsWanted 3 gang2.regs.fmt gang2.regs.group gang2.regs.start gang2.regs.len ≤ gang2.rowsFree := by decide +kernel
theorem witness_GangMeets : meet2.gangOrphan meet2.cur = false ∧ gangFields meet2.cur = some (3, 2, 0, 0) ∧
    ((meet2.gangOf meet2.cur).filter (fun b => !b.hasEnded)).length = 2 ∧
    (∀ b ∈ (meet2.gangOf meet2.cur).filter (fun b => !b.hasEnded), b.status = .waiting .gangLoad (.vgsld 3 2 0 0) ∧
      b.regs.vl = meet2.regs.vl ∧ b.regs.vtype = meet2.regs.vtype ∧ b.regs.vstart = meet2.regs.vstart) ∧
    (((meet2.gangOf meet2.cur).filter (fun b => !b.hasEnded)).find? (fun b => b.core == 0)).any (fun b => b.id == 0) = true ∧
    gives (do each ((meet2.gangOf meet2.cur).filter (fun b => !b.hasEnded)) backToRows
              let u ← get
              asAgent 0 (do need (!(← get).handleBusy 2))
              each ((meet2.gangOf meet2.cur).filter (fun b => !b.hasEnded)) (fun b => asAgent b.id (do
                settleOlder
                releaseIf false 0))
              asAgent 0 (do
                let hd := (← get).handle 2
                let n := min 3 hd.remaining.toNat
                let (xs, stop) ← upToFault (stripElem 2 hd n [0, 1, 2]) [0, 1, 2]
                if stop.isNone then advanceHandle 2 n (some 3)
                return (u, hd, n, xs, stop))) meet2
      (fun e _ => e.1.agents.all (fun b => (gangFields b).isSome) && e.2.2.1 == 3 && e.2.2.2.1.length == 3 && e.2.2.2.2.isNone) = true := by
  decide +kernel
theorem witness_GangMember : Fmt.isBlock bound.regs.fmt = false ∧ (3 : Reg).toNat % bound.regs.group = 0 ∧ 3 ≤ bound.regs.len ∧
    ([0, 1, 2] : List Nat).Nodup ∧ bound.rowsWanted 3 bound.regs.fmt bound.regs.group bound.regs.start bound.regs.len ≤ bound.rowsFree := by
  decide +kernel


/-! ## Witnesses: sparse registers -/

/-- Sparse registers 0 and 1 with coordinates 1, 5 and 5, 7 and INT32 values; sparse register 2 with coordinates 5, 5. -/
def sparse3 : State :=
  let r (x : Nat) : VReg := { VReg.fresh with tag := mkTag 3 1, wlen := 2, image := BitVec.ofNat 4096 x, rows := 1 }
  let s := gs [(1, 0x00FE000000000000), (2, 0x00FE000000000100), (3, 0x00FE000000000200), (4, 0x00FE000000000301)] (vl3 3 thread0)
  let s := (((((s.setV 16 (r (1 + 5 * 2 ^ 32))).setV 17 (r 3)).setV 18 (r (5 + 7 * 2 ^ 32))).setV 19 (r 4)).setV 20
    (r (5 + 5 * 2 ^ 32))).setV 21 (r 0)
  regs (fun q => { q with slen := ((q.slen.set 0 2).set 1 2).set 2 2 }) s
theorem sparse3_runs : sparse3.runs .threadOnly := ⟨by decide +kernel, by decide +kernel⟩
theorem witness_SparseOperations : (∀ v ∈ [coordReg 0, valueReg 0, coordReg 1, valueReg 1], v.toNat % tagGroup (sparse3.tag v) = 0) ∧
    sparse3.opFmt [valueReg 0, valueReg 1] = 3 ∧ (tagFmt (sparse3.tag (valueReg 0))).isBlock = false ∧
    (tagFmt (sparse3.tag (valueReg 1))).isBlock = false ∧ sparse3.sparseBad 0 (sparseCap 3) = none ∧
    sparse3.sparseBad 1 (sparseCap 3) = none ∧ sparse3.sparseBad 2 (sparseCap 3) = some 1 ∧
    1 < sparseCap 3 ∧
    sparse3.rowsWanted (coordReg 3).toNat 3 1 0 3 + sparse3.rowsWanted (valueReg 3).toNat 3 1 0 3 ≤ sparse3.rowsFree ∧
    (sparse3.sparseMerge 3 (sparse3.rnd 0) false 0 1 (sparseCap 3) 4 0 0 []).1.length = 3 ∧
    (sparse3.sparseMerge 3 (sparse3.rnd 0) false 0 1 (sparseCap 3) 4 0 0 []).2 = none ∧
    (sparse3.sparseMerge 3 (sparse3.rnd 0) true 0 1 (sparseCap 3) 4 0 0 []).2 = none ∧
    sparse3.rowsWanted 4 3 1 0 1 ≤ sparse3.rowsFree := by decide +kernel

/-- A sparse register whose length is over the capacity, all its coordinates rising. -/
theorem witness_SparseOver :
    (let image : Nat := (List.range 128).foldl (fun n k => n + (k + 1) * 2 ^ (32 * k)) 0
     let s := sparse3.setV 20 { sparse3.v 20 with image := BitVec.ofNat 4096 image, wlen := 128, rows := 0xFF }
     (regs (fun q => { q with slen := q.slen.set 2 129 }) s).sparseBad 2 (sparseCap 3)) = some (sparseCap 3) := by decide +kernel

/-- A two-level bitmap header in the scratchpad whose first node holds coordinates 0 and 63, and a bad header. -/
def bitmap : State := bytes (padLoc sparse3 (sparse3.g 1)) (leBytes 8 2 ++ leBytes 8 1 ++ leBytes 8 0x00FE000000000400 ++
    leBytes 40 0) (bytes (padLoc sparse3 0x00FE000000000400) (leBytes 8 (1 + 2 ^ 63)) sparse3)
theorem witness_SparseLoads : (bitmap.g 1).toNat % 64 = 0 ∧ (bitmap.regs.slenOf 3).getLsbD 31 = false ∧
    gives (do
      let hx ← loadNat true 2 (bitmap.g 1) 64
      let hd := leBytes 64 hx
      let cs ← bitmapWalk 0 (sparseCap 3 + 1) (fun lv => BitVec.ofNat 64 (areaNat hd (16 + 8 * (areaNat hd 0 1 - 2 - lv)) 8))
        (areaNat hd 0 1 - 1) 0 (areaNat hd 8 8) []
      let pairs ← eachGet (cs.take (sparseCap 3)) (fun c => do
        return (c, ← loadNat true 2 (bitmap.g 2 + BitVec.ofNat 64 (c * 4)) 4))
      return (bitmapBad hd, pairs.map (fun e => e.1))) bitmap.uncut (fun e u => e.1 == none && e.2 == [0, 63] &&
        decide (u.rowsWanted (coordReg 3).toNat 3 1 0 2 + u.rowsWanted (valueReg 3).toNat 3 1 0 2 ≤ u.rowsFree)) = true ∧
    gives (loadNat true 2 (bitmap.g 2) 64) bitmap.uncut (fun hx _ => bitmapBad (leBytes 64 hx) == some 0) = true := by decide +kernel

/-- Queues in the scratchpad: next 0 of limit 2, and of limit 1. -/
def queue (limit : Nat) : State := bytes (padLoc sparse3 (sparse3.g 3)) (leBytes 4 0 ++ leBytes 4 limit) sparse3
def append (s : State) : Exec (Nat × Nat × Place) := do
  drainBank s.cur.id
  let pl ← atomicPlace .atomic 3 (s.g 3)
  anchor (s.g 3)
  let y ← updateAt (s.g 3).toNat 3 pl 8 4 (fun x => if x % 2 ^ 32 + 2 ≤ x / 2 ^ 32 then some (x % 2 ^ 32 + 2) else none)
  return (y % 2 ^ 32, y / 2 ^ 32, pl)
theorem witness_SparseAppend : (tagFmt (sparse3.tag (valueReg 0))).isBlock = false ∧ sparse3.sparseBad 0 (sparseCap 3) = none ∧ (sparse3.g 3).toNat % 8 = 0 ∧
    (coordReg 0).toNat % tagGroup (sparse3.tag (coordReg 0)) = 0 ∧ (valueReg 0).toNat % tagGroup (sparse3.tag (valueReg 0)) = 0 ∧
    sparse3.sparseLen 3 = 0 ∧ sparse3.sparseLen 0 = 2 ∧ gives (append (queue 1)) (queue 1).uncut (fun e _ => decide (e.2.1 < e.1 + 2)) = true ∧
    gives (do
      let (t, limit, _) ← append (queue 2)
      record 3 (spanRange (sparse3.g 3).toNat 4 true)
      each (List.range 2) (fun j => checkAccess true .store 3 (sparse3.g 2 + BitVec.ofNat 64 (8 * (t + j))) 8)
      each (List.range 2) (fun j => storeNat true 3 (sparse3.g 2 + BitVec.ofNat 64 (8 * (t + j))) 8
        (sparse3.coord 0 j + sparse3.elem (valueReg 0).toNat j * 2 ^ 32))
      record 3 (spanRange (sparse3.g 2).toNat 16 true)
      storedBefore
      return decide (t + 2 ≤ limit)) (queue 2).uncut (fun b _ => b) = true := by decide +kernel

/-! ## Witnesses: the matrix core -/

/-- Descriptors at 0x1100 (BF16, 2 rows of 8), 0x1120 (its second row unmapped) and 0x1140 (sparse), for the MCC. -/
def descs : State :=
  let d (stride fmt flags : Nat) : List Byte := leBytes 8 0x1200 ++ leBytes 8 0 ++ leBytes 4 stride ++ leBytes 2 8 ++ leBytes 2 2 ++
    leBytes 1 fmt ++ leBytes 1 0 ++ leBytes 1 flags ++ leBytes 1 0 ++ leBytes 4 0x100
  gs [(1, 0x1100), (2, 0x1120), (3, 0x1140)] (bytes 0x10100 (d 64 8 0 ++ d 0x1000 8 0 ++ d 64 8 1) mcc0)
def tileReads (va : Word) (b ff : Bool) : Exec (Nat × Nat) := do
  let x ← loadNat false 0 va 32
  let td := tileDesc (BitVec.ofNat 256 x)
  checkTile va b td
  return (td.rows, (← readTile va b ff td td.rows 0 [] []).length)
theorem witness_TileLoads : (descs.g 1).toNat % 32 = 0 ∧ (descs.g 2).toNat % 32 = 0 ∧
    gives (tileReads (descs.g 1) false false) descs (fun e _ => e == (2, 2)) = true ∧
    gives (tileReads (descs.g 1) true false) descs (fun e _ => e == (2, 2)) = true ∧
    gives (tileReads (descs.g 2) false true) descs (fun e _ => e == (2, 1)) = true ∧
    gives (tileReads (descs.g 2) true true) descs (fun e _ => e == (2, 1)) = true := by decide +kernel

/-- Both tiles loaded; side A sparse; formats and K that differ. -/
def tilesAB : State := nextOf (exec (.mldtB 4 1) (nextOf (exec (.mldtA 4 1) descs)))
def sparseAB : State := nextOf (exec (.mldtA 4 3) tilesAB)
def tileOf (s : State) (f : Tile → Tile) : State :=
  let c := s.cluster s.myCluster
  s.setCluster s.myCluster { c with tileB := f c.tileB }
theorem witness_MatrixArithmetic : tilesAB.runs (.only .mcc) ∧
    (let c := tilesAB.cluster tilesAB.myCluster
     c.tileA.loaded = true ∧ c.tileB.loaded = true ∧ formatsAgree c.tileA.fmt c.tileB.fmt = true ∧ c.tileA.sparse = false ∧
     c.tileA.k = c.tileB.k ∧ c.tileA.rows.length = 2 ∧ c.tileB.rows.length = 2) ∧
    (let c := sparseAB.cluster sparseAB.myCluster
     c.tileA.loaded = true ∧ c.tileA.sparse = true ∧ c.tileA.k = c.tileB.k ∧ formatsAgree c.tileA.fmt c.tileB.fmt = true) ∧
    (descs.cluster descs.myCluster).tileA.loaded = false ∧
    (let s := tileOf tilesAB (fun t => { t with fmt := 12 })
     formatsAgree (s.cluster s.myCluster).tileA.fmt (s.cluster s.myCluster).tileB.fmt = false) ∧
    (let s := tileOf tilesAB (fun t => { t with k := 4 })
     (s.cluster s.myCluster).tileA.k ≠ (s.cluster s.myCluster).tileB.k) :=
  ⟨⟨by decide +kernel, by decide +kernel⟩, by decide +kernel⟩
theorem witness_RowCompletes :
    (let s := { nextOf (exec (.mma 1) tilesAB) with clock := 1000 }
     (s.cluster 0).accBusy.any (fun e => e.1 == 1 && e.2.1 == 1 && decide (e.2.2 ≤ s.clock))) = true := by decide +kernel

/-- A store tile of 2 rows of 2 FP32 in the cluster's generic page; a thread of the launch that owns the MCC. -/
def storeTile : State := gs [(1, 0x1100)] (bytes 0x10100 (leBytes 8 0x1200 ++ leBytes 8 0 ++ leBytes 4 64 ++ leBytes 2 2 ++
  leBytes 2 2 ++ leBytes 1 6 ++ leBytes 7 0) mcc0)
theorem witness_StoreTile : gives (do
      let x ← loadNat false 0 (storeTile.g 1) 32
      let td := tileDesc (BitVec.ofNat 256 x)
      checkStoreTile (storeTile.g 1) td
      let u ← get
      each (List.range td.rows) (fun i => do
        inFlight (.mst 0 1) 1 (each (List.range td.k) (fun j => storeNat true 1 (td.base + BitVec.ofNat 64 (i * td.stride + j * 4)) 4
          (field ((u.cluster u.myCluster).accRow 0 i) (32 * j) 32)))
        clearCovered 4 (fun _ => 0) ((List.range td.k).map (fun j => (j, td.base + BitVec.ofNat 64 (i * td.stride + j * 4))))
        record 1 (spanRange (td.base + BitVec.ofNat 64 (i * td.stride)).toNat (td.k * 4) true))
      return ((u.cluster u.myCluster).busyUntil u.clock 0 (List.range 128)).isNone) storeTile (fun b _ => b) = true := by decide +kernel

def owner : State := (gs [(2, 127), (3, 128)] floats).setCluster floats.myCluster { Cluster.fresh with mccOwner := some 0 }
theorem owner_runs : owner.runs .threadOnly := ⟨by decide +kernel, by decide +kernel⟩
theorem witness_AccumulatorRows : (owner.cluster owner.myCluster).mccOwner = some owner.cur.launch ∧ (owner.g 2).toNat < 128 ∧ owner.cur.cut = none ∧
    Fmt.isFloat (vl3 3 owner).regs.fmt = false ∧ tagFmt (ints.tag 1) < 6 ∧
    128 ≤ (owner.g 3).toNat ∧ ((owner.cluster owner.myCluster).busyUntil owner.clock 0 [127]).isNone = true ∧
    Fmt.isFloat owner.regs.fmt = true ∧ owner.regs.destGroup owner.regs.fmt = some 1 ∧
    owner.rowsWanted 4 owner.regs.fmt 1 owner.regs.start owner.regs.len ≤ owner.rowsFree ∧ 6 ≤ tagFmt (owner.tag 1) ∧
    tagFmt (owner.tag 1) ≤ 12 ∧ (1 : Reg).toNat % tagGroup (owner.tag 1) = 0 ∧
    (floats.cluster floats.myCluster).mccOwner ≠ some floats.cur.launch := by decide +kernel


/-! ## Witnesses: engine commands -/

/-- A launch whose stage 0 holds core 0 of cluster 0. -/
def launch0 : Launch :=
  { ident := 0, record := 0x11000, clusters := 1, cores := 1, threads := 1, prio := 0, asid := 0, weight := 1, startTime := 0,
    budget := 1000, preds := [], args := Vector.replicate 8 9, accepted := 0, admitted := some 0,
    stages := Vector.replicate 8 { present := false, entry := 0x1000, kind := 0, stack := 0 },
    place := [{ cluster := 0, cores := [(0, [0])] }], started := 1, faults := [] }

/-- A page of flash at 0x20000 beside the page of DRAM, stack 0 online, and the launch. -/
def device0 : State :=
  let t := thread0.tower 0
  let s := thread0.setTower 0 { t with tlb := { asid := 0, vbase := 0x20000, size := 65536, leaf := 0x400000000BF } :: t.tlb }
  { s with dev := { s.dev with granaryok := 1 }, launches := [(0, launch0)] }
/-- A record at 0x1100, named by g1, g2 and g3 as given. -/
def withRecord (g1 g2 g3 : Word) (xs : List Byte) : State := gs [(1, g1), (2, g2), (3, g3)] (bytes 0x10100 xs device0)


/-- XCOPY of one row of 8 bytes. -/
def copyRec : State := withRecord 0x1200 0x1100 0x1300 (leBytes 4 8 ++ leBytes 4 1 ++ leBytes 24 0 ++ leBytes 8 0 ++ leBytes 1 255 ++ leBytes 23 0)
theorem witness_CopyCommand : copyRec.runs (.threadOr .copy) ∧ gives (do
      let x ← readRecord (copyRec.g 2) 64 64
      checkNamed 0x1200
      checkNamed 0x1300
      checkWindow (spanOf 0x1200 (recInt x 8) (recField x 4 4) (recField x 0 4))
      checkWindow (spanOf 0x1300 (recInt x 16) (recField x 4 4) (recField x 0 4))
      checkWindow (recField x 24 8, 8)
      return x) copyRec (fun x v => recField x 0 4 == 8 && recField x 4 4 == 1 && recField x 24 8 == 0 && recField x 40 1 == 255 &&
        recField x 41 23 == 0 && v.engineUp 1 v.myTower && !v.queueFull 1 v.myTower) = true :=
  ⟨⟨by decide +kernel, by decide +kernel⟩, by decide +kernel⟩
/-- XGATHER of no element. -/
def gatherRec : State := withRecord 0x1100 0 0 (leBytes 8 0x1200 ++ leBytes 8 0x1300 ++ leBytes 8 0x1400 ++ leBytes 4 0 ++ leBytes 1 8 ++
  leBytes 35 0)
theorem witness_GatherCommand : gatherRec.runs (.threadOr .gleaner) ∧ gives (do
      let x ← readRecord (gatherRec.g 1) 64 64
      checkWindow (recField x 0 8, 1)
      checkWindow (recField x 8 8, 4 * recField x 24 4)
      checkWindow (recField x 16 8, recField x 24 4 * recField x 28 1)
      checkWindow (recField x 32 8, 8)
      return x) gatherRec (fun x v => recField x 8 8 % 4 == 0 && recField x 28 1 == 8 && recField x 29 3 == 0 &&
        recField x 32 8 % 8 == 0 && recField x 40 24 == 0 && v.engineUp 2 v.myTower && !v.queueFull 2 v.myTower) = true :=
  ⟨⟨by decide +kernel, by decide +kernel⟩, by decide +kernel⟩
/-- XBIN of no key. -/
def binRec : State := withRecord 0x1100 0 0 (leBytes 8 0x1200 ++ leBytes 8 0 ++ leBytes 8 0x1300 ++ leBytes 8 0x1400 ++ leBytes 32 0)
theorem witness_BinCommand : binRec.runs (.threadOr .gleaner) ∧ gives (do
      let x ← readRecord (binRec.g 1) 64 64
      checkWindow (recField x 0 8, 4 * recField x 8 4)
      checkWindow (recField x 16 8, 8 * recField x 12 4)
      checkWindow (recField x 24 8, 4 * recField x 12 4 * recField x 32 4)
      checkWindow (recField x 40 8, 8)
      return x) binRec (fun x v => recField x 0 8 % 4 == 0 && recField x 16 8 % 8 == 0 && recField x 24 8 % 4 == 0 &&
        recField x 36 4 == 0 && recField x 40 8 % 8 == 0 && recField x 48 16 == 0 && v.engineUp 2 v.myTower) = true :=
  ⟨⟨by decide +kernel, by decide +kernel⟩, by decide +kernel⟩
/-- XMOVE of one line. -/
def moveRec : State := withRecord 0x1200 0x1100 0x1300 (leBytes 8 64 ++ leBytes 56 0)
theorem witness_MoveCommand : moveRec.runs (.threadOr .copy) ∧ gives (do
      let x ← readRecord (moveRec.g 2) 32 32
      checkWindow (0x1200, recField x 0 8)
      checkWindow (0x1300, recField x 0 8)
      checkWindow (recField x 8 8, 16)
      return x) moveRec (fun x v =>
    recField x 0 8 == 64 && recField x 8 8 == 0 && recField x 16 16 == 0 && v.engineUp 1 v.myTower) = true ∧
    (0x1300 : Nat) % 64 = 0 ∧ 0x1200 + 64 ≤ 0x1300 := ⟨⟨by decide +kernel, by decide +kernel⟩, by decide +kernel⟩
/-- XHEAL of one word. -/
def healRec : State := withRecord 0x1100 0 0 (leBytes 8 0x1200 ++ leBytes 8 8 ++ leBytes 8 64 ++ leBytes 8 128 ++ leBytes 8 0x1400 ++ leBytes 24 0)
theorem witness_HealCommand : healRec.runs (.threadOr .copy) ∧ gives (do
      let x ← readRecord (healRec.g 1) 64 64
      checkWindow (recField x 0 8, recField x 8 8)
      checkWindow (recField x 32 8, 64)
      return x) healRec (fun x _ => recField x 0 8 % 8 == 0 && recField x 8 8 == 8 && recField x 16 8 == 64 && recField x 24 8 == 128 &&
        recField x 32 8 % 64 == 0 && recField x 40 24 == 0) = true := ⟨⟨by decide +kernel, by decide +kernel⟩, by decide +kernel⟩
/-- XRECLAIM of one line with no heal record. -/
def reclaimRec : State := withRecord 0x1100 0 0 (leBytes 8 0x1200 ++ leBytes 8 64 ++ leBytes 48 0)
theorem witness_ReclaimCommand : reclaimRec.runs (.threadOr .copy) ∧ gives (do
      let x ← readRecord (reclaimRec.g 1) 64 64
      checkWindow (recField x 0 8, recField x 8 8)
      checkWindow (recField x 16 8, 8 * recField x 24 4)
      checkWindow (recField x 32 8, 8)
      return x) reclaimRec (fun x _ =>
    recField x 0 8 % 64 == 0 && recField x 8 8 == 64 && recField x 16 8 == 0 && recField x 24 4 == 0 && recField x 28 4 == 0 &&
    recField x 32 8 == 0 && recField x 40 24 == 0) = true := ⟨⟨by decide +kernel, by decide +kernel⟩, by decide +kernel⟩
/-- Queues full of commands. -/
def crowded : State := (List.range 64).foldl (fun s _ => s.accepted 2 0 0 false false 0 none (.wear 0 0)) device0
theorem witness_EngineRoom : device0.engineUp 2 1 = false ∧ crowded.engineUp 2 0 = true ∧ crowded.queueFull 2 0 = true ∧
    device0.engineUp 2 0 = true ∧ device0.queueFull 2 0 = false := by decide +kernel

/-- XINST of one unit to flash. -/
def instRec : State := withRecord 0x1200 0x1100 0x20000 (leBytes 8 65536 ++ leBytes 8 0x1F00 ++ leBytes 48 0)
theorem witness_InstallCommand : instRec.runs (.threadOr .install) ∧ gives (do
      let x ← readRecord (instRec.g 2) 32 32
      checkWindow ((instRec.g 1).toNat, recField x 0 8)
      checkWindow (recField x 8 8, 32)
      checkWindow (recField x 16 8, (if recField x 16 8 = 0 then 0 else 8))
      return (x, ← flashPlace 0x54 (instRec.g 3) (instRec.g 2))) instRec (fun e v => recField e.1 0 8 == 65536 && recField e.1 8 8 % 32 == 0 &&
        recField e.1 16 8 == 0 && stackOf e.2 == 0 && v.engineUp 4 0 && !v.queueFull 4 0) = true ∧
    gives (do checkWindow (0, 8)
              flashPlace 0x5C (instRec.g 3) 0) instRec (fun pa _ => stackOf pa == 0) = true ∧
    gives (flashPlace 0x54 (instRec.g 3) 0) instRec (fun pa v => stackOf pa == 0 && v.engineUp 4 0 && !v.queueFull 4 0) = true :=
  ⟨⟨by decide +kernel, by decide +kernel⟩, by decide +kernel⟩
/-- XWEAR as the last word of a LOOPV body that its register counts, and not. -/
theorem witness_WearTested : (regs (fun r => { r with loopAddr := instRec.cur.pc, loopCtl := 6 * 64 + 1 }) instRec).testedNext 6 = true ∧
    instRec.testedNext 6 = false := by decide +kernel
/-- XSTREAM of three INT32 to handle 2 of the issuer. -/
def streamRec : State := withRecord 0x1100 0 0 (leBytes 8 0x1200 ++ leBytes 8 4 ++ leBytes 16 0 ++ leBytes 4 3 ++ leBytes 4 1 ++ leBytes 4 1 ++
  leBytes 1 3 ++ leBytes 1 255 ++ leBytes 1 255 ++ leBytes 1 2 ++ leBytes 16 0)
theorem witness_StreamCommand : streamRec.runs (.threadOr .stream) ∧ gives (readRecord (streamRec.g 1) 64 64) streamRec (fun x u =>
    recField x 32 4 == 3 && recField x 36 4 == 1 && recField x 40 4 == 1 && recField x 44 1 == 3 && recField x 45 1 == 255 &&
    recField x 46 1 == 255 && recField x 47 1 == 2 && recField x 56 8 == 0 && (u.slotHolder 0 u.cur.slotCode).isSome) = true ∧
    streamRec.cur.kind = .thread ∧ gives (do
      checkNamed 0x1200
      checkWindow (0x1200, 12)) streamRec (fun _ v => v.engineUp 5 v.myTower) = true :=
  ⟨⟨by decide +kernel, by decide +kernel⟩, by decide +kernel⟩
/-- XSWEEP over one line of INT32 elements whose body is one add. -/
def sweepRec : State := gs [(4, 0x1200), (5, 0x1100)] (bytes 0x10240 (leBytes 64 (2 ^ 30 + 2 ^ 62) ++ leBytes 64 5)
  (bytes 0x10200 (leBytes 4 2 ++ leBytes 1 3 ++ leBytes 3 0 ++ leBytes 8 0x1300 ++ leBytes 48 0)
    (bytes 0x10180 (leBytes 4 0x04210800) (withRecord 0x1100 0 0 (leBytes 8 0x1200 ++ leBytes 8 0x1180 ++ leBytes 1 1 ++
      leBytes 1 4 ++ leBytes 1 1 ++ leBytes 1 0 ++ leBytes 4 1 ++ leBytes 1 255 ++ leBytes 39 0)))))
theorem witness_SweepCommand : sweepRec.runs (.threadOr .lamplighter) ∧ gives (do
      let x ← readRecord (sweepRec.g 1) 64 64
      let h ← readRecord (BitVec.ofNat 64 (recField x 0 8)) 64 64
      let w ← readRecord (BitVec.ofNat 64 (recField x 8 8)) (4 * recField x 16 1) 4
      checkWindow (recField x 0 8, 64 + ctxLines 2 * ctxPitch 3)
      checkWindow (recField h 8 8, 8 * ceilDiv (ctxLines 2) 64)
      return (x, h, w)) sweepRec (fun e v => recField e.1 16 1 == 1 && recField e.1 17 1 == 4 && recField e.1 18 1 == 1 &&
        recField e.1 19 1 == 0 && recField e.1 20 4 == 1 && recField e.1 24 1 == 255 && recField e.1 25 39 == 0 &&
        recField e.2.1 0 4 == 2 && recField e.2.1 4 1 == 3 && recField e.2.1 5 3 == 0 && recField e.2.1 8 8 % 8 == 0 &&
        recField e.2.1 32 32 == 0 && (bodyWords e.2.2 1).all bodyAllows && v.sweepHost 255 == some 0 &&
        v.launch? 0 == some launch0 && v.engineUp 3 v.myTower) = true :=
  ⟨⟨by decide +kernel, by decide +kernel⟩, by decide +kernel⟩
theorem witness_Xsbar : (device0.cmds.all (fun c => c.issuer != 0 || decide (device0.nextCmd ≤ c.id))) = true ∧
    gives (acquireIf true 0 2) device0 (fun _ _ => true) = true ∧
    (crowded.cmds.any (fun c => c.issuer == crowded.cur.id && decide (c.id < crowded.nextCmd))) = true ∧
    (crowded.agent? 0).isSome = true := by decide +kernel

/-! ## Witnesses: engines at work -/

/-- The first command of a state, and that its turn has come. -/
def first (s : State) : Cmd := s.cmds.headD
  { id := 0, engine := 0, unit := 0, issuer := 0, place := 0, kind := .thread, user := true, launch := 0, asid := 0, acq := false,
    rel := false, scope := 0, recAddr := 0, work := .wear 0 0, chan := none, started := false, pos := SweepPos.start,
    inst := InstallPos.start }
def ready (s : State) : Bool :=
  s.cmds.find? (fun c => c.id == (first s).id) == some (first s) && s.engineUp (first s).engine (first s).unit && s.turn (first s)

/-- One item is picked whatever the free values: alone, or with all there are. -/
theorem pick_one (c : Cmd) (n i : Nat) (spans : Nat → List (Nat × Nat × Bool)) (s : State)
    (h : c.left.getD (List.range n) = [i]) (w : s.rangeWait c = false) (b : s.blocked c (spans i) = false) :
    pickItems c n spans s = .ok ([i], []) { s with fresh := s.fresh + 1 } := by
  simp only [pickItems, bind, EStateM.bind, get, getThe, MonadStateOf.get, EStateM.get, h, w]
  cases e : Config.freeBit s.fresh <;>
    simp [drawBit, drawBelow, shuffle, bind, EStateM.bind, get, getThe, MonadStateOf.get, EStateM.get, set, MonadStateOf.set,
      EStateM.set, pure, EStateM.pure, e, b]
theorem pick_none (c : Cmd) (n : Nat) (spans : Nat → List (Nat × Nat × Bool)) (s : State)
    (h : c.left.getD (List.range n) = []) : pickItems c n spans s = .ok ([], []) s := by
  simp [pickItems, bind, EStateM.bind, get, getThe, MonadStateOf.get, EStateM.get, h, pure, EStateM.pure]
/-- The state after a free bit. -/
def drawn (s : State) : State := { s with fresh := s.fresh + 1 }

def copyQ : State := nextOf (exec (.xcopy 3 1 2 false false 0) copyRec)
theorem witness_Copy : ready copyQ = true ∧ (first copyQ).work = .copy 0x1300 0x1200 8 1 0 0 0 0 255 ∧
    (copyParts (copyPieces 0x1300 0x1200 8 1 0 0)).length = 1 ∧ (first copyQ).left = none ∧ copyQ.rangeWait (first copyQ) = false ∧ copyQ.mayClose (first copyQ) = true ∧
    copyQ.blocked (first copyQ) (copyQ.partSpans (first copyQ) (copyParts (copyPieces 0x1300 0x1200 8 1 0 0)) 0) = false ∧
    gives (do
      let (rest, n, f) ← copyItems (first copyQ) (copyParts (copyPieces 0x1300 0x1200 8 1 0 0)) [0] []
      goOn { first copyQ with memo := (← get).memoOf (first copyQ) } rest (n, 0) f (closeCmd (first copyQ) 0 (2 ^ 60 + n)
        [{ base := (spanOf 0x1300 0 1 8).1, stride := 0, count := 1, width := 8, home := true }] f)
      return (rest, n, f)) (drawn copyQ) (fun e _ => e == ([], 8, none)) = true := by decide +kernel
def gatherQ : State := nextOf (exec (.xgather 1 false false 0) gatherRec)
theorem witness_Gather : ready gatherQ = true ∧ (first gatherQ).work = .gather 0x1200 0x1300 0x1400 0 8 0 ∧ gives (do
      let (rest, k, f) ← runItems (first gatherQ) (gatherItem (first gatherQ) 0x1200 0x1300 0x1400 8) [] (0, 0)
      goOn (first gatherQ) rest k f (closeCmd (first gatherQ) 0 (2 ^ 60 + k.1) [spanRange 0x1400 0 true] f)
      return (rest, k, f)) gatherQ (fun e _ => e == ([], (0, 0), none)) = true := by decide +kernel
def binQ : State := nextOf (exec (.xbin 1 false false 0) binRec)
theorem witness_Bin : ready binQ = true ∧ (first binQ).work = .bin 0x1200 0 0 0x1300 0x1400 0 0 ∧ gives (do
      let o ← aloneItem (first binQ) []
      let (rest, k, f) ← binItems (first binQ) 0x1200 0 0x1300 0x1400 0 [] []
      goOn { first binQ with memo := [] } rest k f
        (closeCmd (first binQ) 0 (2 ^ 60) [spanRange 0x1300 0 true, spanRange 0x1400 0 true] f)
      return (o, rest, k, f)) binQ (fun e _ => e == (none, [], (0, 0), none)) = true := by decide +kernel
/-- A bin of one key, whose ticket is drawn first and whose number is written later where the free bit says so. -/
def binOne : State := nextOf (exec (.xbin 1 false false 0) (withRecord 0x1100 0 0 (leBytes 8 0x1200 ++ leBytes 4 1 ++ leBytes 4 1 ++
  leBytes 8 0x1300 ++ leBytes 8 0x1400 ++ leBytes 4 1 ++ leBytes 28 0 ++ leBytes 448 0 ++ leBytes 4 0 ++ leBytes 4 1)))
theorem witness_BinTicket (h : Config.freeBit (drawn binOne).fresh = true) : ready binOne = true ∧
    (first binOne).work = .bin 0x1200 1 1 0x1300 0x1400 1 0 ∧
    aloneItem (first binOne) [0] (drawn binOne) = .ok (some 0) (drawn (drawn binOne)) ∧
    gives (binKey (first binOne) 0x1200 1 0x1300 0x1400 1 0) (drawn (drawn binOne)) (fun e _ => e == some 0x1400) = true := by
  refine ⟨by decide +kernel, by decide +kernel, ?_, by decide +kernel⟩
  have m : (first binOne).memo = [] := by decide +kernel
  have h2 : (first binOne).hit = none := by decide +kernel
  simp [aloneItem, m, h2, drawBit, bind, EStateM.bind, get, getThe, MonadStateOf.get, EStateM.get, set, MonadStateOf.set, EStateM.set,
    pure, EStateM.pure, h]
  rfl
def moveQ : State := nextOf (exec (.xmove 3 1 2 false false 0) moveRec)
theorem witness_Move : ready moveQ = true ∧ (first moveQ).work = .move 0x1300 0x1200 64 0 ∧
    (∀ one : Bool, (if one then 1 else ((first moveQ).left.getD (List.range (64 / 64))).length) = 1) ∧ gives (do
      let (m, k, t, f) ← moveLines (first moveQ).ctx (moveRange 0x1300 0x1200 ([0].take 1)) 0 0 0
      goOn { first moveQ with memo := [(0, t)] } [] (m, k) f
        (closeRecord (first moveQ) 0 [(0, leBytes 8 t), (8, leBytes 8 (2 ^ 60 + m))] (spanRange 0x1300 64 true) f)
      return (m, k, f)) (drawn moveQ) (fun e _ => e == (1, 0, none)) = true ∧ moveQ.wf = true ∧ moveQ.latent = [] := by decide +kernel
def healQ : State := nextOf (exec (.xheal 1 false false 0) healRec)
theorem witness_Heal : ready healQ = true ∧ (first healQ).work = .heal 0x1200 8 64 128 0x1400 ∧ (first healQ).left = none ∧
    healQ.rangeWait (first healQ) = false ∧ healQ.blocked (first healQ) (healQ.windowSpan (first healQ) (0x1200, 8) true) = false ∧
    gives (do
      let (rest, k, f) ← runItems (first healQ) (fun i => healWord (first healQ) 64 128 (BitVec.ofNat 64 (0x1200 + 8 * i)).toNat) [0] (0, 0)
      goOn { first healQ with memo := [(0, 0)] } rest k f
        (closeRecord (first healQ) 0x1400 [(0, leBytes 48 0), (56, leBytes 8 (2 ^ 60 + k.1))] (spanRange 0x1200 8 true) f)
      return (rest, k, f)) (drawn healQ) (fun e _ => e == ([], (0, 0), none)) = true := by decide +kernel
def reclaimQ : State := nextOf (exec (.xreclaim 1 false false 0) reclaimRec)
theorem witness_Reclaim : ready reclaimQ = true ∧ (first reclaimQ).work = .reclaim 0x1200 64 0 0 0 ∧ gives (do
      let hs ← readHeals (first reclaimQ) 0 0
      let s1 ← get
      closeCmd (first reclaimQ) 0 (2 ^ 60) [spanRange 0x1200 64 true] none
      return hs.length == 0 && s1.turn (first reclaimQ) && (match rangeLines s1 (first reclaimQ).ctx 0x1200 64 with
        | .ok ls => ls.all (fun l => decide (s1.ticketOf l < (s1.tower 0).oldtkt.toNat))
        | .error _ => false)) reclaimQ (fun b _ => b) = true := by decide +kernel
theorem witness_MovedAccess : isMarked { hit1 with marks := [0x10100 / 64] } (0x10100 / 64) = true ∧
    (hit1.l1? 0 (0x10100 / 64)).isSome = true := by decide +kernel
/-- The line with dirty bytes, marked, its mark leading to the line of 0x1180; a copy of which a write has been lost. -/
def stale2 : State := { bytes 0x10100 (leBytes 8 0x1180) hit2 with marks := [0x10100 / 64] }
theorem witness_MovedBytes : stale2.wf = true ∧ (stale2.l1? 0 (0x10100 / 64)).any (fun l => l.dirty.getLsbD 7 && !l.dirty.getLsbD 8 &&
      (match forwardLine stale2 0 l.asid (0x10100 / 64) with
        | .ok dst => dst == 0x10180 / 64
        | .error _ => false)) = true ∧
    ({ first copyQ with hit := some (0x61, 0) } : Cmd).hit = some (0x61, 0) := by decide +kernel

/-! ## Witnesses: Granary commands -/

def instQ : State :=
  let s := nextOf (exec (.xinst 3 1 2 false false 0) instRec)
  { s with granary := [(0, { Stack.fresh with spares := [7], awaiting := [8] })] }
def instEnd : State :=
  let s := { instQ with granary := [] }
  { s with cmds := s.cmds.map (fun c => { c with inst := { c.inst with done := 65536 } }) }
/-- A build of a block always answers. -/
theorem buildBlock_answers (k n : Nat) (s : State) : ∃ r t, buildBlock k n s = .ok r t := by
  induction n generalizing s with
  | zero => exact ⟨_, _, rfl⟩
  | succ n ih =>
    have step : buildBlock k (n + 1) s = match (s.stack k).spare with
        | none => .ok .worn s
        | some b => if Config.freeBit s.fresh then .ok (.block b) { s with fresh := s.fresh + 1 }
          else buildBlock k n (after (modStack k (fun x => x.retire b)) { s with fresh := s.fresh + 1 }) := by
      simp only [buildBlock, bind, EStateM.bind, get, getThe, MonadStateOf.get, EStateM.get]
      cases (s.stack k).spare with
      | none => rfl
      | some b => cases h : Config.freeBit s.fresh <;>
          simp [drawBit, bind, EStateM.bind, get, getThe, MonadStateOf.get, EStateM.get, set, MonadStateOf.set, EStateM.set, pure,
            EStateM.pure, h, after, modStack, modify, modifyGet, MonadStateOf.modifyGet, EStateM.modifyGet]
    rw [step]
    split
    · exact ⟨_, _, rfl⟩
    · split
      · exact ⟨_, _, rfl⟩
      · exact ih _
theorem witness_InstallEnds : ready instEnd = true ∧ (first instEnd).work = .install 0x20000 0x1200 65536 0x1F00 0 0 ∧
    65536 ≤ (first instEnd).inst.done ∧ (first instEnd).inst.status = 1 ∧ (instEnd.stack 0).awaiting = [] ∧
    gives (do let r ← orFail (engineReport (first instEnd) 0x1F00 (installRecord (first instEnd).inst))
              let g ← orFail (pure ())
              finishCmd (first instEnd) 0x1F00 (match r, g with
                | .error e, _ => some e
                | _, .error e => some e
                | _, _ => none)) (publishCmd instEnd (first instEnd) (spanRange 0x20000 0 true))
      (fun _ _ => true) = true := by decide +kernel
theorem witness_Erase : 8 ∈ (instQ.stack 0).awaiting := by decide +kernel
def pinQ : State := nextOf (exec (.xpin 0 3 1 false false 0) (gs [(1, 1)] instRec))
theorem witness_Pin : ready pinQ = true ∧ (first pinQ).work = .pin 0x20000 1 false 0 ∧
    (pinUnits pinQ (first pinQ).ctx (pageStarts 0x20000 1) []).2 = none ∧
    gives (closeCmd { first pinQ with rel := false } 0 (2 ^ 60 + 65536) [] none) pinQ (fun _ _ => true) = true := by decide +kernel
def wearQ : State := nextOf (exec (.xwear 6 3) instRec)
theorem witness_Wear : ready wearQ = true ∧ (match (first wearQ).work with | .wear _ reg => reg == 6 | _ => false) = true ∧
    (wearQ.agent? (first wearQ).issuer).isSome = true ∧
    (let owed (s : State) : List Nat := (s.cur.wearRegs.filter (fun e => e.2 == (first wearQ).id)).map (fun e => e.1)
     let with_ (ws : List (Nat × Nat)) : State := { wearQ with cur := { wearQ.cur with wearRegs := ws } }
     owed wearQ = [6] ∧ owed (with_ []) = [] ∧ owed (with_ [(44 + 2, (first wearQ).id)]) = [44 + 2] ∧ wearQ.wf = true) := by decide +kernel
def streamQ : State := nextOf (exec (.xstream 1 false 0) streamRec)
theorem witness_StreamBinds : ready streamQ = true ∧ (match (first streamQ).work with
      | .stream _ port code k _ => port == 255 && k == 2 && (streamQ.slotHolder 0 code).any (fun a => !a.isSaved)
      | _ => false) = true ∧ ((streamQ.focus 0).cur.launch = 0) ∧
    ({ streamQ with cur := { streamQ.cur with launch := 1 } } : State).slotHolder 0 255 = none := by decide +kernel

/-! ## Witnesses: sweeps -/

def sweepQ : State := nextOf (exec (.xsweep 1 false false 0) sweepRec)
theorem witness_SweepStarts : ready sweepQ = true ∧ (first sweepQ).pos.begun = false ∧ sweepQ.hostFree (first sweepQ) 0 = true ∧
    gives (do let old ← engineRead (first sweepQ) (BitVec.ofNat 64 (0x1200 + 24)).toNat 8
              engineWrite (first sweepQ) (BitVec.ofNat 64 (0x1200 + 24)).toNat (leBytes 8 0)
              return old) sweepQ (fun old _ => old == 0) = true := by decide +kernel
def sweeping : State := nextOf (exec (.xsweepExecute 0) sweepQ)
def swept : State := { sweeping with cmds := sweeping.cmds.map (fun c => { c with pos := { c.pos with line := 1 } }) }
/-- The sweep with the skip policy on. -/
def skipping : State := { sweeping with cmds := sweeping.cmds.map (fun c => { c with work := match c.work with
  | .sweep hdr n f skip body args _ wt count host at_ => .sweep hdr n f skip body args 0 wt count host at_
  | w => w }) }
theorem witness_SweepSteps : (first sweeping).pos.begun = true ∧ (first sweeping).pos.line < ctxLines 2 ∧
    (sweeping.core 0).sweepSaved = false ∧ (match (first sweeping).work with
      | .sweep hdr n f skip body args pol _ _ core at_ => pol == 1 && gives (do
          let (p, k) ← batchLines (first sweeping) skip pol (ctxLines n) 7 (first sweeping).pos 1
          oneBatch (first sweeping) hdr n f skip body args at_ pol core 0 (k + 1) p
          return k) sweeping (fun k _ => k == 0)
      | _ => false) = true ∧ ctxLines 2 ≤ (first swept).pos.line ∧
    gives (endSweep (first swept) 0x1200 2 3 1 0) swept (fun _ _ => true) = true ∧ (first sweeping).hit = none ∧ (first skipping).hit = none ∧
    gives (failSweep { first sweeping with hit := some (0x61, 0) } 0x1200 0 (0x61, 0) (some 0)) sweeping (fun _ _ => true) = true ∧
    (match (first skipping).work with
      | .sweep hdr n f skip body args pol _ _ core at_ => pol == 0 && gives (do
          let c := first skipping
          let x ← engineRead c (BitVec.ofNat 64 (skip + 8 * (c.pos.line / 64))).toNat 8
          let (p, k) ← batchLines c skip pol (ctxLines n) 7 { c.pos with skipWord := BitVec.ofNat 64 x, skipLine := some (c.pos.line / 64) } 1
          oneBatch c hdr n f skip body args at_ pol core 0 (k + 1) p
          return x) (bytes 0x10300 [1] skipping) (fun x _ => x / 2 ^ 0 % 2 == 1)
      | _ => false) = true ∧ (first skipping).pos.skipLine ≠ some 0 ∧
    gives (engineRead (first skipping) (BitVec.ofNat 64 0x1300).toNat 8) skipping (fun x _ => x / 2 ^ 0 % 2 == 0) = true := by
  decide +kernel

/-- Element 0 awake, element 1 asleep under key 0, element 5 past the end; the header at 0x1200. -/
def contexts (e : Word) : State := gs [(1, 0x1200), (2, e)] (bytes 0x10240 (leBytes 4 (2 ^ 30) ++ leBytes 4 (2 ^ 31)) sweepRec)
def wakes (e : Word) (p : Nat → Nat → Bool) : Bool :=
  gives (do headerOffFlash 0x14 0x1200
            releaseIf false 0
            let _ ← homePlace false .load 0 0x1200
            let h ← loadNat true 0 0x1200 16
            return (recField h 0 4, recField h 4 1)) (contexts e) (fun x _ => p x.1 x.2)
theorem witness_Cwake : (contexts 5).runs (.threadOr .lamplighter) ∧ wakes 5 (fun n _ => decide (n ≤ 5)) = true ∧
    wakes 1 (fun n f => decide (1 < n) && f == 3) = true ∧ gives (do
      releaseIf false 0
      let pl ← atomicPlace .atomic 0 (BitVec.ofNat 64 (ctxAddr 0x1200 3 1))
      anchor (BitVec.ofNat 64 (ctxAddr 0x1200 3 1))
      let x ← updateAt (ctxAddr 0x1200 3 1) 0 pl 4 4 (fun c => some (c % 2 ^ 30 + 2 ^ 30))
      record 0 (spanRange (ctxAddr 0x1200 3 1) 4 true)
      let pk ← atomicPlace .atomic 0 0x1300
      anchor 0x1300
      let _ ← updateAt 0x1300 0 pk 1 1 (fun z => some (z ||| 1))
      record 0 (spanRange 0x1300 1 true)
      acquireIf true 1 0
      return x) (contexts 1) (fun x _ => x / 2 ^ 30 == 2 && x % 2 ^ 24 == 0) = true ∧
    gives (do let pl ← atomicPlace .atomic 0 (BitVec.ofNat 64 (ctxAddr 0x1200 3 0))
              let x ← updateAt (ctxAddr 0x1200 3 0) 0 pl 4 4 (fun _ => none)
              acquireIf true 1 0
              return x) (contexts 0) (fun x _ => x / 2 ^ 30 == 1) = true :=
  ⟨⟨by decide +kernel, by decide +kernel⟩, by decide +kernel⟩
def counted (e : Word) : Bool := gives (do
    headerOffFlash 0x26 (0x1200 + 16)
    releaseIf true 0
    let pl ← homePlace false .wait 0 (0x1200 + 16)
    anchor 0x1200
    let k ← readPlace 0 pl 8
    if k < e.toNat then return k
    let ps ← homePlace false .wait 0 (0x1200 + 24)
    let _ ← readPlace 0 ps 8
    noteAwaited pl.loc
    acquireIf true 1 0
    return k) (contexts e) (fun k _ => decide (e.toNat ≤ k))
theorem witness_Cwait : counted 0 = true ∧ counted 1 = false := by decide +kernel


/-! ## Witnesses: launches, forks, joins, threads -/

/-- A launch record at 0x1400: one cluster, core and thread, stage 0 at 0x1000; a bad one at 0x1500. -/
def launching : State :=
  let rec_ (clusters : Nat) : List Byte := leBytes 8 0 ++ leBytes 2 clusters ++ leBytes 1 1 ++ leBytes 1 1 ++ leBytes 116 0 ++
    leBytes 8 0x1000 ++ leBytes 1 128 ++ leBytes 119 0
  gs [(1, 0x1400), (2, 0x1500), (3, 0x1401)] (bytes 0x10400 (rec_ 1 ++ rec_ 0) device0)
def readsLaunch (s : State) (va : Word) (p : Option Nat → Bool) : Bool := gives (do
    release 2
    let x ← loadNat true 0 va 256
    let s2 ← get
    return (match resolve s2 s2.ctx .store va with
      | .ok _ => p (firstBad (recordChecks s2 s2.ctx s2.prioCap x))
      | .error _ => false)) s (fun b _ => b)
def fullTable : List Nat := List.range 1024
theorem witness_Launch : launching.runs .threadOnly ∧ readsLaunch launching (launching.g 1) (fun o => o == none) = true ∧
    readsLaunch launching (launching.g 2) (fun o => o == some 8) = true ∧ (launching.g 3).toNat % 64 ≠ 0 ∧
    kvHas launching.launches 1 = false ∧ kvHas launching.launches 0 = true ∧
    (match resolve launching launching.ctx .store 0x5000 with | .ok _ => false | .error _ => true) = true :=
  ⟨⟨by decide +kernel, by decide +kernel⟩, by decide +kernel⟩
theorem witness_LaunchTableFull (e : Nat) (h : e < 1024) : kvHas (fullTable.map (fun e => (e, launch0))) (1024 * 0 + e) = true := by
  simp [kvHas, fullTable, h]

/-- Thread 0 of a launch whose stage 1 is an MCC stage; the stage running, ended by a fault, and joined. -/
def launch1 : Launch := { launch0 with stages := launch0.stages.set 1 { present := true, entry := 0x1000, kind := 1, stack := 0 } }
def forking : State := { device0 with launches := [(0, launch1)] }
def forked : State := nextOf (exec (.fork 2) forking)
def ended1 : State := { forked with others := forked.others.map (fun a => { a with status := .ended 2 }) }
def faulted1 : State := ended1.noteFault 0 1 0 2
theorem witness_Fork : forking.runs .threadOnly ∧ forking.launch? forking.cur.launch = some launch1 ∧
    (launch1.toFork 2).length = 1 ∧ (launch1.toFork 2).all (fun e => !forking.stageLost launch1 e.2) = true ∧
    ((launch1.toFork 2).map (fun e => launch1.sequencers e.1 e.2)) = [[(6144, 0)]] ∧ forking.sequencerFree 0 6144 = true ∧
    (forking.putAgent { Agent.fresh 6144 .mcc with status := .running, launch := 1 }).sequencerFree 0 6144 = false ∧
    ({ forking with dev := { forking.dev with towerok := 0 } } : State).stageLost launch1 { present := true, entry := 0x1000, kind := 1, stack := 0 } = true :=
  ⟨⟨by decide +kernel, by decide +kernel⟩, by decide +kernel⟩
theorem witness_Join : (forked.launch? 0).any (fun l => (l.named 2).any (fun e => !forked.stageEnded l e.1 e.2)) = true ∧
    (ended1.launch? 0).any (fun l => (l.named 2).all (fun e => ended1.stageEnded l e.1 e.2) && l.faults.all (fun f => !(2#8).getLsbD f.1)) = true ∧
    gives (acquire 0 2) ended1 (fun _ _ => true) = true ∧
    (faulted1.launch? 0).any (fun l => (l.named 2).all (fun e => faulted1.stageEnded l e.1 e.2) &&
      (l.faults.find? (fun f => (2#8).getLsbD f.1)).isSome) = true := by decide +kernel

/-- Threads of core 0 and core 1 of a launch of two cores. -/
def twoCores (ask : Nat) (st : Status) : State :=
  { device0 with launches := [(0, { launch0 with cores := 2 })],
                 others := [{ Agent.fresh 4 .thread with core := 1, gangAsk := ask, status := st }] }
theorem witness_ThreadControl : device0.runs .any ∧ device0.launch? device0.cur.launch = some launch0 ∧ device0.cur.kind = .thread ∧
    gives (release 2) { device0 with cur := { device0.cur with vqueue := [] } } (fun _ _ => true) = true ∧
    (device0.g 0).toNat ≤ device0.time device0.myTower ∧ device0.time device0.myTower < ((gs [(1, 1)] device0).g 1).toNat ∧
    device0.cur.id % 4 < (device0.core device0.myCore).credit.length :=
  ⟨⟨by decide +kernel, by decide +kernel⟩, by decide +kernel⟩
theorem witness_GangForms : (twoCores 2 .running).runs .threadOnly ∧ launch0.cores < 2 ∧ (twoCores 2 .running).cur.gang = 0 ∧
    ((twoCores 2 .running).gangParty (twoCores 2 .running).cur 2).length = 2 ∧
    ((twoCores 2 .running).gangParty (twoCores 2 .running).cur 2).all (fun b => b.id == 0 || b.gangAsk == 2) = true ∧
    (twoCores 2 .running).gangElsewhere ((twoCores 2 .running).gangParty (twoCores 2 .running).cur 2) = false ∧
    ((twoCores 0 .running).gangParty (twoCores 0 .running).cur 2).all (fun b => b.id == 0 || b.gangAsk == 2) = false ∧
    ((twoCores 0 (.ended 0)).gangParty (twoCores 0 (.ended 0)).cur 2).any (fun b => b.gangAsk != 2 && b.hasEnded) = true :=
  ⟨⟨by decide +kernel, by decide +kernel⟩, by decide +kernel⟩
/-- The states whose instructions complete sleep and are tried again by their wakes: `sleep_waits`, `sleep_retry`. -/
theorem witness_Sleepers : ∀ s ∈ [words1 4, thread0, copyRec, contexts 0, launching, forking, ended1, twoCores 2 .running, device0,
    super device0, eventful (super device0)], s.cur.status = .running ∧ s.cur.waitSince = s.clock := by decide +kernel
/-- A wait that ends, and one that goes on. -/
def waiting (n : Word) : State := { (gs [(1, n)] device0).sleep .waitt (.waitt 1) with clock := 5 }
theorem witness_Wakes : (waiting 9).agent? 0 = some (waiting 9).cur ∧ (waiting 9).cur.status = .waiting .waitt (.waitt 1) ∧
    leads (exec (.waitt 1) ((waiting 9).retry 0)) (fun t => t.cur.status == .waiting .waitt (.waitt 1)) = true ∧
    leads (exec (.waitt 1) ((waiting 3).retry 0)) (fun t => t.cur.status == .running) = true := by decide +kernel

/-! ## Witnesses: exceptions and control registers -/

/-- A thread with a handler; one inside it; the MCC. -/
def handled : State := regs (fun r => { r with kvec := 0x2000 }) thread0
def inHandler : State := nextOf (exec (.trap 7) handled)
theorem handled_takes : handled.takes := ⟨.inl (by decide +kernel), by decide +kernel⟩
theorem witness_Exceptions : handled.takes ∧ handled.dev.fltbase = 0 ∧ inHandler.cur.kind = .thread ∧ inHandler.regs.kstatus.getLsbD 8 = true ∧
    thread0.regs.kstatus.getLsbD 8 = false ∧ thread0.regs.kvec &&& 0x00FFFFFFFFFFFE00 = 0 ∧ mcc0.cur.kind ≠ .thread ∧
    mcc0.cur.kind ≠ .dispatcher ∧ mcc0.cur.kind ≠ .sweep ∧ mcc0.cur.status = .running := ⟨handled_takes, by decide +kernel⟩
theorem witness_Eret : inHandler.runs .threadOnly ∧ inHandler.cur.user = false ∧ handled.cur.user = true ∧ (super handled).cur.user = false ∧
    (super handled).regs.kstatus.getLsbD 8 = false := ⟨⟨by decide +kernel, by decide +kernel⟩, by decide +kernel⟩
theorem witness_EretFrame : inHandler.cleanBytes (frameAt 0) 32 ∧
    stops checkFrame { inHandler with poison := [errorUnit (frameAt 0 + 8)], cur := { inHandler.cur with vqueue := [] } } (fun _ _ => true) = true :=
  ⟨clean_of _ (by decide +kernel) (by decide +kernel) _ _, by decide +kernel⟩

theorem witness_ControlRegisters : (super thread0).runs .threadOnly ∧ (super thread0).cur.user = false ∧ thread0.cur.user = true ∧
    (((super thread0).cur.settle (creg.usedBy 0x010)).vqueue = []) ∧ ((4 : Word).toNat % 8 ≤ 4 ∧ 4 < (5 : Word).toNat % 8) ∧ ((128 : Word).toNat % 2048 ≤ 128 ∧ 128 < (129 : Word).toNat % 2048) ∧
    (0x1820 / 512 % 16 ≤ 12 ∧ 0x1820 / 32 % 4 ≠ 3 ∧ 12 < 0x1A20 / 512 % 16) ∧ (super thread0).regs.loopCtl.toNat % 64 = 0 ∧
    (super (lastWord 1)).regs.loopCtl.toNat % 64 = 1 ∧ gives (readBody 0x1004 1) (body2 (super (lastWord 1))) (fun ws _ => ws.length == 1) = true ∧
    gives (readBody (body2 (super (lastWord 1))).regs.loopAddr 1) (bytes 0x10000 (leBytes 4 0x04210800) (super (lastWord 1)))
      (fun ws _ => ws.length == 1) = true :=
  ⟨⟨by decide +kernel, by decide +kernel⟩, by decide +kernel⟩
/-- A copy to the tower's TSP not yet performed. -/
def tspBusy : State := super { device0 with
  cmds := (device0.accepted 1 0 0 false false 0 none (.copy 0x00FE200000000000 0x1200 8 1 0 0 0 0 255)).cmds }
theorem witness_WaysWait : tspBusy.tspPending 0 = true ∧ (super device0).tspPending 0 = false ∧
    (3 : Word).toNat % 16 ≠ (device0.tower 0).l2ways.toNat % 16 ∧ (0 : Word).toNat % 16 = (device0.tower 0).l2ways.toNat % 16 := by
  decide +kernel

theorem witness_Tlbinv : (super { flying with bank := flying.bank.take 1 }).sent = [] ∧
    ({ super thread0 with sent := [{ agent := 0, tgt := 0x10, addr := 0, byte := 0 }] } : State).sent ≠ [] ∧
    (super thread0).runs .threadOnly := ⟨by decide +kernel, by decide +kernel, ⟨by decide +kernel, by decide +kernel⟩⟩
theorem witness_Maintenance : thread0.runs .threadOnly ∧ thread0.cur.user = true ∧ (super thread0).cur.user = false ∧
    ((super thread0).tower 0).tlb.any (fun e => e.vbase ≤ 0x1000 && 0x1000 < e.vbase + e.size) = true ∧
    reaches hit1 .probe 0x1100 (fun pl => pl.cls == .dram) = true ∧ gives (drainBank 0) hit2 (fun _ _ => true) = true ∧
    gives (drainWhere (fun _ => true)) (super { flying with bank := flying.bank.take 1 }) (fun _ _ => true) = true ∧ thread0.passes 0 ∧
    ¬({ thread0 with cur := { thread0.cur with holds := [{ streams := 1, upTo := 1, acq := none }] } } : State).passes 0 ∧
    (eventful (super thread0)).cur.pending ≠ [] ∧
    (super thread0).cur.pending = [] ∧ (super thread0).g 0 = 0 ∧
    gives (each (((super hit2).agents.filter (fun b => placeCluster (super hit2).dev.towerok b.id == 0)).map (fun b => b.id)) drainBank)
      (super hit2) (fun _ _ => true) = true := ⟨thread0_runs.2, by decide +kernel⟩

/-! ## Witnesses: events and launches -/

theorem eventful_takes : (eventful handled).takes := ⟨.inl (by decide +kernel), by decide +kernel⟩
theorem witness_Events : (eventful handled).agent? 0 = some (eventful handled).cur ∧ (eventful handled).cur.takesEvents = true ∧
    ((eventful handled).focus 0).takes ∧ (eventful mcc0).cur.takesEvents = true ∧ (eventful mcc0).agent? 6144 = some (eventful mcc0).cur :=
  ⟨rfl, by decide +kernel, eventful_takes, by decide +kernel, by decide +kernel⟩
def longWait : State := { (thread0.sleep .waita (.waita 1 2 3 false false 0 true)) with clock := 2 ^ 32 }
theorem witness_Watchdog : longWait.cur.status = .waiting .waita (.waita 1 2 3 false false 0 true) ∧
    longWait.cur.regs.kstatus.getLsbD 4 = true ∧ longWait.cur.waitSince + 2 ^ 32 ≤ longWait.clock ∧ longWait.cur.pending = [] := by
  decide +kernel
def spent : State := regs (fun r => { r with kstatus := 0x410 }) { device0 with clock := 1001 }
theorem witness_Budget : spent.launch? spent.cur.launch = some launch0 ∧ spent.cur.regs.kstatus.getLsbD 10 = true ∧
    spent.cur.budgetWarned = false ∧ launch0.budget - launch0.budget / 16 ≤ spent.ran launch0 ∧ spent.cur.status = .running ∧
    launch0.budget < spent.ran launch0 := by decide +kernel
/-- The launch queued with nothing bound. -/
def launchQ : Launch := { launch0 with admitted := none, place := [] }
def queued : State := { device0 with launches := [(0, launchQ)], cur := Agent.fresh 0 .thread }
theorem witness_Admit : queued.wf = true ∧ queued.launch? 0 = some launchQ ∧ queued.dev.phase = 7 ∧ queued.eligible launchQ = true ∧
    queued.placeOk launchQ [{ cluster := 0, cores := [(0, [0])] }] = true := by decide +kernel
def endedT : State := { device0 with cur := { device0.cur with status := .ended 0 } }
theorem witness_LaunchEnds : launch0.admitted.isSome = true ∧ endedT.allEnded 0 = true ∧ endedT.cmdsDone 0 = true ∧ endedT.launchArrived 0 = true ∧ endedT.wf = true ∧
    (0 : Word).toNat % 16384 = 0 := by decide +kernel

/-! ## Witnesses: bring-up, pipes, saving, caches -/

theorem witness_BringUp : (∀ p ∈ [0, 1, 2, 3, 4, 5, 6], ({ State.reset with dev := { Device.reset with phase := p } } : State).wf = true ∧
    ({ State.reset with dev := { Device.reset with phase := p } } : State).dev.phase = p) ∧
    ({ Device.reset with phase := 6 } : Device).towerok = 0 ∧ ({ Device.reset with phase := 6, towerok := 1 } : Device).towerok ≠ 0 := by
  decide +kernel

theorem witness_LaunchStops : device0.launch? 0 = some launch0 ∧
    (∀ c ∈ [0x78, 0x7B], 0x78 ≤ c ∧ c ≤ 0x7B) ∧ (∀ c ∈ [0x07, 0x60, 0x70, 0x77, 0x7C], ¬(0x78 ≤ c ∧ c ≤ 0x7B)) := by decide +kernel
theorem witness_Pending : ([{ code := 0x06, val := 0, val2 := 0 }, { code := 0x0A, val := 0, val2 := 0 }] : List Pending).Pairwise
    (fun x y => x.code ≤ y.code) := by decide

def token (pipe beats issued written : Nat) : VToken := { pipe := pipe, beats := beats, issued := issued, written := written }
def piped (ts : List VToken) : State := { mem3 with cur := { mem3.cur with vqueue := ts } }
theorem witness_VectorPipes : (piped [token 0 2 1 0, token 2 2 1 0]).agent? 0 = some (piped [token 0 2 1 0, token 2 2 1 0]).cur ∧
    (token 0 2 1 0).pipe ≠ 2 ∧ (token 0 2 1 0).written < (token 0 2 1 0).issued ∧ (token 0 2 2 2).beats ≤ (token 0 2 2 2).written ∧
    (mem3.sleep .vqueue (.vadd 1 1 1 0)).cur.status = .waiting .vqueue (.vadd 1 1 1 0) ∧ mem3.cur.kind = .thread := by decide +kernel
/-- A head ready for pipe 0 since now, and one ready for 224 cycles; a pipe with no head. -/
def ready0 : State := piped [token 0 2 1 0, token 2 2 1 0]
def ready224 : State := { piped [{ token 0 20 1 0 with since := some 0 }] with clock := 224 }
theorem witness_Heads : (ready0.heads 0 0).map (fun h => (h.q, h.slot, h.since)) = [(0, 0, 0)] ∧ ready0.heads 0 2 = [] ∧
    ((ready0.core 0).winner ready0.clock (ready0.heads 0 0)).isSome = true ∧ kvGet 0 (ready0.core 0).busy 0 ≤ ready0.clock ∧
    (∀ h ∈ ready0.heads 0 0, ready0.clock - h.since < 224) ∧ (∃ h ∈ ready224.heads 0 0, 224 ≤ ready224.clock - h.since) ∧
    ((ready224.core 0).winner ready224.clock (ready224.heads 0 0)).isSome = true := by decide +kernel
theorem witness_Chained : (({ token 0 2 0 0 with reads := 6 } : VToken).reads &&& ({ token 0 2 1 0 with writes := 4 } : VToken).writes ≠ 0) ∧
    (token 0 2 1 0).written < (token 0 2 1 0).beats ∧ (token 0 2 1 0).whole = false ∧ (token 0 2 0 0).far &&& 4 = 0 ∧
    (token 0 2 0 0).ratio = (1, 1) ∧ (token 0 2 0 0).block = 1 ∧ 0 < (token 0 2 1 0).bits := by decide +kernel
/-- A vld of three elements at the pc, whose line is not in the L1. -/
def loading : State := bytes 0x10000 (leBytes 4 (encode (.vld 3 1 0 0 0)).toNat) mem3
/-- It in the queue, its line awaited. -/
def loaded : State :=
  let c : Checkpoint := loading.point 1
  { loading with cur := { loading.cur with vqueue := [{ token 2 1 1 0 with
      awaits := [{ elem := 2, va := 0x1108, lo := 0, hi := 0 }], snap := some c }] } }
theorem witness_Awaited : responseCause 0x71 = true ∧ (0x71 : Nat) ≠ 0x77 ∧ loaded.cur.kind = .thread ∧ loaded.cur.status = .running ∧
    (∀ x ∈ loaded.sent, x.agent ≠ loaded.cur.id) ∧ (∀ c ∈ loaded.cmds, cmdAgent c.id ≠ 0) ∧
    loaded.cur.vqueue.all (fun t => t.pipe == 2 && decide (t.written < t.issued) && t.snap.isSome && t.late.isNone &&
      t.awaits.any (fun e => e.elem == 2 && e.va == 0x1108 && decide (e.hi < t.issued))) = true ∧
    (match resolve loaded (loaded.streamCtx 1) .load 0x1108 with
      | .ok (_, pl, _, _) => loaded.errorFits 0x71 { pl with loc := pl.loc + 0x1108 % 64 } &&
          loaded.errorFits 0x73 { pl with loc := pl.loc + 0x1108 % 64 }
      | .error _ => false) = true := by decide +kernel
/-- The same load with elements that may still be read, a younger memory instruction behind it (R204, R412). -/
def loadedLate : State := { loaded with cur := { loaded.cur with vqueue := loaded.cur.vqueue.map (fun t => { t with
  late := some { vd := 3, fmt := 3, group := 1, items := [(2, 0x1108, 2)] } }) ++ [token 2 1 1 1] } }
theorem witness_ReadLate : (loadedLate.cur.vqueue.take 1).all (fun t => t.late.isSome &&
    gives (readLate 0 t { elem := 2, va := 0x1108, src := 0, age := 0, found := none }) loadedLate (fun _ _ => true)) = true := by
  decide +kernel
/-- With no instruction waiting, an error at the line is met by its next reader. -/
theorem witness_ErrorKept : responseCause 0x71 = true ∧ (0x71 : Nat) ≠ 0x74 ∧ (0x71 : Nat) ≠ 0x77 ∧
    loading.errorFits 0x77 { loc := 2 ^ 47 + (16 * loading.myCore + 2) * 2 ^ 14 + 0x108, cls := .window } = true ∧ hit1.cur.vqueue = [] ∧
    (match resolve hit1 hit1.ctx .probe 0x1100 with
      | .ok (_, pl, _, _) => (hit1.l1? hit1.myCluster (pl.loc / 64)).isSome
      | .error _ => false) = true ∧ loading.cur.vqueue = [] ∧
    (match resolve loading loading.ctx .probe 0x1108 with
      | .ok (_, pl, _, _) => loading.errorFits 0x71 { pl with loc := pl.loc + 0x1108 % 64 }
      | .error _ => false) = true := by decide +kernel
theorem witness_Response : loading.upcoming = some (.vld 3 1 0 0 0) ∧ vectorLoad (.vld 3 1 0 0 0) = true ∧
    (loading.vecAccess (.vld 3 1 0 0 0)).any (fun e => e.1 2 == 0x1108 && e.2 == (0, 1) &&
      (loading.actives 0).find? (fun j => serves 1 (loading.loadBeat (.vld 3 1 0 0 0)) e.1 (loading.actives 0) j 2) == some 0) = true ∧
    loading.ordered (.vld 3 1 0 0 0) = false ∧ loading.actives 0 = [0, 1, 2] ∧
    (match resolve loading loading.ctx .load 0x1100, resolve loading loading.ctx .probe 0x1100 with
      | .ok (_, pl, _, _), .ok (_, pl', _, _) => pl.cls == .dram && pl.loc == pl'.loc &&
          (loading.l1? loading.myCluster (pl.loc / 64)).isNone && decide (sourceOf pl % 32 = sourceOf pl) &&
          gives (do
            let x ← responseData 0x1100 pl
            l1Load loading.ctx loading.myCluster .load 1 0x1100 pl 0 1
            return x) loading (fun x _ => x.2.1 == 0) &&
          !loading.poison.contains (errorUnit pl.loc) && loading.latent.all (fun e => e.unit != errorUnit pl.loc)
      | _, _ => false) = true ∧ loading.cur.reassembly = [] ∧ loading.cur.vqueue = [] ∧ loading.cur.loose = [] ∧
    loading.passes 1 ∧ loading.sent = [] ∧
    (∀ b ∈ loading.others, b.loose = []) ∧ (0x1100 : Word).toNat % 64 + elemBytes 3 ≤ 64 := by decide +kernel

/-- A vector add of three elements at the pc, which a pre-emption may cut before element 1 or 2. -/
def adding3 : State := bytes 0x10000 (leBytes 4 (encode (.vadd 3 1 2 0)).toNat) ints
theorem witness_Preempt : gives (saveThread .saved) device0 (fun _ _ => true) = true ∧ device0.cur.saveable = true ∧
    device0.wf = true ∧ gives (saveThread .saved) adding3 (fun _ _ => true) = true ∧ adding3.cur.saveable = true ∧
    adding3.cutPoints = [1, 2] := by decide +kernel
/-- Thread 0 stalled on rows, thread 1 of its core holds some. -/
def stalled : State := { device0 with clock := 512, cur := { device0.cur with stall := some 0 },
                                      others := [{ ints.cur with id := 1 }] }
theorem witness_RowPressure : (stalled.agents.find? (fun b => placeCore b.id == 0 && ((b.kind == .sweep && !(stalled.core 0).sweepSaved) || (b.kind == .thread && b.status == .running)) &&
      (match b.stall with | none => false | some k => decide (k + 512 ≤ stalled.clock)))).map (fun b => b.id) = some 0 ∧
    ((stalled.putAgent { stalled.cur with stall := some 512 }).rowVictim 0 stalled.cur).map (fun b => b.id) = some 1 := by decide +kernel
/-- Thread 0 saved: its area of zeros begins with its kind byte. -/
def savedT : State := bytes (device0.saveAddr 0) [3] { device0 with cur := { device0.cur with status := .saved } }
theorem resumes (slot : Nat) (s : State) (h1 : s.areaUsable (s.saveAddr slot) = true)
    (h2 : areaNat (memBytes s.mem (s.saveAddr slot) 32768) 0 1 = 3)
    (h3 : vareaRows ((memBytes s.mem (s.saveAddr slot) 32768).drop 3072) ≤ s.rowsFree) :
    gives (resumeThread slot) s (fun _ _ => true) = true := by
  have h3' : ¬ s.rowsFree < vareaRows ((memBytes s.mem (s.saveAddr slot) 32768).drop 3072) := by omega
  unfold gives resumeThread restoreThread
  simp [bind, get, getThe, MonadStateOf.get, EStateM.bind, EStateM.get, h1, h2, h3', set, modify, modifyGet,
    MonadStateOf.modifyGet, EStateM.modifyGet, EStateM.set, MonadStateOf.set]
theorem witness_Restore : savedT.cur.status = .saved ∧ gives (resumeThread 0) savedT (fun _ _ => true) = true :=
  ⟨rfl, resumes 0 savedT (by decide +kernel) (by decide +kernel) (by decide +kernel)⟩
theorem witness_SweepSave : (sweeping.agent? (sweepId 0)).isSome = true ∧
    (sweeping.cmds.find? (fun c => (sweeping.core 0).sweep == some c.id)).isSome = true ∧
    sweeping.areaUsable (sweeping.saveAddr (saveSlot (sweepId 0))) = true := by decide +kernel
/-- The record region at 0x100000, thread 0 saved there with an answer. -/
def paged (answer : Nat) (saved : Bool) : State :=
  let a : Agent := { savedT.cur with status := .paged saved 0x10, postedAt := 0x100000 }
  bytes 0x100000 (leBytes 8 answer) { savedT with cur := a }
theorem witness_PagerStops : memNat (paged 3 true).mem (paged 3 true).cur.postedAt 8 = 3 ∧ (paged 3 true).wf = true ∧
    (paged 3 true).launch? (paged 3 true).cur.launch = some launch0 ∧ memNat (paged 2 true).mem (paged 2 true).cur.postedAt 8 = 2 :=
  ⟨by decide +kernel, by decide +kernel, by decide +kernel, by decide +kernel⟩
theorem witness_PagerDenies : gives (resumeThread 0) (paged 2 true) (fun _ _ => true) = true :=
  resumes 0 (paged 2 true) (by decide +kernel) (by decide +kernel) (by decide +kernel)
theorem witness_Pager : (paged 1 true).cur.postedAt = 0x100000 ∧
    memNat (paged 2 false).mem ((paged 2 false).cur.postedAt + 64 * seatOf 0) 8 = 2 ∧
    memNat (paged 0 true).mem (paged 0 true).cur.postedAt 8 = 0 ∧ gives (resumeThread 0) (paged 1 true) (fun _ _ => true) = true :=
  ⟨by decide +kernel, by decide +kernel, by decide +kernel,
    resumes 0 (paged 1 true) (by decide +kernel) (by decide +kernel) (by decide +kernel)⟩

/-- The translation an L1_FILL makes, for the machine. -/
def fills (s : State) (p : Place → Bool) : Bool :=
  let c : Ctx := { id := 0, kind := .thread, asid := 0, user := false }
  match translate s c .probe 0x1100, translate s c .load 0x1100 with
  | .ok pl, .ok _ => pl.cls == .dram && p pl
  | _, _ => false
theorem witness_L1Fill : fills thread0 (fun pl => (thread0.l1? 0 (pl.loc / 64)).isNone &&
    gives (l1Load { id := 0, kind := .thread, asid := 0, user := false } 0 .load 0 0x1100 pl 0 1) thread0 (fun _ _ => true)) = true := by
  decide +kernel
/-- The line of 0x1100 in the L1, clean, found in error. -/
theorem witness_L1Refill : (hit1.l1? 0 (0x10100 / 64)).any (fun l => l.dirty == 0 && l.valid &&& ~~~l.dirty != 0) = true ∧
    fills hit1 (fun pl => gives (do
      modify (fun s => s.l1Drop 0 (0x10100 / 64))
      countCorrected 0
      l1Load { id := 0, kind := .thread, asid := 0, user := false } 0 .probe 0 0x1100 pl 0 1) hit1 (fun _ _ => true)) = true := by
  decide +kernel
/-- A line of the L1 with dirty bytes, of which the others are refilled; one with no other valid byte, filled: `hit2`. -/
def hit3 : State := after (storeNat false 0 0x1100 8 5) hit1
theorem witness_L1Dirty : (hit3.l1? 0 (0x10100 / 64)).any (fun l => l.valid &&& ~~~l.dirty != 0 &&
      ((List.range 64).filter (fun i => !l.dirty.getLsbD i)).headD 0 == 8 &&
      fills hit3 (fun pl => gives (do
        modify (fun s => if l.dirty = 0 then s.l1Drop 0 l.pline else s.l1Set 0 { l with valid := l.dirty })
        countCorrected 0
        l1Load { id := 0, kind := .thread, asid := 0, user := false } 0 .probe 0 0x1100 pl 8 1) hit3 (fun _ _ => true))) = true ∧
    (hit2.l1? 0 (0x10100 / 64)).any (fun l => l.dirty.getLsbD 0 && l.valid &&& ~~~l.dirty == 0) = true ∧
    fills hit2 (fun pl => gives (l1Load { id := 0, kind := .thread, asid := 0, user := false } 0 .load 0 0x1100 pl 8 1) hit2
      (fun _ _ => true)) = true := by decide +kernel
/-- A fill that meets an error at the home. -/
theorem witness_L1FillFails : fills { thread0 with poison := [0x10100 / 64] } (fun pl =>
    stops (l1Load { id := 0, kind := .thread, asid := 0, user := false } 0 .load 0 0x1100 pl 0 1) { thread0 with poison := [0x10100 / 64] }
      (fun _ _ => true)) = true := by decide +kernel
/-- A set of eight valid lines, of which one gives way, and one alone, which does not. -/
def set8 : State := match hit2.l1? 0 (0x10100 / 64) with
  | none => hit2
  | some l => hit2.setCluster 0 { hit2.cluster 0 with l1 := (List.range 8).map (fun k => { l with pline := l.pline + 1024 * k, used := k }) }
theorem witness_Writeback : (hit2.l1? 0 (0x10100 / 64)).any (fun l => !hit2.leaves 0 l) = true ∧
    (set8.l1? 0 (0x10100 / 64)).any (fun l => set8.leaves 0 l) = true := by decide +kernel
/-- Tables that map 0 to 2 MiB of address space 0 by one leaf of level 1, and no translation held. -/
def tables : State :=
  let e (at_ x : Nat) (s : State) : State := { s with mem := memPutNat s.mem at_ 8 x }
  let s := e 0x100000 0x101001 (e 0x101000 0x102001 (e 0x102000 0x103001 (e 0x103000 0x104001 (e 0x104000 0x20003F thread0))))
  let t := s.tower 0
  let d : Device := { s.dev with astbase := 0x100000 }
  { s with dev := d }.setTower 0 { t with tlb := [] }
theorem witness_PageWalk : tables.towerUp 0 = true ∧ (tables.tower 0).tlb = [] ∧
    (match walk tables .load 0 0x1234 with
      | .ok (leaf, size) => leaf == 0x20003F && size == 2 ^ 21
      | .error _ => false) = true := by decide +kernel
theorem witness_Runahead : bound.cur.reassembly = [] ∧ (bound.handle 2).port.isSome = true ∧ bound.handleBusy 2 = false ∧ (bound.handle 2).ahead = [] ∧
    ({ bound.handle 2 with aheadLen := 3 } : Handle).ahead.length < 4 * 3 ∧ 0 < (bound.handle 2).remaining.toNat ∧
    gives (loadNat true 6 ((bound.handle 2).addr 0) 4) bound (fun _ _ => true) = true := by decide +kernel
def portsFull : State := bound.setCluster 0 { bound.cluster 0 with ports := [(0, (0, 2))], portQueue := [(0, 3)] }
theorem witness_PortHandoff : (portsFull.cluster 0).portQueue = [(0, 3)] ∧ (portsFull.agent? 0).isSome = true ∧
    kvHas (portsFull.cluster 0).ports 0 = true ∧ kvHas (portsFull.cluster 0).ports 1 = false := by decide +kernel
theorem witness_StagingFill : device0.towerUp 0 = true ∧ device0.dev.granaryok.getLsbD (stackOf (65536 * 2 ^ 26)) = true ∧
    0 < (device0.tower 0).stagingUnits ∧ (device0.tower 0).staging.length < (device0.tower 0).stagingUnits := by decide +kernel
theorem witness_Oldtkt : thread0.bank = [] ∧ ({ thread0 with clock := 3 } : State).towerUp 0 = true ∧
    (thread0.tower 0).oldtkt.toNat + 3 ≤ ({ thread0 with clock := 3 } : State).time 0 ∧
    (List.range 12).all (fun k => !(thread0.towerUp k) || decide (({ thread0 with clock := 3 } : State).time k = 3)) = true := by decide +kernel

/-! ## Witnesses: fabric, host, hardware -/

def flit0 : Flit := { plane := 0, src := 0, dst := 7, pos := 1, came := 0, age := 1, req := 0 }
def fabric0 : State := { thread0 with flits := [flit0] }
/-- Sixteen header errors on one segment of plane 0. -/
def noisy (off : BitVec 4) : State :=
  { thread0 with hdrErrors := List.replicate 16 (0, (0, 1), 0), dev := { thread0.dev with planesOff := off } }
theorem witness_Fabric : fabric0.dev.planesOff.getLsbD 0 = false ∧ flit0.age ≤ 256 ∧ fabric0.planeDue 0 = false ∧
    fabric0.fabricClock % 64 = 0 ∧ flit0.carries { plane := 0, src := 0, dst := 7, req := 0 } = true ∧
    (noisy 0).planeDue 0 = true ∧ (noisy 0).dev.planesOff = 0 ∧ (noisy 2).planeDue 0 = true ∧ (noisy 2).dev.planesOff ≠ 0 ∧
    (noisy 2).dev.planesOff.getLsbD 0 = false := by decide +kernel
/-- A request at router 8 bound for 10, its first port to the east; the window's budget spent; the plane full. -/
def inject0 : FlitReq := { plane := 0, src := 8, dst := 10, req := 0 }
def budget0 : State := thread0.setTower 5 { thread0.tower 5 with injrate := 1, injected := [(0, 1)] }
theorem witness_Inject : thread0.planeDue 0 = false ∧ thread0.planeOf inject0.plane = 0 ∧ thread0.flits = [] ∧
    (productive inject0.src inject0.dst).head? = some .east ∧ neighbour inject0.src .east = some 9 ∧ unitAt inject0.src < 12 ∧
    (thread0.tower (unitAt inject0.src)).injrate.toNat % 256 = 0 ∧ (budget0.tower (unitAt inject0.src)).injrate.toNat % 256 = 1 ∧
    kvGet 0 (budget0.tower (unitAt inject0.src)).injected 0 = 1 := by decide +kernel
theorem witness_PlaneFull : (∀ f ∈ List.replicate 512 flit0, f.pos < 18 ∧ f.dst ≠ f.pos ∧ f.age ≤ 256) ∧
    512 ≤ ((List.replicate 512 flit0).filter (fun f => thread0.planeOf f.plane == 0)).length ∧
    ∃ t, exec (.flitRoute 0 []) { thread0 with flits := List.replicate 512 flit0 } = .next t := by
  refine ⟨fun f h => ?_, by decide +kernel, _, rfl⟩
  obtain ⟨-, rfl⟩ := List.mem_replicate.mp h
  decide
/-- The sixteenth header error of a segment makes the plane due, a fifteenth does not (R406). -/
theorem test_sixteen_header_errors :
    let s (n : Nat) : State := { fabric0 with hdrErrors := List.replicate n (0, (0, 1), 0) }
    let due (n : Nat) : Bool := leads (execRequestResend { plane := 0, src := 0, dst := 7, req := 0 } (s n)) (fun t => t.planeDue 0)
    due 15 = true ∧ due 14 = false := by decide +kernel
/-- Link 0 up; apertures to it and to the host over GiB 1 and 2; a page in each at 0x8000 and 0x9000, read by thread 0. -/
def bridged : State :=
  let t := thread0.tower 0
  let s := thread0.setTower 0 { t with tlb := { asid := 0, vbase := 0x8000, size := 4096, leaf := 0x4000003F } ::
    { asid := 0, vbase := 0x9000, size := 4096, leaf := 0x8000003F } :: t.tlb }
  let aper (lbase tgt : Nat) : BitVec 128 := BitVec.ofNat 128 (1 + lbase * 2 ^ 30 + 2 ^ 48 + tgt * 2 ^ 56)
  regs (fun r => { r with kvec := 0x2000 })
    { s with dev := { s.dev with linkstat := 1, apers := [(0, aper 1 0), (1, aper 2 0x10)] },
             sent := [{ agent := 0, tgt := 0x10, addr := 0, byte := 0 }] }
theorem witness_Links : bridged.dev.linkstat.getLsbD 0 = true ∧ (bridged.bridgeOf bridged.cur 0x8000).any (fun e => e.1 == 0) = true ∧
    (bridged.bridgeOf bridged.cur 0x9000).any (fun e => e.1 == 0x10) = true ∧ (∀ b ∈ bridged.agents, bridged.linkLoad b 0 = none) ∧
    bridged.cur.status = .running ∧ bridged.sent.any (fun w => w.agent == 0) = true := by decide +kernel
/-- A scalar load at the pc from over the link, and a vector load in the queue that waits for its line there. -/
def linked : State := gs [(1, 0x8000)] (bytes 0x10000 (leBytes 4 (encode (.ldd 2 1 0)).toNat) bridged)
def linkedLoad : State := { bridged with cur := { bridged.cur with vqueue := loaded.cur.vqueue.map (fun t => { t with
  awaits := [{ elem := 2, va := 0x8008, lo := 0, hi := 0 }] }) } }
theorem witness_LinkAccess : (linked.focus 0).accesses 0x8000 = true ∧ (linked.agent? 0).isSome = true ∧
    (∀ b ∈ linked.agents, linked.linkLoad b 0 = none) := by decide +kernel
/-- A scalar store in flight over the link; it and the load. -/
def linkedStore : State :=
  let u : Unacked := { instr := .std 1 2 0, snap := (gs [(1, 0x8000)] bridged).point 0, bytes := [(0, 0)] }
  { bridged with cur := { bridged.cur with unacked := [u] }, sent := [{ agent := 0, tgt := 0, addr := 0, byte := 0, va := 0x8000 }] }
def linkedBoth : State := { linkedStore with cur := { linkedStore.cur with vqueue := linkedLoad.cur.vqueue } }
/-- A command with a write in flight over the link, and one to the host. -/
def linkedCmd (tgt : Nat) : State :=
  { bridged with cmds := (bridged.accepted 2 0 0 false false 0 none (.wear 0 0)).cmds,
                 sent := [{ agent := cmdAgent bridged.nextCmd, tgt := tgt, addr := 0, byte := 0, va := 0x9000 }] }
theorem witness_LinkStore : (linkedStore.linkStore linkedStore.cur 0).isSome = true ∧ (linkedStore.linkLoad linkedStore.cur 0).isNone = true ∧
    (linkedLoad.linkStore linkedLoad.cur 0).isNone = true ∧ (linkedBoth.linkStore linkedBoth.cur 0).isSome = true ∧
    (linkedBoth.linkLoad linkedBoth.cur 0).isSome = true ∧ linkedBoth.others = [] ∧ linkedStore.others = [] ∧
    (∀ b ∈ bridged.agents, (bridged.linkStore b 0).isNone = true) ∧
    (let u := linkedStore.cur.unacked.headD { instr := .hint 0, snap := thread0.point 0, bytes := [] }
     let s : State := { linkedStore with cur := { linkedStore.cur.rollBack u.snap 0 [] with unacked := [] } }
     (s.vecAccess u.instr).isNone = true ∧ s.scalarAccess u.instr = some 0x8000) ∧
    (linkedCmd 0).sent.any (fun w => w.tgt == 0 && (linkedCmd 0).cmds.any (fun c => w.agent == cmdAgent c.id)) = true := by decide +kernel
/-- The acknowledgements of an agent's write, of one whose address no longer translates, of a command's, and of a sender that is gone. -/
theorem witness_Acks : (match resolve bridged bridged.ctx .probe 0x9000 with
      | .ok (_, { cls := .bridge t a, .. }, _, _) => bridged.sent.any (fun x => x.agent == 0 && x.tgt == t && x.addr / 64 == a / 64)
      | _ => false) = true ∧
    (match resolve bridged bridged.ctx .probe 0 with | .ok _ => false | .error _ => true) = true ∧
    bridged.sent.any (fun x => x.agent == 0 && x.addr / 64 == 0 / 64) = true ∧ bridged.cur.vqueue = [] ∧
    ((linkedCmd 0x10).cmds.find? (fun c => cmdAgent c.id == cmdAgent bridged.nextCmd)).any (fun c =>
      match resolve (linkedCmd 0x10) c.ctx .probe 0x9000 with
      | .ok (_, { cls := .bridge t a, .. }, _, _) => (linkedCmd 0x10).sent.any (fun x => x.tgt == t && x.addr / 64 == a / 64)
      | _ => false) = true ∧ bridged.agent? noAgent = none ∧ bridged.cmds = [] := by decide +kernel
theorem witness_LinkLoad : (linkedLoad.agents.filterMap (fun a => (linkedLoad.linkLoad a 0).map (fun x => (a.id, x)))).map
    (fun e => (e.1, e.2.1, e.2.2.2.elem)) = [(0, 0, 2)] := by decide +kernel
/-- Accesses to the host and over the link that fail, and a release at .sys with a write unacknowledged. -/
theorem witness_HostTimeout :
    reaches bridged .probe 0x9000 (fun pl => match pl.cls with | .bridge t _ => t == 0x10 | _ => false) = true ∧
    reaches bridged .probe 0x8000 (fun pl => match pl.cls with | .bridge t _ => decide (t < 16) | _ => false) = true ∧
    (let s := bytes 0x10000 (leBytes 4 (encode (.fence 1 0 false true 3)).toNat) bridged
     (s.focus 0).upcoming.bind releaseScope = some 3 ∧ (s.sent.any (fun x => x.agent == 0)) = true) := by decide +kernel
theorem witness_CheckPoison : ({ thread0 with latent := [{ unit := errorUnit 0x10100, cause := 0x71, val2 := 0 }] } : State).latent.find?
    (fun x => x.unit == errorUnit 0x10100) = some { unit := errorUnit 0x10100, cause := 0x71, val2 := 0 } := by decide +kernel

theorem witness_HostInterface : thread0.wf = true ∧ thread0.inboundOk 0x2000 = true ∧ 0x2000 + 2 ≤ 2 ^ 43 ∧ thread0.bar2 1 0 4 = none ∧
    ({ thread0 with dev := { thread0.dev with vfcfg := [(1, 1)] } } : State).bar2 1 (2 ^ 32 - 4) 4 = some (2 ^ 32 - 4) ∧
    thread0.plainDram (2 ^ 30) (2 ^ 30) = true ∧ thread0.meetsAperture 0 (2 ^ 30) (2 ^ 30) = false ∧
    bridged.meetsAperture 5 (2 ^ 30) (2 ^ 30) = true ∧ thread0.bar2 0 (2 ^ 43) 1 = none ∧ thread0.bar2 0 0x10100 8 = some 0x10100 ∧
    thread0.latent = [] ∧ thread0.plainDram 0 (2 ^ 32) = true ∧
    thread0.meetsAperture 16 0 (2 ^ 32) = false ∧ thread0.dev.phase = 7 ∧ thread0.agent? 7001 = none ∧
    ({ thread0.dev with attctl := true } : Device).attctl = true := by decide +kernel

/-- A bus being retrained. -/
def retraining : State := nextOf (execBusRetrain 0 4095 thread0)
theorem witness_Hardware : ((thread0.tower 0).bus 4095).retraining = false ∧ ((retraining.tower 0).bus 4095).retraining = true ∧
    (let u := retraining.setTower 0 { retraining.tower 0 with
       buses := kvSet (retraining.tower 0).buses 4095 { wires := 15, retraining := false } }
     (u.tower 0).pairLost = false) ∧ dramTower (64 * 1) = some 0 ∧ thread0.towerUp 0 = true ∧ thread0.dev.phase = 7 ∧
    device0.dev.granaryok.getLsbD 0 = true := by decide +kernel
/-- Both buses of a repair pair dead but for the retraining one, which comes back with no wire. -/
def pairDown : State := nextOf (execBusRetrain 0 1 (nextOf (execBusRetrainDone 0 0 0 (nextOf (execBusRetrain 0 0 thread0)))))
theorem witness_PairLost : ((pairDown.tower 0).bus 1).retraining = true ∧ pairDown.towerUp 0 = true ∧
    (let u := pairDown.setTower 0 { pairDown.tower 0 with
       buses := kvSet (pairDown.tower 0).buses 1 { wires := 0, retraining := false } }
     (u.tower 0).pairLost = true) := by decide +kernel

/-! ## Witnesses: steps -/

def adding : State := State.reset.withFetchWord 32 0x058C6800
theorem witness_Step : adding.sched = [] ∧ adding.dev.phase ≠ 0xFF ∧ adding.cur.status = .running ∧ adding.cur.pending = [] ∧
    adding.cur.holds = [] ∧ gives fetch adding (fun w u => w == 0x058C6800 && u.cur.wearRegs == []) = true ∧
    decode 0x058C6800 = some (.add 12 12 13) := by decide +kernel
def fetched : State := after fetch adding
theorem witness_FetchHits : fetched.regs.loopCtl.toNat % 64 = 0 ∧ fetched.cur.loose = [] ∧ isWindow fetched.cur.pc = false ∧
    fetched.cur.pc.toNat % 64 % 4 = 0 ∧ reaches fetched .fetch fetched.cur.pc (fun pl => pl.cls == .dram &&
      (match fetched.l1? fetched.myCluster (pl.loc / 64) with
        | some l => l.bad == 0 && (List.range 4).all (fun k => l.valid.getLsbD (fetched.cur.pc.toNat % 64 + k))
        | none => false)) = true := by decide +kernel
theorem witness_FetchReplays : (lastWord 1).cur.pc = (lastWord 1).regs.loopAddr + 4 * BitVec.ofNat 64 0 ∧
    0 < (lastWord 1).regs.loopCtl.toNat % 64 := by decide +kernel
theorem witness_Encoded : (encode? (.add 1 2 3)).isSome = true ∧ (Instr.add 1 2 3).wellFormed = true := by decide +kernel
theorem witness_MemoryForm : adding.wf = true ∧ leads (step adding) (fun _ => true) = true := by decide +kernel


/-! ## Words written from the encodings of R68–R79 and spec/opcode_table.json -/

theorem test_decode_major_01 :
    decode 0x06AA6800 = some (.add 21 10 13) ∧ decode 0x06AA6801 = some (.sub 21 10 13) ∧
    decode 0x06AA6802 = some (.and 21 10 13) ∧ decode 0x06AA6803 = some (.or 21 10 13) ∧
    decode 0x06AA6804 = some (.xor 21 10 13) ∧ decode 0x06AA6805 = some (.sll 21 10 13) ∧
    decode 0x06AA6806 = some (.srl 21 10 13) ∧ decode 0x06AA6807 = some (.sra 21 10 13) ∧
    decode 0x06AA6808 = some (.slt 21 10 13) ∧ decode 0x06AA6809 = some (.sltu 21 10 13) ∧
    decode 0x06AA680A = some (.mul 21 10 13) ∧ decode 0x06AA680B = some (.mulh 21 10 13) ∧
    decode 0x06AA680C = some (.div 21 10 13) ∧ decode 0x06AA680D = some (.divu 21 10 13) ∧
    decode 0x06AA680E = some (.rem 21 10 13) ∧ decode 0x06AA680F = some (.remu 21 10 13) := by decide
theorem test_decode_major_02 :
    decode 0x0AAAA5C3 = some (.addi 21 10 0xa5c3) := by decide
theorem test_decode_major_03 :
    decode 0x0EAAA5C3 = some (.andi 21 10 0xa5c3) := by decide
theorem test_decode_major_04 :
    decode 0x12AAA5C3 = some (.ori 21 10 0xa5c3) := by decide
theorem test_decode_major_05 :
    decode 0x16AAA5C3 = some (.xori 21 10 0xa5c3) := by decide
theorem test_decode_major_06 :
    decode 0x1AAAA5C3 = some (.slti 21 10 0xa5c3) := by decide
theorem test_decode_major_07 :
    decode 0x1EAAA5C3 = some (.sltiu 21 10 0xa5c3) := by decide
theorem test_decode_major_08 :
    decode 0x22A0A5C3 = some (.lui 21 0xa5c3) := by decide
theorem test_decode_major_09 :
    decode 0x26AAA5C3 = some (.lsi 21 10 0xa5c3) := by decide
theorem test_decode_major_0A :
    decode 0x2AAA0025 = some (.slli 21 10 0x25) ∧ decode 0x2AAA0065 = some (.srli 21 10 0x25) ∧
    decode 0x2AAA00A5 = some (.srai 21 10 0x25) := by decide
theorem test_decode_major_0B :
    decode 0x2EAA6800 = some (.sel 21 10 13) := by decide
theorem test_decode_major_0C :
    decode 0x32AA6848 = some (.fadd 21 10 13 2 1) ∧ decode 0x32AA6849 = some (.fsub 21 10 13 2 1) ∧
    decode 0x32AA684A = some (.fmul 21 10 13 2 1) ∧ decode 0x32AA684B = some (.fmadd 21 10 13 2 1) ∧
    decode 0x32AA6844 = some (.flt 21 10 13 2) ∧ decode 0x32AAB04D = some (.fcvt 21 10 true 6 2 1) := by decide
theorem test_decode_major_0D :
    decode 0x354DA5C3 = some (.beq 10 13 0xa5c3) := by decide
theorem test_decode_major_0E :
    decode 0x394DA5C3 = some (.bne 10 13 0xa5c3) := by decide
theorem test_decode_major_0F :
    decode 0x3D4DA5C3 = some (.blt 10 13 0xa5c3) := by decide
theorem test_decode_major_10 :
    decode 0x414DA5C3 = some (.bge 10 13 0xa5c3) := by decide
theorem test_decode_major_11 :
    decode 0x46B2A5C3 = some (.jal 21 0x12a5c3) := by decide
theorem test_decode_major_12 :
    decode 0x4940A5C3 = some (.jalr 10 0xa5c3) ∧ decode 0x4941A5C3 = some (.jr 10 0xa5c3) ∧
    decode 0x4942A5C3 = some (.bpany 10 0xa5c3) ∧ decode 0x4943A5C3 = some (.bpall 10 0xa5c3) ∧
    decode 0x49440003 = some (.loopv 10 3) := by decide
theorem test_decode_major_13 :
    decode 0x4EAAAE18 = some (.ldb 21 10 0x15c3) ∧ decode 0x4EAAAE19 = some (.ldh 21 10 0x15c3) ∧
    decode 0x4EAAAE1A = some (.ldw 21 10 0x15c3) ∧ decode 0x4EAAAE1B = some (.ldd 21 10 0x15c3) ∧
    decode 0x4EAAAE1C = some (.ldbs 21 10 0x15c3) ∧ decode 0x4EAAAE1D = some (.ldhs 21 10 0x15c3) ∧
    decode 0x4EAAAE1E = some (.ldws 21 10 0x15c3) := by decide
theorem test_decode_major_14 :
    decode 0x514DAE18 = some (.stb 10 13 0x15c3) ∧ decode 0x514DAE19 = some (.sth 10 13 0x15c3) ∧
    decode 0x514DAE1A = some (.stw 10 13 0x15c3) ∧ decode 0x514DAE1B = some (.std 10 13 0x15c3) := by decide
theorem test_decode_major_15 :
    decode 0x56AAAE18 = some (.ldp 21 10 0x15c3) ∧ decode 0x56AAAE19 = some (.ldpHeal 21 10 0x15c3) := by decide
theorem test_decode_major_16 :
    decode 0x5AAA6800 = some (.peq 21 10 13) := by decide
theorem test_decode_major_17 :
    decode 0x5EAA6F40 = some (.amoswap 21 10 13 true true 2 true) ∧
    decode 0x5EAA6F41 = some (.amoadd 21 10 13 true true 2 true) ∧
    decode 0x5EAA6F42 = some (.amoand 21 10 13 true true 2 true) ∧
    decode 0x5EAA6F43 = some (.amoor 21 10 13 true true 2 true) ∧
    decode 0x5EAA6F44 = some (.amoxor 21 10 13 true true 2 true) ∧
    decode 0x5EAA6F45 = some (.amomin 21 10 13 true true 2 true) ∧
    decode 0x5EAA6F46 = some (.amomax 21 10 13 true true 2 true) ∧
    decode 0x5EAA6F47 = some (.amocas 21 10 13 true true 2 true) := by decide
theorem test_decode_major_18 :
    decode 0x62AA6F40 = some (.ticket 21 10 13 true true 2 true) ∧
    decode 0x62AA6F41 = some (.waita 21 10 13 true true 2 true) := by decide
theorem test_decode_major_19 :
    decode 0x66D00700 = some (.fence 22 2 true true 2) ∧ decode 0x64400701 = some (.barrier 2 true true 2) := by decide
theorem test_decode_major_1A :
    decode 0x6AAA04A0 = some (.vsetvli 21 10 2 1 1) ∧ decode 0x6AAA2D00 = some (.vsetvl 21 10 13) ∧
    decode 0x6AAA4480 = some (.vretag 21 10 2 1) ∧ decode 0x6AAA6000 = some (.vsave 21 10) ∧
    decode 0x6AAA8000 = some (.vrestore 21 10) ∧ decode 0x6AAAA000 = some (.vspill 21 10) := by decide
theorem test_decode_major_1B :
    decode 0x6EAA6EC0 = some (.vadd 21 10 13 27) ∧ decode 0x6EAA6EC4 = some (.vsub 21 10 13 27) ∧
    decode 0x6EAA6EC8 = some (.vqadd 21 10 13 27) ∧ decode 0x6EAA6ECC = some (.vqsub 21 10 13 27) ∧
    decode 0x6EAA6ED0 = some (.vmul 21 10 13 27) ∧ decode 0x6EAA6ED4 = some (.vmulh 21 10 13 27) ∧
    decode 0x6EAA6ED8 = some (.vmacc 21 10 13 27) ∧ decode 0x6EAA6EDC = some (.vand 21 10 13 27) ∧
    decode 0x6EAA6EE0 = some (.vor 21 10 13 27) ∧ decode 0x6EAA6EE4 = some (.vxor 21 10 13 27) ∧
    decode 0x6EAA6EE8 = some (.vsll 21 10 13 27) ∧ decode 0x6EAA6EEC = some (.vsrl 21 10 13 27) ∧
    decode 0x6EAA6EF0 = some (.vsra 21 10 13 27) ∧ decode 0x6EAA6EF4 = some (.vmin 21 10 13 27) ∧
    decode 0x6EAA6EF8 = some (.vmax 21 10 13 27) := by decide
theorem test_decode_major_1C :
    decode 0x72AA6EC1 = some (.vfadd 21 10 13 27 1) ∧ decode 0x72AA6EC5 = some (.vfsub 21 10 13 27 1) ∧
    decode 0x72AA6EC9 = some (.vfmul 21 10 13 27 1) ∧ decode 0x72AA6ECD = some (.vfdiv 21 10 13 27 1) ∧
    decode 0x72AA06D1 = some (.vfsqrt 21 10 27 1) ∧ decode 0x72AA6ED5 = some (.vfma 21 10 13 27 1) ∧
    decode 0x72AA6ED9 = some (.vfms 21 10 13 27 1) ∧ decode 0x72AA6EDD = some (.vfmin 21 10 13 27 1) ∧
    decode 0x72AA6EE1 = some (.vfmax 21 10 13 27 1) ∧ decode 0x72AA06E5 = some (.vfabs 21 10 27 1) ∧
    decode 0x72AA06E9 = some (.vfneg 21 10 27 1) ∧ decode 0x72AA6EED = some (.vfsgnj 21 10 13 27 1) ∧
    decode 0x72AA06F1 = some (.vfrecip 21 10 27 1) ∧ decode 0x72AA06F5 = some (.vfrsqrt 21 10 27 1) ∧
    decode 0x72AA06F9 = some (.vfclass 21 10 27 1) := by decide
theorem test_decode_major_1D :
    decode 0x76AA6EC0 = some (.vcmpeq 21 10 13 27) ∧ decode 0x76AA6EC4 = some (.vcmpne 21 10 13 27) ∧
    decode 0x76AA6EC8 = some (.vcmplt 21 10 13 27) ∧ decode 0x76AA6ECC = some (.vcmple 21 10 13 27) ∧
    decode 0x76AA6ED0 = some (.vpand 21 10 13 27) ∧ decode 0x76AA6ED4 = some (.vpor 21 10 13 27) ∧
    decode 0x76AA6ED8 = some (.vpxor 21 10 13 27) ∧ decode 0x76AA6EDC = some (.vpandn 21 10 13 27) := by decide
theorem test_decode_major_1E :
    decode 0x7AAA6EC0 = some (.vslideup 21 10 13 27) ∧ decode 0x7AAA6EC4 = some (.vslidedn 21 10 13 27) ∧
    decode 0x7AAA6EC8 = some (.vperm 21 10 13 27) ∧ decode 0x7AAA06CC = some (.vbcast 21 10 27) ∧
    decode 0x7AAA06D0 = some (.vcompress 21 10 27) ∧ decode 0x7AAA6ED4 = some (.vredsum 21 10 13 27) ∧
    decode 0x7AAA6ED9 = some (.vfredsum 21 10 13 27 1) ∧ decode 0x7AAA6EDD = some (.vfredosum 21 10 13 27 1) ∧
    decode 0x7AAA6EE0 = some (.vredmax 21 10 13 27) ∧ decode 0x7AAA6EE4 = some (.vscan 21 10 13 27) ∧
    decode 0x7AAA6EE8 = some (.vprune 21 10 13 27) ∧ decode 0x7AAA682C = some (.vmvs 21 10 13) := by decide
theorem test_decode_major_21 :
    decode 0x86AA06C1 = some (.vcvt 21 10 27 1) ∧ decode 0x86AA6EC5 = some (.vcvtef 21 10 13 27 1) ∧
    decode 0x86AA06C8 = some (.vdqbx 21 10 27) ∧ decode 0x86AA06CC = some (.vnsat 21 10 27) ∧
    decode 0x86AA0035 = some (.vqbx 21 10 5 1) := by decide
theorem test_decode_major_22 :
    decode 0x8AAACEC2 = some (.vld 21 10 25 27 2) ∧ decode 0x8AAAB6CA = some (.vlds 21 10 22 27 2) ∧
    decode 0x8AAA06D2 = some (.vldff 21 10 27 2) ∧ decode 0x8AAAB6DA = some (.vldx 21 10 22 27 false 2) := by decide
theorem test_decode_major_23 :
    decode 0x8EAACEC2 = some (.vst 21 10 25 27 2) ∧ decode 0x8EAAB6CA = some (.vsts 21 10 22 27 2) ∧
    decode 0x8EAAB6D2 = some (.vstx 21 10 22 27 false 2) ∧
    decode 0x8EAAB6DA = some (.vscadd 21 10 22 27 false 2) := by decide
theorem test_decode_major_24 :
    decode 0x92A506C2 = some (.vsld 21 5 27 2) ∧ decode 0x92A506CA = some (.vsst 21 5 27 2) ∧
    decode 0x92A506D2 = some (.vgsld 21 5 27 2) := by decide
theorem test_decode_major_25 :
    decode 0x9405B000 = some (.vstrip 5 22) := by decide
theorem test_decode_major_26 :
    decode 0x98A23001 = some (.vsadd 5 2 6 1) ∧ decode 0x98A23005 = some (.vsmul 5 2 6 1) ∧
    decode 0x9AA23009 = some (.vsdot 21 2 6 1) ∧ decode 0x98AA680C = some (.vspld 5 10 13) ∧
    decode 0x9AA26810 = some (.vspst 21 2 13) := by decide
theorem test_decode_major_27 :
    decode 0x9EAA0000 = some (.mldtA 21 10) ∧ decode 0x9EAA0004 = some (.mldtB 21 10) ∧
    decode 0x9EAA0001 = some (.mldtffA 21 10) ∧ decode 0x9EAA0005 = some (.mldtffB 21 10) ∧
    decode 0x9C4A0002 = some (.mst 2 10) := by decide
theorem test_decode_major_28 :
    decode 0xA0400000 = some (.mma 2) ∧ decode 0xA0400001 = some (.mmas 2) ∧
    decode 0xA0400002 = some (.mzero 2) := by decide
theorem test_decode_major_29 :
    decode 0xA6A26EC1 = some (.vmrd 21 2 13 27 1) ∧ decode 0xA6A26EC4 = some (.vmwr 21 2 13 27) := by decide
theorem test_decode_major_2A :
    decode 0xAAAA6F00 = some (.xcopy 21 10 13 true true 2) ∧ decode 0xA80A0501 = some (.xstream 10 true 2) ∧
    decode 0xAAC00502 = some (.xsbar 22 true 2) := by decide
theorem test_decode_major_2B :
    decode 0xAC0A0700 = some (.xgather 10 true true 2) ∧ decode 0xAC0A0701 = some (.xbin 10 true true 2) := by decide
theorem test_decode_major_2C :
    decode 0xB2AA6F00 = some (.xmove 21 10 13 true true 2) ∧ decode 0xB00A0701 = some (.xheal 10 true true 2) ∧
    decode 0xB00A0702 = some (.xreclaim 10 true true 2) := by decide
theorem test_decode_major_2D :
    decode 0xB6AA6F00 = some (.xinst 21 10 13 true true 2) ∧ decode 0xB6AA6F01 = some (.xpin 21 10 13 true true 2) ∧
    decode 0xB6AA0002 = some (.xwear 21 10) := by decide
theorem test_decode_major_2E :
    decode 0xB80A0700 = some (.xsweep 10 true true 2) ∧ decode 0xBAAA6F01 = some (.cwait 21 10 13 true true 2) ∧
    decode 0xBAAA6F02 = some (.cwake 21 10 13 true true 2) := by decide
theorem test_decode_major_30 :
    decode 0xC2AA0000 = some (.launch 21 10) ∧ decode 0xC00000B1 = some (.fork 22) ∧
    decode 0xC00000B2 = some (.join 22) ∧ decode 0xC0000003 = some .yield ∧ decode 0xC0000004 = some .exit ∧
    decode 0xC2A00035 = some (.id 21 6) ∧ decode 0xC2A0001E = some (.gang 21 3) ∧
    decode 0xC00A0007 = some (.waitt 10) := by decide
theorem test_decode_major_31 :
    decode 0xC400A5C0 = some (.trap 0xa5c) ∧ decode 0xC4000001 = some .eret ∧
    decode 0xC6A01022 = some (.kget 21 0x102) ∧ decode 0xC40A1023 = some (.kset 10 0x102) ∧
    decode 0xC42A0004 = some (.tlbinv 1 10) ∧ decode 0xC42A0005 = some (.cflush 1 10) ∧
    decode 0xC40A0006 = some (.wfi 10) := by decide
theorem test_decode_major_3E :
    decode 0xFAA5C3B1 = some (.hint 0x2a5c3b1) := by decide

/-! ## Fields that WellFormed refuses: one ill-formed term for each check (R73–R77, R137, R141, R145, R154) -/

theorem test_illFormed : ∀ i ∈ [Instr.fcvt 1 1 false 2 0 0, .fcvt 1 1 false 9 0 0, .loopv 1 0, .loopv 1 33, .fence 0 3 false false 0,
    .barrier 4 false false 0, .vsetvli 1 1 13 0 0, .vsetvli 1 1 6 0 3, .vretag 1 1 13 0, .vqbx 1 1 0 0, .vldx 1 1 1 0 true 1,
    .vstx 1 1 1 0 true 1, .vscadd 1 1 1 0 true 1, .fork 0, .fork 3, .join 0, .join 3, .id 1 8, .gang 1 1, .gang 1 5, .kget 1 0x006,
    .kset 1 0x006, .kset 1 0x000, .tlbinv 2 1, .cflush 3 1], i.wellFormed = false := by decide
theorem test_wellFormed : ∀ i ∈ [Instr.fcvt 1 1 false 3 0 0, .fcvt 1 1 false 8 0 0, .loopv 1 1, .loopv 1 32, .fence 0 2 false false 0,
    .barrier 3 false false 0, .vsetvli 1 1 12 0 2, .vretag 1 1 12 0, .vqbx 1 1 1 0, .vldx 1 1 1 0 true 0, .vldx 1 1 1 0 false 3,
    .fork 2, .join 128, .id 1 7, .gang 1 2, .gang 1 4, .kget 1 0x005, .kset 1 0x001, .tlbinv 1 1, .cflush 2 1],
    i.wellFormed = true := by decide

/-- The words of R134, R135, R137, R139, R144–R146, R172, R180, and the examples of spec/10. -/
theorem test_decode_examples : decode 0x11801234 = some (.ori 12 0 0x1234) ∧ decode 0x258C5678 = some (.lsi 12 12 0x5678) ∧
    decode 0x058C6800 = some (.add 12 12 13) ∧ decode 0x058D700C = some (.div 12 13 14) ∧ decode 0x298D0003 = some (.slli 12 13 3) ∧
    decode 0x318D9815 = some (.fcvt 12 13 true 3 0 2) ∧ decode 0x318D980D = some (.fcvt 12 13 true 3 0 1) ∧
    decode 0x48210000 = some (.jr 1 0) ∧ decode 0x48A40004 = some (.loopv 5 4) ∧ decode 0xC1800015 = some (.id 12 2) ∧
    decode 0xC4000070 = some (.trap 7) ∧ decode 0xC4000001 = some .eret ∧ decode 0xC5800112 = some (.kget 12 0x011) ∧
    decode 0xC40D0123 = some (.kset 13 0x012) ∧ decode 0xC40C0004 = some (.tlbinv 0 12) ∧ decode 0xC4200005 = some (.cflush 1 0) ∧
    decode 0xC4000006 = some (.wfi 0) ∧ decode 0x79281828 = some (.vprune 9 8 3 0) ∧ decode 0x558D0040 = some (.ldp 12 13 8) ∧
    decode 0x558D0041 = some (.ldpHeal 12 13 8) ∧ decode 0x598D7000 = some (.peq 12 13 14) ∧
    decode 0x5D8E6801 = some (.amoadd 12 14 13 false false 0 false) ∧ decode 0x64000601 = some (.barrier 0 true true 0) ∧
    decode 0x64400701 = some (.barrier 2 true true 2) := by decide
/-- Reserved majors and codes of R70 and R77. -/
theorem test_decode_reserved : decode 0 = none ∧ decode 0xFFFFFFFF = none ∧ decode 0x04000010 = none ∧ decode 0x200100FF = none ∧
    decode 0x280000C0 = none ∧ decode 0x30000006 = none ∧ decode 0x30000085 = none ∧ decode 0x48050000 = none ∧ decode 0x4C000007 = none ∧
    decode 0xC4000007 = none ∧ decode 0xC40D0002 = none ∧ decode 0x48A40021 = none := by decide

/-! ## Single steps: the tables and examples of the rules -/

/-- The instruction writes a register. -/
def writes (i : Instr) (s : State) (d : Nat) (x : Word) : Bool := leads (exec i s) (fun t => t.g (BitVec.ofNat 5 d) == x)
/-- The instruction goes to an address. -/
def goes (i : Instr) (s : State) (pc : Word) : Bool := leads (exec i s) (fun t => t.cur.pc == pc)
/-- The instruction traps with a cause, KTVAL and KTVAL2 (R352, R353). -/
def traps (i : Instr) (s : State) (cause val val2 : Word) : Bool :=
  leads (exec i s) (fun t => t.regs.kcause &&& 0xFFF == cause && t.regs.ktval == val && t.regs.ktval2 == val2 && t.cur.pc == t.regs.kvec)
/-- g1 and g2 set. -/
def two (a b : Word) : State := gs [(1, a), (2, b)] thread0

/-- R130, R5: carries are lost; shift counts take six bits; slt is signed, sltu is not; mulh is signed. -/
theorem test_scalar_integers : writes (.add 3 1 2) (two (-1) 2) 3 1 = true ∧ writes (.sub 3 1 2) (two 0 1) 3 (-1) = true ∧
    writes (.sll 3 1 2) (two 1 65) 3 2 = true ∧ writes (.sra 3 1 2) (two (-8) 1) 3 (-4) = true ∧
    writes (.srl 3 1 2) (two (-8) 60) 3 15 = true ∧ writes (.slt 3 1 2) (two (-1) 1) 3 1 = true ∧
    writes (.sltu 3 1 2) (two (-1) 1) 3 0 = true ∧ writes (.mul 3 1 2) (two (-1) 5) 3 (-5) = true ∧
    writes (.mulh 3 1 2) (two (-1) 5) 3 (-1) = true ∧ writes (.and 3 1 2) (two 12 10) 3 8 = true ∧
    writes (.or 3 1 2) (two 12 10) 3 14 = true ∧ writes (.xor 3 1 2) (two 12 10) 3 6 = true ∧ writes (.add 0 1 2) (two 1 2) 0 0 = true := by
  decide +kernel
/-- R131: the table of division corners, and -7 by 2. -/
theorem test_division : writes (.div 3 1 2) (two (-7) 2) 3 (-3) = true ∧ writes (.rem 3 1 2) (two (-7) 2) 3 (-1) = true ∧
    writes (.div 3 1 2) (two 5 0) 3 0x7FFFFFFFFFFFFFFF = true ∧ writes (.divu 3 1 2) (two 5 0) 3 (-1) = true ∧
    writes (.rem 3 1 2) (two (-5) 0) 3 (-5) = true ∧ writes (.remu 3 1 2) (two 0 0) 3 0 = true ∧
    writes (.rem 3 1 2) (two 0x8000000000000000 (-1)) 3 0 = true ∧ writes (.divu 3 1 2) (two (-1) 2) 3 0x7FFFFFFFFFFFFFFF = true ∧
    leads (exec (.div 3 1 2) (two 0x8000000000000000 (-1))) (fun t => t.g 3 == 0x7FFFFFFFFFFFFFFF && t.regs.fflags == 4) = true ∧
    leads (exec (.rem 3 1 2) (two 0x8000000000000000 (-1))) (fun t => t.regs.fflags == 0) = true ∧
    leads (exec (.remu 3 1 2) (two 0 0)) (fun t => t.regs.fflags == 8 && t.regs.fidxDz == -1) = true := by decide +kernel
/-- R132–R134: immediates are sign- or zero-extended as the table has it; the constant of R134. -/
theorem test_scalar_immediates : writes (.addi 3 1 0xFFFF) (two 5 0) 3 4 = true ∧ writes (.andi 3 1 0xFFFF) (two (-1) 0) 3 0xFFFF = true ∧
    writes (.xori 3 1 0xFFFF) (two (-1) 0) 3 0xFFFFFFFFFFFF0000 = true ∧ writes (.slti 3 1 0xFFFF) (two (-2) 0) 3 1 = true ∧
    writes (.sltiu 3 1 0xFFFF) (two 5 0) 3 1 = true ∧ writes (.lui 12 0x8000) thread0 12 0xFFFFFFFF80000000 = true ∧
    writes (.ori 12 0 0x1234) thread0 12 0x1234 = true ∧ writes (.lsi 12 12 0xDEF0) (gs [(12, 0x123456789ABC)] thread0) 12 0x123456789ABCDEF0 = true ∧
    writes (.slli 3 1 63) (two 3 0) 3 0x8000000000000000 = true ∧ writes (.srli 3 1 63) (two (-1) 0) 3 1 = true ∧
    writes (.srai 3 1 4) (two (-16) 0) 3 (-1) = true ∧ writes (.sel 1 2 3) (two 5 6) 1 5 = true ∧ writes (.sel 1 2 1) (two 5 6) 1 6 = true := by
  decide +kernel
/-- R136, R137: 1 + 2, 2 × 2, 1 < 2, one rounding, a NaN operand, and the two conversions of -2.75. -/
theorem test_scalar_float : writes (.fadd 3 1 2 0 0) (two 0x3F800000 0x40000000) 3 0x40400000 = true ∧
    writes (.fsub 3 1 2 0 0) (two 0x3F800000 0x40000000) 3 0xBF800000 = true ∧
    writes (.fmul 3 1 2 0 0) (two 0x40000000 0x40000000) 3 0x40800000 = true ∧
    writes (.fmadd 2 1 1 0 0) (two 0x40000000 0x3F800000) 2 0x40A00000 = true ∧
    writes (.flt 3 1 2 0) (two 0x3F800000 0x40000000) 3 1 = true ∧
    leads (exec (.flt 3 1 2 0) (two 0x7FC00000 0x40000000)) (fun t => t.g 3 == 0 && t.regs.fflags == 16) = true ∧
    leads (exec (.fcvt 12 13 true 3 0 2) (gs [(13, 0xC0300000)] thread0)) (fun t => t.g 12 == -2 && t.regs.fflags == 1) = true ∧
    leads (exec (.fcvt 12 13 true 3 0 1) (gs [(13, 0xC0300000)] thread0)) (fun t => t.g 12 == -3 && t.regs.fflags == 1) = true := by
  decide +kernel
/-- R138–R140: offsets count words from the branch; jalr links g1. -/
theorem test_control : goes (.beq 1 2 0xFFFF) (two 5 5) 0xFFC = true ∧ goes (.bne 1 2 4) (two 5 5) 0x1004 = true ∧
    goes (.blt 1 2 4) (two (-1) 1) 0x1010 = true ∧ goes (.bge 1 2 4) (two (-1) 1) 0x1004 = true ∧
    leads (exec (.jal 3 0x1FFFFF) thread0) (fun t => t.cur.pc == 0xFFC && t.g 3 == 0x1004) = true ∧
    leads (exec (.jalr 1 1) (two 0x2000 0)) (fun t => t.cur.pc == 0x2004 && t.g 1 == 0x1004) = true ∧
    goes (.jr 1 0) (two 0x2000 0) 0x2000 = true ∧ goes (.bpany 0 4) (vl3 6 thread0) 0x1010 = true ∧
    goes (.bpany 1 4) (vl3 6 thread0) 0x1004 = true ∧ goes (.bpall 1 4) thread0 0x1010 = true ∧ goes (.bpany 0 4) thread0 0x1004 = true := by
  decide +kernel
/-- R141, R142: a count of 0 skips the body; a branch in the body is LOOP_BODY with its word and index. -/
theorem test_loopv : goes (.loopv 5 2) (body2 thread0) 0x100C = true ∧
    leads (exec (.loopv 5 2) (gs [(5, 3)] (body2 thread0))) (fun t => t.cur.pc == 0x1004 && t.regs.loopAddr == 0x1004 &&
      t.regs.loopCtl == 5 * 64 + 2) = true ∧
    traps (.loopv 5 2) (bytes 0x10004 (leBytes 4 0x04210800 ++ leBytes 4 0x34000001) (gs [(5, 3)] handled)) 3 0x34000001 1 = true := by
  decide +kernel
/-- R141: at the end of the body the loop goes round, or ends with LOOPCTL 0. -/
theorem test_loop_end : leads (exec (.addi 5 5 0xFFFF) (lastWord 2)) (fun t => t.cur.pc == 0x1000 && t.regs.loopCtl == 5 * 64 + 1) = true ∧
    leads (exec (.addi 5 5 0xFFFF) (lastWord 1)) (fun t => t.cur.pc == 0x1004 && t.regs.loopCtl == 0 && t.regs.loopAddr == 0x1000) = true := by
  decide +kernel
/-- R206: loads extend by sign or zero, and offsets are signed bytes. -/
theorem test_loads : writes (.ldd 3 1 0) data1 3 0x1122334455667788 = true ∧ writes (.ldb 3 1 0) data1 3 0x88 = true ∧
    writes (.ldbs 3 1 0) data1 3 (-120) = true ∧ writes (.ldhs 3 1 0) data1 3 0x7788 = true ∧ writes (.ldw 3 1 4) data1 3 0x11223344 = true ∧
    writes (.ldh 3 1 6) data1 3 0x1122 = true ∧ writes (.ldws 3 4 0x1FFC) (gs [(4, 0x1104)] data1) 3 0x55667788 = true := by decide +kernel
/-- R207: a store writes its low bytes and no others. -/
theorem test_stores : leads (exec (.sth 1 2 2) data1) (fun t => leads (exec (.ldd 3 1 0) t) (fun u => u.g 3 == 0x1122334480F17788)) = true ∧
    leads (exec (.std 1 2 3) data1) (fun t => writes (.ldd 3 1 3) t 3 0x80F1 && writes (.ldw 3 1 0) t 3 0xF1667788) = true := by
  decide +kernel
/-- R225: MISALIGN off a multiple of the width; else an atomic answers the old value and leaves the new one at the line's home. -/
theorem test_atomics : leads (exec (.amoadd 3 1 2 false false 0 true) data1)
      (fun t => t.g 3 == 0x1122334455667788 && memNat t.mem 0x10100 8 == 0x1122334455667788 + 0x80F1) = true ∧
    leads (exec (.amomin 3 1 2 false false 0 false) data1) (fun t => t.g 3 == 0x55667788 && memNat t.mem 0x10100 4 == 0x80F1) = true ∧
    leads (exec (.amoadd 3 1 2 false false 0 false) (gs [(1, 0x1102)] (regs (fun r => { r with kvec := 0x2000 }) data1)))
      (fun t => t.regs.kcause &&& 0xFFF == 0x16 && t.regs.ktval == 0x1102 && t.regs.kepc == 0x1000) = true := by decide +kernel
/-- R146, R147, R149, R356: the trap saves the address after it; a write of a supervisor register in user mode is PRIVILEGED. -/
theorem test_system : leads (exec (.trap 7) handled) (fun t => t.regs.kepc == 0x1004 && t.cur.user == false) = true ∧
    traps (.trap 7) handled 1 7 0 = true ∧ leads (exec .eret inHandler) (fun t => t.cur.pc == 0x1004 && t.cur.user) = true ∧
    writes (.kget 12 0x001) thread0 12 0xC20 = true ∧
    leads (exec (.kset 13 0x012) (gs [(13, 9)] thread0)) (fun t => t.regs.seed == 9) = true := by decide +kernel
/-- R157: a grant is at most the capacity; R108 fields land where they belong. -/
theorem test_vsetvli : leads (exec (.vsetvli 3 1 6 0 1) (two 200 0)) (fun t => t.g 3 == 128 && t.regs.vl.toNat % 2048 == 128 &&
    t.regs.vtype == 0xC20) = true ∧ writes (.vsetvli 3 1 6 0 1) (two 5 0) 3 5 = true := by decide +kernel
/-- A register of words of one FP32 or integer format. -/
def vec (f : Nat) (xs : List Nat) : VReg :=
  { VReg.fresh with tag := mkTag f 1, wlen := xs.length, image := BitVec.ofNat 4096 ((xs.mapIdx (fun k x => x * 2 ^ (32 * k))).foldl (· + ·) 0), rows := 1 }
/-- The instruction writes elements 0 up. -/
def vwrites (i : Instr) (s : State) (d : Nat) (xs : List Nat) : Bool :=
  leads (exec i s) (fun t => (xs.mapIdx (fun k x => (t.v d).image.toNat / 2 ^ (32 * k) % 2 ^ 32 == x)).all (fun b => b))
/-- R163: elements of v1 are 1, 2, 3 and of v2 4, 2, -1. -/
theorem test_vector_integers : vwrites (.vadd 3 1 2 0) ints 3 [5, 4, 2] = true ∧ vwrites (.vsub 3 1 2 0) ints 3 [0xFFFFFFFD, 0, 4] = true ∧
    vwrites (.vmul 3 1 2 0) ints 3 [4, 4, 0xFFFFFFFD] = true ∧ vwrites (.vmulh 3 1 2 0) ints 3 [0, 0, 0xFFFFFFFF] = true ∧
    vwrites (.vmin 3 1 2 0) ints 3 [1, 2, 0xFFFFFFFF] = true ∧ vwrites (.vsra 3 2 1 0) ints 3 [2, 0, 0xFFFFFFFF] = true := by decide +kernel
/-- R164, R85: elements of v1 are 1, 2, NaN and of v2 3, 2, 1. -/
theorem test_vector_floats : vwrites (.vfadd 4 1 2 0 0) floats 4 [0x40800000, 0x40800000, 0x7FC00000] = true ∧
    vwrites (.vfneg 4 2 0 0) floats 4 [0xC0400000, 0xC0000000, 0xBF800000] = true ∧
    vwrites (.vfma 4 1 2 0 0) (floats.setV 4 (vec 6 [0x3F800000, 0, 0])) 4 [0x40800000, 0x40800000, 0x7FC00000] = true := by decide +kernel
/-- R165: the four classes of its example. -/
theorem test_vfclass : vwrites (.vfclass 4 5 0 0) ((regs (fun r => { r with vl := 0x40004 }) floats).setV 5
    (vec 6 [0x80000000, 0xBFC00000, 0x40400000, 0x7FC00000])) 4 [0x28, 0x22, 0x0A, 0x04] = true := by decide +kernel
/-- R169: its example, in BF16. -/
theorem test_vcvtef : leads (exec (.vcvtef 6 5 4 0 1) ((regs (fun r => { r with vl := 0x10001, vtype := 8 * 512 + 32 }) floats).setV 5
    (vec 6 [0x3F808000]))) (fun t => (t.v 6).image.toNat % 2 ^ 16 == 0x3F80 && (t.v 4).image.toNat % 2 ^ 32 == 0x3B800000 &&
    t.regs.fflags == 1) = true := by decide +kernel
/-- R166: 1 < 4, 2 and 2 equal, 3 above -1. -/
theorem test_vector_compares : leads (exec (.vcmplt 3 1 2 0) ints) (fun t => (t.p 3).toNat % 8 == 1) = true ∧
    leads (exec (.vcmpeq 3 1 2 0) ints) (fun t => (t.p 3).toNat % 8 == 2) = true ∧
    leads (exec (.vpandn 3 0 1 0) ints) (fun t => (t.p 3).toNat % 8 == 7) = true := by decide +kernel
/-- R173–R178: slides, permutation, broadcast, compression, element 2 to a scalar, sum and maximum. -/
theorem test_vector_moves : vwrites (.vslideup 3 1 3 0) ints 3 [0, 1, 2] = true ∧ vwrites (.vslidedn 3 1 3 0) ints 3 [2, 3, 0] = true ∧
    vwrites (.vperm 3 1 2 0) ints 3 [0, 3, 0] = true ∧ vwrites (.vbcast 3 4 0) ints 3 [8, 8, 8] = true ∧
    writes (.vmvs 6 2 4) ints 6 0 = true ∧ vwrites (.vredsum 3 0 1 0) ints 3 [6] = true ∧ vwrites (.vredmax 3 0 2 0) ints 3 [4] = true ∧
    vwrites (.vscan 3 1 0 0) ints 3 [1, 3, 6] = true := by decide +kernel
/-- R180: its worked example. -/
theorem test_vprune : leads (exec (.vprune 9 8 3 0) ((regs (fun r => { r with vl := 0x80008 }) floats).setV 8
    (vec 6 [0x3F000000, 0xC0000000, 0x7FC00000, 0x3F800000, 0x80000000, 0, 0, 0x40E00000])))
    (fun t => (t.v 9).image.toNat % 2 ^ 128 == 0x40E00000 * 2 ^ 96 + 0x80000000 * 2 ^ 64 + 0x7FC00000 * 2 ^ 32 + 0xC0000000 &&
      (t.v 9).tag == 0x18 && (t.v 9).wlen == 4 && (t.p 3).toNat % 256 == 0x96) = true := by decide +kernel
/-- R211: v1 of `mem3` is read back from where vst puts it, and vld zero-fills nothing it should keep. -/
theorem test_vector_memory : leads (exec (.vst 1 1 0 0 0) mem3) (fun t => vwrites (.vld 3 1 0 0 0) t 3 [1, 2, 3]) = true ∧
    vwrites (.vld 3 1 0 0 0) mem3 3 [7, 0, 0] = true := by decide +kernel
/-- R145: id; R79: a hint only moves on. -/
theorem test_others : leads (exec (.id 3 6) thread0) (fun t => t.cur.pc == 0x1004) = true ∧ goes (.hint 5) thread0 0x1004 = true ∧
    goes .yield thread0 0x1004 = true := by decide +kernel

end Sys2Proof.Tests
end

/-! # The device (spec/01_device.md): reset, bring-up, the fabric and its links

## Keyed data, folds and memory -/
section
namespace Sys2Proof.Proofs

open Sys2Proof.Machine Sys2Proof.Laws

/-- What holds of every listed value and of the default holds of every value read. -/
theorem kvGet_of_forall {α : Type} {P : α → Prop} {d : α} {m : KV α} (hd : P d) (hm : ∀ e ∈ m, P e.2) (k : Nat) :
    P (kvGet d m k) := by
  induction m with
  | nil => exact hd
  | cons e m ih =>
    obtain ⟨hP, hm⟩ := List.forall_mem_cons.mp hm
    rw [kvGet]
    split
    · exact hP
    · exact ih hm

theorem kvGet_map {α : Type} {f : α → α} {d : α} (hd : f d = d) (m : KV α) (k : Nat) :
    kvGet d (m.map (fun e => (e.1, f e.2))) k = f (kvGet d m k) := by
  induction m with
  | nil => exact hd.symm
  | cons e m ih =>
    obtain ⟨j, x⟩ := e
    simp only [List.map_cons, kvGet, ih]
    split <;> rfl

/-- Every key below `n` set once, from its own value. -/
theorem kvGet_foldl_kvSet {α : Type} (d : α) (h : Nat → α → α) (m : KV α) (n k : Nat) :
    kvGet d ((List.range n).foldl (fun m j => kvSet m j (h j (kvGet d m j))) m) k =
      if k < n then h k (kvGet d m k) else kvGet d m k := by
  induction n with
  | zero => rfl
  | succ n ih =>
    rw [List.range_succ, List.foldl_append, List.foldl_cons, List.foldl_nil]
    by_cases hk : n = k
    · subst hk
      simp [ih]
    · rw [kvGet_kvSet_other _ _ _ _ _ hk, ih]
      have : k < n ↔ k < n + 1 := by omega
      simp only [this]

/-- A relation that is kept at rest and composes relates the ends of a fold whose steps it relates. -/
theorem foldl_rel {σ β : Type} {R : σ → σ → Prop} (refl : ∀ s, R s s) (trans : ∀ {s t u}, R s t → R t u → R s u)
    {f : σ → β → σ} (h : ∀ s b, R s (f s b)) (xs : List β) (s : σ) : R s (xs.foldl f s) := by
  induction xs generalizing s with
  | nil => exact refl s
  | cons x xs ih => exact trans (h s x) (ih _)

/-- What no step of a fold changes, the fold does not change. -/
theorem foldl_frame {σ β γ : Type} (π : σ → γ) {f : σ → β → σ} (h : ∀ s b, π (f s b) = π s) (xs : List β) (s : σ) :
    π (xs.foldl f s) = π s :=
  foldl_rel (R := fun s t => π t = π s) (fun _ => rfl) (fun h k => k.trans h) h xs s

/-- A fold in which one element alone does something. -/
theorem foldl_single {σ β : Type} {f : σ → β → σ} {a : β} {xs : List β} (ha : a ∈ xs) (hn : xs.Nodup)
    (h : ∀ x ∈ xs, x ≠ a → ∀ s, f s x = s) (s : σ) : xs.foldl f s = f s a := by
  obtain ⟨l, r, rfl⟩ := List.append_of_mem ha
  obtain ⟨hl, hr⟩ : a ∉ l ∧ a ∉ r := by
    have := List.nodup_middle.mp hn
    simpa using (List.nodup_cons.mp this).1
  have still : ∀ ys : List β, (∀ y ∈ ys, y ∈ l ++ a :: r ∧ y ≠ a) → ∀ s, ys.foldl f s = s := by
    intro ys
    induction ys with
    | nil => exact fun _ _ => rfl
    | cons y ys ih =>
      intro hy s
      obtain ⟨⟨hm, hne⟩, hys⟩ := List.forall_mem_cons.mp hy
      rw [List.foldl_cons, h y hm hne]
      exact ih hys s
  rw [List.foldl_append, List.foldl_cons, still l (fun y hy => ⟨by simp [hy], fun e => hl (e ▸ hy)⟩),
    still r (fun y hy => ⟨by simp [hy], fun e => hr (e ▸ hy)⟩)]

/-- Of memory with the bytes at some locations dropped the others read as before, those dropped as 0. -/
theorem memByte_filter (p : Nat → Bool) (m : List Host.Cell) (h : Memory.wf m = true) (a : Nat) :
    memByte (m.filter (fun c => p c.1)) a = if p a then memByte m a else 0 := by
  induction m with
  | nil => simp [memByte]
  | cons e m ih =>
    obtain ⟨b, x⟩ := e
    rw [wf_cons] at h
    simp only [Bool.and_eq_true] at h
    obtain ⟨⟨-, hb⟩, hw⟩ := h
    rw [List.filter_cons]
    by_cases hba : b = a
    · subst hba
      cases hp : p b
      · simp [ih hw, hp]
      · simp [memByte]
    · by_cases hlt : a < b
      · have hm := memByte_below m b a hw hb (Nat.le_of_lt hlt)
        cases hp : p b <;> simp [memByte, hba, hlt, ih hw, hm]
      · cases hp : p b <;> simp [memByte, hba, hlt, ih hw]

end Sys2Proof.Proofs
end

/-! ## The machine after reset (R14, R34, R129, R187) -/
section
namespace Sys2Proof.Proofs

open Sys2Proof.Machine Sys2Proof.Laws

/-- With nothing scheduled, due or bound, a step is one cycle of the clock. -/
theorem step_free {s : State} (hs : s.sched = []) (hp : s.dev.phase ≠ 0xFF) (hf : s.cur.status = .free) :
    step s = .next { s with clock := s.clock + 1 } := by
  have hd : s.eventDue = false := by simp [State.eventDue, hf]
  have ho : s.holdOver = false := by simp [State.holdOver, hf]
  simp [step, hs, hp, stepAgent, hd, ho, hf, tick]

/-- Settles O57: each field of the reset state by its definition, its first step by `step_free`. -/
theorem afterReset : Obligations.AfterReset := by
  refine ⟨rfl, rfl, rfl, rfl, rfl, rfl, rfl, fun n => ?_, fun n hn => ?_, rfl, rfl, rfl, fun _ => rfl,
    step_free rfl (by decide) rfl⟩
  · simp [State.g, State.reset, Agent.fresh]
  · simp [State.v, State.reset, Agent.fresh, hn]

end Sys2Proof.Proofs
end

/-! ## Shared operations: steps in order, towers, the error log, agents -/
section
namespace Sys2Proof.Proofs

open Sys2Proof.Machine Sys2Proof.Laws

theorem eventStep_bind_ok {α : Type} {x : Exec α} {f : α → Exec Unit} {s t : State} {a : α} (h : x s = .ok a t) :
    eventStep (x >>= f) s = eventStep (f a) t := by
  simp only [eventStep, exec_bind_ok h]

/-- Steps that each change the state alone are the fold of the changes. -/
theorem each_modify {β : Type} (f : State → β → State) (xs : List β) (s : State) :
    each xs (fun x => modify (fun s => f s x)) s = .ok () (xs.foldl f s) := by
  induction xs generalizing s with
  | nil => rfl
  | cons x xs ih => exact (exec_bind_ok (exec_modify _ s)).trans (ih _)

theorem tower_setTower_other {s : State} {j k : Nat} (h : j ≠ k) (t : Tower) : (s.setTower j t).tower k = s.tower k :=
  kvGet_kvSet_other _ _ _ _ _ h

/-- The error log touches memory and its head alone. -/
theorem logError_frame (s : State) (c u : Nat) (w d : Word) :
    ∃ m n, s.logError c u w d = { s with mem := m, dev := { s.dev with errhead := n } } := by
  unfold State.logError
  dsimp only
  split
  · exact ⟨s.mem, s.dev.errhead, rfl⟩
  · exact ⟨_, _, rfl⟩

theorem logError_sent (s : State) (c u : Nat) (w d : Word) : (s.logError c u w d).sent = s.sent := by
  obtain ⟨m, n, h⟩ := logError_frame s c u w d
  rw [h]

/-- Putting an agent in place touches the agents alone. -/
theorem putAgent_frame (s : State) (a : Agent) : ∃ c os, s.putAgent a = { s with cur := c, others := os } := by
  unfold State.putAgent
  split
  · exact ⟨_, _, rfl⟩
  · split <;> exact ⟨_, _, rfl⟩

theorem putAgent_dev (s : State) (a : Agent) : (s.putAgent a).dev = s.dev := by
  obtain ⟨c, os, h⟩ := putAgent_frame s a
  rw [h]

theorem putAgent_clock (s : State) (a : Agent) : (s.putAgent a).clock = s.clock := by
  obtain ⟨c, os, h⟩ := putAgent_frame s a
  rw [h]

theorem putAgent_sent (s : State) (a : Agent) : (s.putAgent a).sent = s.sent := by
  obtain ⟨c, os, h⟩ := putAgent_frame s a
  rw [h]

theorem putAgent_launches (s : State) (a : Agent) : (s.putAgent a).launches = s.launches := by
  obtain ⟨c, os, h⟩ := putAgent_frame s a
  rw [h]

/-- The agent put in place is the one found under its identity. -/
theorem agent?_putAgent_same (s : State) (a : Agent) : (s.putAgent a).agent? a.id = some a := by
  unfold State.putAgent
  split
  · simp [State.agent?]
  · rename_i hc
    split
    · rename_i ho
      obtain ⟨b, hb, hba⟩ : ∃ b ∈ s.others, b.id = a.id := by simpa using ho
      have h : ∀ x ∈ s.others.map (fun b => if b.id = a.id then a else b), x.id = a.id → x = a := by
        intro x hx hxa
        obtain ⟨b, -, rfl⟩ := List.mem_map.mp hx
        by_cases hb : b.id = a.id <;> simp_all
      simp only [State.agent?, hc, if_false]
      cases hf : (s.others.map (fun b => if b.id = a.id then a else b)).find? (fun x => x.id == a.id) with
      | none =>
        have := List.find?_eq_none.mp hf a (List.mem_map.mpr ⟨b, hb, by simp [hba]⟩)
        simp at this
      | some x => rw [h x (List.mem_of_find?_eq_some hf) (by simpa using List.find?_some hf)]
    · rename_i ho
      have hn : s.others.find? (fun b => b.id == a.id) = none := by simpa [List.find?_eq_none] using ho
      simp [State.agent?, hc, List.find?_append, hn]

/-- Every other agent is found as before. -/
theorem agent?_putAgent_other {s : State} {a : Agent} {id : Nat} (h : id ≠ a.id) :
    (s.putAgent a).agent? id = s.agent? id := by
  have h' : ¬ a.id = id := fun e => h e.symm
  unfold State.putAgent
  split
  · rename_i hc
    simp [State.agent?, hc, h']
  · split
    · have hm : ∀ xs : List Agent, (xs.map (fun b => if b.id = a.id then a else b)).find? (fun b => b.id == id) =
          xs.find? (fun b => b.id == id) := by
        intro xs
        induction xs with
        | nil => rfl
        | cons x xs ih =>
          by_cases hx : x.id = a.id
          · have : ¬ x.id = id := fun e => h (e.symm.trans hx)
            simp [ih, h', hx]
          · simp [List.find?_cons, ih, hx]
      simp only [State.agent?, hm]
    · simp [State.agent?, List.find?_append, h']

end Sys2Proof.Proofs
end

/-! ## Bring-up (R14–R16, R38, R187, R332, R348, R399) -/
section
namespace Sys2Proof.Proofs

open Sys2Proof.Machine Sys2Proof.Laws

/-- A step of bring-up at its place in the order takes effect. -/
theorem bringUp_next {p : Nat} {f : State → State} {s : State} (h : s.dev.phase + 1 = p) :
    bringUp p f s = .next (f s) := by
  refine event_ok (exec_bind_ok (exec_get s) |>.trans ?_)
  exact exec_bind_ok (exec_need (by simpa using h) s)

/-- A step of bring-up out of its order changes nothing. -/
theorem bringUp_idle {p : Nat} {f : State → State} {s : State} (h : s.dev.phase + 1 ≠ p) : bringUp p f s = .next s := by
  have hn : (s.dev.phase + 1 == p) = false := by simpa using h
  refine event_stop (e := .idle) (exec_bind_ok (exec_get s) |>.trans ?_)
  refine exec_bind_error ?_
  rw [hn]
  exact exec_need_false s

/-- How a phase from 0x03 to 0x06 ends: in a stop where no tower is left, else complete, with the failing code as it was. -/
def phaseEnded (p failphase : Nat) (t : State) : Prop :=
  if t.dev.towerok = 0 then t.dev.phase = 0xFF ∧ t.dev.failphase = p else t.dev.phase = p ∧ t.dev.failphase = failphase

theorem endPhase_ended (s : State) (p : Nat) : phaseEnded p s.dev.failphase (s.endPhase p) := by
  unfold phaseEnded State.endPhase State.failPhase
  by_cases h : s.dev.towerok = 0
  · rw [if_pos h, if_pos h]
    exact ⟨rfl, rfl⟩
  · rw [if_neg h, if_neg h]
    exact ⟨rfl, rfl⟩

/-- The end of a phase changes nothing of the device but its phase and failing code. -/
theorem endPhase_frame (s : State) (p : Nat) :
    s.endPhase p = { s with dev := { s.dev with phase := (s.endPhase p).dev.phase, failphase := (s.endPhase p).dev.failphase } } := by
  unfold State.endPhase State.failPhase
  split <;> rfl

@[simp] theorem endPhase_towerok (s : State) (p : Nat) : (s.endPhase p).dev.towerok = s.dev.towerok := by
  rw [endPhase_frame]
@[simp] theorem endPhase_granaryok (s : State) (p : Nat) : (s.endPhase p).dev.granaryok = s.dev.granaryok := by
  rw [endPhase_frame]
@[simp] theorem endPhase_mem (s : State) (p : Nat) : (s.endPhase p).mem = s.mem := by rw [endPhase_frame]
@[simp] theorem endPhase_marks (s : State) (p : Nat) : (s.endPhase p).marks = s.marks := by rw [endPhase_frame]
@[simp] theorem endPhase_poison (s : State) (p : Nat) : (s.endPhase p).poison = s.poison := by rw [endPhase_frame]
@[simp] theorem endPhase_timeZero (s : State) (p : Nat) : (s.endPhase p).timeZero = s.timeZero := by rw [endPhase_frame]
@[simp] theorem endPhase_tower (s : State) (p k : Nat) : (s.endPhase p).tower k = s.tower k := by rw [endPhase_frame]; rfl
@[simp] theorem endPhase_stack (s : State) (p j : Nat) : (s.endPhase p).stack j = s.stack j := by rw [endPhase_frame]; rfl

/-- Bit `k` of a mask in which the numbers below `n` that pass a test are set. -/
theorem getLsbD_foldl_mask (q : Nat → Bool) {n k : Nat} (hn : n ≤ 12) :
    ((List.range n).foldl (fun (m : BitVec 12) j => if q j then m ||| (1#12 <<< j) else m) 0).getLsbD k =
      (decide (k < n) && q k) := by
  induction n with
  | zero => simp
  | succ n ih =>
    rw [List.range_succ, List.foldl_append, List.foldl_cons, List.foldl_nil]
    have one : (1#12 <<< n).getLsbD k = decide (k = n) := by
      simp only [BitVec.getLsbD_shiftLeft, BitVec.getLsbD_one]
      by_cases hk : k = n
      · simp [hk]; omega
      · simp [hk]; omega
    have ih := ih (by omega)
    by_cases hk : k = n
    · subst hk
      have hm : ∀ m : BitVec 12, (if q k then m ||| (1#12 <<< k) else m).getLsbD k = (m.getLsbD k || q k) := by
        intro m
        cases q k <;> simp [one]
      rw [hm, ih]
      simp
    · have hm : ∀ m : BitVec 12, (if q n then m ||| (1#12 <<< n) else m).getLsbD k = m.getLsbD k := by
        intro m
        cases q n <;> simp [one, hk]
      have hlt : k < n ↔ k < n + 1 := by omega
      rw [hm, ih]
      simp only [hlt]

theorem powerOn_effect (s : State) (hw : s.wf = true) : ∃ t, exec .powerOn s = .next t ∧ t.dev = Device.reset ∧
    t.cur = Agent.fresh 0 .thread ∧ t.others = [] ∧ t.marks = [] ∧ t.poison = [] ∧ t.towers = [] ∧ t.clusters = [] ∧
    t.cores = [] ∧ t.launches = [] ∧ t.cmds = [] ∧ t.granary = s.granary ∧
    ∀ a, memByte t.mem a = if 2 ^ 42 ≤ a ∧ a < 2 ^ 43 then memByte s.mem a else 0 := by
  refine ⟨_, rfl, rfl, rfl, rfl, rfl, rfl, rfl, rfl, rfl, rfl, rfl, rfl, fun a => ?_⟩
  refine (memByte_filter (fun a => decide (2 ^ 42 ≤ a ∧ a < 2 ^ 43)) s.mem hw a).trans ?_
  simp only [decide_eq_true_eq]

/-- R14: training sets every tower's bit, enables every plane, and resets the throttles. -/
theorem fabricTrained_effect {s : State} (h : s.dev.phase = 1) : ∃ t, exec (.fabricTrained true) s = .next t ∧
    t.dev = { s.dev with phase := 2, towerok := 0xFFF, planesOff := 0 } ∧ t.flits = [] ∧ t.mem = s.mem ∧
    ∀ k, (t.tower k).injrate = 0 ∧ (t.tower k).deflcnt = 0 ∧ (t.tower k).injected = [] := by
  refine ⟨_, bringUp_next (by rw [h]), rfl, rfl, rfl, fun k => ?_⟩
  refine kvGet_of_forall (P := fun t : Tower => t.injrate = 0 ∧ t.deflcnt = 0 ∧ t.injected = []) ⟨rfl, rfl, rfl⟩ ?_ k
  intro e he
  obtain ⟨x, -, rfl⟩ := List.mem_map.mp he
  exact ⟨rfl, rfl, rfl⟩

/-- A bus's reported wires enter the map of its tower, and nothing else changes. -/
def reportBus (s : State) (b : BusReport) : State :=
  s.setTower b.tower { s.tower b.tower with
    buses := kvSet (s.tower b.tower).buses b.bus { wires := b.wires, retraining := false } }

theorem verticalBusesRepaired_effect {s : State} (failed : BitVec 12) (buses : List BusReport) (h : s.dev.phase = 2) :
    ∃ t, exec (.verticalBusesRepaired failed buses) s = .next t ∧ phaseEnded 3 s.dev.failphase t ∧ t.mem = s.mem ∧
      (∀ k, k < 12 → (t.dev.towerok.getLsbD k = true ↔
        s.dev.towerok.getLsbD k = true ∧ failed.getLsbD k = false ∧ (t.tower k).pairLost = false)) := by
  let u := (buses.filter (fun b => decide (b.tower < 12 ∧ b.bus < 4096 ∧ b.wires ≤ 36))).foldl reportBus s
  have hdev : u.dev = s.dev := foldl_frame State.dev (f := reportBus) (fun _ _ => rfl) _ s
  have hmem : u.mem = s.mem := foldl_frame State.mem (f := reportBus) (fun _ _ => rfl) _ s
  let lost : BitVec 12 := (List.range 12).foldl (fun (m : BitVec 12) k =>
    if (u.tower k).pairLost then m ||| (1#12 <<< k) else m) 0
  refine ⟨(u.failTowers (failed ||| lost)).endPhase 3, bringUp_next (by rw [h]), ?_, ?_, fun k hk => ?_⟩
  · exact hdev ▸ endPhase_ended (u.failTowers (failed ||| lost)) 3
  · exact (endPhase_mem _ 3).trans hmem
  · have hl : lost.getLsbD k = (u.tower k).pairLost := by
      refine (getLsbD_foldl_mask (fun k => (u.tower k).pairLost) (Nat.le_refl 12)).trans ?_
      simp [hk]
    rw [endPhase_towerok, endPhase_tower]
    show (u.dev.towerok &&& ~~~(failed ||| lost)).getLsbD k = true ↔ _ ∧ _ ∧ (u.tower k).pairLost = false
    rw [hdev, BitVec.getLsbD_and, BitVec.getLsbD_not, BitVec.getLsbD_or, hl]
    simp [hk]

theorem dramInitialised_effect {s : State} (failed : BitVec 12) (hw : s.wf = true) (h : s.dev.phase = 3) :
    ∃ t, exec (.dramInitialised failed) s = .next t ∧ phaseEnded 4 s.dev.failphase t ∧ t.marks = [] ∧ t.poison = [] ∧
      t.dev.towerok = s.dev.towerok &&& ~~~failed ∧ (∀ k, (t.tower k).l2ways = 0x400) ∧
      ∀ a, memByte t.mem a = if a < 2 ^ 42 then 0 else memByte s.mem a := by
  refine ⟨_, bringUp_next (by rw [h]), endPhase_ended _ _, endPhase_marks _ _, endPhase_poison _ _, endPhase_towerok _ _,
    fun k => ?_, fun a => ?_⟩
  · refine (congrArg Tower.l2ways (endPhase_tower _ _ k)).trans ?_
    refine kvGet_of_forall (P := fun t : Tower => t.l2ways = 0x400) rfl (fun e he => ?_) k
    obtain ⟨x, -, rfl⟩ := List.mem_map.mp he
    rfl
  · refine (congrArg (fun m => memByte m a) (endPhase_mem _ _)).trans ?_
    refine (memByte_filter (fun a => decide (2 ^ 42 ≤ a)) s.mem hw a).trans ?_
    by_cases ha : a < 2 ^ 42
    · rw [if_pos ha, if_neg (by simpa using ha)]
    · rw [if_neg ha, if_pos (by simpa using ha)]

/-- A stack as the wear table reports it. -/
def stackOfReports (wear : List WearReport) (j : Nat) : Stack :=
  (wear.filter (fun r => r.stack == j)).foldl Stack.report Stack.fresh

theorem granaryOnline_effect {s : State} (g : BitVec 4) (wear : List WearReport) (h : s.dev.phase = 4) :
    ∃ t, exec (.granaryOnline g wear) s = .next t ∧ phaseEnded 5 s.dev.failphase t ∧ t.dev.granaryok = g ∧
      t.dev.towerok = s.dev.towerok ∧ t.mem = s.mem ∧
      ∀ j, j < 4 → t.stack j = stackOfReports wear j := by
  let f (s : State) (j : Nat) : State := s.setStack j (stackOfReports wear j)
  let u := (List.range 4).foldl f s
  have hdev : u.dev = s.dev := foldl_frame State.dev (f := f) (fun _ _ => rfl) _ s
  have hmem : u.mem = s.mem := foldl_frame State.mem (f := f) (fun _ _ => rfl) _ s
  have hgran : u.granary = (List.range 4).foldl (fun m j => kvSet m j (stackOfReports wear j)) s.granary :=
    (List.foldl_hom State.granary (g₁ := f) (fun _ _ => rfl)).symm
  let v : State := { u with dev := { u.dev with granaryok := g } }
  refine ⟨v.endPhase 5, bringUp_next (by rw [h]), ?_, endPhase_granaryok _ _, ?_, ?_, fun j hj => ?_⟩
  · exact hdev ▸ endPhase_ended v 5
  · exact (endPhase_towerok v 5).trans (show u.dev.towerok = s.dev.towerok by rw [hdev])
  · exact (endPhase_mem _ _).trans hmem
  · refine (endPhase_stack _ _ j).trans ((congrArg (fun m => kvGet Stack.fresh m j) hgran).trans ?_)
    exact (kvGet_foldl_kvSet Stack.fresh (fun j _ => stackOfReports wear j) s.granary 4 j).trans (if_pos hj)

/-- A tower's TIME set going with a skew of 2 cycles at most. -/
def alignTower (skew : List Nat) (k : Nat) (t : Tower) : Tower := { t with skew := min 2 (skew.getD k 0) }

theorem timeAligned_effect {s : State} (failed : BitVec 12) (skew : List Nat) (h : s.dev.phase = 5) :
    ∃ t, exec (.timeAligned failed skew) s = .next t ∧ phaseEnded 6 s.dev.failphase t ∧ t.timeZero = s.clock ∧
      t.dev.towerok = s.dev.towerok &&& ~~~failed ∧ ∀ k, k < 12 → (t.tower k).skew = min 2 (skew.getD k 0) := by
  let f (s : State) (k : Nat) : State := s.setTower k (alignTower skew k (s.tower k))
  let u := (List.range 12).foldl f { s with timeZero := s.clock }
  have hdev : u.dev = s.dev := foldl_frame State.dev (f := f) (fun _ _ => rfl) _ _
  have hzero : u.timeZero = s.clock := foldl_frame State.timeZero (f := f) (fun _ _ => rfl) _ _
  have htow : u.towers = (List.range 12).foldl (fun m k => kvSet m k (alignTower skew k (kvGet Tower.fresh m k))) s.towers :=
    (List.foldl_hom State.towers (g₁ := f) (fun _ _ => rfl)).symm
  refine ⟨(u.failTowers failed).endPhase 6, bringUp_next (by rw [h]), ?_, ?_, ?_, fun k hk => ?_⟩
  · exact hdev ▸ endPhase_ended (u.failTowers failed) 6
  · exact (endPhase_timeZero _ _).trans hzero
  · exact (endPhase_towerok _ _).trans (congrArg (fun d : Device => d.towerok &&& ~~~failed) hdev)
  · have ht : u.tower k = alignTower skew k (s.tower k) := (congrArg (fun m => kvGet Tower.fresh m k) htow).trans
      ((kvGet_foldl_kvSet Tower.fresh (alignTower skew) s.towers 12 k).trans (if_pos hk))
    rw [endPhase_tower]
    exact congrArg Tower.skew ht

/-- The dispatchers of a list of functions put in place, one after another: each is found, and the device and the clock, from
which a dispatcher is made, stay. -/
theorem foldl_dispatcherAt (fns : List Nat) (s : State) (fn : Nat) :
    let t := fns.foldl (fun (s : State) fn => s.putAgent (s.dispatcherAt fn)) s
    t.dev = s.dev ∧ t.mem = s.mem ∧ t.agent? (7000 + fn) = if fn ∈ fns then some (s.dispatcherAt fn) else s.agent? (7000 + fn) := by
  induction fns generalizing s with
  | nil => simp
  | cons f fns ih =>
    obtain ⟨hd, hm, ha⟩ := ih (s.putAgent (s.dispatcherAt f))
    have same : ∀ n, (s.putAgent (s.dispatcherAt f)).dispatcherAt n = s.dispatcherAt n := by
      intro n
      simp only [State.dispatcherAt, putAgent_dev, putAgent_clock]
    refine ⟨hd.trans (putAgent_dev _ _), hm.trans (putAgent_mem _ _), ha.trans ?_⟩
    rw [same]
    by_cases hf : fn = f
    · subst hf
      have hput : (s.putAgent (s.dispatcherAt fn)).agent? (7000 + fn) = some (s.dispatcherAt fn) :=
        agent?_putAgent_same s (s.dispatcherAt fn)
      rw [hput, if_pos List.mem_cons_self, ite_self]
    · have hne : 7000 + fn ≠ (s.dispatcherAt f).id := fun e => hf (Nat.add_left_cancel e)
      simp only [agent?_putAgent_other hne, List.mem_cons, hf, false_or]

theorem ready_effect {s : State} (h : s.dev.phase = 6) (hk : s.dev.towerok ≠ 0) : ∃ t, exec .ready s = .next t ∧
    t.dev = { s.dev with phase := 7 } ∧ t.mem = s.mem ∧
    ∀ fn, fn = 0 ∨ (fn ∈ s.dev.vfcfg.map (fun e => e.1) ∧ s.vfEnabled fn = true) →
      ∃ a, t.agent? (7000 + fn) = some a ∧ a.kind = .dispatcher ∧ a.user = false ∧
        a.status = .waiting .waita (.waita 0 0 0 true false 2 true) ∧ a.regs.kvec = s.dev.vecbase := by
  let u : State := { s with dev := { s.dev with phase := 7 } }
  let fns := 0 :: (u.dev.vfcfg.map (fun e => e.1)).filter (fun fn => u.vfEnabled fn)
  obtain ⟨hdev, hmem, -⟩ := foldl_dispatcherAt fns u 0
  refine ⟨u.startDispatchers, (bringUp_next (by rw [h])).trans (by rw [if_neg hk]), hdev, hmem, fun fn hfn => ?_⟩
  obtain ⟨-, -, hag⟩ := foldl_dispatcherAt fns u fn
  have hin : fn ∈ fns := by
    rw [List.mem_cons, List.mem_filter]
    exact hfn
  exact ⟨u.dispatcherAt fn, hag.trans (if_pos hin), rfl, rfl, rfl, rfl⟩

/-- Settles O47: each step of bring-up at its place by the lemma about it, out of its order by `bringUp_idle`. -/
theorem bringUp : Obligations.BringUp := by
  unfold Obligations.BringUp
  intro s ok failed buses g wear skew hw
  refine ⟨powerOn_effect s hw, fun h => ⟨_, bringUp_next (by rw [h]), fun hok => ?_, fun hok => ?_⟩, fun h => ?_,
    verticalBusesRepaired_effect failed buses, dramInitialised_effect failed hw, granaryOnline_effect g wear,
    timeAligned_effect failed skew, fun h hk => ⟨_, bringUp_next (by rw [h]), if_pos hk⟩, ready_effect, ?calm⟩
  · exact if_pos hok
  · exact if_neg (by simp [hok])
  · cases ok with
    | true =>
      obtain ⟨t, ht, hrest⟩ := fabricTrained_effect h
      exact ⟨t, ht, nofun, fun _ => hrest⟩
    | false => exact ⟨_, bringUp_next (by rw [h]), fun _ => rfl, nofun⟩
  case calm => exact ⟨bringUp_idle, bringUp_idle, bringUp_idle, bringUp_idle, bringUp_idle, bringUp_idle, bringUp_idle⟩

end Sys2Proof.Proofs
end

/-! ## Stopping launches (R365): a stop answers in every state, and the launch is gone -/
section
namespace Sys2Proof.Proofs

open Sys2Proof.Machine Sys2Proof.Laws

variable {α β : Type}

/-- The launch table is the same, and so are the identities of the agents there are. -/
structure SameRoster (s t : State) : Prop where
  launches : t.launches = s.launches
  ids : ∀ id, id ∈ t.agents.map Agent.id ↔ id ∈ s.agents.map Agent.id

theorem SameRoster.of_eq {s t : State} (hl : t.launches = s.launches)
    (ha : t.agents.map Agent.id = s.agents.map Agent.id) : SameRoster s t :=
  ⟨hl, fun id => by rw [ha]⟩

theorem SameRoster.refl (s : State) : SameRoster s s := .of_eq rfl rfl

theorem SameRoster.trans {s t u : State} (h : SameRoster s t) (k : SameRoster t u) : SameRoster s u :=
  ⟨k.launches.trans h.launches, fun id => (k.ids id).trans (h.ids id)⟩

theorem SameRoster.update {s t u : State} (h : SameRoster s t) (hl : u.launches = t.launches)
    (ha : u.agents.map Agent.id = t.agents.map Agent.id) : SameRoster s u := h.trans (.of_eq hl ha)

theorem SameRoster.foldl {f : State → β → State} (h : ∀ s b, SameRoster s (f s b)) (xs : List β) (s : State) :
    SameRoster s (xs.foldl f s) := foldl_rel SameRoster.refl SameRoster.trans h xs s

/-- Agents changed one by one, each under the identity it has. -/
theorem SameRoster.map_agents {s t : State} {f : Agent → Agent} (ho : t.others = s.others.map f) (hc : t.cur = f s.cur)
    (hl : t.launches = s.launches) (hf : ∀ a, (f a).id = a.id) : SameRoster s t := by
  refine .of_eq hl ?_
  simp only [State.agents, ho, hc, List.map_cons, List.map_map, hf]
  exact congrArg _ (List.map_congr_left (fun a _ => hf a))

theorem agent?_isSome_iff (s : State) (id : Nat) : (s.agent? id).isSome = true ↔ id ∈ s.agents.map Agent.id := by
  unfold State.agent? State.agents
  by_cases h : s.cur.id = id
  · simp [h]
  · have h' : ¬ id = s.cur.id := fun e => h e.symm
    simp [h, h', List.find?_isSome]

theorem sameRoster_focus (s : State) (id : Nat) : SameRoster s (s.focus id) := by
  unfold State.focus
  split
  · exact .refl s
  · split
    · exact .refl s
    · next a ha =>
      refine ⟨rfl, fun j => ?_⟩
      have hid : a.id = id := by simpa using List.find?_some ha
      have hmem : a ∈ s.others := List.mem_of_find?_eq_some ha
      simp only [State.agents, List.map_cons, List.mem_cons, List.mem_map, List.mem_filter, bne_iff_ne]
      constructor
      · rintro (rfl | rfl | ⟨b, ⟨hb, -⟩, rfl⟩)
        · exact .inr ⟨a, hmem, rfl⟩
        · exact .inl rfl
        · exact .inr ⟨b, hb, rfl⟩
      · rintro (rfl | ⟨b, hb, rfl⟩)
        · exact .inr (.inl rfl)
        · by_cases hbi : b.id = id
          · exact .inl (hbi.trans hid.symm)
          · exact .inr (.inr ⟨b, ⟨hb, hbi⟩, rfl⟩)

theorem sameRoster_logError (s : State) (c u : Nat) (w d : Word) : SameRoster s (s.logError c u w d) := by
  obtain ⟨m, n, h⟩ := logError_frame s c u w d
  exact h ▸ .of_eq rfl rfl

theorem sameRoster_foundIn (s : State) (unit : Option Nat) : SameRoster s (s.foundIn unit) := by
  unfold State.foundIn
  split
  · exact .refl s
  · unfold State.foundError
    dsimp only
    split
    · refine .trans ?_ (sameRoster_logError _ _ _ _ _)
      exact .of_eq rfl rfl
    · exact .of_eq rfl rfl

theorem sameRoster_performAdd (s : State) (u : BankAdd) : SameRoster s (s.performAdd u) := by
  unfold State.performAdd
  dsimp only
  split
  · exact sameRoster_foundIn s _
  · refine (sameRoster_foundIn s _).trans (.map_agents rfl rfl rfl ?_)
    intro a
    split <;> rfl

theorem sameRoster_cleanUnits (s : State) (p : Prop) [Decidable p] (q : Nat → Bool) :
    SameRoster s (if p then s.cleanUnits q else s) := by
  split
  · exact .of_eq rfl rfl
  · exact .refl s

theorem sameRoster_writeBack (s : State) (g : Nat) (l : L1Line) : SameRoster s (s.writeBack g l) := by
  have agents (u : State) (f : Agent → Agent) (m : List Host.Cell) (p : List Nat) (hf : ∀ a, (f a).id = a.id) :
      SameRoster u { u.inCluster g f with mem := m, poison := p } := by
    refine .map_agents rfl rfl rfl (fun a => ?_)
    split
    · exact hf a
    · rfl
  unfold State.writeBack
  dsimp only
  split
  · exact .refl s
  · split
    · split
      · refine .trans ?_ ((sameRoster_cleanUnits _ _ _).trans (agents _ _ _ _ (fun _ => rfl)))
        exact .of_eq rfl rfl
      · refine .trans ?_ (sameRoster_logError _ _ _ _ _)
        exact .of_eq rfl rfl
    · refine .trans ?_ ((sameRoster_cleanUnits _ _ _).trans (agents _ _ _ _ (fun _ => rfl)))
      exact .of_eq rfl rfl

theorem sameRoster_publish (s : State) (w scope : Nat) (es : List RangeEntry) : SameRoster s (s.publish w scope es) := by
  unfold State.publish
  refine SameRoster.foldl (fun s k => ?_) _ s
  exact .of_eq rfl rfl

/-- A computation that answers in every state, and keeps the launch table and the identities of the agents. -/
def Answers (x : Exec α) : Prop := ∀ s, ∃ a t, x s = .ok a t ∧ SameRoster s t

theorem answers_pure (a : α) : Answers (pure a : Exec α) := fun s => ⟨a, s, rfl, .refl s⟩

theorem answers_modify {f : State → State} (h : ∀ s, SameRoster s (f s)) : Answers (modify f : Exec PUnit) :=
  fun s => ⟨⟨⟩, f s, rfl, h s⟩

theorem answers_get_bind {f : State → Exec β} (h : ∀ s, Answers (f s)) : Answers (get >>= f) := fun s => h s s

theorem answers_bind {x : Exec α} {f : α → Exec β} (hx : Answers x) (hf : ∀ a, Answers (f a)) :
    Answers (x >>= f) := by
  intro s
  obtain ⟨a, t, hxt, hst⟩ := hx s
  obtain ⟨b, u, hfu, htu⟩ := hf a t
  exact ⟨b, u, (exec_bind_ok hxt).trans hfu, hst.trans htu⟩

theorem answers_each (xs : List α) {f : α → Exec Unit} (h : ∀ a, Answers (f a)) :
    Answers (each xs f) := by
  induction xs with
  | nil => exact answers_pure ()
  | cons x xs ih => exact answers_bind (h x) (fun _ => ih)

theorem answers_drawBelow (n : Nat) : Answers (drawBelow n) := by
  intro s
  unfold drawBelow
  split
  · exact answers_pure 0 s
  · exact ⟨_, _, rfl, .of_eq rfl rfl⟩

theorem answers_shuffle (n : Nat) : ∀ xs : List α, Answers (shuffle n xs) := by
  induction n with
  | zero => exact answers_pure
  | succ n ih =>
    intro xs
    refine answers_bind (answers_drawBelow _) (fun k => ?_)
    split
    · exact answers_pure _
    · exact answers_bind (ih _) (fun _ => answers_pure _)

theorem answers_drainBank (id : Nat) : Answers (drainBank id) := by
  unfold drainBank drainWhere
  refine answers_get_bind (fun s => ?_)
  dsimp only
  split
  · exact answers_pure ()
  · refine answers_bind (answers_shuffle _ _) (fun order => answers_modify (fun t => ?_))
    exact (SameRoster.foldl sameRoster_performAdd _ t).update rfl rfl

/-- A release answers wherever it is made (R238). -/
theorem answers_release (scope : Nat) : Answers (release scope) := by
  unfold release
  refine answers_get_bind (fun s => answers_bind (answers_drainBank _) (fun _ => answers_modify (fun t => ?_)))
  have hw : SameRoster t (t.writeBackThread t.myCluster t.cur.id) :=
    SameRoster.foldl (fun u l => sameRoster_writeBack u t.myCluster l) _ t
  exact (hw.trans (sameRoster_publish _ _ _ _)).update rfl rfl

theorem answers_giveUp (c : Cmd) : Answers (giveUp c) := by
  unfold giveUp
  refine answers_get_bind (fun s => ?_)
  split
  · split
    · exact answers_modify (fun _ => .of_eq rfl rfl)
    · exact answers_modify (fun _ => .of_eq rfl rfl)
    · exact answers_pure ()
  · exact answers_pure ()

/-- What an agent that is there does, answers where the computation does. -/
theorem asAgent_answers {id : Nat} {x : Exec α} (hx : Answers x) {s : State}
    (hid : id ∈ s.agents.map Agent.id) : ∃ a t, asAgent id x s = .ok a t ∧ SameRoster s t := by
  obtain ⟨b, hb⟩ := Option.isSome_iff_exists.mp ((agent?_isSome_iff s id).mpr hid)
  obtain ⟨a, t, hxt, hst⟩ := hx (s.focus id)
  refine ⟨a, t.focus s.cur.id, ?_, (sameRoster_focus s id).trans (hst.trans (sameRoster_focus t _))⟩
  simp only [asAgent, hb, hxt]

theorem each_asAgent_answers {x : Exec Unit} (hx : Answers x) (ids : List Nat) :
    ∀ s : State, (∀ id ∈ ids, id ∈ s.agents.map Agent.id) →
      ∃ t, each ids (fun id => asAgent id x) s = .ok () t ∧ SameRoster s t := by
  induction ids with
  | nil => exact fun s _ => ⟨s, rfl, .refl s⟩
  | cons id ids ih =>
    intro s hs
    obtain ⟨hid, hids⟩ := List.forall_mem_cons.mp hs
    obtain ⟨_, t, ht, hst⟩ := asAgent_answers hx hid
    obtain ⟨u, hu, htu⟩ := ih t (fun j hj => (hst.ids j).mpr (hids j hj))
    exact ⟨u, (exec_bind_ok ht).trans hu, hst.trans htu⟩

theorem answers_releaseLaunch (l : Nat) : Answers (releaseLaunch l) := by
  intro s
  obtain ⟨t, ht, hst⟩ := each_asAgent_answers (answers_release 3)
    ((s.agents.filter (fun a => a.launch == l && a.status != .free && a.id < exitedId)).map (fun a => a.id)) s
    (fun id hid => by
      obtain ⟨a, ha, rfl⟩ := List.mem_map.mp hid
      exact List.mem_map.mpr ⟨a, (List.mem_filter.mp ha).1, rfl⟩)
  exact ⟨(), t, ht, hst⟩

theorem sameRoster_dropCmds (s : State) (l : Nat) : SameRoster s (s.dropCmds l) := by
  unfold State.dropCmds
  dsimp only
  have hand (u : State) (k : Nat) : SameRoster u (u.handChannel k) := by
    unfold State.handChannel
    split
    · exact .of_eq rfl rfl
    · exact .refl u
  have h := SameRoster.foldl (fun u (c : Cmd) => hand u c.unit) (s.cmds.filter (fun c => c.launch == l && !c.started))
    { s with cmds := s.cmds.filter (fun c => !(c.launch == l && !c.started)) }
  exact ⟨h.launches, h.ids⟩

theorem handPort_launches (s : State) (g : Nat) : (s.handPort g).launches = s.launches := by
  unfold State.handPort
  dsimp only
  split
  · split
    · rfl
    · split
      · exact putAgent_launches _ _
      · rfl
  · rfl

/-- What a launch held is free, and its entry is gone from the table (R315). -/
theorem freeLaunch_launches (s : State) (l : Nat) : (s.freeLaunch l).launches = kvDel s.launches l :=
  foldl_frame State.launches (f := fun (u : State) (e : Nat × Cluster) => u.handPorts e.1)
    (fun u e => foldl_frame State.launches (f := fun (v : State) (_ : Nat) => v.handPort e.1)
      (fun v _ => handPort_launches v e.1) _ u) _ _

theorem writeState_launches (s : State) (x : Launch) (st c : Nat) : (s.writeState x st c).launches = s.launches := by
  unfold State.writeState
  dsimp only
  split <;> rfl

theorem launch?_isSome_iff (s : State) (l : Nat) : (s.launch? l).isSome = kvHas s.launches l := by
  simp [State.launch?, kvHas, List.isSome_find?]

/-- The stop of a launch in the table answers and takes it from the table, and no other (R365). -/
theorem stopLaunch_answers {s : State} {l : Nat} (c : Nat) (h : kvHas s.launches l = true) :
    ∃ t, stopLaunch l c s = .ok () t ∧ t.launches = kvDel s.launches l := by
  obtain ⟨_, t1, h1, r1⟩ := answers_each (s.cmds.filter (fun c => c.launch == l && !c.started)) answers_giveUp s
  obtain ⟨_, t2, h2, r2⟩ := answers_releaseLaunch l { t1.dropCmds l with
    sent := (t1.dropCmds l).sent.filter (fun w => !(t1.dropCmds l).agents.any (fun a => a.id == w.agent && a.launch == l)) }
  have hlaunches : t2.launches = s.launches :=
    r2.launches.trans ((sameRoster_dropCmds t1 l).launches.trans r1.launches)
  let clear (u : State) (a : Agent) : State := match a.status with
    | .paged _ _ => u.clearPendingBit a
    | _ => u
  let t3 := (t2.agents.filter (fun a => a.launch == l)).foldl clear t2
  have h3 : t3.launches = s.launches := by
    refine Eq.trans (foldl_frame State.launches (f := clear) (fun u a => ?_) _ t2) hlaunches
    simp only [clear]
    split <;> rfl
  obtain ⟨x, hx⟩ : ∃ x, t3.launch? l = some x :=
    Option.isSome_iff_exists.mp (by rw [launch?_isSome_iff, h3, h])
  refine ⟨(t3.writeState x 4 c).freeLaunch l, ?_, ?_⟩
  · refine (exec_bind_ok (exec_get s)).trans ?_
    rw [if_pos h]
    refine (exec_bind_ok h1).trans ((exec_bind_ok rfl).trans ((exec_bind_ok rfl).trans ((exec_bind_ok h2).trans
      ((exec_bind_ok (t := t3) rfl).trans ?_))))
    show EStateM.Result.ok _ (match t3.launch? l with | none => t3 | some x => (t3.writeState x 4 c).freeLaunch l) = _
    rw [hx]
  · rw [freeLaunch_launches, writeState_launches, h3]

/-- Launches stopped one after another, each where it still is in the table: none of them is left in it. -/
theorem stopEach_answers (c : Nat) (ls : List Nat) : ∀ s : State,
    ∃ t, each ls (fun l => do if kvHas (← get).launches l then stopLaunch l c else pure ()) s = .ok () t ∧
      t.launches = s.launches.filter (fun e => !ls.contains e.1) := by
  induction ls with
  | nil => exact fun s => ⟨s, rfl, by simp⟩
  | cons l ls ih =>
    intro s
    obtain ⟨t, ht, hl⟩ : ∃ t, (do if kvHas (← get).launches l then stopLaunch l c else pure () : Exec Unit) s = .ok () t ∧
        t.launches = kvDel s.launches l := by
      cases h : kvHas s.launches l with
      | true =>
        obtain ⟨t, ht, hl⟩ := stopLaunch_answers c h
        exact ⟨t, (exec_bind_ok (exec_get s)).trans ((congrFun (if_pos h) s).trans ht), hl⟩
      | false =>
        refine ⟨s, (exec_bind_ok (exec_get s)).trans (by rw [h]; rfl), ?_⟩
        refine (List.filter_eq_self.mpr (fun e he => ?_)).symm
        have := List.any_eq_false.mp h e he
        simpa using this
    obtain ⟨u, hu, hlu⟩ := ih t
    refine ⟨u, (exec_bind_ok ht).trans hu, ?_⟩
    rw [hlu, hl, kvDel, List.filter_filter]
    refine List.filter_congr (fun e _ => ?_)
    by_cases he : e.1 = l <;> simp [he]

/-- With every launch stopped the table is empty. -/
theorem stopAll_answers (c : Nat) (s : State) : ∃ t, stopAll c s = .ok () t ∧ t.launches = [] := by
  obtain ⟨t, ht, hl⟩ := stopEach_answers c (s.launches.map (fun e => e.1)) s
  refine ⟨t, (exec_bind_ok (exec_get s)).trans ht, hl.trans (List.filter_eq_nil_iff.mpr (fun e he => ?_))⟩
  simpa using ⟨e.2, he⟩

end Sys2Proof.Proofs
end

/-! ## One cycle of the fabric (R9, R338–R340) -/
section
namespace Sys2Proof.Proofs

open Sys2Proof.Machine Sys2Proof.Laws

/-! ### One router -/

theorem rankIn_perm (f : Flit) (fs : List Flit) : (rankIn f fs).Perm (f :: fs) := by
  induction fs with
  | nil => exact .refl _
  | cons g fs ih =>
    unfold rankIn
    split
    · exact .refl _
    · exact (ih.cons g).trans (.swap f g fs)

/-- Ranking the flits of a router neither loses one nor adds one. -/
theorem ranked_perm (fs : List Flit) : (fs.foldr rankIn []).Perm fs := by
  induction fs with
  | nil => exact .refl _
  | cons f fs ih => exact (rankIn_perm f _).trans (ih.cons f)

/-- What one cycle at router `p` makes of flit `g` that is not ejected: it stays as it is, or leaves through a port. -/
def hops (p : Nat) (g f : Flit) : Prop := f = g ∨ ∃ d, f = { g with pos := (neighbour p d).getD p, came := p }

theorem hops_frame {p : Nat} {g f : Flit} (h : hops p g f) : { f with pos := g.pos, came := g.came } = g := by
  obtain rfl | ⟨d, rfl⟩ := h <;> rfl

theorem hops_plane {p : Nat} {g f : Flit} (h : hops p g f) : f.plane = g.plane := by
  obtain rfl | ⟨d, rfl⟩ := h <;> rfl

/-- A hop ends at the router itself or at one next to it. -/
theorem hops_pos {g f : Flit} (h : hops g.pos g f) : f.pos = g.pos ∨ ∃ d, neighbour g.pos d = some f.pos := by
  obtain rfl | ⟨d, rfl⟩ := h
  · exact .inl rfl
  · cases hn : neighbour g.pos d with
    | none => exact .inl rfl
    | some q => exact .inr ⟨d, hn⟩

/-- One router on one cycle: every flit that leaves it or stays in it is one of its flits a hop on; each of its flits that is
not at its destination is among them; and where none is, there are as many as before. -/
theorem routeFlits_spec (p : Nat) (fs : List Flit) : ∀ (free : List Dir) (ejected : Bool) (out : List (Flit × Bool)),
    let moved := (routeFlits p fs free ejected out).1
    (∀ e ∈ moved, e ∈ out ∨ ∃ g ∈ fs, hops p g e.1) ∧ (∀ e ∈ out, e ∈ moved) ∧
    (∀ g ∈ fs, g.dst ≠ p → ∃ e ∈ moved, hops p g e.1) ∧
    ((∀ g ∈ fs, g.dst ≠ p) → moved.length = out.length + fs.length) := by
  induction fs with
  | nil =>
    intro free ejected out
    exact ⟨fun e he => .inl he, fun e he => he, nofun, fun _ => rfl⟩
  | cons f fs ih =>
    intro free ejected out
    -- a flit that is not ejected is put out as `e`, and the others are routed after it
    have put (free' : List Dir) (e : Flit × Bool) (he : hops p f e.1) :
        let moved := (routeFlits p fs free' ejected (e :: out)).1
        (∀ x ∈ moved, x ∈ out ∨ ∃ g ∈ f :: fs, hops p g x.1) ∧ (∀ x ∈ out, x ∈ moved) ∧
        (∀ g ∈ f :: fs, g.dst ≠ p → ∃ x ∈ moved, hops p g x.1) ∧
        ((∀ g ∈ f :: fs, g.dst ≠ p) → moved.length = out.length + (f :: fs).length) := by
      obtain ⟨horig, hout, hkept, hlen⟩ := ih free' ejected (e :: out)
      refine ⟨fun x hx => ?_, fun x hx => hout x (List.mem_cons_of_mem _ hx), fun g hg hd => ?_, fun hd => ?_⟩
      · rcases horig x hx with hx | ⟨g, hg, hgx⟩
        · rcases List.mem_cons.mp hx with rfl | hx
          · exact .inr ⟨f, List.mem_cons_self, he⟩
          · exact .inl hx
        · exact .inr ⟨g, List.mem_cons_of_mem _ hg, hgx⟩
      · rcases List.mem_cons.mp hg with rfl | hg
        · exact ⟨e, hout e List.mem_cons_self, he⟩
        · exact hkept g hg hd
      · rw [hlen (fun g hg => hd g (List.mem_cons_of_mem _ hg)), List.length_cons, List.length_cons]
        omega
    unfold routeFlits
    split
    · next hej =>
      obtain ⟨horig, hout, hkept, -⟩ := ih free true out
      refine ⟨fun e he => ?_, hout, fun g hg hd => ?_, fun hd => absurd hej.1 (hd f List.mem_cons_self)⟩
      · rcases horig e he with he | ⟨g, hg, hge⟩
        · exact .inl he
        · exact .inr ⟨g, List.mem_cons_of_mem _ hg, hge⟩
      · rcases List.mem_cons.mp hg with rfl | hg
        · exact absurd hej.1 hd
        · exact hkept g hg hd
    · split
      · exact put free (f, false) (.inl rfl)
      · next d defl _ => exact put _ (_, defl) (.inr ⟨d, rfl⟩)

/-! ### One plane -/

/-- The greatest age of a flit on a plane (R338, R406). -/
def ageBound (s : State) (plane : Nat) : Nat := if s.shared plane then 512 else 256

/-- The flits on a plane. -/
def onPlane (s : State) (plane : Nat) : List Flit := s.flits.filter (fun f => s.planeOf f.plane == plane)

/-- The flits on the other planes. -/
def offPlane (s : State) (plane : Nat) : List Flit := s.flits.filter (fun f => s.planeOf f.plane != plane)

/-- The flits of a plane that router `p` routes. -/
def flitsAt (s : State) (plane p : Nat) : List Flit :=
  (onPlane s plane).filter (fun f => f.pos == p && decide (f.age ≤ ageBound s plane))

/-- What router `p` does on a plane: the flits that leave it or stay in it, and the ports left. -/
def routedAt (s : State) (plane p : Nat) : List (Flit × Bool) × List Dir :=
  routeFlits p ((flitsAt s plane p).foldr rankIn []) (portsOf p) false []

/-- The flits of a plane after the cycle, each with whether it was deflected. -/
def movedOn (s : State) (plane : Nat) : List (Flit × Bool) :=
  ((List.range 18).map (fun p => (p, routedAt s plane p))).map (fun r => r.2.1) |>.flatten

/-- A deflection counted for the tower its flit comes from, unless the counter has been written since (R340). -/
def countDeflection (s : State) (e : Flit × Bool) : State := if e.2 && !e.1.stale then s.countFlit e.1.src 0 else s

/-- The plane's flits moved, and their deflections counted. -/
def routed (s : State) (plane : Nat) : State :=
  (movedOn s plane).foldl countDeflection { s with flits := offPlane s plane ++ (movedOn s plane).map (fun e => e.1) }

/-- What router `p` injects of the requests that stand before it, with the ports that its cycle left. -/
def injectAt (s : State) (plane : Nat) (inj : List FlitReq) (u : State) (p : Nat) : State :=
  let free := match ((List.range 18).map (fun p => (p, routedAt s plane p))).find? (fun r => r.1 == p) with
    | none => []
    | some r => r.2.2
  match inj.find? (fun r => r.src == p && decide (r.plane < 4) && u.planeOf r.plane == plane && decide (r.dst < 18)) with
  | none => u
  | some r => match u.mayInject plane free r with
    | none => u
    | some d => u.inject plane r ((neighbour p d).getD p)

/-- The flits of a plane that are past their bound. -/
def lateOn (s : State) (plane : Nat) : List Flit := (onPlane s plane).filter (fun f => decide (ageBound s plane < f.age))

/-- A cycle of an enabled plane routes, counts, injects, and discards what is past its bound. -/
theorem flitRoute_eq {s : State} {plane : Nat} (inj : List FlitReq) (hp : plane < 4)
    (hoff : s.dev.planesOff.getLsbD plane = false) (hdue : s.planeDue plane = false) :
    exec (.flitRoute plane inj) s = .next (eventStep (each (lateOn s plane) pastBound)
      ((List.range 18).foldl (injectAt s plane inj) (routed s plane))) := by
  have hneed : (decide (plane < 4) && !s.dev.planesOff.getLsbD plane && !s.planeDue plane) = true := by
    rw [hoff, hdue]
    simpa using hp
  refine congrArg Host.Outcome.next ?_
  refine (eventStep_bind_ok (exec_get s)).trans ((eventStep_bind_ok (exec_need hneed s)).trans ?_)
  exact (eventStep_bind_ok rfl).trans ((eventStep_bind_ok rfl).trans
    (eventStep_bind_ok (each_modify (injectAt s plane inj) _ _)))

/-- A cycle of an enabled plane on which no flit is past its bound. -/
theorem flitRoute_inTime {s : State} {plane : Nat} (inj : List FlitReq) (hp : plane < 4)
    (hoff : s.dev.planesOff.getLsbD plane = false) (hdue : s.planeDue plane = false)
    (hage : ∀ f ∈ s.flits, s.planeOf f.plane = plane → f.age ≤ ageBound s plane) :
    exec (.flitRoute plane inj) s = .next ((List.range 18).foldl (injectAt s plane inj) (routed s plane)) := by
  have hlate : lateOn s plane = [] := by
    refine List.filter_eq_nil_iff.mpr (fun f hf => ?_)
    obtain ⟨hf, hpl⟩ := List.mem_filter.mp hf
    simpa using hage f hf (by simpa using hpl)
  rw [flitRoute_eq inj hp hoff hdue, hlate]
  rfl

/-! ### What is moved -/

theorem mem_flitsAt {s : State} {plane p : Nat} {g : Flit} : g ∈ flitsAt s plane p ↔
    g ∈ s.flits ∧ s.planeOf g.plane = plane ∧ g.pos = p ∧ g.age ≤ ageBound s plane := by
  simp only [flitsAt, onPlane, List.mem_filter, Bool.and_eq_true, beq_iff_eq, decide_eq_true_eq, and_assoc]

theorem mem_movedOn {s : State} {plane : Nat} {e : Flit × Bool} :
    e ∈ movedOn s plane ↔ ∃ p < 18, e ∈ (routedAt s plane p).1 := by
  simp [movedOn]

/-- Each flit moved is one of the plane's flits, a hop on. -/
theorem movedOn_origin {s : State} {plane : Nat} {e : Flit × Bool} (he : e ∈ movedOn s plane) :
    ∃ g ∈ s.flits, s.planeOf g.plane = plane ∧ g.pos < 18 ∧ hops g.pos g e.1 := by
  obtain ⟨p, hp, he⟩ := mem_movedOn.mp he
  obtain ⟨horig, -⟩ := routeFlits_spec p ((flitsAt s plane p).foldr rankIn []) (portsOf p) false []
  obtain he | ⟨g, hg, hge⟩ := horig e he
  · exact absurd he List.not_mem_nil
  · obtain ⟨hmem, hpl, rfl, -⟩ := mem_flitsAt.mp ((ranked_perm _).mem_iff.mp hg)
    exact ⟨g, hmem, hpl, hp, hge⟩

/-- Each of the plane's flits in time that is not at its destination is moved or kept. -/
theorem movedOn_keeps {s : State} {plane : Nat} {g : Flit} (hg : g ∈ s.flits) (hpl : s.planeOf g.plane = plane)
    (hpos : g.pos < 18) (hage : g.age ≤ ageBound s plane) (hd : g.dst ≠ g.pos) :
    ∃ e ∈ movedOn s plane, hops g.pos g e.1 := by
  obtain ⟨-, -, hkept, -⟩ := routeFlits_spec g.pos ((flitsAt s plane g.pos).foldr rankIn []) (portsOf g.pos) false []
  obtain ⟨e, he, hge⟩ := hkept g ((ranked_perm _).mem_iff.mpr (mem_flitsAt.mpr ⟨hg, hpl, rfl, hage⟩)) hd
  exact ⟨e, mem_movedOn.mpr ⟨g.pos, hpos, he⟩, hge⟩

/-- The flits at the routers below `n`, router by router. -/
theorem sum_flits_below (fs : List Flit) (n : Nat) :
    ((List.range n).map (fun p => (fs.filter (fun f => f.pos == p)).length)).sum =
      (fs.filter (fun f => decide (f.pos < n))).length := by
  induction n with
  | zero => simp
  | succ n ih =>
    rw [List.range_succ, List.map_append, List.sum_append, ih]
    simp only [List.map_cons, List.map_nil, List.sum_cons, List.sum_nil, Nat.add_zero]
    clear ih
    induction fs with
    | nil => rfl
    | cons f fs ih =>
      simp only [List.filter_cons]
      rcases Nat.lt_trichotomy f.pos n with h | h | h
      · have h1 : ¬ f.pos = n := by omega
        have h2 : f.pos < n + 1 := by omega
        simp [h, h1, h2] at ih ⊢
        omega
      · simp [h] at ih ⊢
        omega
      · have h1 : ¬ f.pos = n := by omega
        have h2 : ¬ f.pos < n := by omega
        have h3 : ¬ f.pos < n + 1 := by omega
        simpa [h1, h2, h3] using ih

/-- Where no flit is at its destination or past its bound, a cycle leaves as many on the plane as there were. -/
theorem movedOn_length {s : State} {plane : Nat}
    (h : ∀ f ∈ s.flits, f.pos < 18 ∧ f.dst ≠ f.pos ∧ f.age ≤ ageBound s plane) :
    (movedOn s plane).length = (onPlane s plane).length := by
  have hon : ∀ f ∈ onPlane s plane, f.pos < 18 ∧ f.dst ≠ f.pos ∧ f.age ≤ ageBound s plane :=
    fun f hf => h f (List.mem_filter.mp hf).1
  have hrouter (p : Nat) : (routedAt s plane p).1.length = ((onPlane s plane).filter (fun f => f.pos == p)).length := by
    obtain ⟨-, -, -, hlen⟩ := routeFlits_spec p ((flitsAt s plane p).foldr rankIn []) (portsOf p) false []
    refine (hlen (fun g hg => ?_)).trans ?_
    · obtain ⟨hmem, -, rfl, -⟩ := mem_flitsAt.mp ((ranked_perm _).mem_iff.mp hg)
      obtain ⟨-, hd, -⟩ := h g hmem
      exact hd
    · rw [(ranked_perm _).length_eq, List.length_nil, Nat.zero_add, flitsAt]
      congr 1
      refine List.filter_congr (fun f hf => ?_)
      simp [(hon f hf).2.2]
  have hall : (onPlane s plane).filter (fun f => decide (f.pos < 18)) = onPlane s plane :=
    List.filter_eq_self.mpr (fun f hf => by simpa using (hon f hf).1)
  rw [movedOn, List.length_flatten, List.map_map, List.map_map]
  simp only [Function.comp_def, hrouter]
  rw [sum_flits_below, hall]

/-! ### What is counted -/

/-- Nothing is different but deflection and injection counters (R340). -/
structure CountsOnly (s t : State) : Prop where
  frame : { t with towers := s.towers } = s
  towers : ∀ k, { t.tower k with deflcnt := (s.tower k).deflcnt } = s.tower k

theorem CountsOnly.refl (s : State) : CountsOnly s s := ⟨rfl, fun _ => rfl⟩

theorem CountsOnly.trans {s t u : State} (h : CountsOnly s t) (k : CountsOnly t u) : CountsOnly s u where
  frame := (congrArg (fun x : State => { x with towers := s.towers }) k.frame).trans h.frame
  towers j := (congrArg (fun x : Tower => { x with deflcnt := (s.tower j).deflcnt }) (k.towers j)).trans (h.towers j)

theorem CountsOnly.flits {s t : State} (h : CountsOnly s t) : t.flits = s.flits :=
  (show t.flits = ({ t with towers := s.towers } : State).flits from rfl).trans (by rw [h.frame])

theorem CountsOnly.dev {s t : State} (h : CountsOnly s t) : t.dev = s.dev :=
  (show t.dev = ({ t with towers := s.towers } : State).dev from rfl).trans (by rw [h.frame])

theorem CountsOnly.mem {s t : State} (h : CountsOnly s t) : t.mem = s.mem :=
  (show t.mem = ({ t with towers := s.towers } : State).mem from rfl).trans (by rw [h.frame])

theorem CountsOnly.injected {s t : State} (h : CountsOnly s t) (k : Nat) : (t.tower k).injected = (s.tower k).injected :=
  (show (t.tower k).injected = ({ t.tower k with deflcnt := (s.tower k).deflcnt } : Tower).injected from rfl).trans
    (by rw [h.towers k])

theorem countFlit_counts (s : State) (src lo : Nat) : CountsOnly s (s.countFlit src lo) := by
  unfold State.countFlit
  dsimp only
  split
  · refine ⟨rfl, fun k => ?_⟩
    by_cases hk : unitAt src = k
    · subst hk
      rw [tower_setTower]
    · rw [tower_setTower_other hk]
  · exact .refl s

theorem routed_counts (s : State) (plane : Nat) :
    CountsOnly { s with flits := offPlane s plane ++ (movedOn s plane).map (fun e => e.1) } (routed s plane) := by
  refine foldl_rel CountsOnly.refl CountsOnly.trans (fun u e => ?_) _ _
  unfold countDeflection
  split
  · exact countFlit_counts u _ _
  · exact .refl u

theorem routed_flits (s : State) (plane : Nat) :
    (routed s plane).flits = offPlane s plane ++ (movedOn s plane).map (fun e => e.1) := (routed_counts s plane).flits

theorem routed_planeOf (s : State) (plane c : Nat) : (routed s plane).planeOf c = s.planeOf c := by
  unfold State.planeOf
  rw [(routed_counts s plane).dev]

/-- On a plane with no flit on it a cycle routes nothing. -/
theorem routed_empty {s : State} {plane : Nat} (h : ∀ f ∈ s.flits, s.planeOf f.plane ≠ plane) : routed s plane = s := by
  have hm : movedOn s plane = [] := by
    refine List.eq_nil_iff_forall_not_mem.mpr (fun e he => ?_)
    obtain ⟨g, hg, hpl, -⟩ := movedOn_origin he
    exact h g hg hpl
  have ho : offPlane s plane = s.flits := List.filter_eq_self.mpr (fun f hf => by simpa using h f hf)
  simp [routed, hm, ho]

/-! ### What is injected -/

theorem injectAt_nil (s : State) (plane : Nat) (u : State) (p : Nat) : injectAt s plane [] u p = u := rfl

/-- A router with no request before it injects nothing. -/
theorem injectAt_other {s u : State} {plane p : Nat} {r : FlitReq} (h : p ≠ r.src) : injectAt s plane [r] u p = u := by
  have hn : (r.src == p) = false := by simpa using fun e => h e.symm
  simp [injectAt, hn]

/-- The router before which the request stands injects it through the port it may leave by. -/
theorem injectAt_src {s u : State} {plane : Nat} {r : FlitReq} {d : Dir} (hr : r.plane < 4)
    (hpl : u.planeOf r.plane = plane) (hs : r.src < 18) (hd : r.dst < 18)
    (hm : u.mayInject plane (routedAt s plane r.src).2 r = some d) :
    injectAt s plane [r] u r.src = u.inject plane r ((neighbour r.src d).getD r.src) := by
  have hfind : ((List.range 18).map (fun p => (p, routedAt s plane p))).find? (fun x => x.1 == r.src) =
      some (r.src, routedAt s plane r.src) := by
    cases hf : ((List.range 18).map (fun p => (p, routedAt s plane p))).find? (fun x => x.1 == r.src) with
    | none =>
      have := List.find?_eq_none.mp hf _ (List.mem_map.mpr ⟨r.src, List.mem_range.mpr hs, rfl⟩)
      simp at this
    | some x =>
      obtain ⟨p, -, rfl⟩ := List.mem_map.mp (List.mem_of_find?_eq_some hf)
      have : p = r.src := by simpa using List.find?_some hf
      rw [this]
  simp [injectAt, hfind, hr, hpl, hd, hm]

/-- A request that no router may inject leaves the plane as its cycle left it. -/
theorem injects_none {s u : State} {plane : Nat} {r : FlitReq}
    (h : ∀ free, u.mayInject plane free r = none) : (List.range 18).foldl (injectAt s plane [r]) u = u := by
  refine List.foldl_fixed' (fun p => ?_) _
  unfold injectAt
  dsimp only
  split
  · rfl
  · next x hx =>
    have : x = r := by simpa using List.mem_of_find?_eq_some hx
    subst this
    rw [h]

end Sys2Proof.Proofs
end

/-! ## The steps of the fabric (R338–R340, R406) -/
section
namespace Sys2Proof.Proofs

open Sys2Proof.Machine Sys2Proof.Laws

/-- R338: a cycle with no request moves each flit of the plane by one link or keeps it, loses none that is not at its
destination, and touches nothing else but the deflection counters. -/
theorem flitRoute_moves {s : State} {plane : Nat} (hp : plane < 4) (hoff : s.dev.planesOff.getLsbD plane = false)
    (hage : ∀ f ∈ s.flits, s.planeOf f.plane = plane → f.age ≤ ageBound s plane) (hdue : s.planeDue plane = false) :
    ∃ t, exec (.flitRoute plane []) s = .next t ∧ { t with flits := s.flits, towers := s.towers } = s ∧
      (∀ f, s.planeOf f.plane ≠ plane → (f ∈ t.flits ↔ f ∈ s.flits)) ∧
      (∀ f ∈ t.flits, s.planeOf f.plane = plane → ∃ g ∈ s.flits, { f with pos := g.pos, came := g.came } = g ∧ g.pos < 18 ∧
        (f.pos = g.pos ∨ ∃ d, neighbour g.pos d = some f.pos)) ∧
      (∀ g ∈ s.flits, s.planeOf g.plane = plane → g.pos < 18 → g.dst ≠ g.pos →
        ∃ f ∈ t.flits, { f with pos := g.pos, came := g.came } = g) ∧
      ∀ k, { t.tower k with deflcnt := (s.tower k).deflcnt } = s.tower k := by
  have hmem (f : Flit) : f ∈ (routed s plane).flits ↔
      (f ∈ s.flits ∧ s.planeOf f.plane ≠ plane) ∨ ∃ e ∈ movedOn s plane, e.1 = f := by
    simp only [routed_flits, List.mem_append, offPlane, List.mem_filter, bne_iff_ne, List.mem_map]
  refine ⟨routed s plane, ?_, ?_, fun f hf => ?_, fun f hf hpl => ?_, fun g hg hpl hpos hd => ?_, (routed_counts s plane).towers⟩
  · rw [flitRoute_inTime [] hp hoff hdue hage, List.foldl_fixed' (injectAt_nil s plane _)]
  · exact congrArg (fun x : State => { x with flits := s.flits }) (routed_counts s plane).frame
  · rw [hmem]
    refine ⟨fun h => ?_, fun h => .inl ⟨h, hf⟩⟩
    obtain ⟨h, -⟩ | ⟨e, he, rfl⟩ := h
    · exact h
    · obtain ⟨g, -, hpl, -, hge⟩ := movedOn_origin he
      exact absurd (hops_plane hge ▸ hpl) hf
  · obtain ⟨-, h⟩ | ⟨e, he, rfl⟩ := (hmem f).mp hf
    · exact absurd hpl h
    · obtain ⟨g, hg, -, hpos, hge⟩ := movedOn_origin he
      exact ⟨g, hg, hops_frame hge, hpos, hops_pos hge⟩
  · obtain ⟨e, he, hge⟩ := movedOn_keeps hg hpl hpos (hage g hg hpl) hd
    exact ⟨e.1, (hmem e.1).mpr (.inr ⟨e, he, rfl⟩), hops_frame hge⟩

/-! ### Injection (R339, R340) -/

/-- The budget of the window is spent for a plane at the tower of a router (R340). -/
def budgetSpent (s : State) (plane src : Nat) : Prop :=
  let u := unitAt src
  let limit := (s.tower u).injrate.toNat % 256
  u < 12 ∧ limit ≠ 0 ∧ limit ≤ kvGet 0 (s.tower u).injected plane

theorem wbits_low_byte (x : Word) : wbits x 7 0 = x.toNat % 256 := by simp [wbits, bitsOf]

theorem mayInject_spent {s : State} {plane : Nat} {r : FlitReq} (h : budgetSpent s plane r.src) (free : List Dir) :
    s.mayInject plane free r = none := by
  unfold budgetSpent at h
  simp only [← wbits_low_byte] at h
  exact if_pos h

theorem mayInject_full {s : State} {plane : Nat} {r : FlitReq} (h : 512 ≤ (onPlane s plane).length) (free : List Dir) :
    s.mayInject plane free r = none := by
  unfold State.mayInject
  dsimp only
  split
  · rfl
  · exact if_pos h

theorem mayInject_arrived {s : State} {plane : Nat} {r : FlitReq} (h : r.src = r.dst) (free : List Dir) :
    s.mayInject plane free r = none := by
  have hprod : productive r.src r.dst = [] := by simp [productive, h]
  unfold State.mayInject
  dsimp only
  split
  · rfl
  · split
    · rfl
    · rw [hprod, List.find?_nil]

theorem mayInject_first {s : State} {plane : Nat} {r : FlitReq} {d : Dir} {free : List Dir}
    (hb : ¬ budgetSpent s plane r.src) (hroom : (onPlane s plane).length < 512)
    (hd : (productive r.src r.dst).head? = some d) (hfree : d ∈ free) : s.mayInject plane free r = some d := by
  unfold budgetSpent at hb
  simp only [← wbits_low_byte] at hb
  obtain ⟨ds, hds⟩ : ∃ ds, productive r.src r.dst = d :: ds := by
    cases h : productive r.src r.dst with
    | nil => simp [h] at hd
    | cons e ds => exact ⟨ds, by simpa [h] using hd⟩
  refine (if_neg hb).trans ((if_neg (Nat.not_le.mpr hroom)).trans ?_)
  rw [hds, List.find?_cons, List.contains_iff_mem.mpr hfree]

/-- Every port with a router behind it is one of the router's. -/
theorem mem_portsOf {p q : Nat} {d : Dir} (h : neighbour p d = some q) : d ∈ portsOf p :=
  List.mem_filter.mpr ⟨by cases d <;> simp, by rw [h]; rfl⟩

/-- A router with no flit leaves all its ports free. -/
theorem routedAt_empty {s : State} {plane : Nat} (h : ∀ f ∈ s.flits, s.planeOf f.plane ≠ plane) (p : Nat) :
    (routedAt s plane p).2 = portsOf p := by
  have hf : flitsAt s plane p = [] := by
    refine List.eq_nil_iff_forall_not_mem.mpr (fun g hg => ?_)
    obtain ⟨hg, hpl, -⟩ := mem_flitsAt.mp hg
    exact h g hg hpl
  rw [routedAt, hf]
  rfl

/-- A request injected stands at the router its port leads to, at age 0, and counts in its tower's window. -/
theorem inject_effect (s : State) (plane : Nat) (r : FlitReq) (pos : Nat) :
    (s.inject plane r pos).mem = s.mem ∧
    (s.inject plane r pos).flits =
      s.flits ++ [({ plane := r.plane, src := r.src, dst := r.dst, pos := pos, age := 0, req := r.req } : Flit)] ∧
    (unitAt r.src < 12 → kvGet 0 ((s.inject plane r pos).tower (unitAt r.src)).injected plane =
      kvGet 0 (s.tower (unitAt r.src)).injected plane + 1) := by
  let f : Flit := { plane := r.plane, src := r.src, dst := r.dst, pos := pos, age := 0, req := r.req }
  let u : State := { s with flits := s.flits ++ [f] }
  let t := u.tower (unitAt r.src)
  let v : State := if unitAt r.src < 12 then
      u.setTower (unitAt r.src) { t with injected := kvSet t.injected plane (kvGet 0 t.injected plane + 1) }
    else u
  have hv : v.mem = s.mem ∧ v.flits = u.flits := by
    unfold v
    split <;> exact ⟨rfl, rfl⟩
  have hc : CountsOnly v (s.inject plane r pos) := countFlit_counts v r.src 32
  refine ⟨hc.mem.trans hv.1, hc.flits.trans hv.2, fun h => ?_⟩
  have ht : v.tower (unitAt r.src) =
      { t with injected := kvSet t.injected plane (kvGet 0 t.injected plane + 1) } := by
    unfold v
    rw [if_pos h, tower_setTower]
  rw [hc.injected, ht]
  exact kvGet_kvSet_same _ _ _ _

/-- R339, R340: what becomes of a request at a router of an enabled plane: alone on it, it is injected unless the window's
budget is spent; at its destination, or on a plane with 512 flits in flight, it is not. -/
theorem flitRoute_injects {s : State} {plane : Nat} {req : FlitReq} (hp : plane < 4)
    (hoff : s.dev.planesOff.getLsbD plane = false) (hdue : s.planeDue plane = false)
    (hpl : s.planeOf req.plane = plane) (hr : req.plane < 4) (hs : req.src < 18) (hd : req.dst < 18) :
    (∀ d p, (∀ f ∈ s.flits, s.planeOf f.plane ≠ plane) → (productive req.src req.dst).head? = some d →
      neighbour req.src d = some p →
      (budgetSpent s plane req.src → exec (.flitRoute plane [req]) s = .next s) ∧
      (¬budgetSpent s plane req.src → ∃ t, exec (.flitRoute plane [req]) s = .next t ∧ t.mem = s.mem ∧
        t.flits = s.flits ++ [({ plane := req.plane, src := req.src, dst := req.dst, pos := p, age := 0, req := req.req } : Flit)] ∧
        (unitAt req.src < 12 → kvGet 0 (t.tower (unitAt req.src)).injected plane =
          kvGet 0 (s.tower (unitAt req.src)).injected plane + 1))) ∧
    (req.src = req.dst → exec (.flitRoute plane [req]) s = exec (.flitRoute plane []) s) ∧
    (∀ t, (∀ f ∈ s.flits, f.pos < 18 ∧ f.dst ≠ f.pos ∧ f.age ≤ 256) →
      512 ≤ (s.flits.filter (fun f => s.planeOf f.plane == plane)).length →
      exec (.flitRoute plane []) s = .next t → exec (.flitRoute plane [req]) s = .next t) := by
  refine ⟨fun d p hempty hdir hn => ?_, fun he => ?_, fun t hf hfull ht => ?_⟩
  · have hage : ∀ f ∈ s.flits, s.planeOf f.plane = plane → f.age ≤ ageBound s plane := fun f hf h => absurd h (hempty f hf)
    have hrun := flitRoute_inTime [req] hp hoff hdue hage
    rw [routed_empty hempty] at hrun
    refine ⟨fun hb => hrun.trans (by rw [injects_none (mayInject_spent hb)]), fun hb => ?_⟩
    have hon : onPlane s plane = [] := List.filter_eq_nil_iff.mpr (fun f hf => by simpa using hempty f hf)
    have hmay : s.mayInject plane (routedAt s plane req.src).2 req = some d :=
      mayInject_first hb (by simp [hon]) hdir (by rw [routedAt_empty hempty]; exact mem_portsOf hn)
    refine ⟨s.inject plane req p, hrun.trans ?_, inject_effect s plane req p⟩
    rw [foldl_single (List.mem_range.mpr hs) List.nodup_range (fun x _ hx u => injectAt_other hx),
      injectAt_src hr hpl hs hd hmay, hn]
    rfl
  · rw [flitRoute_eq [req] hp hoff hdue, flitRoute_eq [] hp hoff hdue, injects_none (mayInject_arrived he),
      List.foldl_fixed' (injectAt_nil s plane _)]
  · have hage : ∀ f ∈ s.flits, f.age ≤ ageBound s plane := by
      intro f hm
      obtain ⟨-, -, h⟩ := hf f hm
      unfold ageBound
      split <;> omega
    have hmoved : (movedOn s plane).length = (onPlane s plane).length :=
      movedOn_length (fun f hm => ⟨(hf f hm).1, (hf f hm).2.1, hage f hm⟩)
    have hstill : 512 ≤ (onPlane (routed s plane) plane).length := by
      have hall : ((movedOn s plane).map (fun e => e.1)).filter (fun f => s.planeOf f.plane == plane) =
          (movedOn s plane).map (fun e => e.1) := by
        refine List.filter_eq_self.mpr (fun f hm => ?_)
        obtain ⟨e, he, rfl⟩ := List.mem_map.mp hm
        obtain ⟨g, -, hgpl, -, hge⟩ := movedOn_origin he
        simpa [hops_plane hge] using hgpl
      simp only [onPlane, routed_flits, routed_planeOf, List.filter_append, hall, List.length_append, List.length_map]
      rw [hmoved]
      exact Nat.le_add_left_of_le hfull
    rw [flitRoute_inTime [] hp hoff hdue (fun f hm _ => hage f hm), List.foldl_fixed' (injectAt_nil s plane _)] at ht
    rw [flitRoute_inTime [req] hp hoff hdue (fun f hm _ => hage f hm), injects_none (mayInject_full hstill)]
    exact ht

/-! ### Ages, windows, errors and planes (R338, R340, R406) -/

theorem flitAgeStep_effect (s : State) : ∃ t, exec .flitAgeStep s = .next t ∧ t.fabricClock = s.fabricClock + 1 ∧
    { t with fabricClock := s.fabricClock, flits := s.flits } = s ∧
    ((s.fabricClock + 1) % 8 ≠ 0 → t.flits = s.flits) ∧
    ((s.fabricClock + 1) % 8 = 0 → t.flits = s.flits.map (fun (f : Flit) => { f with age := min 1023 (f.age + 1) })) :=
  ⟨_, rfl, rfl, rfl, fun h => if_neg h, fun h => if_pos h⟩

theorem injrateWindow_effect {s : State} (h : s.fabricClock % 64 = 0) : ∃ t, exec .injrateWindow s = .next t ∧
    { t with towers := s.towers } = s ∧ ∀ k, t.tower k = { s.tower k with injected := [] } := by
  refine ⟨_, event_ok ((exec_bind_ok (exec_get s)).trans (exec_bind_ok (exec_need (by simpa using h) s))), rfl, fun k => ?_⟩
  exact kvGet_map (f := fun t : Tower => { t with injected := [] }) rfl s.towers k

theorem requestResend_effect {s : State} {req : FlitReq} {f : Flit} (h : s.flits.find? (fun f => f.carries req) = some f) :
    exec (.requestResend req) s = .next (({ s with
      flits := s.flits.erase f,
      hdrErrors := s.hdrErrors.filter (fun e => decide (s.fabricClock ≤ e.2.2 + 2 ^ 20)) ++
        [(s.planeOf f.plane, (min f.came f.pos, max f.came f.pos), s.fabricClock)] } : State).logError 0x7E (unitAt f.pos) 0
          (BitVec.ofNat 64 req.req)) := by
  refine event_ok ((exec_bind_ok (exec_get s)).trans ?_)
  dsimp only
  rw [h]
  rfl

/-- The plane disabled and posted (R406). -/
def planeDisabled (s : State) (plane : Nat) : State :=
  ({ s with dev := { s.dev with planesOff := s.dev.planesOff ||| (1#4 <<< plane) } } : State).logError 0x6D 16 0
    (BitVec.ofNat 64 plane)

theorem planeFail_idle {s : State} {plane : Nat} (h : s.planeDue plane = false) : exec (.planeFail plane) s = .next s := by
  refine event_stop (e := .idle) ((exec_bind_ok (exec_get s)).trans (exec_bind_error ?_))
  rw [h, Bool.and_false]
  exact exec_need_false s

/-- The first plane to fail is disabled; with a second one every launch is stopped too. -/
theorem planeFail_effect {s : State} {plane : Nat} (hp : plane < 4) (hoff : s.dev.planesOff.getLsbD plane = false)
    (hdue : s.planeDue plane = true) :
    (s.dev.planesOff = 0 → exec (.planeFail plane) s = .next (planeDisabled s plane)) ∧
    (s.dev.planesOff ≠ 0 → ∃ t, exec (.planeFail plane) s = .next t ∧ ∀ e ∈ s.launches, t.launch? e.1 = none) := by
  have hneed : (decide (plane < 4) && !s.dev.planesOff.getLsbD plane && s.planeDue plane) = true := by
    rw [hoff, hdue]
    simpa using hp
  refine ⟨fun h => ?_, fun h => ?_⟩
  · refine event_ok ((exec_bind_ok (exec_get s)).trans ((exec_bind_ok (exec_need hneed s)).trans
      ((exec_bind_ok (t := planeDisabled s plane) rfl).trans ?_)))
    have h2 : (s.dev.planesOff != 0) = false := by simpa using h
    rw [h2]
    rfl
  · obtain ⟨t, ht, hl⟩ := stopAll_answers 0x70 ((planeDisabled s plane).logError 0x70 16 0 (BitVec.ofNat 64 plane))
    refine ⟨t, event_ok ((exec_bind_ok (exec_get s)).trans ((exec_bind_ok (exec_need hneed s)).trans
      ((exec_bind_ok (t := planeDisabled s plane) rfl).trans ?_))), fun e _ => by rw [State.launch?, hl]; rfl⟩
    have h2 : (s.dev.planesOff != 0) = true := by simpa using h
    rw [h2]
    exact (exec_bind_ok rfl).trans ht

end Sys2Proof.Proofs
end

/-! ## Links (R343, R345, R346, R391, R407) and errors of host accesses (R407) -/
section
namespace Sys2Proof.Proofs

open Sys2Proof.Machine Sys2Proof.Laws

/-! ### What a link that goes down leaves -/

/-- The link's bit cleared and its failure posted (R343, R407). -/
def linkLost (s : State) (link : Nat) : State :=
  ({ s with dev := { s.dev with linkstat := s.dev.linkstat &&& ~~~(1#64 <<< link) } } : State).logError 0x61 (16 + link / 8)
    (BitVec.ofNat 64 link) 0

/-- Commands stopped, and nothing in flight over the link any more (R346, R391). -/
def linkDropped (s : State) (link : Nat) : State :=
  (s.hitCmds link).dropSent (s.sent.filter (fun w => w.tgt == link))

/-- Does a load or a store of the agent wait over the link? -/
def waitsOver (s : State) (link : Nat) (b : Agent) : Bool := (s.linkLoad b link).isSome || (s.linkStore b link).isSome

/-- Is the named access of an agent one over the link? -/
def hitsOver (s : State) (link : Nat) (h : LinkHit) : Bool :=
  (s.agent? h.ag).any (fun a => (s.bridgeOf a h.va).any (fun e => e.1 == link))

/-- The agents whose loads or stores the link's loss ends. -/
def waitersOver (s : State) (link : Nat) : List Nat := (s.agents.filter (waitsOver s link)).map (fun a => a.id)

/-- The named accesses that it ends. -/
def accessesOver (s : State) (link : Nat) (hit : List LinkHit) : List LinkHit :=
  hit.filter (fun h => hitsOver s link h && !(waitersOver s link).contains h.ag)

/-- What a link that goes down does, in order: the waiting loads and stores end, commands stop, what was sent is dropped, the
named accesses end, and the link's bit is cleared. -/
theorem linkDown_eq {s : State} {link : Nat} (hit : List LinkHit) (hl : link < 16) (hup : s.dev.linkstat.getLsbD link = true) :
    exec (.linkDown link hit) s = .next (linkLost ((accessesOver s link hit).foldl (fun s h => s.endAccess h link)
      (linkDropped ((waitersOver s link).foldl (fun s id => s.endOver id link) s) link)) link) := by
  have hneed : (decide (link < 16) && s.dev.linkstat.getLsbD link) = true := by
    rw [hup]
    simpa using hl
  exact event_ok ((exec_bind_ok (exec_get s)).trans ((exec_bind_ok (exec_need hneed s)).trans rfl))

theorem linkDropped_sent (s : State) (link : Nat) (x : Sent) : x ∈ (linkDropped s link).sent ↔ x ∈ s.sent ∧ ¬ x.tgt = link := by
  refine (mem_dropSent _ _ x).trans ?_
  simp only [List.mem_filter, beq_iff_eq, not_and]
  exact ⟨fun ⟨h, k⟩ => ⟨h, k h⟩, fun ⟨h, k⟩ => ⟨h, fun _ => k⟩⟩

theorem endAccess_sent (s : State) (h : LinkHit) (link : Nat) : (s.endAccess h link).sent = s.sent := by
  unfold State.endAccess
  split
  · rfl
  · split
    · exact putAgent_sent _ _
    · rfl

theorem foldl_endAccess_sent (hs : List LinkHit) (link : Nat) (s : State) :
    (hs.foldl (fun s h => s.endAccess h link) s).sent = s.sent :=
  foldl_frame State.sent (f := fun s h => s.endAccess h link) (fun s h => endAccess_sent s h link) hs s

/-- Of what was sent over the link nothing is acknowledged any more. -/
theorem linkDown_sent {s : State} {link : Nat} (hit : List LinkHit) (hl : link < 16)
    (hup : s.dev.linkstat.getLsbD link = true) :
    ∃ t, exec (.linkDown link hit) s = .next t ∧ ∀ x ∈ t.sent, x.tgt ≠ link := by
  refine ⟨_, linkDown_eq hit hl hup, fun x hx => ?_⟩
  rw [linkLost, logError_sent] at hx
  have hx' : x ∈ (linkDropped ((waitersOver s link).foldl (fun s id => s.endOver id link) s) link).sent := by
    rw [← foldl_endAccess_sent]
    exact hx
  exact ((linkDropped_sent _ link x).mp hx').2

/-- Nothing waiting over the link, the loss ends the named accesses alone. -/
theorem linkDown_noWaiter {s : State} {link : Nat} {hit : List LinkHit} (hl : link < 16)
    (hup : s.dev.linkstat.getLsbD link = true) (h : ∀ b ∈ s.agents, waitsOver s link b = false) :
    exec (.linkDown link hit) s = .next (linkLost ((hit.filter (hitsOver s link)).foldl (fun s h => s.endAccess h link)
      (linkDropped s link)) link) := by
  have hw : waitersOver s link = [] := by
    rw [waitersOver, List.filter_eq_nil_iff.mpr (fun b hb => by simp [h b hb])]
    rfl
  have ha : accessesOver s link hit = hit.filter (hitsOver s link) := by simp [accessesOver, hw]
  rw [linkDown_eq hit hl hup, hw, ha]
  rfl

/-- One agent waiting over the link, the loss ends its load or its store. -/
theorem linkDown_waiter {s : State} {link : Nat} {b : Agent} (hl : link < 16) (hup : s.dev.linkstat.getLsbD link = true)
    (h : s.agents.filter (waitsOver s link) = [b]) :
    exec (.linkDown link []) s = .next (linkLost (linkDropped (s.endOver b.id link) link) link) := by
  have hw : waitersOver s link = [b.id] := by rw [waitersOver, h]; rfl
  rw [linkDown_eq [] hl hup, hw]
  rfl

/-- What is dropped with a link is acknowledged no more, and nothing else is different (R345, R346). -/
theorem linkDropped_acknowledged (s : State) (link : Nat) :
    acknowledged (s.hitCmds link) (linkDropped s link) (fun x => x.tgt = link) := by
  refine ⟨rfl, linkDropped_sent s link, fun id b hb => ⟨b.stillSent (linkDropped s link).sent, ?_, rfl, fun x => ?_⟩⟩
  · exact (dropSent_agent? _ _ id).trans (by rw [hb]; rfl)
  · simp only [Agent.stillSent, List.mem_filter, List.any_eq_true, Bool.and_eq_true, beq_iff_eq, and_assoc]

/-- The named access of an agent whose next instruction makes it ends with its trap (R346, R391). -/
theorem endAccess_eq {s : State} {h : LinkHit} {link : Nat} {a : Agent} (ha : s.agent? h.ag = some a)
    (hacc : (s.focus h.ag).accesses h.va = true) : s.endAccess h link =
      s.putAgent { a with linkHit := some (a.pc, h.va, BitVec.ofNat 64 (link + if h.doubt then 256 else 0)) } := by
  unfold State.endAccess
  rw [ha]
  exact if_pos hacc

/-- An agent that waits over the link loses its load or its store, of both the one issued first (R346). -/
theorem endOver_cases {s : State} {b : Agent} (link : Nat) (hb : s.agent? b.id = some b) :
    (∀ x, s.linkLoad b link = some x → s.linkStore b link = none → s.endOver b.id link = s.endLoad b.id link x) ∧
    (∀ x, s.linkLoad b link = none → s.linkStore b link = some x → s.endOver b.id link = s.endStore b.id link x) ∧
    (∀ x y, s.linkLoad b link = some x → s.linkStore b link = some y → s.endOver b.id link =
      if x.2.1.issued ≤ y.2.snap.issued then s.endLoad b.id link x else s.endStore b.id link y) := by
  unfold State.endOver
  rw [hb]
  refine ⟨fun x hx hy => ?_, fun x hx hy => ?_, fun x y hx hy => ?_⟩
  all_goals simp only [hx, hy]

/-! ### Commands over a link (R391) -/

/-- Is a write in flight over the link one of the command's, or of a core that runs its sweep? -/
def ofCmd (s : State) (link : Nat) (c : Cmd) (x : Sent) : Prop := x ∈ s.sent ∧ x.tgt = link ∧
  (x.agent = cmdAgent c.id ∨ 8192 ≤ x.agent ∧ (s.core (x.agent - 8192)).sweep = some c.id)

/-- The command's writes in flight over the link. -/
def cmdWrites (s : State) (link : Nat) (c : Cmd) : List Sent :=
  s.sent.filter (fun w => w.tgt == link && (w.agent == cmdAgent c.id ||
    (decide (8192 ≤ w.agent) && (s.core (w.agent - 8192)).sweep == some c.id)))

theorem mem_cmdWrites {s : State} {link : Nat} {c : Cmd} {x : Sent} : x ∈ cmdWrites s link c ↔ ofCmd s link c x := by
  simp only [cmdWrites, ofCmd, List.mem_filter, Bool.and_eq_true, Bool.or_eq_true, beq_iff_eq, decide_eq_true_eq]

/-- The command stopped at the lowest address of a list, if there is one. -/
def hitAt (c : Cmd) : List Nat → Cmd
  | [] => c
  | v :: vs => { c with hit := some (0x61, vs.foldl min v) }

theorem hitCmds_eq (s : State) (link : Nat) :
    s.hitCmds link = { s with cmds := s.cmds.map (fun c => hitAt c ((cmdWrites s link c).map (fun w => w.va))) } := rfl

/-- R391: a command with writes in flight over the link stops at the lowest of their addresses, and another is as it was. -/
theorem hitCmds_getElem? {s : State} {link i : Nat} {c : Cmd} (h : s.cmds[i]? = some c) :
    ((∀ x, ¬ofCmd s link c x) → (s.hitCmds link).cmds[i]? = some c) ∧
    (∀ x, ofCmd s link c x → (∀ y, ofCmd s link c y → x.va ≤ y.va) →
      (s.hitCmds link).cmds[i]? = some { c with hit := some (0x61, x.va) }) := by
  have hget : (s.hitCmds link).cmds[i]? = some (hitAt c ((cmdWrites s link c).map (fun w => w.va))) := by
    rw [hitCmds_eq]
    simp [h]
  rw [hget]
  refine ⟨fun hnone => ?_, fun x hx hle => ?_⟩
  · rw [List.eq_nil_iff_forall_not_mem.mpr (fun x hx => hnone x (mem_cmdWrites.mp hx))]
    rfl
  · have hva : x.va ∈ (cmdWrites s link c).map (fun w => w.va) := List.mem_map.mpr ⟨x, mem_cmdWrites.mpr hx, rfl⟩
    cases hvs : (cmdWrites s link c).map (fun w => w.va) with
    | nil =>
      rw [hvs] at hva
      exact absurd hva List.not_mem_nil
    | cons v vs =>
      rw [hvs] at hva
      obtain ⟨hmem, hmin⟩ := List.min?_eq_some_iff.mp (List.min?_cons' (x := v) (xs := vs))
      rw [← hvs] at hmem
      obtain ⟨y, hy, hyva⟩ := List.mem_map.mp hmem
      have heq : vs.foldl min v = x.va := Nat.le_antisymm (hmin _ hva) (hyva ▸ hle y (mem_cmdWrites.mp hy))
      rw [hitAt, heq]

/-! ### Loads and stores that a link's loss ends (R346, R358) -/

theorem wbits_low_eleven (x : Word) : wbits x 10 0 = x.toNat % 2048 := by simp [wbits, bitsOf]

/-- A trap at once is settled as the trap after what was done before it. -/
theorem settle_throw (i : Instr) {x : Exec Unit} {s t : State} {e : Stop} (h : x s = .error e t) :
    settle i x s = settle i (throw e) t := by
  unfold settle
  rw [h]
  rfl

/-- The trap of an access that the loss of its link ended. -/
def linkTrap (at_ val2 : Word) (stream : Nat) (vec : Bool) : Trap :=
  { cause := 0x61, val := some at_, val2 := val2, strm := streamCode stream, late := true, hops := 0,
    hnd := if 4 ≤ stream ∧ stream < 12 then stream - 4 else 0, vec := vec }

/-- Agent `ag` back at its store `u`, at element `j`, with the older stores still in flight (R346). -/
def backAtStore (s : State) (ag i : Nat) (u : Unacked) (j : Nat) : State :=
  { s.focus ag with cur := { (s.focus ag).cur.rollBack u.snap j [] with unacked := (s.focus ag).cur.unacked.take i } }

/-- Is the instruction a vector one? -/
def isVector (i : Instr) : Bool := decide (0x1A ≤ (wordOf i).toNat / 2 ^ 26 ∧ (wordOf i).toNat / 2 ^ 26 ≤ 0x26)

/-- A store in flight over the link ends in doubt, its agent back at it (R346). -/
theorem endStore_eq {s : State} {ag link i k : Nat} {u : Unacked} {at_ : Word}
    (h : (backAtStore s ag i u (u.snap.regs.vstart.toNat % 2048)).lostAt link u = (k, at_)) :
    s.endStore ag link (i, u) =
      (settle u.instr (throw (.trap (linkTrap at_ (BitVec.ofNat 64 (link + 256)) u.snap.stream (isVector u.instr))))
        (backAtStore s ag i u (if isVector u.instr then k else u.snap.regs.vstart.toNat % 2048))).focus s.cur.id := by
  rw [← wbits_low_eleven] at h ⊢
  unfold State.endStore
  unfold backAtStore at h ⊢
  dsimp only at h ⊢
  rw [h]
  rfl

/-- An instruction with a scalar access alone has lost it at its address. -/
theorem lostAt_scalar {s : State} {link : Nat} {u : Unacked} {x : Word} (hv : s.vecAccess u.instr = none)
    (hs : s.scalarAccess u.instr = some x) : s.lostAt link u = (0, x) := by
  simp only [State.lostAt, hv, hs, Option.getD_some]

/-- A load of the queue over the link ends from its element on (R346). -/
theorem endLoad_eq (s : State) (ag link i : Nat) (cp : Checkpoint) (e : Awaited) :
    s.endLoad ag link (i, cp, e) =
      (settle (.hint 0) (throw (.trap (linkTrap (BitVec.ofNat 64 e.va) (BitVec.ofNat 64 link) cp.stream true)))
        { s.focus ag with cur := (s.focus ag).cur.rollBack cp e.elem ((s.focus ag).cur.vqueue.take i) }).focus s.cur.id := by
  refine congrArg (fun x : State => x.focus s.cur.id) (settle_throw (.hint 0) ?_)
  rfl

theorem linkUp_effect {s : State} {link : Nat} (hl : link < 16) : ∃ t, exec (.linkUp link) s = .next t ∧
    t = { s with dev := { s.dev with linkstat := s.dev.linkstat ||| (1#64 <<< link) } } ∧
    t.dev.linkstat.getLsbD link = true := by
  refine ⟨_, event_ok (exec_bind_ok (exec_need (by simpa using hl) s)), rfl, ?_⟩
  have h64 : link < 64 := by omega
  simp [h64]

end Sys2Proof.Proofs
end

/-! ## Errors of host accesses (R407), and the fabric and its links as a whole -/
section
namespace Sys2Proof.Proofs

open Sys2Proof.Machine Sys2Proof.Laws

/-- May the error end an access to the target: a peer's marked line at a peer, else one of the host, or of poisoned data at either
(R345, R407)? -/
def errorReaches (kind : HostError) (t : Nat) : Prop :=
  if kind = .marked then t < 16 else (t = 0x10 ∨ t = 0x11 ∨ kind = .poisoned)

theorem errorReaches_fits {s : State} {kind : HostError} {t loc : Nat} {at_ : Nat} (hk : kind ≠ .releaseUnacked)
    (h : errorReaches kind t) :
    (if kind = .marked then decide (t < 16) else s.errorFits (hostCause kind) { loc := loc, cls := .bridge t at_ }) = true := by
  unfold errorReaches at h
  cases kind with
  | marked => simpa using h
  | releaseUnacked => exact absurd rfl hk
  | poisoned => simp [hostCause, State.errorFits]
  | missing => simpa [hostCause, State.errorFits] using h
  | unsupported => simpa [hostCause, State.errorFits] using h
  | aborted => simpa [hostCause, State.errorFits] using h

/-- A host access that fails is an error that the next read of its place meets (R407). -/
theorem hostTimeout_access {s : State} {ag va t at_ loc : Nat} {kind : HostError} {a : Agent} (ha : s.agent? ag = some a)
    (hk : kind ≠ .releaseUnacked)
    (htr : translate s { id := a.id, kind := a.kind, asid := a.asid, user := a.user } .probe (BitVec.ofNat 64 va) =
      .ok { loc := loc, cls := .bridge t at_ }) (h : errorReaches kind t) :
    exec (.hostTimeout ag va kind) s = .next (s.addLatent {
      unit := errorUnit loc, cause := hostCause kind, val2 := if kind = .marked then BitVec.ofNat 64 at_ else 0 }) := by
  have htr' : translate s { id := a.id, kind := a.kind, asid := a.asid, user := a.user } .probe (nw va) =
    .ok { loc := loc, cls := .bridge t at_ } := htr
  refine event_ok ((exec_bind_ok (exec_get s)).trans ?_)
  dsimp only
  rw [ha]
  dsimp only
  rw [if_neg hk, htr']
  exact exec_bind_ok (exec_need (errorReaches_fits hk h) s)

/-- A release at .sys whose writes stay unacknowledged traps (R407). -/
theorem hostTimeout_release {s : State} {ag va : Nat} {a : Agent} (ha : s.agent? ag = some a) (hr : a.status = .running)
    (hs : ∃ x ∈ s.sent, x.agent = ag) (hu : (s.focus ag).upcoming.bind releaseScope = some 3) :
    exec (.hostTimeout ag va .releaseUnacked) s =
      .next ((settle (s.focus ag).nextInstr (trap 0x6F) (s.focus ag)).focus s.cur.id) := by
  have hneed : (a.status == .running && (s.focus ag).upcoming.bind releaseScope == some 3 &&
      s.sent.any (fun w => w.agent == ag)) = true := by
    rw [hr, hu]
    simpa using hs
  refine event_ok ((exec_bind_ok (exec_get s)).trans ?_)
  dsimp only
  rw [ha]
  exact exec_bind_ok (exec_need hneed s)

/-- The read that meets an error ends in its late trap, and the error is found (R402, R407). -/
theorem checkPoison_found {s : State} {e : Latent} {loc : Nat} (st hops : Nat) (va : Word)
    (h : s.latent.find? (fun x => x.unit == errorUnit loc) = some e) :
    checkPoison st va loc hops s = .error (lateStop e.cause (loc / 64) va e.val2 st hops) (s.foundError e) := by
  refine (exec_bind_ok (exec_get s)).trans ?_
  rw [h]
  rfl

/-- Settles O51: the fabric by the lemmas about its cycle and about a plane that fails, a link's loss by what waits over it, errors
of the host by the access or the release they end. -/
theorem fabricAndLinks : Obligations.FabricAndLinks := by
  unfold Obligations.FabricAndLinks
  refine ⟨fun s plane req => ?fabric, fun s link ag va hit kind a => ?links⟩
  case fabric =>
    exact ⟨flitRoute_moves, flitRoute_injects, flitAgeStep_effect s, injrateWindow_effect,
      fun _ => requestResend_effect, planeFail_idle, planeFail_effect⟩
  case links =>
    refine ⟨fun hl hup => ?down, fun u i k at_ _ => ⟨?endStore, ?lost⟩, fun c cp e i _ _ _ => endLoad_eq s ag link i cp e,
      linkUp_effect, fun ha hr => ⟨fun t at_ loc hk htr h => ?access, fun hs hu => hostTimeout_release ha hr hs hu⟩,
      fun e st loc hops at_ h => checkPoison_found st hops at_ h⟩
    case down =>
      refine ⟨fun hw => ?quiet, fun b hb hb' hhit => ?waiter, linkDown_sent hit hl hup,
        linkDropped_acknowledged s link, rfl, ?length, fun i c h => hitCmds_getElem? h⟩
      case quiet =>
        refine ⟨fun hnone => ?_, fun h b hhit hh hb hacc => ?_⟩
        · have : hit.filter (hitsOver s link) = [] :=
            List.filter_eq_nil_iff.mpr (fun h hm => by simpa [hitsOver] using List.all_eq_true.mp hnone h hm)
          rw [linkDown_noWaiter hl hup hw, this]
          rfl
        · subst hhit
          have : [h].filter (hitsOver s link) = [h] := List.filter_eq_self.mpr (by simpa [hitsOver] using hh)
          rw [linkDown_noWaiter hl hup hw, this]
          exact congrArg (fun r => Host.Outcome.next (linkLost r link)) (endAccess_eq hb hacc)
      case waiter =>
        subst hhit
        obtain ⟨hload, hstore, hboth⟩ := endOver_cases link hb'
        refine ⟨fun x hx hy => ?_, fun x hx hy => ?_, fun x y hx hy => ?_⟩
        · rw [linkDown_waiter hl hup hb, hload x hx hy]
          rfl
        · rw [linkDown_waiter hl hup hb, hstore x hx hy]
          rfl
        · rw [linkDown_waiter hl hup hb, hboth x y hx hy]
          rfl
      case length => exact List.length_map _
    case endStore => exact fun h => endStore_eq h
    case lost => exact fun x hv hs => lostAt_scalar hv hs
    case access => cases kind <;> exact hostTimeout_access ha hk htr h

end Sys2Proof.Proofs
end

/-! ## Vector pipes (R24–R28, R41, R330): what a pipe whose burst still runs leaves alone -/
section
namespace Sys2Proof.Proofs

open Sys2Proof.Machine Sys2Proof.Laws

/-- No two of the agents beside the current one have one identity. -/
def distinctOthers (s : State) : Prop := (s.others.map Agent.id).Nodup

/-- An agent put in place of the one of its identity keeps, of what all agents are, whatever it has in common with that one. -/
theorem putAgent_agents_map {β : Type} (F : Agent → β) {s : State} {a b : Agent} (hs : distinctOthers s)
    (ha : s.agent? b.id = some a) (hF : F b = F a) : (s.putAgent b).agents.map F = s.agents.map F := by
  unfold State.agent? at ha
  unfold State.putAgent
  by_cases hc : s.cur.id = b.id
  · rw [if_pos hc] at ha ⊢
    obtain rfl := Option.some.inj ha
    simp [State.agents, hF]
  · rw [if_neg hc] at ha ⊢
    have hid : a.id = b.id := by simpa using List.find?_some ha
    have hmem : a ∈ s.others := List.mem_of_find?_eq_some ha
    have hsame : ∀ x ∈ s.others, F (if x.id = b.id then b else x) = F x := by
      intro x hx
      split
      · rename_i hxb
        rw [hF, List.inj_on_of_nodup_map hs hx hmem (hxb.trans hid.symm)]
      · rfl
    rw [if_pos (List.any_eq_true.mpr ⟨a, hmem, by simpa using hid⟩)]
    simpa [State.agents] using hsame

theorem agent?_id {s : State} {id : Nat} {a : Agent} (h : s.agent? id = some a) : a.id = id := by
  unfold State.agent? at h
  split at h
  · rename_i hc
    exact Option.some.inj h ▸ hc
  · simpa using List.find?_some h

/-- An agent's identity and the beats that the instructions of its queue have issued. -/
def issuedBeats (b : Agent) : Nat × List Nat := (b.id, b.vqueue.map VToken.issued)

/-- Identities stay distinct where every agent keeps its own. -/
theorem distinctOthers_of_issuedBeats {s t : State} (hs : distinctOthers s)
    (h : t.agents.map issuedBeats = s.agents.map issuedBeats) : distinctOthers t := by
  have hids : t.agents.map Agent.id = s.agents.map Agent.id := by
    simpa [List.map_map, Function.comp_def, issuedBeats] using congrArg (List.map Prod.fst) h
  exact (congrArg List.Nodup (List.cons.inj hids).2).mpr hs

/-- A change of an instruction that issues no beat of it leaves what every agent has issued. -/
theorem setToken_issuedBeats {s : State} (ag slot : Nat) {f : VToken → VToken} (hs : distinctOthers s)
    (hf : ∀ t, (f t).issued = t.issued) : (s.setToken ag slot f).agents.map issuedBeats = s.agents.map issuedBeats := by
  unfold State.setToken
  split
  · rfl
  · rename_i a ha
    have hq : (a.vqueue.modify slot f).map VToken.issued = a.vqueue.map VToken.issued := by
      refine List.ext_getElem (by simp) (fun i _ _ => ?_)
      simp only [List.getElem_map, List.getElem_modify]
      split
      · exact hf _
      · rfl
    obtain rfl := agent?_id ha
    exact putAgent_agents_map issuedBeats (a := a) hs ha (Prod.ext rfl hq)

/-- The heads of a pipe noted, each with the clock since which it has been ready (R41). -/
def notedHeads (s : State) (core : Nat) (hs : List Head) : State :=
  hs.foldl (fun s h => s.setToken (queueAgent core h.q) h.slot (fun t => { t with since := some h.since })) s

theorem notedHeads_issuedBeats (core : Nat) (hs : List Head) : ∀ {s : State}, distinctOthers s →
    (notedHeads s core hs).agents.map issuedBeats = s.agents.map issuedBeats := by
  induction hs with
  | nil => exact fun _ => rfl
  | cons h hs ih =>
    intro s hd
    have hstep := setToken_issuedBeats (queueAgent core h.q) h.slot (f := fun t => { t with since := some h.since }) hd
      (fun _ => rfl)
    exact (ih (distinctOthers_of_issuedBeats hd hstep)).trans hstep

theorem setToken_frame (s : State) (ag slot : Nat) (f : VToken → VToken) :
    ∃ c os, s.setToken ag slot f = { s with cur := c, others := os } := by
  unfold State.setToken
  split
  · exact ⟨_, _, rfl⟩
  · exact putAgent_frame _ _

theorem notedHeads_clock (s : State) (core : Nat) (hs : List Head) : (notedHeads s core hs).clock = s.clock := by
  refine foldl_frame State.clock (fun s h => ?_) hs s
  obtain ⟨c, os, h⟩ := setToken_frame s (queueAgent core h.q) h.slot (fun t => { t with since := some h.since })
  rw [h]

theorem notedHeads_cores (s : State) (core : Nat) (hs : List Head) : (notedHeads s core hs).cores = s.cores := by
  refine foldl_frame State.cores (fun s h => ?_) hs s
  obtain ⟨c, os, h⟩ := setToken_frame s (queueAgent core h.q) h.slot (fun t => { t with since := some h.since })
  rw [h]

/-- While a pipe's burst runs, a grant notes the heads that wait for it and does nothing else (R41, R330). -/
theorem grantPipe_busy {s : State} {core pipe : Nat} (h : s.clock < kvGet 0 (s.core core).busy pipe) :
    s.grantPipe core pipe = notedHeads s core (s.heads core pipe) := by
  have h' : (notedHeads s core (s.heads core pipe)).clock <
      kvGet 0 ((notedHeads s core (s.heads core pipe)).core core).busy pipe := by
    rw [notedHeads_clock, State.core, notedHeads_cores]
    exact h
  exact if_pos h'

/-- Where identities are distinct, a grant issues nothing while the pipe's burst runs (R330). -/
theorem grantPipe_busy_issued {s : State} {core pipe : Nat} (hs : distinctOthers s)
    (h : s.clock < kvGet 0 (s.core core).busy pipe) :
    (s.grantPipe core pipe).agents.map (fun b => b.vqueue.map VToken.issued) =
      s.agents.map (fun b => b.vqueue.map VToken.issued) := by
  rw [grantPipe_busy h]
  simpa [List.map_map, Function.comp_def, issuedBeats] using
    congrArg (List.map Prod.snd) (notedHeads_issuedBeats core (s.heads core pipe) hs)

/-! ### A state in which two agents have one identity -/

/-- Agent 1 at the turn, and two agents of identity 0: one with an FMA instruction of two beats, of which one has issued, and one
with an empty queue. FMA-A of core 0 is in a burst until clock 1. The type of states does not exclude it. -/
def twins : State :=
  { State.reset with
    cur := Agent.fresh 1 .thread
    others := [{ Agent.fresh 0 .thread with vqueue := [{ pipe := 0, beats := 2, issued := 1, written := 1 }] }, Agent.fresh 0 .thread]
    cores := [(0, { Core.fresh with busy := [(0, 1)] })] }

theorem twins_not_distinct : ¬ distinctOthers twins := by
  unfold distinctOthers
  decide

theorem twins_busy : twins.clock < kvGet 0 (twins.core 0).busy 0 := by decide

theorem twins_issued : twins.agents.map (fun b => b.vqueue.map (fun t => t.issued)) = [[], [1], []] := rfl

/-- Noting since when the head of agent 0 has been ready puts the first agent of that identity in the place of both. -/
theorem twins_grantPipe_issued :
    (twins.grantPipe 0 0).agents.map (fun b => b.vqueue.map (fun t => t.issued)) = [[], [1], [1]] := rfl

/-- Refutes O48: in `twins` the pipe is in a burst, and yet a grant changes what an agent's queue has issued: the second agent of
identity 0 gets the queue of the first. The statement is about every state and does not ask that identities be distinct, as
`grantPipe_busy_issued` does. -/
theorem not_vectorPipes : ¬ Obligations.VectorPipes := by
  unfold Obligations.VectorPipes
  intro h
  obtain ⟨-, hpipes, -⟩ := h twins 0 0 (Agent.fresh 0 .thread)
  obtain ⟨-, -, hbusy, -⟩ := hpipes 0
  obtain ⟨-, hissued⟩ := hbusy twins_busy
  rw [twins_grantPipe_issued, twins_issued] at hissued
  exact absurd hissued (by decide)

end Sys2Proof.Proofs
end

/-! # Instruction words (spec/04_formats_opcode_map.md): decoding and encoding, fetching, a step

## The fields of a word (R68, R69) -/
section
namespace Sys2Proof.Proofs

open Sys2Proof.Machine Sys2Proof.Laws

/-- Two words hold the same in each of the adjacent fields of the given widths, from below bit `hi` down. -/
def SameFields (x y : IWord) : Nat → List Nat → Prop
  | _, [] => True
  | hi, n :: ns => bits x (hi - n) n = bits y (hi - n) n ∧ SameFields x y (hi - n) ns

theorem SameFields.refl (w : IWord) (ns : List Nat) (hi : Nat) : SameFields w w hi ns := by
  induction ns generalizing hi with
  | nil => trivial
  | cons n ns ih => exact ⟨rfl, ih _⟩

theorem getLsbD_bits (w : IWord) (lo len k : Nat) : (bits w lo len).getLsbD k = (decide (k < len) && w.getLsbD (lo + k)) := by
  simp [bits, BitVec.getLsbD_extractLsb']

/-- Words that hold the same in adjacent fields hold the same in every bit of them. -/
theorem SameFields.getLsbD_eq {x y : IWord} {ns : List Nat} {hi k : Nat} (h : SameFields x y hi ns) (hk : k < hi)
    (hn : hi ≤ k + ns.sum) : x.getLsbD k = y.getLsbD k := by
  induction ns generalizing hi with
  | nil => simp at hn; omega
  | cons n ns ih =>
    obtain ⟨hf, hs⟩ := h
    rw [List.sum_cons] at hn
    by_cases hlo : hi - n ≤ k
    · have hb := congrArg (fun b => b.getLsbD (k - (hi - n))) hf
      have : k - (hi - n) < n := by omega
      simpa only [getLsbD_bits, this, decide_true, Bool.true_and, Nat.add_sub_cancel' hlo] using hb
    · exact ih hs (by omega) (by omega)

/-- Words that hold the same in every field of a layout are the same word. -/
theorem SameFields.eq {x y : IWord} {ns : List Nat} (hn : ns.sum = 32) (h : SameFields x y 32 ns) : x = y :=
  BitVec.eq_of_getLsbD_eq fun k hk => h.getLsbD_eq hk (by omega)

/-! What a field holds of a word built of placed fields. -/

theorem bits_or_put_same {lo n : Nat} {v : BitVec n} {x : IWord} (h : lo + n ≤ 32) :
    bits (x ||| put lo v) lo n = bits x lo n ||| v := by
  rw [bits_or, bits_put_same lo v h]

theorem bits_or_put_other {lo' n : Nat} {v : BitVec n} {x : IWord} {lo len : Nat} (h : lo' + n ≤ lo ∨ lo + len ≤ lo') :
    bits (x ||| put lo' v) lo len = bits x lo len := by
  rw [bits_or, bits_put_other lo lo' len v h]
  exact BitVec.or_zero

theorem bits_or_put_above {lo' n : Nat} {v : BitVec n} {x : IWord} {lo len : Nat} (h : lo + len ≤ lo') :
    bits (x ||| put lo' v) lo len = bits x lo len :=
  bits_or_put_other (.inr h)

theorem bits_or_put_below {lo' n : Nat} {v : BitVec n} {x : IWord} {lo len : Nat} (h : lo' + n ≤ lo) :
    bits (x ||| put lo' v) lo len = bits x lo len :=
  bits_or_put_other (.inl h)

@[simp] theorem bit_eq_iff {w : IWord} {k : Nat} {c : Bool} : bit w k = c ↔ bits w k 1 = BitVec.ofBool c := by
  unfold bit
  generalize bits w k 1 = x
  revert x c
  decide

theorem ofBool_bit (w : IWord) (k : Nat) : BitVec.ofBool (bit w k) = bits w k 1 := (bit_eq_iff.mp rfl).symm

end Sys2Proof.Proofs
end

/-! ## Decoding and encoding (R68–R79) -/
section
namespace Sys2Proof.Proofs

open Sys2Proof.Machine Sys2Proof.Laws

/-- The layout of an instruction's word: the widths of its fields from bit 31 down, selectors and reserved fields among them
(R68, R69). -/
def fieldWidths : Instr → List Nat
  | .add .. | .sub .. | .and .. | .or .. | .xor .. | .sll .. | .srl .. | .sra .. | .slt .. | .sltu .. | .mul .. | .mulh ..
  | .div .. | .divu .. | .rem .. | .remu .. | .sel .. | .peq .. => [6, 5, 5, 5, 11]
  | .addi .. | .andi .. | .ori .. | .xori .. | .slti .. | .sltiu .. | .lui .. | .lsi .. | .beq .. | .bne .. | .blt ..
  | .bge .. | .jalr .. | .jr .. | .bpany .. | .bpall .. | .loopv .. | .mldtA .. | .mldtB .. | .mldtffA ..
  | .mldtffB .. => [6, 5, 5, 16]
  | .slli .. | .srli .. | .srai .. => [6, 5, 5, 10, 6]
  | .fadd .. | .fsub .. | .fmul .. | .fmadd .. | .flt .. => [6, 5, 5, 5, 4, 2, 2, 3]
  | .fcvt .. => [6, 5, 5, 1, 4, 4, 2, 2, 3]
  | .jal .. => [6, 5, 21]
  | .ldb .. | .ldh .. | .ldw .. | .ldd .. | .ldbs .. | .ldhs .. | .ldws .. | .stb .. | .sth .. | .stw .. | .std .. | .ldp ..
  | .ldpHeal .. => [6, 5, 5, 13, 3]
  | .amoswap .. | .amoadd .. | .amoand .. | .amoor .. | .amoxor .. | .amomin .. | .amomax .. | .amocas .. | .ticket ..
  | .waita .. => [6, 5, 5, 5, 1, 1, 2, 1, 6]
  | .fence .. | .barrier .. => [6, 5, 2, 8, 1, 1, 2, 7]
  | .vsetvli .. | .vretag .. => [6, 5, 5, 3, 4, 2, 2, 5]
  | .vsetvl .. => [6, 5, 5, 3, 5, 1, 2, 5]
  | .vsave .. | .vrestore .. | .vspill .. => [6, 5, 5, 3, 4, 1, 1, 2, 5]
  | .vadd .. | .vsub .. | .vqadd .. | .vqsub .. | .vmul .. | .vmulh .. | .vmacc .. | .vand .. | .vor .. | .vxor .. | .vsll ..
  | .vsrl .. | .vsra .. | .vmin .. | .vmax .. | .vcmpeq .. | .vcmpne .. | .vcmplt .. | .vcmple .. | .vpand .. | .vpor ..
  | .vpxor .. | .vpandn .. => [6, 5, 5, 5, 5, 6]
  | .vfadd .. | .vfsub .. | .vfmul .. | .vfdiv .. | .vfsqrt .. | .vfma .. | .vfms .. | .vfmin .. | .vfmax .. | .vfabs ..
  | .vfneg .. | .vfsgnj .. | .vfrecip .. | .vfrsqrt .. | .vfclass .. | .vslideup .. | .vslidedn .. | .vperm .. | .vbcast ..
  | .vcompress .. | .vredsum .. | .vfredsum .. | .vfredosum .. | .vredmax .. | .vscan .. | .vprune ..
  | .vmvs .. => [6, 5, 5, 5, 5, 4, 2]
  | .vcvt .. | .vcvtef .. | .vdqbx .. | .vnsat .. | .vqbx .. => [6, 5, 5, 5, 5, 1, 3, 2]
  | .vld .. | .vlds .. | .vldff .. | .vldx .. | .vst .. | .vsts .. | .vstx .. | .vscadd .. => [6, 5, 5, 5, 5, 3, 1, 2]
  | .vsld .. | .vsst .. | .vgsld .. => [6, 5, 2, 3, 5, 5, 4, 2]
  | .vstrip .. => [6, 7, 3, 5, 11]
  | .vsadd .. | .vsmul .. => [6, 2, 3, 2, 3, 2, 3, 9, 2]
  | .vsdot .. => [6, 5, 2, 3, 2, 3, 9, 2]
  | .vspld .. => [6, 2, 3, 5, 5, 9, 2]
  | .vspst .. => [6, 5, 2, 3, 5, 9, 2]
  | .mst .. => [6, 3, 2, 5, 16]
  | .mma .. | .mmas .. | .mzero .. => [6, 3, 2, 21]
  | .vmrd .. | .vmwr .. => [6, 5, 3, 2, 5, 5, 4, 2]
  | .xcopy .. | .xstream .. | .xsbar .. | .xgather .. | .xbin .. | .xmove .. | .xheal .. | .xreclaim .. | .xinst ..
  | .xpin .. | .xwear .. | .xsweep .. | .cwait .. | .cwake .. => [6, 5, 5, 5, 1, 1, 2, 7]
  | .launch .. | .fork .. | .join .. | .yield | .exit | .id .. | .gang .. | .waitt .. => [6, 5, 5, 5, 8, 3]
  | .trap .. | .eret | .kget .. | .kset .. | .tlbinv .. | .cflush .. | .wfi .. => [6, 5, 5, 12, 4]
  | .hint .. => [6, 26]
  | _ => [32]

theorem fieldWidths_sum (i : Instr) : (fieldWidths i).sum = 32 := by
  cases i <;> rfl

/-- The decoder of each major opcode (R70). -/
def majorDecoder : Nat → IWord → Option Instr
  | 0x01 => decode01 | 0x02 => decode02 | 0x03 => decode03 | 0x04 => decode04 | 0x05 => decode05 | 0x06 => decode06
  | 0x07 => decode07 | 0x08 => decode08 | 0x09 => decode09 | 0x0A => decode0A | 0x0B => decode0B | 0x0C => decode0C
  | 0x0D => decode0D | 0x0E => decode0E | 0x0F => decode0F | 0x10 => decode10 | 0x11 => decode11 | 0x12 => decode12
  | 0x13 => decode13 | 0x14 => decode14 | 0x15 => decode15 | 0x16 => decode16 | 0x17 => decode17 | 0x18 => decode18
  | 0x19 => decode19 | 0x1A => decode1A | 0x1B => decode1B | 0x1C => decode1C | 0x1D => decode1D | 0x1E => decode1E
  | 0x21 => decode21 | 0x22 => decode22 | 0x23 => decode23 | 0x24 => decode24 | 0x25 => decode25 | 0x26 => decode26
  | 0x27 => decode27 | 0x28 => decode28 | 0x29 => decode29 | 0x2A => decode2A | 0x2B => decode2B | 0x2C => decode2C
  | 0x2D => decode2D | 0x2E => decode2E | 0x30 => decode30 | 0x31 => decode31 | 0x3E => decode3E
  | _ => fun _ => none

/-- A word's major opcode alone picks its decoder (R67). -/
theorem decodeForm_eq (w : IWord) : decodeForm w = majorDecoder (bits w 26 6).toNat w := by
  have h : (bits w 26 6).toNat < 64 := (bits w 26 6).isLt
  unfold decodeForm
  generalize (bits w 26 6).toNat = m at h
  interval_cases m <;> rfl

theorem decodeForm_major {w : IWord} {m : BitVec 6} (h : bits w 26 6 = m) : decodeForm w = majorDecoder m.toNat w := by
  rw [decodeForm_eq, h]

variable {w x : IWord} {i : Instr} {o : Option Instr}

/-- A word holds what its instruction's encoding holds in each field of the layout. -/
theorem sameFields_of_encode? (h : encode? i = some w) (hx : encode? i = some x) : SameFields w x 32 (fieldWidths i) := by
  obtain rfl : w = x := Option.some.inj (h.symm.trans hx)
  exact .refl w _ 32

/-- A word that holds what an instruction's encoding holds in each field of the layout is that encoding. -/
theorem encode?_of_sameFields (hx : encode? i = some x) (h : SameFields x w 32 (fieldWidths i)) : encode? i = some w :=
  hx.trans (congrArg some (h.eq (fieldWidths_sum i)))

/-- The word of an instruction decodes to it: its fields are read where they were placed, the major opcode picks the decoder,
and the selectors pick the form. The steps that have no encoding are left out first. -/
theorem decodeForm_of_encode? (h : encode? i = some w) : decodeForm w = some i := by
  have hf : ∀ x, encode? i = some x → SameFields w x 32 (fieldWidths i) := fun _ hx => sameFields_of_encode? h hx
  cases i
  all_goals try exact absurd h (Option.some_ne_none w).symm
  all_goals
    replace hf := hf _ rfl
    unfold fieldWidths at hf
    simp only [SameFields, bits_or_put_same, bits_or_put_above, bits_or_put_below, bits_literal, Nat.reduceSub, Nat.reduceAdd,
      Nat.reduceLeDiff, Nat.reduceLT, Nat.reducePow, Nat.reduceShiftRight, Nat.shiftRight_zero, BitVec.reduceOfNat,
      BitVec.zero_or, and_true] at hf
    obtain ⟨hm, hf⟩ := hf
  case add | sub | and | or | xor | sll | srl | sra | slt | sltu | mul | mulh | div | divu | rem | remu =>
    exact (decodeForm_major hm).trans (show decode01 w = _ by simp [decode01, hf])
  case addi => exact (decodeForm_major hm).trans (show decode02 w = _ by simp [decode02, hf])
  case andi => exact (decodeForm_major hm).trans (show decode03 w = _ by simp [decode03, hf])
  case ori => exact (decodeForm_major hm).trans (show decode04 w = _ by simp [decode04, hf])
  case xori => exact (decodeForm_major hm).trans (show decode05 w = _ by simp [decode05, hf])
  case slti => exact (decodeForm_major hm).trans (show decode06 w = _ by simp [decode06, hf])
  case sltiu => exact (decodeForm_major hm).trans (show decode07 w = _ by simp [decode07, hf])
  case lui => exact (decodeForm_major hm).trans (show decode08 w = _ by simp [decode08, hf])
  case lsi => exact (decodeForm_major hm).trans (show decode09 w = _ by simp [decode09, hf])
  case slli | srli | srai => exact (decodeForm_major hm).trans (show decode0A w = _ by simp [decode0A, hf])
  case sel => exact (decodeForm_major hm).trans (show decode0B w = _ by simp [decode0B, hf])
  case fadd | fsub | fmul | fmadd | flt | fcvt =>
    exact (decodeForm_major hm).trans (show decode0C w = _ by simp [decode0C, hf])
  case beq => exact (decodeForm_major hm).trans (show decode0D w = _ by simp [decode0D, hf])
  case bne => exact (decodeForm_major hm).trans (show decode0E w = _ by simp [decode0E, hf])
  case blt => exact (decodeForm_major hm).trans (show decode0F w = _ by simp [decode0F, hf])
  case bge => exact (decodeForm_major hm).trans (show decode10 w = _ by simp [decode10, hf])
  case jal => exact (decodeForm_major hm).trans (show decode11 w = _ by simp [decode11, hf])
  case jalr | jr | bpany | bpall | loopv => exact (decodeForm_major hm).trans (show decode12 w = _ by simp [decode12, hf])
  case ldb | ldh | ldw | ldd | ldbs | ldhs | ldws =>
    exact (decodeForm_major hm).trans (show decode13 w = _ by simp [decode13, hf])
  case stb | sth | stw | std => exact (decodeForm_major hm).trans (show decode14 w = _ by simp [decode14, hf])
  case ldp | ldpHeal => exact (decodeForm_major hm).trans (show decode15 w = _ by simp [decode15, hf])
  case peq => exact (decodeForm_major hm).trans (show decode16 w = _ by simp [decode16, hf])
  case amoswap | amoadd | amoand | amoor | amoxor | amomin | amomax | amocas =>
    exact (decodeForm_major hm).trans (show decode17 w = _ by simp [decode17, hf])
  case ticket | waita => exact (decodeForm_major hm).trans (show decode18 w = _ by simp [decode18, hf])
  case fence | barrier => exact (decodeForm_major hm).trans (show decode19 w = _ by simp [decode19, hf])
  case vsetvli | vsetvl | vretag | vsave | vrestore | vspill =>
    exact (decodeForm_major hm).trans (show decode1A w = _ by simp [decode1A, hf])
  case vadd | vsub | vqadd | vqsub | vmul | vmulh | vmacc | vand | vor | vxor | vsll | vsrl | vsra | vmin | vmax =>
    exact (decodeForm_major hm).trans (show decode1B w = _ by simp [decode1B, hf])
  case vfadd | vfsub | vfmul | vfdiv | vfsqrt | vfma | vfms | vfmin | vfmax | vfabs | vfneg | vfsgnj | vfrecip | vfrsqrt |
    vfclass => exact (decodeForm_major hm).trans (show decode1C w = _ by simp [decode1C, hf])
  case vcmpeq | vcmpne | vcmplt | vcmple | vpand | vpor | vpxor | vpandn =>
    exact (decodeForm_major hm).trans (show decode1D w = _ by simp [decode1D, hf])
  case vslideup | vslidedn | vperm | vbcast | vcompress | vredsum | vfredsum | vfredosum | vredmax | vscan | vprune | vmvs =>
    exact (decodeForm_major hm).trans (show decode1E w = _ by simp [decode1E, hf])
  case vcvt | vcvtef | vdqbx | vnsat | vqbx => exact (decodeForm_major hm).trans (show decode21 w = _ by simp [decode21, hf])
  case vld | vlds | vldff | vldx => exact (decodeForm_major hm).trans (show decode22 w = _ by simp [decode22, hf])
  case vst | vsts | vstx | vscadd => exact (decodeForm_major hm).trans (show decode23 w = _ by simp [decode23, hf])
  case vsld | vsst | vgsld => exact (decodeForm_major hm).trans (show decode24 w = _ by simp [decode24, hf])
  case vstrip => exact (decodeForm_major hm).trans (show decode25 w = _ by simp [decode25, hf])
  case vsadd | vsmul | vsdot | vspld | vspst =>
    exact (decodeForm_major hm).trans (show decode26 w = _ by simp [decode26, hf])
  case mldtA | mldtB | mldtffA | mldtffB | mst =>
    exact (decodeForm_major hm).trans (show decode27 w = _ by simp [decode27, hf])
  case mma | mmas | mzero => exact (decodeForm_major hm).trans (show decode28 w = _ by simp [decode28, hf])
  case vmrd | vmwr => exact (decodeForm_major hm).trans (show decode29 w = _ by simp [decode29, hf])
  case xcopy | xstream | xsbar => exact (decodeForm_major hm).trans (show decode2A w = _ by simp [decode2A, hf])
  case xgather | xbin => exact (decodeForm_major hm).trans (show decode2B w = _ by simp [decode2B, hf])
  case xmove | xheal | xreclaim => exact (decodeForm_major hm).trans (show decode2C w = _ by simp [decode2C, hf])
  case xinst | xpin | xwear => exact (decodeForm_major hm).trans (show decode2D w = _ by simp [decode2D, hf])
  case xsweep | cwait | cwake => exact (decodeForm_major hm).trans (show decode2E w = _ by simp [decode2E, hf])
  case launch | fork | join | yield | exit | id | gang | waitt =>
    exact (decodeForm_major hm).trans (show decode30 w = _ by simp [decode30, hf])
  case trap | eret | kget | kset | tlbinv | cflush | wfi =>
    exact (decodeForm_major hm).trans (show decode31 w = _ by simp [decode31, hf])
  case hint => exact (decodeForm_major hm).trans (show decode3E w = _ by simp [decode3E, hf])

/-- What is decoded from a word, if anything, has that word. -/
def Exact (w : IWord) (o : Option Instr) : Prop := ∀ i, o = some i → encode? i = some w

theorem exact_none : Exact w none := fun _ h => nomatch h

theorem exact_some (h : encode? i = some w) : Exact w (some i) := fun _ hi => Option.some.inj hi ▸ h

/-- A form that is decoded under a condition on selectors and reserved fields, before the other forms. -/
theorem exact_ite {c : Prop} [Decidable c] (ho : Exact w o) (h : c → encode? i = some w) :
    Exact w (if c then some i else o) := by
  split
  · exact exact_some (h ‹c›)
  · exact ho

theorem eq_ofNat_of_toNat {n k : Nat} {x : BitVec n} (h : x.toNat = k) : x = BitVec.ofNat n k := by
  rw [← h, BitVec.ofNat_toNat, BitVec.setWidth_eq]

/-- Each form's condition fixes every field that its operands leave open, so that the form's encoding holds the same as the word
in each field of the layout. A decoder ends in no form, or in one that has no condition. -/
theorem decodeForm_exact (w : IWord) : Exact w (decodeForm w) := by
  unfold decodeForm
  split
  case h_48 => exact exact_none
  all_goals
    rename_i hm
    replace hm := eq_ofNat_of_toNat hm
    repeat refine exact_ite ?_ fun h => encode?_of_sameFields rfl ?_
    first
      | exact exact_none
      | refine exact_some (encode?_of_sameFields rfl ?_)
  all_goals
    unfold fieldWidths
    simp only [SameFields, bits_or_put_same, bits_or_put_above, bits_or_put_below, bits_literal, Nat.reduceSub, Nat.reduceAdd,
      Nat.reduceLeDiff, Nat.reduceLT, Nat.reducePow, Nat.reduceShiftRight, Nat.shiftRight_zero, BitVec.reduceOfNat,
      BitVec.zero_or, BitVec.ofNat_eq_ofNat, ofBool_bit, and_self, *]

/-- A word decodes to an instruction where it is its encoding and its fields are in range (R68–R79). -/
theorem decode_eq_some_iff : decode w = some i ↔ encode? i = some w ∧ i.wellFormed = true := by
  have hw : decode w = some i ↔ decodeForm w = some i ∧ i.wellFormed = true := by
    unfold decode
    cases hd : decodeForm w with
    | none => simp
    | some j =>
      by_cases hj : j.wellFormed = true
      · simp only [hj, if_true, Option.some.injEq]
        exact ⟨fun e => ⟨e, e ▸ hj⟩, And.left⟩
      · simp only [hj, if_false, reduceCtorEq, Option.some.injEq, false_iff]
        exact fun e => hj (e.1 ▸ e.2)
  rw [hw]
  exact and_congr_left fun _ => ⟨decodeForm_exact w i, decodeForm_of_encode?⟩

/-- Settles O58: by `decode_eq_some_iff`. -/
theorem decodeOfEncode : Obligations.DecodeOfEncode := by
  unfold Obligations.DecodeOfEncode
  intro i hi hwf
  obtain ⟨w, hw⟩ := Option.isSome_iff_exists.mp hi
  have he : encode i = w := congrArg (Option.getD · 0) hw
  rw [he]
  exact decode_eq_some_iff.mpr ⟨hw, hwf⟩

/-- Settles O59: by `decode_eq_some_iff`. -/
theorem wordsAreExact : Obligations.WordsAreExact := by
  unfold Obligations.WordsAreExact
  exact fun _ _ h => (decode_eq_some_iff.mp h).symm

/-- Settles O56: each word is the encoding of its instruction; the last two have a major opcode that R70 does not assign. -/
theorem decodedWords : Obligations.DecodedWords := by
  have h {w : IWord} {i : Instr} (he : encode? i = some w) (hw : i.wellFormed = true) : decode w = some i :=
    decode_eq_some_iff.mpr ⟨he, hw⟩
  unfold Obligations.DecodedWords
  exact ⟨h rfl rfl, h rfl rfl, h rfl rfl, h rfl rfl, h rfl rfl, h rfl rfl, h rfl rfl, h rfl rfl, h rfl rfl, h rfl rfl, h rfl rfl,
    rfl, rfl⟩

end Sys2Proof.Proofs
end

/-! ## Fetching a word (R67, R141, R143, R190) -/
section
namespace Sys2Proof.Proofs

open Sys2Proof.Machine Sys2Proof.Laws

variable {s : State}

theorem wbits_low_six (x : Word) : wbits x 5 0 = x.toNat % 64 := by simp [wbits, bitsOf]

/-- At word `k` of the body of an active LOOPV (R141). -/
theorem inBody_eq_some {k : Nat} (hk : k < 32) (hlen : k < s.regs.loopCtl.toNat % 64)
    (hpc : s.cur.pc = s.regs.loopAddr + 4 * BitVec.ofNat 64 k) : s.inBody = some k := by
  have hoff : (s.cur.pc - s.regs.loopAddr).toNat = 4 * k := by
    rw [hpc]
    bv_omega
  have hmod : 4 * k % 4 = 0 := by omega
  have hdiv : 4 * k / 4 = k := by omega
  have hne : s.regs.loopCtl.toNat % 64 ≠ 0 := by omega
  simp [State.inBody, wbits_low_six, hoff, hmod, hdiv, hne, hlen]

theorem inBody_eq_none (h : s.regs.loopCtl.toNat % 64 = 0) : s.inBody = none := by
  simp [State.inBody, wbits_low_six, h]

/-- In the body of an active LOOPV the word is the replay buffer's (R143). -/
theorem fetch_inBody {k : Nat} (h : s.inBody = some k) (hk : k < 32) : fetch s = .ok s.cur.replay[k] s := by
  refine (exec_bind_ok (exec_get s)).trans ?_
  rw [h]
  simp [hk]

/-- Elsewhere the word is read at the pc. -/
theorem fetch_outside (h : s.inBody = none) : fetch s = fetchAt s.cur.pc s := by
  refine (exec_bind_ok (exec_get s)).trans ?_
  rw [h]

/-! ### A line that the cluster L1 holds (R190) -/

theorem pline_of_l1? {g pl : Nat} {l : L1Line} (h : s.l1? g pl = some l) : l.pline = pl := by
  simpa using List.find?_some h

/-- A line replaced by one of the same number is found in its place. -/
theorem l1?_l1Set {g pl : Nat} {l l' : L1Line} (h : s.l1? g pl = some l) (hp : l'.pline = pl) :
    (s.l1Set g l').l1? g pl = some l' := by
  have hm : ∀ xs : List L1Line, xs.find? (fun x => x.pline == pl) = some l →
      (xs.map (fun x => if x.pline = l'.pline then l' else x)).find? (fun x => x.pline == pl) = some l' := by
    intro xs
    induction xs with
    | nil => simp
    | cons x xs ih =>
      intro hx
      by_cases hxp : x.pline = pl
      · simp [hxp, hp]
      · have hrest : xs.find? (fun x => x.pline == pl) = some l := by simpa [List.find?_cons, hxp] using hx
        simpa [List.find?_cons, hxp, hp] using ih hrest
  simpa [State.l1?, State.l1Set] using hm _ h

theorem touchLine_held {g pl : Nat} {l : L1Line} (h : s.l1? g pl = some l) :
    touchLine g pl s = .ok ⟨⟩ (s.l1Set g { l with used := s.stamp g }) := by
  unfold touchLine
  rw [exec_modify]
  simp only [h]

/-- A line that holds every byte asked for is read as it is. -/
theorem l1Load_held {c : Ctx} {g st off n : Nat} {acc : Acc} {va : Word} {pl : Place} {l : L1Line}
    (hl : s.l1? g (pl.loc / 64) = some l) (hv : ∀ k < n, l.valid.getLsbD (off + k) = true) :
    l1Load c g acc st va pl off n s = .ok (pl.loc / 64) s := by
  have hfull : (List.range n).all (fun i => l.valid.getLsbD (off + i)) = true := by simpa using hv
  refine (exec_bind_ok (exec_get s)).trans ?_
  simp only [hl, hfull, if_true]
  rfl

/-- With no store listed a stream sees what stands there, and nothing changes but what other agents' stores have been shown
(R204). -/
theorem seeWord_noLoose (st word : Nat) (inL1 : Bool) (now : BitVec 64) (h : s.cur.loose = []) :
    ∃ os, seeWord st inL1 word now s = .ok now { s with others := os } := by
  have hpick : pickPoint (Loose.sure st) [] s = .ok 0 s := rfl
  have hseen : noteSeen (fun e => e.at inL1 word) st 0 s = .ok ⟨⟩ s := rfl
  obtain ⟨os, hshown⟩ : ∃ os, noteShown inL1 (fun e => e.at inL1 word) s = .ok ⟨⟩ { s with others := os } := by
    unfold noteShown
    rw [exec_modify]
    split
    · exact ⟨s.others, rfl⟩
    · exact ⟨_, rfl⟩
  refine ⟨os, (exec_bind_ok (exec_getCur s)).trans ?_⟩
  rw [h]
  exact (exec_bind_ok hpick).trans ((exec_bind_ok hseen).trans (exec_bind_ok hshown))

theorem getLsbD_byteOf {n : Nat} (x : BitVec n) (i j : Nat) :
    (byteOf x i).getLsbD j = (decide (j < 8) && x.getLsbD (8 * i + j)) := by
  simp [byteOf]

theorem getLsbD_word (l : L1Line) (off j : Nat) :
    (l.word off).getLsbD j = (decide (j < 64) && l.data.getLsbD (64 * (off / 8) + j)) := by
  simp only [L1Line.word, field, BitVec.getLsbD_ofNat, Nat.testBit_mod_two_pow, Nat.testBit_shiftRight, BitVec.testBit_toNat]
  simp

/-- Bytes of an aligned word of a line are bytes of the line. -/
theorem wordBytes_word (l : L1Line) {off n : Nat} (h : off % 8 + n ≤ 8) :
    wordBytes (l.word off) (off % 8) n = (List.range n).map (fun k => byteOf l.data (off + k)) := by
  refine List.map_congr_left fun k hk => BitVec.eq_of_getLsbD_eq fun j hj => ?_
  have hk := List.mem_range.mp hk
  have hin : 8 * (off % 8 + k) + j < 64 := by omega
  have hpos : 64 * (off / 8) + (8 * (off % 8 + k) + j) = 8 * (off + k) + j := by omega
  rw [getLsbD_byteOf, getLsbD_byteOf, getLsbD_word, hpos]
  simp [hin]

/-- One piece read where the L1 holds its bytes, none of them poisoned: the line's bytes. The line is the one used last, and
other agents' stores to the word have been shown. -/
theorem loadPiece_held {c : Ctx} {acc : Acc} {st a n off : Nat} {pl : Place} {l : L1Line} (hoff : wbits (nw a) 5 0 = off)
    (hin : off % 8 + n ≤ 8) (ht : translate s c acc (nw a) = .ok pl) (hc : pl.cls = .dram ∨ pl.cls = .flash)
    (hl : s.l1? (placeCluster s.dev.towerok c.id) (pl.loc / 64) = some l) (hv : ∀ k < n, l.valid.getLsbD (off + k) = true)
    (hb : l.bad = 0) (hn : s.cur.loose = []) :
    ∃ cs os, loadPiece c acc st a n s =
      .ok ((List.range n).map (fun k => byteOf l.data (off + k))) { s with clusters := cs, others := os } := by
  have hp : l.pline = pl.loc / 64 := pline_of_l1? hl
  let l' : L1Line := { l with used := s.stamp (placeCluster s.dev.towerok c.id) }
  let u := s.l1Set (placeCluster s.dev.towerok c.id) l'
  have hl' : u.l1? (placeCluster s.dev.towerok c.id) (pl.loc / 64) = some l' := l1?_l1Set hl hp
  have hb' : ¬ (l'.bad >>> off) &&& BitVec.ofNat 64 (2 ^ n - 1) ≠ 0 := by simp [l', hb]
  obtain ⟨os, hsee⟩ := seeWord_noLoose (s := u) st (8 * (pl.loc / 64) + off / 8) true (l'.word off) hn
  refine ⟨u.clusters, os, ?_⟩
  rw [← wordBytes_word l hin]
  subst hoff
  refine (exec_bind_ok (exec_get s)).trans ((exec_bind_ok (orTrap_ok _ _ ht s)).trans ?_)
  rcases hc with hc | hc
  all_goals
    rw [hc]
    refine (exec_bind_ok (l1Load_held hl hv)).trans ((exec_bind_ok (touchLine_held hl)).trans ?_)
    refine (exec_bind_ok (exec_get u)).trans ?_
    rw [hl']
    dsimp only
    rw [if_neg hb']
    exact exec_bind_ok hsee

/-- Settles O55: the replay buffer by `fetch_inBody`, the L1's bytes by `loadPiece_held`. -/
theorem fetchReads : Obligations.FetchReads := by
  unfold Obligations.FetchReads
  refine ⟨fun s k hk hpc hlen => fetch_inBody (inBody_eq_some hk hlen hpc) hk,
    fun s pl l hlen hn halign hb _ ht hc hl hv => ?_⟩
  have hpc : nw s.cur.pc.toNat = s.cur.pc := by simp [nw]
  have hin : s.cur.pc.toNat % 64 % 8 + 4 ≤ 8 := by omega
  obtain ⟨cs, os, hread⟩ := loadPiece_held (acc := .fetch) (st := 16) (a := s.cur.pc.toNat)
    (by rw [hpc, wbits_low_six]) hin (by rw [hpc]; exact ht) hc hl hv hb hn
  refine ⟨{ s with clusters := cs, others := os }, ?_, rfl, rfl, rfl⟩
  rw [fetch_outside (inBody_eq_none hlen)]
  exact (exec_bind_ok (exec_get s)).trans (exec_bind_ok hread)

end Sys2Proof.Proofs
end

/-! ## A step of an agent (R67, R73, R333) -/
section
namespace Sys2Proof.Proofs

open Sys2Proof.Machine Sys2Proof.Laws

variable {s : State}

theorem eventDue_noPending (h : s.cur.pending = []) : s.eventDue = false := by simp [State.eventDue, h]

theorem holdOver_noHolds (h : s.cur.holds = []) : s.holdOver = false := by simp [State.holdOver, h]

theorem awaitsWear_noWear (w : IWord) (h : s.cur.wearRegs = []) : s.awaitsWear w = false := by simp [State.awaitsWear, h]

theorem instrOf_decoded {w : IWord} {i : Instr} (h : decode w = some i) : instrOf w = i := by simp [instrOf, h]

/-- With nothing scheduled a step is the current agent's turn, as one cycle of the clock. -/
theorem step_turn (hs : s.sched = []) (hp : s.dev.phase ≠ 0xFF) : step s = tick (stepAgent s) := by simp [step, hs, hp]

/-- The turn of a running agent with no event and no hold is its next instruction. -/
theorem stepAgent_running (hr : s.cur.status = .running) (hp : s.cur.pending = []) (hh : s.cur.holds = []) :
    stepAgent s = stepInstr s := by
  simp [stepAgent, eventDue_noPending hp, holdOver_noHolds hh, hr]

theorem stepInstr_fetched {u : State} {w : IWord} (hf : fetch s = .ok w u) (hw : u.cur.wearRegs = []) :
    stepInstr s = exec (instrOf w) (u.noteLate w) := by
  simp [stepInstr, hf, awaitsWear_noWear w hw]

/-- Settles O54: the schedule, the agent's turn and its instruction, one lemma each. -/
theorem stepRunsDecoded : Obligations.StepRunsDecoded := by
  unfold Obligations.StepRunsDecoded
  intro s u w i hs hp hr hpend hhold hf hw hd
  rw [step_turn hs hp, stepAgent_running hr hpend hhold, stepInstr_fetched hf hw, instrOf_decoded hd]
  rfl

end Sys2Proof.Proofs
end

/-! # Vector registers (spec/06_vector_registers.md): what reading a group gives after it is written

## Fields of wide values and elements of an image (R111, R114) -/
section
namespace Sys2Proof.Proofs

open Sys2Proof.Machine Sys2Proof.Laws

theorem testBit_field {n : Nat} (x : BitVec n) (lo len i : Nat) :
    (field x lo len).testBit i = (decide (i < len) && x.getLsbD (lo + i)) := by
  simp [field, Nat.testBit_mod_two_pow, Nat.testBit_shiftRight, BitVec.testBit_toNat]

/-- Fields of one length are equal where their bits are. -/
theorem field_congr {m n : Nat} {x : BitVec m} {y : BitVec n} {lo lo' len : Nat}
    (h : ∀ i < len, x.getLsbD (lo + i) = y.getLsbD (lo' + i)) : field x lo len = field y lo' len := by
  refine Nat.eq_of_testBit_eq fun i => ?_
  rw [testBit_field, testBit_field]
  by_cases hi : i < len
  · rw [h i hi]
  · simp [hi]

theorem field_eq_zero {n : Nat} {x : BitVec n} {lo len : Nat} (h : ∀ i < len, x.getLsbD (lo + i) = false) :
    field x lo len = 0 := by
  refine Nat.eq_of_testBit_eq fun i => ?_
  rw [testBit_field, Nat.zero_testBit]
  by_cases hi : i < len
  · rw [h i hi, Bool.and_false]
  · simp [hi]

/-- What a bit is after a field has been replaced. -/
theorem getLsbD_putField {n : Nat} (x : BitVec n) (lo len v i : Nat) :
    (putField x lo len v).getLsbD i =
      if i < n ∧ lo ≤ i ∧ i < lo + len then v.testBit (i - lo) else x.getLsbD i := by
  simp only [putField, BitVec.getLsbD_or, BitVec.getLsbD_and, BitVec.getLsbD_not, BitVec.getLsbD_ofNat, Nat.testBit_shiftLeft,
    Nat.testBit_two_pow_sub_one, Nat.testBit_mod_two_pow]
  by_cases hn : i < n
  · by_cases hlo : lo ≤ i
    · have hlen : i - lo < len ↔ i < lo + len := by omega
      by_cases hi : i < lo + len <;> simp [hn, hlo, hlen, hi]
    · simp [hn, hlo]
  · simp [hn, BitVec.getLsbD_of_ge _ _ (Nat.le_of_not_lt hn)]

theorem field_putField_same {n : Nat} (x : BitVec n) {lo len : Nat} (v : Nat) (h : lo + len ≤ n) :
    field (putField x lo len v) lo len = v % 2 ^ len := by
  refine Nat.eq_of_testBit_eq fun i => ?_
  rw [testBit_field, getLsbD_putField, Nat.testBit_mod_two_pow]
  by_cases hi : i < len
  · have hn : lo + i < n := by omega
    simp [hi, hn]
  · simp [hi]

theorem field_putField_other {n : Nat} (x : BitVec n) {lo lo' len len' : Nat} (v : Nat) (h : lo' + len' ≤ lo ∨ lo + len ≤ lo') :
    field (putField x lo' len' v) lo len = field x lo len := by
  refine field_congr fun i hi => ?_
  rw [getLsbD_putField, if_neg (by omega)]

theorem getLsbD_and_lowMask {n : Nat} (x : BitVec n) (k i : Nat) :
    (x &&& BitVec.ofNat n (2 ^ k - 1)).getLsbD i = (x.getLsbD i && decide (i < k)) := by
  rw [BitVec.getLsbD_and, BitVec.getLsbD_ofNat, Nat.testBit_two_pow_sub_one]
  by_cases hn : i < n
  · simp [hn]
  · simp [BitVec.getLsbD_of_ge _ _ (Nat.le_of_not_lt hn)]

/-- The bits from `a` to `b` − 1. -/
theorem testBit_two_pow_sub_two_pow {a b : Nat} (h : a ≤ b) (i : Nat) :
    (2 ^ b - 2 ^ a).testBit i = decide (a ≤ i ∧ i < b) := by
  have hs : 2 ^ b - 2 ^ a = (2 ^ (b - a) - 1) <<< a := by
    rw [Nat.shiftLeft_eq, Nat.sub_mul, Nat.one_mul, ← Nat.pow_add, Nat.sub_add_cancel h]
  rw [hs, Nat.testBit_shiftLeft, Nat.testBit_two_pow_sub_one]
  by_cases ha : a ≤ i
  · have : i - a < b - a ↔ i < b := by omega
    simp [ha, this]
  · simp [ha]

/-! ### Elements set -/

/-- An element not among those set keeps its bits. -/
theorem field_setElems_other {w k : Nat} {xs : List (Nat × Nat)} (h : ∀ e ∈ xs, e.1 ≠ k) (img : BitVec 4096) :
    field (setElems img w xs) (k * w) w = field img (k * w) w := by
  unfold setElems
  induction xs generalizing img with
  | nil => rfl
  | cons e xs ih =>
    obtain ⟨he, hxs⟩ := List.forall_mem_cons.mp h
    refine (ih hxs _).trans (field_putField_other _ _ ?_)
    rcases Nat.lt_or_gt_of_ne he with hlt | hgt
    · exact .inl (by rw [← Nat.succ_mul]; exact Nat.mul_le_mul_right w hlt)
    · exact .inr (by rw [← Nat.succ_mul]; exact Nat.mul_le_mul_right w hgt)

/-- Of elements set each once, each holds what it was set to. -/
theorem field_setElems_mem {w k x : Nat} {xs : List (Nat × Nat)} (hm : (k, x) ∈ xs) (hn : xs.Pairwise (fun a b => a.1 ≠ b.1))
    (hk : k * w + w ≤ 4096) (img : BitVec 4096) : field (setElems img w xs) (k * w) w = x % 2 ^ w := by
  induction xs generalizing img with
  | nil => exact absurd hm List.not_mem_nil
  | cons e xs ih =>
    obtain ⟨he, hxs⟩ := List.pairwise_cons.mp hn
    rcases List.mem_cons.mp hm with rfl | hm
    · exact (field_setElems_other (fun e h => (he e h).symm) _).trans (field_putField_same _ _ hk)
    · exact ih hm hxs _

/-! ### Rows -/

theorem getLsbD_clearRows (img : BitVec 4096) (rows : BitVec 8) (i : Nat) :
    (clearRows img rows).getLsbD i = (img.getLsbD i && rows.getLsbD (i / 512)) := by
  by_cases hi : i < 4096
  swap
  · simp [BitVec.getLsbD_of_ge _ _ (Nat.le_of_not_lt hi)]
  have hfold : ∀ n, ((List.range n).foldl (fun m k => if rows.getLsbD k then m else putField m (512 * k) 512 0) img).getLsbD i =
      (img.getLsbD i && (rows.getLsbD (i / 512) || decide (n ≤ i / 512))) := by
    intro n
    induction n with
    | zero => simp
    | succ n ih =>
      rw [List.range_succ, List.foldl_append, List.foldl_cons, List.foldl_nil]
      by_cases hn : i / 512 = n
      · have hin : i < 4096 ∧ 512 * (i / 512) ≤ i ∧ i < 512 * (i / 512) + 512 := by omega
        subst hn
        cases hr : rows.getLsbD (i / 512)
        · rw [if_neg (by decide), getLsbD_putField, if_pos hin]
          simp
        · simpa [hr] using ih
      · have hout : ¬(512 * n ≤ i ∧ i < 512 * n + 512) := by omega
        have hle : decide (n + 1 ≤ i / 512) = decide (n ≤ i / 512) := decide_eq_decide.mpr (by omega)
        rw [hle, ← ih]
        split
        · rfl
        · rw [getLsbD_putField, if_neg (fun h => hout h.2)]
  refine (hfold 8).trans ?_
  have : ¬ 8 ≤ i / 512 := by omega
  simp [this]

theorem getLsbD_rowMask (w lo hi r : Nat) :
    (rowMask w lo hi).getLsbD r = decide (r < 8 ∧ lo < hi ∧ lo * w / 512 ≤ r ∧ r < ceilDiv (hi * w) 512) := by
  unfold rowMask
  split
  · have : ¬ lo < hi := by omega
    simp [this]
  · have hlt : lo < hi := by omega
    have hab : lo * w / 512 ≤ ceilDiv (hi * w) 512 := by
      unfold ceilDiv
      exact Nat.div_le_div_right (by have := Nat.mul_le_mul_right w hlt.le; omega)
    rw [BitVec.getLsbD_ofNat, testBit_two_pow_sub_two_pow hab]
    simp [hlt]

/-- The row of an element from `lo` to `hi` − 1 is one of theirs. -/
theorem rowMask_element {w lo hi k : Nat} (hw : 0 < w) (hlo : lo ≤ k) (hhi : k < hi) (h8 : k * w < 4096) :
    (rowMask w lo hi).getLsbD (k * w / 512) = true := by
  have h1 : lo * w ≤ k * w := Nat.mul_le_mul_right w hlo
  have h2 : k * w + w ≤ hi * w := by rw [← Nat.succ_mul]; exact Nat.mul_le_mul_right w hhi
  rw [getLsbD_rowMask, decide_eq_true_eq]
  unfold ceilDiv
  refine ⟨by omega, by omega, Nat.div_le_div_right h1, by omega⟩

end Sys2Proof.Proofs
end

/-! ## Members of a group: tags, elements and rows (R75, R111–R115) -/
section
namespace Sys2Proof.Proofs

open Sys2Proof.Machine Sys2Proof.Laws

/-! ### Formats and tags -/

theorem bits_cases (f : Fmt) : f.bits = 4 ∨ f.bits = 8 ∨ f.bits = 16 ∨ f.bits = 32 ∨ f.bits = 64 := by
  unfold Fmt.bits
  split <;> simp

theorem bits_pos (f : Fmt) : 0 < f.bits := by
  rcases bits_cases f with h | h | h | h | h <;> omega

/-- The elements of a register fill it. -/
theorem capacity_mul_bits (f : Fmt) : capacity f * f.bits = 4096 := by
  unfold capacity
  rcases bits_cases f with h | h | h | h | h <;> rw [h]

theorem capacity_pos (f : Fmt) : 0 < capacity f := by
  unfold capacity
  rcases bits_cases f with h | h | h | h | h <;> rw [h] <;> decide

theorem capacity_le (f : Fmt) : capacity f ≤ 1024 := by
  unfold capacity
  rcases bits_cases f with h | h | h | h | h <;> rw [h] <;> decide

/-- An element of a register lies within it. -/
theorem element_within {f : Fmt} {k : Nat} (hk : k < capacity f) : k * f.bits + f.bits ≤ 4096 := by
  rw [← Nat.succ_mul, ← capacity_mul_bits f]
  exact Nat.mul_le_mul_right _ hk

/-- No element crosses a row. -/
theorem element_row (f : Fmt) (k : Nat) {i : Nat} (hi : i < f.bits) : (k * f.bits + i) / 512 = k * f.bits / 512 := by
  rcases bits_cases f with h | h | h | h | h <;> rw [h] at hi ⊢ <;> omega

theorem destGroup_cases {r : Regs} {f : Fmt} {g : Nat} (h : r.destGroup f = some g) : g = 1 ∨ g = 2 ∨ g = 4 ∨ g = 8 := by
  simpa using List.mem_of_find?_eq_some h

theorem fmt_lt (r : Regs) : r.fmt < 16 := Nat.mod_lt _ (by decide)

theorem mkTag_toNat {f g : Nat} (hf : f < 16) (hg : g = 1 ∨ g = 2 ∨ g = 4 ∨ g = 8) :
    (mkTag f g).toNat = 4 * f + g.log2 ∧ g.log2 < 4 ∧ 2 ^ g.log2 = g := by
  obtain ⟨hl, hp⟩ : g.log2 < 4 ∧ 2 ^ g.log2 = g := by rcases hg with rfl | rfl | rfl | rfl <;> decide
  have hlt : 4 * f + g.log2 < 2 ^ 6 := by omega
  exact ⟨(BitVec.toNat_ofNat _ _).trans (Nat.mod_eq_of_lt hlt), hl, hp⟩

theorem tagFmt_mkTag {f g : Nat} (hf : f < 16) (hg : g = 1 ∨ g = 2 ∨ g = 4 ∨ g = 8) : tagFmt (mkTag f g) = f := by
  obtain ⟨ht, hl, -⟩ := mkTag_toNat hf hg
  have : (4 * f + g.log2) / 4 = f := by omega
  rwa [tagFmt, ht]

theorem tagGroup_mkTag {f g : Nat} (hf : f < 16) (hg : g = 1 ∨ g = 2 ∨ g = 4 ∨ g = 8) : tagGroup (mkTag f g) = g := by
  obtain ⟨ht, hl, hp⟩ := mkTag_toNat hf hg
  have : (4 * f + g.log2) % 4 = g.log2 := by omega
  rw [tagGroup, ht, this, hp]

/-- The members of an aligned group are registers. -/
theorem member_lt {d : Reg} {g j : Nat} (hg : g = 1 ∨ g = 2 ∨ g = 4 ∨ g = 8) (hd : d.toNat % g = 0) (hj : j < g) :
    d.toNat + j < 32 := by
  have := d.isLt
  rcases hg with rfl | rfl | rfl | rfl <;> omega

/-- Element `j * c + k` of a group of registers of `c` elements is element `k` of member `j`. -/
theorem element_div {c j k : Nat} (hk : k < c) : (j * c + k) / c = j := by
  rw [Nat.mul_comm, Nat.mul_add_div (by omega), Nat.div_eq_of_lt hk, Nat.add_zero]

theorem element_mod {c j k : Nat} (hk : k < c) : (j * c + k) % c = k := by
  rw [Nat.mul_comm, Nat.mul_add_mod, Nat.mod_eq_of_lt hk]

/-! ### A member written -/

/-- The elements of a group that member `j` holds, by their place in it. -/
def memberElems (f : Fmt) (j : Nat) (xs : List (Nat × Nat)) : List (Nat × Nat) :=
  xs.filterMap (fun (i, x) => if i / capacity f = j then some (i % capacity f, x) else none)

theorem mem_memberElems {f : Fmt} {j k x : Nat} {xs : List (Nat × Nat)} (hk : k < capacity f) :
    (k, x) ∈ memberElems f j xs ↔ (j * capacity f + k, x) ∈ xs := by
  simp only [memberElems, List.mem_filterMap, Option.ite_none_right_eq_some, Option.some.injEq, Prod.mk.injEq]
  constructor
  · rintro ⟨⟨i, y⟩, hm, rfl, rfl, rfl⟩
    rwa [Nat.div_add_mod']
  · exact fun hm => ⟨_, hm, element_div hk, element_mod hk, rfl⟩

/-- Elements of a group listed each once are listed each once in a member. -/
theorem memberElems_pairwise {xs : List (Nat × Nat)} (h : xs.Pairwise (fun a b => a.1 ≠ b.1)) (f : Fmt) (j : Nat) :
    (memberElems f j xs).Pairwise (fun a b => a.1 ≠ b.1) := by
  refine h.filterMap _ fun a b hab x hx y hy => ?_
  simp only [Option.ite_none_right_eq_some, Option.some.injEq] at hx hy
  obtain ⟨ha, rfl⟩ := hx
  obtain ⟨hb, rfl⟩ := hy
  intro he
  have he : a.1 % capacity f = b.1 % capacity f := he
  exact hab (by rw [← Nat.div_add_mod' a.1 (capacity f), ← Nat.div_add_mod' b.1 (capacity f), ha, hb, he])

section
variable {r : VReg} {f : Fmt} {g j len tail k : Nat} {xs : List (Nat × Nat)}

/-- Under tail 10 the rows wholly beyond the length are unmapped (R114). -/
theorem writeMember_rows : (writeMember r f g j len tail xs).rows =
    if tail = 2 then r.rows &&& rowMask f.bits 0 (min (len - j * capacity f) (capacity f)) else r.rows := rfl

/-- An element of a written member: what was set or stood there, below the tail where its row is mapped. -/
theorem field_writeMember (hr : (writeMember r f g j len tail xs).rows.getLsbD (k * f.bits / 512) = true)
    (ht : tail = 0 ∨ k < min (len - j * capacity f) (capacity f)) :
    field (writeMember r f g j len tail xs).image (k * f.bits) f.bits =
      field (setElems r.image f.bits (memberElems f j xs)) (k * f.bits) f.bits := by
  refine field_congr fun i hi => ?_
  refine (getLsbD_clearRows _ _ _).trans ?_
  rw [element_row f k hi]
  refine (congrArg _ hr).trans ((Bool.and_true _).trans ?_)
  dsimp only
  split
  · rfl
  · rename_i h0
    have hlt : k * f.bits + i < min (len - j * capacity f) (capacity f) * f.bits := by
      have := Nat.mul_le_mul_right f.bits (Nat.succ_le_of_lt (ht.resolve_left h0))
      rw [Nat.succ_mul] at this
      omega
    rw [getLsbD_and_lowMask, decide_eq_true hlt, Bool.and_true]
    rfl

/-- An element beyond the length is zero under tail 01 and 10 (R114). -/
theorem field_writeMember_tail (h0 : tail ≠ 0) (hk : min (len - j * capacity f) (capacity f) ≤ k) :
    field (writeMember r f g j len tail xs).image (k * f.bits) f.bits = 0 := by
  refine field_eq_zero fun i _ => ?_
  have hge : ¬ k * f.bits + i < min (len - j * capacity f) (capacity f) * f.bits := by
    have := Nat.mul_le_mul_right f.bits hk
    omega
  refine (getLsbD_clearRows _ _ _).trans ?_
  dsimp only
  rw [if_neg h0, getLsbD_and_lowMask, decide_eq_false hge]
  simp

/-- A row of an element below the tail stays mapped. -/
theorem writeMember_rows_mapped (hk : k < capacity f) (hr : r.rows.getLsbD (k * f.bits / 512) = true)
    (ht : tail = 0 ∨ k < min (len - j * capacity f) (capacity f)) :
    (writeMember r f g j len tail xs).rows.getLsbD (k * f.bits / 512) = true := by
  rw [writeMember_rows]
  split
  · have hlt := ht.resolve_left (by omega)
    have h8 : k * f.bits < 4096 := by have := element_within hk; have := bits_pos f; omega
    rw [BitVec.getLsbD_and, hr, rowMask_element (bits_pos f) (Nat.zero_le k) hlt h8]
    rfl
  · exact hr

end

/-- The rows of a member that hold elements `lo` to `hi` − 1 of the group hold each of them. -/
theorem memberRows_element {f : Fmt} {j k lo hi : Nat} (hk : k < capacity f) (hlo : lo ≤ j * capacity f + k)
    (hhi : j * capacity f + k < hi) : (memberRows f j lo hi).getLsbD (k * f.bits / 512) = true := by
  have h8 : k * f.bits < 4096 := by have := element_within hk; have := bits_pos f; omega
  exact rowMask_element (bits_pos f) (by omega) (by omega) h8

end Sys2Proof.Proofs
end

/-! ## A group written (R111, R114, R115, R121, R122) -/
section
namespace Sys2Proof.Proofs

open Sys2Proof.Machine Sys2Proof.Laws

/-- Member `j` of a group with the rows mapped that hold elements `lo` to `hi` − 1 of the group, and with the scale row of a block
group (R115, R118). -/
def withRows (f : Fmt) (j lo hi : Nat) (r : VReg) : VReg :=
  { r with rows := r.rows ||| memberRows f j lo hi, scaleRow := r.scaleRow || (j == 0 && f.isBlock) }

/-- Member `j` of the group at `d` after an instruction that writes elements `lo` to `len` − 1 has taken their rows and written `xs`. -/
def memberAfter (s : State) (d : Nat) (f : Fmt) (g lo len : Nat) (xs : List (Nat × Nat)) (j : Nat) : VReg :=
  writeMember (withRows f j lo len (s.v (d + j))) f g j len s.regs.tail xs

/-- Each member of the group at `d` is as so written, but for its scale words. -/
def membersWritten (s t : State) (d : Nat) (f : Fmt) (g lo len : Nat) (xs : List (Nat × Nat)) : Prop :=
  ∀ j, j < g → ∃ x, t.v (d + j) = { memberAfter s d f g lo len xs j with scale := x }

section
variable {s t : State} {d : Nat} {f : Fmt} {g lo len : Nat} {xs : List (Nat × Nat)}

variable (s d f g lo len xs) in
theorem memberAfter_wlen (j : Nat) :
    (memberAfter s d f g lo len xs j).wlen.toNat = min (len - j * capacity f) (capacity f) := by
  have := capacity_le f
  exact (BitVec.toNat_ofNat _ _).trans (Nat.mod_eq_of_lt (by omega))

/-- R115, R114: the rows of a group that has been written. -/
theorem rowsWritten_of_members (h : membersWritten s t d f g lo len xs) : rowsWritten s t d f g lo len len := by
  intro j hj
  obtain ⟨x, hx⟩ := h j hj
  rw [hx]
  refine ⟨rfl, ?_⟩
  show (((s.v (d + j)).scaleRow || (j == 0 && f.isBlock)) && (f.isBlock && j == 0)) = (f.isBlock && j == 0)
  cases f.isBlock <;> cases (j == 0) <;> simp

/-- An element of a group that has been written, as its member's image holds it. -/
theorem rawElem_of_members (h : membersWritten s t d f g lo len xs) {k : Nat} (hk : k < g * capacity f) :
    t.rawElem d f k = field (memberAfter s d f g lo len xs (k / capacity f)).image (k % capacity f * f.bits) f.bits := by
  obtain ⟨x, hx⟩ := h _ (Nat.div_lt_of_lt_mul (Nat.mul_comm g _ ▸ hk))
  rw [State.rawElem, hx]

/-- What a listed element reads as in its member: what it was set to. -/
theorem memberAfter_listed {e : Nat × Nat} (he : e ∈ xs) (hn : xs.Pairwise (fun a b => a.1 ≠ b.1)) (hlo : lo ≤ e.1)
    (hlen : e.1 < len) :
    (memberAfter s d f g lo len xs (e.1 / capacity f)).rows.getLsbD (e.1 % capacity f * f.bits / 512) = true ∧
    field (memberAfter s d f g lo len xs (e.1 / capacity f)).image (e.1 % capacity f * f.bits) f.bits =
      e.2 % 2 ^ f.bits := by
  have hk := Nat.mod_lt e.1 (capacity_pos f)
  have hi := Nat.div_add_mod' e.1 (capacity f)
  have hbelow : e.1 % capacity f < min (len - e.1 / capacity f * capacity f) (capacity f) := by omega
  have hmap : (memberRows f (e.1 / capacity f) lo len).getLsbD (e.1 % capacity f * f.bits / 512) = true :=
    memberRows_element hk (by omega) (by omega)
  have hrow : (memberAfter s d f g lo len xs (e.1 / capacity f)).rows.getLsbD (e.1 % capacity f * f.bits / 512) = true :=
    writeMember_rows_mapped hk ((BitVec.getLsbD_or ..).trans ((congrArg (_ || ·) hmap).trans (Bool.or_true _))) (.inr hbelow)
  refine ⟨hrow, (field_writeMember hrow (.inr hbelow)).trans ?_⟩
  exact field_setElems_mem ((mem_memberElems hk).mpr (by rwa [hi])) (memberElems_pairwise hn f _) (element_within hk) _

/-- What an element that is not listed reads as, below the length or under tail 00, where its row was mapped: what stood there. -/
theorem memberAfter_unlisted {k : Nat} (hx : ∀ e ∈ xs, e.1 ≠ k) (hk : k < len ∨ s.regs.tail = 0) (hr : s.rowMapped d f k) :
    field (memberAfter s d f g lo len xs (k / capacity f)).image (k % capacity f * f.bits) f.bits = s.rawElem d f k := by
  have hc := Nat.mod_lt k (capacity_pos f)
  have hi := Nat.div_add_mod' k (capacity f)
  have hbelow : s.regs.tail = 0 ∨ k % capacity f < min (len - k / capacity f * capacity f) (capacity f) :=
    hk.symm.imp_right fun h => by omega
  refine (field_writeMember (writeMember_rows_mapped hc ?_ hbelow) hbelow).trans (field_setElems_other ?_ _)
  · exact (BitVec.getLsbD_or ..).trans ((congrArg (· || _) hr).trans (Bool.true_or _))
  · intro e he hek
    obtain ⟨n, x⟩ := e
    have hn : n = k % capacity f := hek
    exact hx _ ((mem_memberElems (hn ▸ hc)).mp he) (by rw [hn, hi])

/-- Below its member's length an element of a group that has been written reads as its image holds it. -/
theorem elem_of_members (h : membersWritten s t d f g lo len xs) (hf : f < 16) (hg : g = 1 ∨ g = 2 ∨ g = 4 ∨ g = 8) {k : Nat}
    (hk : k < g * capacity f) (hlen : k < len)
    (hr : (memberAfter s d f g lo len xs (k / capacity f)).rows.getLsbD (k % capacity f * f.bits / 512) = true) :
    t.elem d k = field (memberAfter s d f g lo len xs (k / capacity f)).image (k % capacity f * f.bits) f.bits := by
  have hj : k / capacity f < g := Nat.div_lt_of_lt_mul (Nat.mul_comm g _ ▸ hk)
  have htag : (t.v d).tag = mkTag f g := by
    obtain ⟨x, hx⟩ := h 0 (by omega)
    rw [Nat.add_zero] at hx
    rw [hx]
    rfl
  obtain ⟨x, hx⟩ := h _ hj
  have hc := Nat.mod_lt k (capacity_pos f)
  have hi := Nat.div_add_mod' k (capacity f)
  have hwl := memberAfter_wlen s d f g lo len xs (k / capacity f)
  have hin : ¬ (memberAfter s d f g lo len xs (k / capacity f)).wlen.toNat ≤ k % capacity f := by omega
  have hgj : ¬ g ≤ k / capacity f := by omega
  unfold State.elem State.elemBits
  simp only [htag, tagFmt_mkTag hf hg, tagGroup_mkTag hf hg, hx, hgj, hin, hr, if_true, if_false, false_and]

/-- R111, R114, R72: what a group that has been written holds. -/
theorem groupHolds_of_members (h : membersWritten s t d f g lo len xs) (hf : f < 16) (hg : g = 1 ∨ g = 2 ∨ g = 4 ∨ g = 8)
    (hn : xs.Pairwise (fun a b => a.1 ≠ b.1)) (hlo : ∀ e ∈ xs, lo ≤ e.1) : groupHolds s t d f g len xs := by
  refine ⟨fun e he hlen hcap => ?_, fun k hk hcap hx hr => ?_, fun k hk hcap ht => ?_, fun j hj => ?_⟩
  · obtain ⟨hrow, hval⟩ := memberAfter_listed (s := s) (d := d) (f := f) (g := g) he hn (hlo e he) hlen
    exact (elem_of_members h hf hg hcap hlen hrow).trans hval
  · exact (rawElem_of_members h hcap).trans (memberAfter_unlisted hx hk hr)
  · have hi := Nat.div_add_mod' k (capacity f)
    exact (rawElem_of_members h hcap).trans (field_writeMember_tail ht (by omega))
  · obtain ⟨x, hx⟩ := h j hj
    rw [hx]
    exact ⟨rfl, rfl, memberAfter_wlen s d f g lo len xs j⟩

end

end Sys2Proof.Proofs
end

/-! ## What the operations on a group change (R105–R107, R115, R118, R160) -/
section
namespace Sys2Proof.Proofs

open Sys2Proof.Machine Sys2Proof.Laws

/-! ### Frames -/

/-- Nothing is different but vector registers, the wait for rows, VHIGH and VDIRTY. -/
def vectorsOnly (s t : State) : Prop :=
  t = { s with cur := { s.cur with v := t.cur.v, stall := t.cur.stall, regs := { s.cur.regs with
    vhigh := t.cur.regs.vhigh, vdirty := t.cur.regs.vdirty } } }

theorem vectorsOnly_refl (s : State) : vectorsOnly s s := rfl

theorem vectorsOnly_trans {s t u : State} (h : vectorsOnly s t) (k : vectorsOnly t u) : vectorsOnly s u :=
  k.trans (by rw [h])

/-- Nothing is different but FFLAGS and the FIDX registers. -/
def flagsOnly (s t : State) : Prop :=
  t = { s with cur := { s.cur with regs := { s.cur.regs with
    fflags := t.cur.regs.fflags, fidxNv := t.cur.regs.fidxNv, fidxDz := t.cur.regs.fidxDz, fidxOf := t.cur.regs.fidxOf,
    fidxUf := t.cur.regs.fidxUf, fidxNx := t.cur.regs.fidxNx } } }

theorem flagsOnly_refl (s : State) : flagsOnly s s := rfl

theorem flagsOnly_trans {s t u : State} (h : flagsOnly s t) (k : flagsOnly t u) : flagsOnly s u :=
  k.trans (by rw [h])

/-! ### One register, and the members of a group in turn -/

theorem v_setV (s : State) (n m : Nat) (r : VReg) : (s.setV n r).v m = if m = n ∧ m < 32 then r else s.v m := by
  unfold State.setV
  by_cases hn : n < 32
  · by_cases hm : m < 32
    · by_cases h : m = n
      · subst h
        simp [State.v, hm]
      · have h' : ¬ n = m := fun e => h e.symm
        simp [State.v, hn, hm, h, h']
    · simp [State.v, hm]
  · have : ¬(m = n ∧ m < 32) := by omega
    simp [hn, this]

theorem setV_vectorsOnly (s : State) (n : Nat) (r : VReg) : vectorsOnly s (s.setV n r) := by
  unfold State.setV
  split <;> rfl

theorem setRegs_vectorsOnly {s : State} {r : Regs} (h : r = { s.regs with vhigh := r.vhigh, vdirty := r.vdirty }) :
    vectorsOnly s (s.setRegs r) := congrArg s.setRegs h

/-- The registers after the members of a group have been written one after another, each from what it held, by steps that change
vector registers alone. -/
theorem foldl_members {F : State → Nat → State} {h : Nat → VReg → VReg} {d : Nat} {s : State}
    (hF : ∀ u j, vectorsOnly s u → vectorsOnly u (F u j) ∧
      ∀ n, (F u j).v n = if n = d + j ∧ n < 32 then h j (u.v n) else u.v n) (g : Nat) :
    vectorsOnly s ((List.range g).foldl F s) ∧
    ∀ n, ((List.range g).foldl F s).v n = if d ≤ n ∧ n < d + g ∧ n < 32 then h (n - d) (s.v n) else s.v n := by
  induction g with
  | zero => exact ⟨vectorsOnly_refl s, fun n => (if_neg (by omega)).symm⟩
  | succ g ih =>
    obtain ⟨hs, hv⟩ := ih
    obtain ⟨hstep, hone⟩ := hF _ g hs
    rw [List.range_succ, List.foldl_append, List.foldl_cons, List.foldl_nil]
    refine ⟨vectorsOnly_trans hs hstep, fun n => ?_⟩
    rw [hone, hv]
    by_cases hn : n = d + g
    · subst hn
      by_cases h32 : d + g < 32
      · simp [h32]
      · simp [h32]
    · have hiff : (d ≤ n ∧ n < d + (g + 1) ∧ n < 32) ↔ (d ≤ n ∧ n < d + g ∧ n < 32) := by omega
      rw [if_neg (fun h => hn h.1)]
      simp only [hiff]

/-! ### Rows taken, a group and its scale words written -/

variable {s : State}

theorem mapRows_members (s : State) (d : Nat) (f : Fmt) (g lo hi : Nat) : vectorsOnly s (s.mapRows d f g lo hi) ∧
    ∀ n, (s.mapRows d f g lo hi).v n = if d ≤ n ∧ n < d + g ∧ n < 32 then
      withRows f (n - d) lo hi (s.v n) else s.v n := by
  refine foldl_members (h := fun j => withRows f j lo hi) (fun u j _ => ⟨setV_vectorsOnly _ _ _, fun n => ?_⟩) g
  rw [v_setV]
  split
  · rename_i h
    rw [h.1]
    rfl
  · rfl

/-- R115: with rows for all of them the elements' rows are taken. -/
theorem takeRows_ok {d : Nat} {f : Fmt} {g lo hi : Nat} (h : s.rowsWanted d f g lo hi ≤ s.rowsFree) :
    ∃ t, takeRows d f g lo hi s = .ok () t ∧ vectorsOnly s t ∧ ∀ n, t.v n = if d ≤ n ∧ n < d + g ∧ n < 32 then
      withRows f (n - d) lo hi (s.v n) else s.v n := by
  let u : State := { s with cur := { s.cur with stall := none } }
  have hneed : needRows (s.rowsWanted d f g lo hi) s = .ok () u := by
    refine (exec_bind_ok (exec_get s)).trans ?_
    rw [if_neg (fun hlt => Nat.not_lt.mpr h hlt.2)]
    rfl
  obtain ⟨hv, hm⟩ := mapRows_members u d f g lo hi
  exact ⟨_, (exec_bind_ok (exec_get s)).trans (exec_bind_ok hneed), vectorsOnly_trans (t := u) rfl hv, hm⟩

theorem cutAt_none (h : s.cur.cut = none) : s.cutAt = none := by simp [State.cutAt, h]

theorem vectorsOnly_cut {t : State} (h : vectorsOnly s t) : t.cur.cut = s.cur.cut := by rw [h]

theorem vectorsOnly_tail {t : State} (h : vectorsOnly s t) : t.regs.tail = s.regs.tail := by rw [h]; rfl

/-- A group that no pre-emption cuts is written, each member from what it held (R111, R114). -/
theorem writeGroup_ok (hc : s.cur.cut = none) (d : Nat) (f : Fmt) (g lo len : Nat) (xs : List (Nat × Nat)) :
    ∃ t, writeGroup d f g lo len xs s = .ok () t ∧ vectorsOnly s t ∧ ∀ n, t.v n = if d ≤ n ∧ n < d + g ∧ n < 32 then
      writeMember (s.v n) f g (n - d) len s.regs.tail xs else s.v n := by
  refine ⟨_, exec_modify _ s, foldl_members (h := fun j r => writeMember r f g j len s.regs.tail xs) (fun u j hu => ?_) g⟩
  have hcut : u.cutAt.isSome = false := by rw [cutAt_none ((vectorsOnly_cut hu).trans hc)]; rfl
  simp only [hcut, Bool.false_eq_true, if_false]
  refine ⟨vectorsOnly_trans (setV_vectorsOnly _ _ _) (setRegs_vectorsOnly ?_), fun n => (v_setV u (d + j) n _).trans ?_⟩
  · split <;> rfl
  · split
    · rename_i h
      rw [h.1]
    · rfl

/-- The scale words of a register replaced. -/
theorem setScale_members (s : State) {d : Nat} (hd : d < 32) (x : BitVec 512) : vectorsOnly s (s.setScale d x) ∧
    ∀ n, (s.setScale d x).v n = if n = d then { s.v n with scale := x } else s.v n := by
  have hv : ∀ n, (s.setV d { s.v d with scale := x }).v n = if n = d then { s.v n with scale := x } else s.v n := by
    intro n
    rw [v_setV]
    by_cases h : n = d
    · subst h
      simp [hd]
    · simp [h]
  unfold State.setScale
  dsimp only
  split
  · exact ⟨vectorsOnly_trans (setV_vectorsOnly s d _) rfl, hv⟩
  · exact ⟨setV_vectorsOnly s d _, hv⟩

/-- The words of a scale row with some of them set (R118). -/
def scalesSet (x : BitVec 512) (ws : List (Nat × Nat)) : BitVec 512 := ws.foldl (fun m (b, w) => putField m (16 * b) 16 w) x

theorem field_scalesSet_other {b : Nat} {ws : List (Nat × Nat)} (h : ∀ e ∈ ws, e.1 ≠ b) (x : BitVec 512) :
    field (scalesSet x ws) (16 * b) 16 = field x (16 * b) 16 := by
  unfold scalesSet
  induction ws generalizing x with
  | nil => rfl
  | cons e ws ih =>
    obtain ⟨he, hws⟩ := List.forall_mem_cons.mp h
    exact (ih hws _).trans (field_putField_other _ _ (by omega))

theorem field_scalesSet_mem {b w : Nat} {ws : List (Nat × Nat)} (hm : (b, w) ∈ ws) (hn : ws.Pairwise (fun a b => a.1 ≠ b.1))
    (hb : b < 32) (x : BitVec 512) : field (scalesSet x ws) (16 * b) 16 = w % 2 ^ 16 := by
  induction ws generalizing x with
  | nil => exact absurd hm List.not_mem_nil
  | cons e ws ih =>
    obtain ⟨he, hws⟩ := List.pairwise_cons.mp hn
    rcases List.mem_cons.mp hm with rfl | hm
    · exact (field_scalesSet_other (fun e h => (he e h).symm) _).trans (field_putField_same _ _ (by omega))
    · exact ih hm hws _

theorem writeScales_ok {d : Nat} (hd : d < 32) (ws : List (Nat × Nat)) :
    ∃ t, writeScales d ws s = .ok () t ∧ vectorsOnly s t ∧
      ∀ n, t.v n = if n = d then { s.v n with scale := scalesSet (s.v n).scale ws } else s.v n := by
  refine ⟨_, exec_modify _ s, ?_⟩
  split
  · rename_i h
    subst h
    exact ⟨vectorsOnly_refl s, fun n => (ite_self _).symm⟩
  · obtain ⟨hv, hm⟩ := setScale_members s hd (scalesSet (s.v d).scale ws)
    refine ⟨hv, fun n => (hm n).trans ?_⟩
    by_cases h : n = d
    · rw [h]
    · rw [if_neg h, if_neg h]

/-- The words of a scale row after the tail of a length: those of blocks wholly beyond it are zero but under tail 00 (R114, R118). -/
def scalesTrimmed (x : BitVec 512) (tail len : Nat) : BitVec 512 :=
  if tail = 0 then x else x &&& BitVec.ofNat 512 (2 ^ (16 * ceilDiv len 32) - 1)

theorem trimScales_ok (hc : s.cur.cut = none) {d : Nat} (hd : d < 32) (len : Nat) :
    ∃ t, trimScales d len s = .ok () t ∧ vectorsOnly s t ∧
      ∀ n, t.v n = if n = d then { s.v n with scale := scalesTrimmed (s.v n).scale s.regs.tail len } else s.v n := by
  have hcut : s.cutAt.isSome = false := by rw [cutAt_none hc]; rfl
  refine ⟨_, exec_modify _ s, ?_⟩
  rw [hcut]
  unfold scalesTrimmed
  by_cases h0 : s.regs.tail = 0
  · simp only [h0, true_or, if_true, ite_self]
    exact ⟨vectorsOnly_refl s, fun _ => trivial⟩
  · obtain ⟨hv, hm⟩ := setScale_members s hd ((s.v d).scale &&& BitVec.ofNat 512 (2 ^ (16 * ceilDiv len 32) - 1))
    simp only [h0, false_or, if_false, Bool.false_eq_true]
    refine ⟨hv, fun n => (hm n).trans ?_⟩
    by_cases h : n = d
    · rw [h]
    · rw [if_neg h, if_neg h]

theorem field_scalesTrimmed_below {b tail len : Nat} (x : BitVec 512) (h : b < ceilDiv len 32) :
    field (scalesTrimmed x tail len) (16 * b) 16 = field x (16 * b) 16 := by
  unfold scalesTrimmed
  split
  · rfl
  · refine field_congr fun i hi => ?_
    have : 16 * b + i < 16 * ceilDiv len 32 := by omega
    rw [getLsbD_and_lowMask, decide_eq_true this, Bool.and_true]

theorem field_scalesTrimmed_beyond {b tail len : Nat} (x : BitVec 512) (h : ceilDiv len 32 ≤ b) :
    field (scalesTrimmed x tail len) (16 * b) 16 = if tail = 0 then field x (16 * b) 16 else 0 := by
  unfold scalesTrimmed
  split
  · rfl
  · refine field_eq_zero fun i _ => ?_
    have : ¬ 16 * b + i < 16 * ceilDiv len 32 := by omega
    rw [getLsbD_and_lowMask, decide_eq_false this, Bool.and_false]

/-! ### Flags merged (R105–R107) -/

theorem lowerTo_toNat (x : Word) (i : Nat) : (lowerTo x i).toNat = min x.toNat i := by
  have := x.isLt
  unfold lowerTo
  split
  · exact (BitVec.toNat_ofNat _ _).trans ((Nat.mod_eq_of_lt (by omega)).trans (by omega))
  · omega

theorem flag_flagsOnly (s : State) (e : Events) (i : Nat) : flagsOnly s (s.flag e i) := by
  unfold State.flag
  split <;> rfl

/-- The control registers after a flag, with no event too. -/
theorem flag_regs (s : State) (e : Events) (i : Nat) : (s.flag e i).regs = { s.regs with
    fflags := s.regs.fflags ||| nw e
    fidxNv := if e / 16 % 2 = 1 then lowerTo s.regs.fidxNv i else s.regs.fidxNv
    fidxDz := if e / 8 % 2 = 1 then lowerTo s.regs.fidxDz i else s.regs.fidxDz
    fidxOf := if e / 4 % 2 = 1 then lowerTo s.regs.fidxOf i else s.regs.fidxOf
    fidxUf := if e / 2 % 2 = 1 then lowerTo s.regs.fidxUf i else s.regs.fidxUf
    fidxNx := if e % 2 = 1 then lowerTo s.regs.fidxNx i else s.regs.fidxNx } := by
  unfold State.flag
  split
  · rename_i h
    subst h
    simp [nw]
  · rfl

/-- An index register is lowered by the events of its bit, and by no others. -/
theorem lowered_toNat (x : Word) (i c : Nat) :
    (if c = 1 then lowerTo x i else x).toNat = if c == 1 then min x.toNat i else x.toNat := by
  by_cases h : c = 1 <;> simp [h, lowerTo_toNat]

theorem foldl_fflags (es : List (Nat × Events)) (s : State) :
    (es.foldl (fun s (i, e) => s.flag e i) s).regs.fflags =
      s.regs.fflags ||| BitVec.ofNat 64 (es.foldl (fun m e => m ||| e.2) 0) := by
  have hacc : ∀ (es : List (Nat × Events)) (m : Nat),
      es.foldl (fun m e => m ||| e.2) m = m ||| es.foldl (fun m e => m ||| e.2) 0 := by
    intro es
    induction es with
    | nil => simp
    | cons e es ih =>
      intro m
      rw [List.foldl_cons, ih, List.foldl_cons, ih (0 ||| e.2), Nat.zero_or, Nat.or_assoc]
  induction es generalizing s with
  | nil => simp
  | cons e es ih =>
    rw [List.foldl_cons, ih, flag_regs, List.foldl_cons, hacc es (0 ||| e.2), Nat.zero_or, BitVec.ofNat_or, BitVec.or_assoc]
    rfl

/-- An index register after flags at indices, one after another: the lowest at which one of its events was raised. -/
theorem foldl_index {index : Regs → Word} {raises : Events → Bool}
    (h : ∀ (s : State) e i, (index (s.flag e i).regs).toNat =
      if raises e then min (index s.regs).toNat i else (index s.regs).toNat) (es : List (Nat × Events)) (s : State) :
    (index (es.foldl (fun s (i, e) => s.flag e i) s).regs).toNat =
      (es.filter (fun e => raises e.2)).foldl (fun m e => min m e.1) (index s.regs).toNat := by
  induction es generalizing s with
  | nil => rfl
  | cons e es ih =>
    refine (ih (s.flag e.2 e.1)).trans ?_
    rw [h, List.filter_cons]
    split <;> rfl

theorem flags_ok (es : List (Nat × Events)) : ∃ t, flags es s = .ok () t ∧ flagsOnly s t ∧ eventsRaised s t es := by
  refine ⟨_, exec_modify _ s, foldl_rel flagsOnly_refl flagsOnly_trans (fun s e => flag_flagsOnly s e.2 e.1) es s,
    foldl_fflags es s, ?_, ?_, ?_, ?_, ?_⟩
  · exact foldl_index (index := Regs.fidxNv) (fun s e i => by rw [flag_regs]; exact lowered_toNat _ i _) es s
  · exact foldl_index (index := Regs.fidxDz) (fun s e i => by rw [flag_regs]; exact lowered_toNat _ i _) es s
  · exact foldl_index (index := Regs.fidxOf) (fun s e i => by rw [flag_regs]; exact lowered_toNat _ i _) es s
  · exact foldl_index (index := Regs.fidxUf) (fun s e i => by rw [flag_regs]; exact lowered_toNat _ i _) es s
  · exact foldl_index (index := Regs.fidxNx) (fun s e i => by rw [flag_regs]; exact lowered_toNat _ i _) es s

/-- The end of a form that no pre-emption cuts (R160). -/
theorem endStrip_ok (hc : s.cur.cut = none) : endStrip s = .ok () (s.setRegs { s.regs with vstart := 0 }) := by
  refine (exec_bind_ok (exec_get s)).trans ?_
  rw [cutAt_none hc]
  rfl

end Sys2Proof.Proofs
end

/-! ## A vector instruction that writes a group: its checks and its end (R160, R162, R368) -/
section
namespace Sys2Proof.Proofs

open Sys2Proof.Machine Sys2Proof.Laws

variable {s : State}

/-! ### The checks -/

theorem checkSource_ok {v : Reg} (h : v.toNat % tagGroup (s.tag v) = 0) : checkSource v s = .ok () s := by
  refine (exec_bind_ok (exec_get s)).trans ?_
  rw [if_neg (not_not_intro h)]
  rfl

theorem checkSource_trap {v : Reg} (h : v.toNat % tagGroup (s.tag v) ≠ 0) :
    checkSource v s = (trap 0x41 (some (v.setWidth 64)) ((s.tag v).setWidth 64) : Exec Unit) s := by
  refine (exec_bind_ok (exec_get s)).trans ?_
  rw [if_pos h]

theorem mismatch_trap {α : Type} (va vb vd : Option Reg) :
    (mismatch va vb vd : Exec α) s = (trap 0x05 none (s.mismatchTags va vb vd) : Exec α) s :=
  exec_bind_ok (exec_get s)

theorem needGroup_ok {f : Fmt} {g : Nat} (h : s.regs.destGroup f = some g) : needGroup f s = .ok g s := by
  refine (exec_bind_ok (exec_getRegs s)).trans ?_
  rw [h]
  rfl

theorem checkDest_ok {d : Reg} {f : Fmt} {g : Nat} (h : s.regs.destGroup f = some g) (hd : d.toNat % g = 0) :
    checkDest d f s = .ok g s := by
  refine (exec_bind_ok (needGroup_ok h)).trans (exec_bind_ok (a := ()) ?_)
  rw [checkAlign, if_neg (not_not_intro hd)]
  rfl

theorem checkDest_trap {d : Reg} {f : Fmt} {g : Nat} (h : s.regs.destGroup f = some g) (hd : d.toNat % g ≠ 0) :
    checkDest d f s = (trap 0x41 (some (d.setWidth 64)) ((mkTag f g).setWidth 64) : Exec Nat) s := by
  refine (exec_bind_ok (needGroup_ok h)).trans (exec_bind_error (e := .trap _) ?_)
  rw [checkAlign, if_pos hd]
  rfl

/-! ### The end -/

/-- The end of an instruction changes nothing but the pc, LOOPCTL and what is pending (R141, R359). -/
theorem retire_frame (s : State) (i : Instr) : ∃ ps c, s.retire i .seq = { s with cur := { s.cur with
    pc := s.advance.cur.pc, pending := ps, regs := { s.cur.regs with loopCtl := c } } } := by
  obtain ⟨pc, c, ha⟩ : ∃ pc c, s.advance = { s with cur := { s.cur with pc := pc, regs := { s.cur.regs with loopCtl := c } } } :=
    ⟨_, _, advance_frame s⟩
  rw [State.retire, ha, State.stepTrap]
  split <;> exact ⟨_, _, rfl⟩

/-- The next word's address is found from the pc, LOOP_ADDR, LOOPCTL and the scalar registers alone (R141). -/
theorem advance_pc_congr {s t : State} (hpc : t.cur.pc = s.cur.pc) (hg : t.cur.g = s.cur.g)
    (ha : t.regs.loopAddr = s.regs.loopAddr) (hc : t.regs.loopCtl = s.regs.loopCtl) : t.advance.cur.pc = s.advance.cur.pc := by
  have hreg : ∀ n : Reg, t.g n = s.g n := fun n => by rw [State.g, State.g, hg]
  unfold State.advance
  simp only [hc, ha, hpc, hreg]
  split
  · split <;> rfl
  · rfl

theorem retire_pc (s : State) (i : Instr) : (s.retire i .seq).cur.pc = s.advance.cur.pc := by
  obtain ⟨ps, c, h⟩ := retire_frame s i
  rw [h]

/-- A vector instruction whose body writes a group, raises its events and sets VSTART to 0 completes (R160). -/
theorem vectorCompletes_of_body {u w : State} {pipe : Nat} {i : Instr} {body : Exec Unit} {d : Reg} {f : Fmt} {g len : Nat}
    {xs : List (Nat × Nat)} {es : List (Nat × Events)} (hr : s.runs .threadOnly) (hq : s.cur.vqueue.length < 32)
    (hc : s.cur.cut = none) (hb : body s = .ok () (w.setRegs { w.regs with vstart := 0 })) (hu : vectorsOnly s u)
    (hw : flagsOnly u w) (hg : groupWritten s u d.toNat f g len xs) (hrows : rowsWritten s u d.toNat f g s.regs.start len len)
    (he : eventsRaised u w es) :
    ∃ t, vinsn pipe i body s = .next t ∧ t.cur.v = u.cur.v ∧ vectorCompletes s (.next t) d f g len xs es := by
  obtain ⟨v, st, vh, vd, rfl⟩ : ∃ v st vh vd, u = { s with cur := { s.cur with v := v, stall := st, regs := { s.cur.regs with
    vhigh := vh, vdirty := vd } } } := ⟨_, _, _, _, hu⟩
  obtain ⟨ff, nv, dz, ov, uf, nx, rfl⟩ : ∃ ff nv dz ov uf nx, w = { s with cur := { s.cur with v := v, stall := st, regs :=
    { s.cur.regs with vhigh := vh, vdirty := vd, fflags := ff, fidxNv := nv, fidxDz := dz, fidxOf := ov, fidxUf := uf,
                      fidxNx := nx } } } := ⟨_, _, _, _, _, _, hw⟩
  have hend := vinsn_ok (pipe := pipe) (i := i) hr hq hc hb hc
  generalize VToken.of pipe i s _ = token at hend
  generalize ht0 : State.enqueue _ token = t0 at hend
  have hpc : (t0.retire i .seq).cur.pc = (s.retire (.hint 0) .seq).cur.pc := by
    rw [retire_pc, retire_pc]
    subst ht0
    exact advance_pc_congr rfl rfl rfl rfl
  refine ⟨_, hend, ?_⟩
  obtain ⟨ps, c, ht⟩ := retire_frame t0 i
  subst ht0
  rw [ht] at hpc ⊢
  exact ⟨rfl, _, rfl, rfl, hpc, ⟨rfl, rfl, rfl⟩, rfl, hg, hrows, he⟩

end Sys2Proof.Proofs
end

/-! # Number formats (spec/05_number_formats.md): block quantisation

## The shape of a block (R96) -/
section
namespace Sys2Proof.Proofs

open Sys2Proof.Machine Sys2Proof.Laws

variable {f : Fmt} {k : Nat} {rnd : Nat → Rnd} {sign : Nat → Bool} {xs : List Val}

/-- Neither NaN nor an infinity. -/
def Finite (v : Val) : Prop := ∃ n m e, v = .fin n m e

/-- Some finite value is not zero. -/
def someNonzero (xs : List Val) : Prop := ∃ n m e, .fin n m e ∈ xs ∧ m ≠ 0

/-! ### The greatest magnitude -/

theorem cmpVal_pos_magnitude {m m' : Nat} {e e' : Int} (h : 0 < cmpVal (.fin false m e) (.fin false m' e')) : m ≠ 0 := by
  rintro rfl
  revert h
  unfold cmpVal addFin
  simp only [if_true, Bool.not_false, Bool.false_eq_true, if_false]
  by_cases hm : m' = 0
  · simp [hm]
  · have hm' : ¬ 0 = m' := fun e => hm e.symm
    simp [hm, hm']

theorem cmpVal_pos_of_zero {m : Nat} (e e' : Int) (h : m ≠ 0) : 0 < cmpVal (.fin false m e) (.fin false 0 e') := by
  have hm : 0 < m := Nat.pos_of_ne_zero h
  simp [cmpVal, addFin, h, hm]

/-- What one value does to the greatest so far. -/
def maxStep (b : Nat × Val) (p : Val × Nat) : Nat × Val := if 0 < cmpVal p.1.abs b.2 then (p.2, p.1.abs) else b

theorem blockMax_eq (xs : List Val) : blockMax xs = xs.zipIdx.foldl maxStep (0, .fin false 0 0) := rfl

/-- The greatest of finite values is finite, and not zero where one of them or the greatest before is not. -/
theorem foldl_maxStep (ps : List (Val × Nat)) (hps : ∀ p ∈ ps, Finite p.1) {b : Nat × Val} {m0 : Nat} {e0 : Int}
    (hb : b.2 = .fin false m0 e0) : ∃ m e, (ps.foldl maxStep b).2 = .fin false m e ∧
      ((m0 ≠ 0 ∨ ∃ p ∈ ps, ∃ n m e, p.1 = .fin n m e ∧ m ≠ 0) → m ≠ 0) := by
  induction ps generalizing b m0 e0 with
  | nil => exact ⟨m0, e0, hb, fun h => h.resolve_right (by simp)⟩
  | cons p ps ih =>
    obtain ⟨hp, hps⟩ := List.forall_mem_cons.mp hps
    obtain ⟨n, m1, e1, hp⟩ := hp
    rw [List.foldl_cons, maxStep, hp, hb, Val.abs]
    split
    · rename_i hgt
      obtain ⟨m, e, hm, hne⟩ := ih hps (b := (p.2, .fin false m1 e1)) rfl
      exact ⟨m, e, hm, fun _ => hne (.inl (cmpVal_pos_magnitude hgt))⟩
    · rename_i hle
      obtain ⟨m, e, hm, hne⟩ := ih hps hb
      refine ⟨m, e, hm, fun h => hne ?_⟩
      rcases h with h | ⟨q, hq, n', m', e', hq', hm'⟩
      · exact .inl h
      · rcases List.mem_cons.mp hq with rfl | hq
        · obtain ⟨-, rfl, -⟩ : n = n' ∧ m1 = m' ∧ e1 = e' := by simpa using hp.symm.trans hq'
          exact .inl fun h0 => hle (h0 ▸ cmpVal_pos_of_zero e1 e0 hm')
        · exact .inr ⟨q, hq, n', m', e', hq', hm'⟩

theorem blockMax_finite (h : ∀ x ∈ xs, Finite x) : ∃ m e, (blockMax xs).2 = .fin false m e ∧ (someNonzero xs → m ≠ 0) := by
  rw [blockMax_eq]
  obtain ⟨m, e, hm, hne⟩ := foldl_maxStep xs.zipIdx (fun p hp => h _ (List.fst_mem_of_mem_zipIdx hp))
    (b := (0, .fin false 0 0)) rfl
  refine ⟨m, e, hm, fun ⟨n, m', e', hx, hm'⟩ => hne (.inr ?_)⟩
  obtain ⟨i, hi, hx⟩ := List.mem_iff_getElem.mp hx
  exact ⟨(xs[i], i), List.mk_mem_zipIdx_iff_getElem?.mpr (by simp), n, m', e', hx, hm'⟩

/-! ### The elements -/

theorem blockElem_lt (hf : f = 11 ∨ f = 12) (neg : Bool) {sel m : Nat} (hs : sel ≤ 1) (hm : m ≤ blockM f) :
    blockElem f neg sel m < 2 ^ f.bits := by
  have hn : bit1 neg ≤ 1 := by cases neg <;> decide
  rcases hf with rfl | rfl
  · have hm : m ≤ 63 := hm
    show bit1 neg * 128 + sel * 64 + m < 256
    omega
  · have hm : m ≤ 3 := hm
    show bit1 neg * 8 + sel * 4 + m < 16
    omega

/-- An element under the exponent that is nearer. -/
theorem blockElem_chosen_lt (hf : f = 11 ∨ f = 12) (neg : Bool) {c : Prop} [Decidable c] {m0 m1 : Nat} (h1 : m1 ≤ blockM f)
    (h0 : m0 ≤ blockM f) : blockElem f neg (if c then 1 else 0) (if c then m1 else m0) < 2 ^ f.bits := by
  split
  · exact blockElem_lt hf neg (Nat.le_refl 1) h1
  · exact blockElem_lt hf neg (Nat.zero_le 1) h0

/-- 32 elements, each within the format's bits. -/
def fitsBlock (f : Fmt) (es : List Nat) : Prop := es.length = 32 ∧ ∀ x ∈ es, x < 2 ^ f.bits

theorem fitsBlock_zeros (hf : f = 11 ∨ f = 12) : fitsBlock f ((List.range 32).map (fun i => blockElem f (sign i) 0 0)) := by
  refine ⟨by simp, fun x hx => ?_⟩
  obtain ⟨i, -, rfl⟩ := List.mem_map.mp hx
  exact blockElem_lt hf _ (Nat.zero_le 1) (Nat.zero_le _)

theorem fitsBlock_values {F : Val × Nat → Nat × Events} (hx : xs.length = 32) (hF : ∀ p, (F p).1 < 2 ^ f.bits) :
    fitsBlock f ((xs.zipIdx.map F).map (fun r => r.1)) := by
  refine ⟨by simp [hx], fun x hx => ?_⟩
  obtain ⟨r, hr, rfl⟩ := List.mem_map.mp hx
  obtain ⟨p, -, rfl⟩ := List.mem_map.mp hr
  exact hF p

/-! ### The block -/

/-- Where the quantiser finds no value that is not finite, all are. -/
theorem finite_of_find {P : Val × Nat → Bool} (h : xs.zipIdx.find? P = none) (hP : ∀ p, ¬ P p = true → Finite p.1) :
    ∀ x ∈ xs, Finite x := by
  intro x hx
  obtain ⟨i, hi, rfl⟩ := List.mem_iff_getElem.mp hx
  exact hP _ (List.find?_eq_none.mp h (xs[i], i) (List.mk_mem_zipIdx_iff_getElem?.mpr (by simp)))

theorem quantize_fitsBlock (hf : f = 11 ∨ f = 12) (hx : xs.length = 32) : fitsBlock f (quantize f k rnd sign xs).2.1 := by
  unfold quantize
  split
  · exact fitsBlock_zeros hf
  · rename_i hfind
    have hfin : ∀ x ∈ xs, Finite x := finite_of_find hfind fun p hp => by
      obtain ⟨v, j⟩ := p
      cases v with
      | fin n m e => exact ⟨n, m, e, rfl⟩
      | nan => exact absurd rfl hp
      | inf n => exact absurd rfl hp
    split
    · split
      · exact fitsBlock_zeros hf
      · refine fitsBlock_values hx fun p => ?_
        obtain ⟨v, j⟩ := p
        cases v with
        | fin n m e =>
          exact blockElem_chosen_lt hf n (Nat.min_le_right _ _) (Nat.min_le_right _ _)
        | nan => exact Nat.two_pow_pos _
        | inf n => exact Nat.two_pow_pos _
    · rename_i hmax
      obtain ⟨m, e, hm, -⟩ := blockMax_finite hfin
      exact (hmax _ _ _ _ (Prod.ext rfl hm)).elim

/-- The first exponent is clamped to 254, the second lies `k` below it but not below 1. -/
theorem exponents_clamped {n k : Nat} (hn : 1 ≤ n) : ∃ e0 e1, 1 ≤ e0 ∧ e0 ≤ 254 ∧ 1 ≤ e1 ∧ e1 ≤ e0 ∧
    min n 254 + 256 * max (min n 254 - k) 1 = e0 + 256 * e1 :=
  ⟨min n 254, max (min n 254 - k) 1, by omega, by omega, by omega, by omega, rfl⟩

/-- The two exponents of a scale word. -/
theorem quantize_exponents (hfin : ∀ x ∈ xs, Finite x) (hne : someNonzero xs) :
    ∃ e0 e1, 1 ≤ e0 ∧ e0 ≤ 254 ∧ 1 ≤ e1 ∧ e1 ≤ e0 ∧ (quantize f k rnd sign xs).1 = e0 + 256 * e1 := by
  obtain ⟨m, e, hm, h0⟩ := blockMax_finite hfin
  have h0 := h0 hne
  unfold quantize
  split
  · rename_i v j hfind
    obtain ⟨n, m, e, rfl⟩ := hfin _ (List.fst_mem_of_mem_zipIdx (List.mem_of_find?_eq_some hfind))
    exact absurd (List.find?_some hfind) (by simp)
  · split
    · rename_i ja n m' x hmax
      obtain ⟨-, rfl, -⟩ : n = false ∧ m' = m ∧ x = e := by simpa [hmax] using hm
      rw [if_neg h0]
      exact exponents_clamped (by split <;> omega)
    · rename_i hmax
      exact (hmax _ _ _ _ (Prod.ext rfl hm)).elim

theorem quantize_notFinite (h : ∃ x ∈ xs, x = .nan ∨ x = .inf true ∨ x = .inf false) :
    (quantize f k rnd sign xs).1 = 0xFFFF := by
  obtain ⟨x, hx, hbad⟩ := h
  unfold quantize
  split
  · rfl
  · rename_i hfind
    obtain ⟨i, hi, rfl⟩ := List.mem_iff_getElem.mp hx
    have hno := List.find?_eq_none.mp hfind (xs[i], i) (List.mk_mem_zipIdx_iff_getElem?.mpr (by simp))
    rcases hbad with hb | hb | hb <;> simp [hb] at hno

/-- The signs of a block's elements are all that it takes of the signs. -/
theorem quantize_sign_congr {sign' : Nat → Bool} (h : ∀ i < 32, sign i = sign' i) :
    quantize f k rnd sign xs = quantize f k rnd sign' xs := by
  have hz : (List.range 32).map (fun i => blockElem f (sign i) 0 0) = (List.range 32).map (fun i => blockElem f (sign' i) 0 0) :=
    List.map_congr_left fun i hi => by rw [h i (List.mem_range.mp hi)]
  unfold quantize
  rw [hz]

end Sys2Proof.Proofs
end

/-! ## vqbx (R172) -/
section
namespace Sys2Proof.Proofs

open Sys2Proof.Machine Sys2Proof.Laws

variable {s : State}

/-! ### A block group written (R118) -/

/-- A block group with rows for its elements takes them, and is written with its scale words, its tail and its events. -/
theorem blockGroup_ok {d : Reg} {srcs : List Reg} {f : Fmt} {g : Nat} (h : VectorReady s d srcs f g s.regs.start s.regs.len)
    (hf : f < 16) (hb : f.isBlock = true) {xs ws : List (Nat × Nat)} (es : List (Nat × Events))
    (hn : xs.Pairwise (fun a b => a.1 ≠ b.1)) (hlo : ∀ e ∈ xs, s.regs.start ≤ e.1) :
    ∃ u w, (do
        takeRows d.toNat f g s.regs.start s.regs.len
        writeGroup d.toNat f g s.regs.start s.regs.len xs
        writeScales d.toNat ws
        trimScales d.toNat s.regs.len
        flags es
        endStrip : Exec Unit) s = .ok () (w.setRegs { w.regs with vstart := 0 }) ∧
      vectorsOnly s u ∧ flagsOnly u w ∧ groupWritten s u d.toNat f g s.regs.len xs ∧
      rowsWritten s u d.toNat f g s.regs.start s.regs.len s.regs.len ∧ eventsRaised u w es ∧
      (u.v d.toNat).scale = scalesTrimmed (scalesSet (s.v d.toNat).scale ws) s.regs.tail s.regs.len := by
  have hg := destGroup_cases h.group
  have hd : d.toNat < 32 := d.isLt
  obtain ⟨s1, h1, f1, v1⟩ := takeRows_ok h.rows
  obtain ⟨s2, h2, f2, v2⟩ := writeGroup_ok ((vectorsOnly_cut f1).trans h.uncut) d.toNat f g s.regs.start s.regs.len xs
  have f2 := vectorsOnly_trans f1 f2
  obtain ⟨s3, h3, f3, v3⟩ := writeScales_ok (s := s2) hd ws
  have f3 := vectorsOnly_trans f2 f3
  obtain ⟨u, h4, f4, v4⟩ := trimScales_ok ((vectorsOnly_cut f3).trans h.uncut) hd s.regs.len
  have f4 := vectorsOnly_trans f3 f4
  obtain ⟨w, h5, f5, he⟩ := flags_ok (s := u) es
  have hcut : w.cur.cut = none := by rw [f5]; exact (vectorsOnly_cut f4).trans h.uncut
  have hv2 : ∀ n, u.v n = { s2.v n with scale := (u.v n).scale } := by
    intro n
    rw [v4, v3]
    split <;> rfl
  have hm : membersWritten s u d.toNat f g s.regs.start s.regs.len xs := by
    intro j hj
    have hin : d.toNat ≤ d.toNat + j ∧ d.toNat + j < d.toNat + g ∧ d.toNat + j < 32 :=
      ⟨by omega, by omega, member_lt hg h.dest hj⟩
    refine ⟨(u.v (d.toNat + j)).scale, (hv2 _).trans ?_⟩
    rw [v2, if_pos hin, v1, if_pos hin, vectorsOnly_tail f1, Nat.add_sub_cancel_left]
    rfl
  have hother : ∀ n, ¬(d.toNat ≤ n ∧ n < d.toNat + g) → u.v n = s.v n := by
    intro n hn
    have hne : n ≠ d.toNat := fun e => hn (by omega)
    have hout : ¬(d.toNat ≤ n ∧ n < d.toNat + g ∧ n < 32) := fun h => hn ⟨h.1, h.2.1⟩
    rw [v4, if_neg hne, v3, if_neg hne, v2, if_neg hout, v1, if_neg hout]
  have hscale : (u.v d.toNat).scale = scalesTrimmed (scalesSet (s.v d.toNat).scale ws) s.regs.tail s.regs.len := by
    have hin : d.toNat ≤ d.toNat ∧ d.toNat < d.toNat + g ∧ d.toNat < 32 := ⟨by omega, by omega, hd⟩
    rw [v4, if_pos rfl, v3, if_pos rfl, v2, if_pos hin, v1, if_pos hin, vectorsOnly_tail f3, Nat.sub_self, writeMember]
    simp [hb, withRows]
  refine ⟨u, w, ?_, f4, f5, ⟨groupHolds_of_members hm hf hg hn hlo, hother⟩, rowsWritten_of_members hm, he, hscale⟩
  exact (exec_bind_ok h1).trans ((exec_bind_ok h2).trans ((exec_bind_ok h3).trans ((exec_bind_ok h4).trans
    ((exec_bind_ok h5).trans (endStrip_ok hcut)))))

/-! ### What it writes -/

/-- The blocks that vqbx quantises: those from VSTART on. -/
def quantBlocks (s : State) : List Nat := (List.range (s.regs.len / 32)).drop (s.regs.start / 32)

/-- The quantised block `b` of the source group at `a`. -/
def quantBlock (s : State) (a : Reg) (k : BitVec 3) (rm : BitVec 2) (b : Nat) : Nat × List Nat × List (Nat × Events) :=
  quantize s.regs.fmt k.toNat (fun j => { s.rnd rm (32 * b + j) with fz := false })
    (fun j => s.bitsIn a.toNat (32 * b + j) 6 / 2 ^ 31 % 2 == 1) ((List.range 32).map (fun j => s.elemVal a.toNat (32 * b + j)))

/-- The elements, scale words and events of quantised blocks, by their index in the group. -/
def quantElems (bs : List Nat) (q : Nat → Nat × List Nat × List (Nat × Events)) : List (Nat × Nat) :=
  (bs.map (fun b => (q b).2.1.zipIdx.map (fun e => (32 * b + e.2, e.1)))).flatten
def quantScales (bs : List Nat) (q : Nat → Nat × List Nat × List (Nat × Events)) : List (Nat × Nat) :=
  bs.map (fun b => (b, (q b).1))
def quantEvents (bs : List Nat) (q : Nat → Nat × List Nat × List (Nat × Events)) : List (Nat × Events) :=
  (bs.map (fun b => (q b).2.2.map (fun e => (32 * b + e.1, e.2)))).flatten

theorem quantBlocks_pairwise (s : State) : (quantBlocks s).Pairwise (· < ·) :=
  List.pairwise_lt_range.sublist (List.drop_sublist _ _)

theorem mem_quantBlocks {b : Nat} (h : b ∈ quantBlocks s) : s.regs.start / 32 ≤ b ∧ b < s.regs.len / 32 := by
  obtain ⟨i, hi, rfl⟩ := List.mem_iff_getElem.mp h
  simp only [quantBlocks, List.length_drop, List.length_range] at hi
  simp only [quantBlocks, List.getElem_drop, List.getElem_range]
  omega

section
variable {bs : List Nat} {q : Nat → Nat × List Nat × List (Nat × Events)}

/-- The elements of one block are its elements' indices from `32 * b` to `32 * b + 31`. -/
theorem mem_blockIndices {b : Nat} {ys : List Nat} (hy : ys.length = 32) {e : Nat × Nat}
    (he : e ∈ ys.zipIdx.map (fun e => (32 * b + e.2, e.1))) : 32 * b ≤ e.1 ∧ e.1 < 32 * b + 32 := by
  obtain ⟨p, hp, rfl⟩ := List.mem_map.mp he
  have hlt := List.snd_lt_of_mem_zipIdx hp
  simp only
  omega

theorem quantElems_ge {n : Nat} (hn : n % 32 = 0) (hb : ∀ b ∈ bs, n / 32 ≤ b) (hq : ∀ b, (q b).2.1.length = 32) :
    ∀ e ∈ quantElems bs q, n ≤ e.1 := by
  intro e he
  obtain ⟨l, hl, he⟩ := List.mem_flatten.mp he
  obtain ⟨b, hmem, rfl⟩ := List.mem_map.mp hl
  have h1 := hb b hmem
  have h2 := mem_blockIndices (hq b) he
  omega

/-- Each element of blocks listed each once is listed once. -/
theorem quantElems_pairwise (hb : bs.Pairwise (· < ·)) (hq : ∀ b, (q b).2.1.length = 32) :
    (quantElems bs q).Pairwise (fun a b => a.1 ≠ b.1) := by
  refine List.pairwise_flatten.mpr ⟨fun l hl => ?_, List.pairwise_map.mpr (hb.imp fun {b c} hbc e he e' he' => ?_)⟩
  · obtain ⟨b, -, rfl⟩ := List.mem_map.mp hl
    refine List.pairwise_iff_getElem.mpr fun i j hi hj hij => ?_
    simp only [List.getElem_map, List.getElem_zipIdx]
    omega
  · have h1 := mem_blockIndices (hq b) he
    have h2 := mem_blockIndices (hq c) he'
    omega

end

/-! ### Its checks -/

/-- The trap of a form with one source and no destination to check yet: a misaligned source, then formats that are not legal. -/
theorem checkTrap_source (a : Reg) (legal : Bool) (tags : Word) : s.checkTrap false [a] legal tags [] =
    if a.toNat % tagGroup (s.tag a) ≠ 0 then some (trap 0x41 (some (a.setWidth 64)) ((s.tag a).setWidth 64))
    else if legal then none else some (trap 0x05 none tags) := by
  unfold State.checkTrap
  by_cases ha : a.toNat % tagGroup (s.tag a) = 0
  · cases legal <;> simp [ha]
  · simp [ha]

theorem settle_congr {i : Instr} {x y : Exec Unit} (h : x s = y s) : settle i x s = settle i y s := by
  unfold settle
  rw [h]

/-- A vector instruction whose body does what a trap does takes that trap. -/
theorem vinsn_trap {pipe : Nat} {i : Instr} {body x : Exec Unit} {e : Stop} (hr : s.runs .threadOnly)
    (hq : s.cur.vqueue.length < 32) (hc : s.cur.cut = none) (h : body s = x s) (hx : x s = .error e s) :
    vinsn pipe i body s = .next (settle i x s) := by
  have hu : (if cuttable i then s else s.uncut) = s := by
    split
    · rfl
    · exact uncut_self hc
  refine (vinsn_error hr hq (t := s) (e := e) (by rw [hu, h, hx])).trans ?_
  rw [settle_congr (x := throw e) (y := x) hx.symm]

/-! ### The instruction -/

theorem isBlock_cases {f : Fmt} (h : f.isBlock = true) : f = 11 ∨ f = 12 := by simpa [Fmt.isBlock] using h

theorem quantBlock_length (hf : s.regs.fmt.isBlock = true) (a : Reg) (k : BitVec 3) (rm : BitVec 2) (b : Nat) :
    (quantBlock s a k rm b).2.1.length = 32 :=
  (quantize_fitsBlock (isBlock_cases hf) (by simp)).1

/-- Where no pre-emption cuts an instruction, a cut forgotten changes nothing (R161). -/
theorem forgetCut_ok (hc : s.cur.cut = none) {c : Bool} (x : Exec Unit) :
    (if c = true then modCur (fun a => { a with cut := none }) >>= fun _ => x else x) s = x s := by
  have huncut : modCur (fun a => { a with cut := none }) s = .ok () s := congrArg (EStateM.Result.ok ()) (uncut_self hc)
  cases c
  · rfl
  · exact exec_bind_ok huncut

/-- What vqbx does: its source and its formats are checked, its destination, VSTART, and then the blocks are written. -/
theorem vqbx_body (s : State) (d a : Reg) (k : BitVec 3) (rm : BitVec 2) (hc : s.cur.cut = none) :
    ∃ (body : Exec Unit) (rest : Nat → Exec Unit), exec (.vqbx d a k rm) s = vinsn 0 (.vqbx d a k rm) body s ∧
      (a.toNat % tagGroup (s.tag a) ≠ 0 → body s = (trap 0x41 (some (a.setWidth 64)) ((s.tag a).setWidth 64) : Exec Unit) s) ∧
      (a.toNat % tagGroup (s.tag a) = 0 → (quantSource (tagFmt (s.tag a)) && s.regs.fmt.isBlock) = false →
        body s = (trap 0x05 none (s.mismatchTags (some a) none none) : Exec Unit) s) ∧
      (a.toNat % tagGroup (s.tag a) = 0 → (quantSource (tagFmt (s.tag a)) && s.regs.fmt.isBlock) = true →
        body s = (checkDest d s.regs.fmt >>= rest) s) ∧
      (∀ g, s.regs.start % 32 ≠ 0 → rest g s = (trap 0x49 (some s.regs.vstart) : Exec Unit) s) ∧
      (∀ g, s.regs.start % 32 = 0 → rest g s = (do
        takeRows d.toNat s.regs.fmt g s.regs.start s.regs.len
        writeGroup d.toNat s.regs.fmt g s.regs.start s.regs.len (quantElems (quantBlocks s) (quantBlock s a k rm))
        writeScales d.toNat (quantScales (quantBlocks s) (quantBlock s a k rm))
        trimScales d.toNat s.regs.len
        flags (quantEvents (quantBlocks s) (quantBlock s a k rm))
        endStrip : Exec Unit) s) := by
  have hq : ∀ b, quantize s.regs.fmt k.toNat (fun j => { s.rnd rm (32 * b + j) with fz := false })
      (fun j => ((List.range 32).map (fun j => s.bitsIn a.toNat (32 * b + j) 6)).getD j 0 / 2 ^ 31 % 2 == 1)
      ((List.range 32).map (fun j => s.elemVal a.toNat (32 * b + j))) = quantBlock s a k rm b := fun b =>
    quantize_sign_congr fun i hi => by simp [List.getD, hi]
  refine ⟨_, ?rest, rfl, fun ha => ?source, fun ha hl => ?formats, fun ha hl => ?dest, ?start, ?blocks⟩
  case source => exact exec_bind_error (checkSource_trap ha)
  case formats =>
    have hl : quantSource (tagFmt (s.tag a)) = false ∨ s.regs.fmt.isBlock = false := Bool.and_eq_false_iff.mp hl
    refine (exec_bind_ok (checkSource_ok ha)).trans ((exec_bind_ok (exec_get s)).trans ?_)
    dsimp only
    rw [if_pos hl]
    exact exec_bind_error (mismatch_trap _ _ _)
  case dest =>
    obtain ⟨hs, hf⟩ := Bool.and_eq_true_iff.mp hl
    have hl : ¬(quantSource (tagFmt (s.tag a)) = false ∨ s.regs.fmt.isBlock = false) := by simp [hs, hf]
    refine (exec_bind_ok (checkSource_ok ha)).trans ((exec_bind_ok (exec_get s)).trans ?_)
    dsimp only
    rw [if_neg hl]
  case start =>
    intro g hv
    exact (congrFun (if_pos hv) s).trans (exec_bind_error rfl)
  case blocks =>
    intro g hv
    refine (congrFun (if_neg (not_not_intro hv)) s).trans ((forgetCut_ok hc _).trans ((exec_bind_ok (exec_get s)).trans ?_))
    simp only [cutAt_none hc, Option.getD_none, List.map_map, Function.comp_def, hq]
    rfl

/-- R172: vqbx that passes its checks completes, block by block. -/
theorem vqbx_completes {d a : Reg} {g : Nat} (k : BitVec 3) (rm : BitVec 2)
    (h : VectorReady s d [a] s.regs.fmt g s.regs.start s.regs.len) (hs : quantSource (tagFmt (s.tag a)) = true)
    (hf : s.regs.fmt.isBlock = true) (hv : s.regs.start % 32 = 0) :
    ∃ t, exec (.vqbx d a k rm) s = .next t ∧
      (t.v d.toNat).scale = scalesTrimmed (scalesSet (s.v d.toNat).scale (quantScales (quantBlocks s) (quantBlock s a k rm)))
        s.regs.tail s.regs.len ∧
      vectorCompletes s (.next t) d s.regs.fmt g s.regs.len (quantElems (quantBlocks s) (quantBlock s a k rm))
        (quantEvents (quantBlocks s) (quantBlock s a k rm)) := by
  have hlen := quantBlock_length hf a k rm
  obtain ⟨u, w, hwrite, hu, hw, hg, hr, he, hsc⟩ := blockGroup_ok (ws := quantScales (quantBlocks s) (quantBlock s a k rm)) h
    (fmt_lt s.regs) hf (quantEvents (quantBlocks s) (quantBlock s a k rm))
    (quantElems_pairwise (quantBlocks_pairwise s) hlen) (quantElems_ge hv (fun b hb => (mem_quantBlocks hb).1) hlen)
  obtain ⟨body, rest, hexec, -, -, hdest, -, hblocks⟩ := vqbx_body s d a k rm h.uncut
  have hbody : body s = .ok () (w.setRegs { w.regs with vstart := 0 }) :=
    (hdest (h.sources a (List.mem_singleton_self a)) (by rw [hs, hf]; rfl)).trans
      ((exec_bind_ok (checkDest_ok h.group h.dest)).trans ((hblocks g hv).trans hwrite))
  obtain ⟨t, ht, htv, hc⟩ := vectorCompletes_of_body h.runs h.room h.uncut hbody hu hw hg hr he
  refine ⟨t, hexec.trans ht, ?_, hc⟩
  rw [State.v, htv]
  exact hsc

/-- R118, R114: the scale words that vqbx leaves. -/
theorem vqbx_scales {bs : List Nat} {q : Nat → Nat × List Nat × List (Nat × Events)} (hp : bs.Pairwise (· < ·))
    (hlen : ∀ b ∈ bs, b < s.regs.len / 32) (x : BitVec 512) :
    (∀ b ∈ bs, b < 32 → field (scalesTrimmed (scalesSet x (quantScales bs q)) s.regs.tail s.regs.len) (16 * b) 16 =
      (q b).1 % 2 ^ 16) ∧
    (∀ b, (s.regs.len + 31) / 32 ≤ b → field (scalesTrimmed (scalesSet x (quantScales bs q)) s.regs.tail s.regs.len) (16 * b) 16 =
      if s.regs.tail = 0 then field x (16 * b) 16 else 0) := by
  refine ⟨fun b hb h32 => ?_, fun b hb => ?_⟩
  · have hlt := hlen b hb
    have hbelow : b < ceilDiv s.regs.len 32 := by unfold ceilDiv; omega
    rw [field_scalesTrimmed_below _ hbelow]
    have hmem : (b, (q b).1) ∈ quantScales bs q := List.mem_map.mpr ⟨b, hb, rfl⟩
    exact field_scalesSet_mem hmem (List.pairwise_map.mpr (hp.imp Nat.ne_of_lt)) h32 x
  · rw [field_scalesTrimmed_beyond _ hb, field_scalesSet_other]
    intro e he
    obtain ⟨c, hc, rfl⟩ := List.mem_map.mp he
    have hlt := hlen c hc
    exact Nat.ne_of_lt (by show c < b; omega)

/-- R160, R162: vqbx traps at the first of its checks that fails. -/
theorem vqbx_traps {d a : Reg} (k : BitVec 3) (rm : BitVec 2) (hr : s.runs .threadOnly) (hq : s.cur.vqueue.length < 32)
    (hc : s.cur.cut = none) :
    let i : Instr := .vqbx d a k rm
    let check := s.checkTrap false [a] (quantSource (tagFmt (s.tag a)) && s.regs.fmt.isBlock) (s.mismatchTags (some a) none none)
    (∀ x, check [] = some x → exec i s = .next (settle i x s)) ∧
    (∀ g, check [] = none → s.regs.destGroup s.regs.fmt = some g →
      (d.toNat % g ≠ 0 →
        exec i s = .next (settle i (trap 0x41 (some (d.setWidth 64)) ((mkTag s.regs.fmt g).setWidth 64)) s)) ∧
      (d.toNat % g = 0 → s.regs.start % 32 ≠ 0 → exec i s = .next (settle i (trap 0x49 (some s.regs.vstart)) s))) := by
  obtain ⟨body, rest, hexec, hsource, hformats, hdest, hstart, -⟩ := vqbx_body s d a k rm hc
  dsimp only
  rw [checkTrap_source, hexec]
  by_cases ha : a.toNat % tagGroup (s.tag a) = 0
  swap
  · rw [if_pos ha]
    exact ⟨fun x hx => Option.some.inj hx ▸ vinsn_trap hr hq hc (hsource ha) rfl, nofun⟩
  rw [if_neg (not_not_intro ha)]
  cases hl : quantSource (tagFmt (s.tag a)) && s.regs.fmt.isBlock with
  | false => exact ⟨fun x hx => Option.some.inj hx ▸ vinsn_trap hr hq hc (hformats ha hl) rfl, nofun⟩
  | true =>
    refine ⟨nofun, fun g _ hg => ⟨fun hd => ?_, fun hd hv => ?_⟩⟩
    · exact vinsn_trap hr hq hc ((hdest ha hl).trans (exec_bind_error (checkDest_trap hg hd))) rfl
    · exact vinsn_trap hr hq hc ((hdest ha hl).trans ((exec_bind_ok (checkDest_ok hg hd)).trans (hstart g hv))) rfl

/-- R96: the shape of a block. -/
theorem quantize_shape {f : Fmt} (k : Nat) (rnd : Nat → Rnd) (sign : Nat → Bool) {xs : List Val} (hf : f = 11 ∨ f = 12)
    (hx : xs.length = 32) :
    let q := quantize f k rnd sign xs
    q.2.1.length = 32 ∧ (∀ x ∈ q.2.1, x < 2 ^ f.bits) ∧
    ((∀ x ∈ xs, Finite x) → someNonzero xs → 1 ≤ q.1 % 256 ∧ q.1 % 256 ≤ 254 ∧ 1 ≤ q.1 / 256 ∧ q.1 / 256 ≤ q.1 % 256) ∧
    ((∃ x ∈ xs, x = .nan ∨ x = .inf true ∨ x = .inf false) → q.1 = 0xFFFF) := by
  obtain ⟨hlen, hlt⟩ := quantize_fitsBlock (k := k) (rnd := rnd) (sign := sign) hf hx
  refine ⟨hlen, hlt, fun hfin hne => ?_, quantize_notFinite⟩
  obtain ⟨e0, e1, h0, h254, h1, hle, hq⟩ := quantize_exponents (f := f) (k := k) (rnd := rnd) (sign := sign) hfin hne
  rw [hq]
  omega

/-- Settles O21: the blocks by `vqbx_completes` and `vqbx_scales`, the checks by `vqbx_traps`, a block by `quantize_shape`. -/
theorem quantization : Obligations.Quantization := by
  unfold Obligations.Quantization
  refine ⟨fun s d a k rm g h hs hf hv => ?_, fun s d a k rm => vqbx_traps k rm,
    fun f k rnd sign xs => quantize_shape k rnd sign⟩
  obtain ⟨t, ht, hscale, hc⟩ := vqbx_completes k rm h hs hf hv
  obtain ⟨hdone, hrest⟩ := vqbx_scales (s := s) (q := quantBlock s a k rm) (quantBlocks_pairwise s)
    (fun b hb => (mem_quantBlocks hb).2) (s.v d.toNat).scale
  rw [← hscale] at hdone hrest
  rw [ht]
  exact ⟨hc, t, rfl, hdone, fun b hb _ => hrest b hb⟩

end Sys2Proof.Proofs
end

/-! # Spill frames and save areas (spec/06_vector_registers.md), saving and restoring threads (spec/16_scheduling_context.md)

## What the accesses of an instruction leave alone (R190, R204, R240) -/
section
namespace Sys2Proof.Proofs

open Sys2Proof.Machine Sys2Proof.Laws

variable {α β : Type} {s t u : State}

/-- An agent without the bookkeeping of its accesses: the stores that a stream need not see yet, anchors, write ranges, handles,
responses. -/
def withoutAccesses (a : Agent) : Agent :=
  { a with
    loose := [], anchorCore := false, anchorCluster := false, anchorTower := false, ranges := [], overflow := false,
    fenceRanges := [], handles := Vector.replicate 8 Handle.unbound, reassembly := [] }

/-- Of the current agent nothing is different but the bookkeeping of its accesses, and of the device nothing but the head of the error
log. -/
def accessFrame (s t : State) : Prop :=
  withoutAccesses t.cur = withoutAccesses s.cur ∧ { t.dev with errhead := 0 } = { s.dev with errhead := 0 }

theorem accessFrame_refl (s : State) : accessFrame s s := ⟨rfl, rfl⟩

theorem accessFrame_trans (h : accessFrame s t) (k : accessFrame t u) : accessFrame s u :=
  ⟨k.1.trans h.1, k.2.trans h.2⟩

theorem accessFrame_of_dev (hc : withoutAccesses t.cur = withoutAccesses s.cur) (hd : t.dev = s.dev) : accessFrame s t :=
  ⟨hc, by rw [hd]⟩

theorem logError_accessFrame (s : State) (c n : Nat) (w d : Word) : accessFrame s (s.logError c n w d) := by
  obtain ⟨m, n, h⟩ := logError_frame s c n w d
  rw [h]
  exact ⟨rfl, rfl⟩

theorem foundIn_accessFrame (s : State) (unit : Option Nat) : accessFrame s (s.foundIn unit) := by
  unfold State.foundIn
  split
  · exact accessFrame_refl s
  · unfold State.foundError
    dsimp only
    split
    · exact accessFrame_trans ⟨rfl, rfl⟩ (logError_accessFrame _ _ _ _ _)
    · exact ⟨rfl, rfl⟩

/-- A change, under a condition, of what an agent notes of its stores. -/
theorem withoutAccesses_loose (a : Agent) (c : Prop) [Decidable c] (ls : List Loose) :
    withoutAccesses (if c then { a with loose := ls } else a) = withoutAccesses a := by
  split <;> rfl

theorem writeBack_accessFrame (s : State) (g : Nat) (l : L1Line) : accessFrame s (s.writeBack g l) := by
  have put (v : State) (line : Nat) (m : List Host.Cell) (p : List Nat) : accessFrame v { v.inCluster g (fun a => { a with
      loose := standHome v.mem l.pline line a.loose }) with mem := m, poison := p } :=
    accessFrame_of_dev (withoutAccesses_loose v.cur _ _) rfl
  have clean (v : State) (p : Prop) [Decidable p] (q : Nat → Bool) : accessFrame v (if p then v.cleanUnits q else v) := by
    split <;> exact ⟨rfl, rfl⟩
  unfold State.writeBack
  split
  · exact accessFrame_refl s
  · dsimp only
    split
    · split
      · exact accessFrame_trans (clean (s.l1Set g _) _ _) (put _ _ _ _)
      · exact logError_accessFrame (s.l1Set g _) _ _ _ _
    · exact accessFrame_trans (clean (s.l1Set g _) _ _) (put _ _ _ _)

theorem writeBackThread_accessFrame (s : State) (g id : Nat) : accessFrame s (s.writeBackThread g id) :=
  foldl_rel accessFrame_refl accessFrame_trans (fun s l => writeBack_accessFrame s g l) _ s

theorem limitDirty_accessFrame (s : State) (g id line : Nat) : accessFrame s (s.limitDirty g id line) := by
  unfold State.limitDirty
  split
  · exact accessFrame_refl s
  · split
    · exact accessFrame_refl s
    · exact writeBack_accessFrame _ _ _

theorem flushLine_accessFrame (s : State) (g line : Nat) : accessFrame s (s.flushLine g line) := by
  unfold State.flushLine
  split
  · exact accessFrame_refl s
  · exact accessFrame_trans (writeBack_accessFrame _ _ _) ⟨rfl, rfl⟩

theorem l1Insert_accessFrame (s : State) (g : Nat) (l : L1Line) : accessFrame s (s.l1Insert g l) := by
  unfold State.l1Insert
  dsimp only
  split
  · exact ⟨rfl, rfl⟩
  · exact accessFrame_trans (flushLine_accessFrame _ _ _) ⟨rfl, rfl⟩

theorem performAdd_accessFrame (s : State) (x : BankAdd) : accessFrame s (s.performAdd x) := by
  have found := foundIn_accessFrame s ((s.addLoc x).map errorUnit)
  unfold State.performAdd
  dsimp only
  split
  · exact found
  · exact accessFrame_trans found (accessFrame_of_dev (withoutAccesses_loose _ _ _) rfl)

/-! ### Computations that do nothing else -/

/-- Where the computation answers, it has left the rest alone. -/
def Accesses (x : Exec α) : Prop := ∀ (s t : State) (a : α), x s = .ok a t → accessFrame s t

theorem accesses_pure (a : α) : Accesses (pure a : Exec α) := by
  rintro s t b h
  cases h
  exact accessFrame_refl s

theorem accesses_throw (e : Stop) : Accesses (throw e : Exec α) := fun _ _ _ h => by simp at h

theorem accesses_bind {x : Exec α} {f : α → Exec β} (hx : Accesses x) (hf : ∀ a, Accesses (f a)) : Accesses (x >>= f) := by
  rintro s t b h
  obtain ⟨a, u, hu, ht⟩ := exec_bind_eq_ok h
  exact accessFrame_trans (hx _ _ _ hu) (hf a _ _ _ ht)

theorem accesses_modify {f : State → State} (h : ∀ s, accessFrame s (f s)) : Accesses (modify f : Exec PUnit) := by
  rintro s t b ht
  cases ht
  exact h s

theorem accesses_get_bind {f : State → Exec β} (h : ∀ s, Accesses (f s)) : Accesses (get >>= f) := fun s => h s s

theorem accesses_getCur_bind {f : Agent → Exec β} (h : ∀ a, Accesses (f a)) : Accesses (getCur >>= f) := fun s => h s.cur s

theorem accesses_orTrap (va : Word) (st : Nat) (x : Except AFault α) : Accesses (orTrap va st x) := by
  cases x
  · exact accesses_bind (accesses_modify (fun s => foundIn_accessFrame s _)) (fun _ => accesses_throw _)
  · exact accesses_pure _

theorem accesses_each (xs : List α) {f : α → Exec Unit} (h : ∀ a, Accesses (f a)) : Accesses (each xs f) := by
  induction xs with
  | nil => exact accesses_pure ()
  | cons x xs ih => exact accesses_bind (h x) (fun _ => ih)

theorem accesses_drawBelow (n : Nat) : Accesses (drawBelow n) := by
  unfold drawBelow
  split
  · exact accesses_pure 0
  · rintro s t a h
    cases h
    exact ⟨rfl, rfl⟩

end Sys2Proof.Proofs
end

section
namespace Sys2Proof.Proofs

open Sys2Proof.Machine Sys2Proof.Laws

variable {α β : Type} {s t u : State}

/-! ### Stores (R190, R204, R205) -/

theorem accesses_modCur {f : Agent → Agent} (h : ∀ a, withoutAccesses (f a) = withoutAccesses a) : Accesses (modCur f) :=
  accesses_modify (fun s => ⟨h s.cur, rfl⟩)

theorem accesses_need (b : Bool) : Accesses (need b) := by
  cases b
  · exact accesses_throw _
  · exact accesses_pure ()

theorem accesses_passBar (st : Nat) : Accesses (passBar st) := accesses_getCur_bind (fun _ => accesses_need _)

theorem accesses_anchor (va : Word) : Accesses (anchor va) := by
  unfold anchor
  split
  · split <;> exact accesses_modCur (fun _ => rfl)
  · exact accesses_pure ()

theorem accesses_pickPoint (p : Loose → Bool) (es : List Loose) : Accesses (pickPoint p es) :=
  accesses_bind (accesses_drawBelow _) (fun _ => accesses_pure _)

theorem accesses_putWord (st : Nat) (b : Bool) (word : Nat) (m x y : BitVec 64) (at_ : Bool) (k cmd : Nat) :
    Accesses (putWord st b word m x y at_ k cmd) :=
  accesses_getCur_bind (fun _ => accesses_bind (accesses_modCur (fun _ => rfl)) (fun _ => accesses_pure _))

theorem accesses_storeWord (st : Nat) (b : Bool) (word : Nat) (m x y : BitVec 64) : Accesses (storeWord st b word m x y) :=
  accesses_getCur_bind (fun _ => accesses_bind (accesses_pickPoint _ _) (fun _ => accesses_putWord _ _ _ _ _ _ _ _ _))

theorem accesses_putBytes (st loc : Nat) (xs : List Byte) : Accesses (putBytes st loc xs) :=
  accesses_get_bind (fun _ => accesses_bind (accesses_storeWord _ _ _ _ _ _) (fun _ => accesses_modify (fun s => by
    dsimp only
    split <;> exact ⟨rfl, rfl⟩)))

theorem accesses_checkPoison (st : Nat) (va : Word) (loc hops : Nat) : Accesses (checkPoison st va loc hops) := by
  refine accesses_get_bind (fun s => ?_)
  split
  · intro s t a h
    obtain ⟨_, _, _, h⟩ := exec_bind_eq_ok h
    simp at h
  · split
    · exact accesses_throw _
    · exact accesses_pure ()

theorem accesses_checkSend (st : Nat) (va : Word) (loc : Nat) : Accesses (checkSend st va loc) := by
  refine accesses_get_bind (fun s => ?_)
  split
  · exact accesses_pure ()
  · exact accesses_checkPoison _ _ _ _

theorem accesses_bridgeWrite (id t a : Nat) (xs : List Byte) (va : Nat) : Accesses (bridgeWrite id t a xs va) :=
  accesses_modify (fun _ => ⟨rfl, rfl⟩)

theorem accesses_l1Store (c : Ctx) (g st : Nat) (va : Word) (pl : Place) : Accesses (l1Store c g st va pl) := by
  rintro s t line h
  obtain ⟨_, _, hs, h⟩ := exec_bind_eq_ok h
  cases hs
  dsimp only at h
  split at h
  · cases h
    exact accessFrame_refl s
  · cases hr : resolve s c .store va with
    | error f => rw [hr] at h; cases h
    | ok r =>
      rw [hr] at h
      obtain ⟨_, _, hs, h⟩ := exec_bind_eq_ok h
      cases hs
      split at h
      · cases h
        exact accessFrame_refl s
      · cases h
        exact l1Insert_accessFrame s g _

theorem accesses_storePiece (c : Ctx) (st a : Nat) (xs : List Byte) : Accesses (storePiece c st a xs) := by
  refine accesses_get_bind (fun s => accesses_bind (accesses_orTrap _ _ _) (fun pl => ?_))
  split
  · exact accesses_bind (accesses_checkSend _ _ _) (fun _ => accesses_bridgeWrite _ _ _ _ _)
  · exact accesses_putBytes _ _ _
  · refine accesses_bind (accesses_l1Store _ _ _ _ _) (fun line => accesses_bind
      (accesses_modify (fun s => limitDirty_accessFrame s _ _ _)) (fun _ => accesses_get_bind (fun t => ?_)))
    split
    · exact accesses_pure ()
    · refine accesses_bind (accesses_pickPoint _ _) (fun k => ?_)
      split
      · exact accesses_bind (accesses_putWord _ _ _ _ _ _ _ _ _) (fun _ => accesses_modify (fun _ => ⟨rfl, rfl⟩))
      · exact accesses_bind (accesses_storeWord _ _ _ _ _ _) (fun _ => accesses_modify (fun _ => ⟨rfl, rfl⟩))

theorem accesses_homeStorePiece (c : Ctx) (acc : Acc) (st a : Nat) (xs : List Byte) : Accesses (homeStorePiece c acc st a xs) := by
  refine accesses_get_bind (fun s => accesses_bind (accesses_orTrap _ _ _) (fun pl => ?_))
  split
  · exact accesses_bind (accesses_checkSend _ _ _) (fun _ => accesses_bridgeWrite _ _ _ _ _)
  · exact accesses_putBytes _ _ _
  · exact accesses_bind (accesses_orTrap _ _ _) (fun _ => accesses_putBytes _ _ _)

theorem accesses_checkAccess (home : Bool) (acc : Acc) (st : Nat) (va : Word) (n : Nat) : Accesses (checkAccess home acc st va n) := by
  refine accesses_bind (accesses_passBar _) (fun _ => accesses_get_bind (fun s => accesses_each _ (fun p =>
    accesses_bind (accesses_orTrap _ _ _) (fun _ => ?_))))
  split
  · exact accesses_bind (accesses_orTrap _ _ _) (fun _ => accesses_pure ())
  · exact accesses_pure ()

theorem accesses_storeNat (home : Bool) (st : Nat) (va : Word) (n x : Nat) : Accesses (storeNat home st va n x) := by
  refine accesses_bind (accesses_checkAccess _ _ _ _ _) (fun _ => accesses_get_bind (fun s => accesses_bind (accesses_each _
    (fun p => ?_)) (fun _ => accesses_anchor _)))
  obtain ⟨a, xs⟩ := p
  dsimp only
  split
  · exact accesses_homeStorePiece _ _ _ _ _
  · exact accesses_storePiece _ _ _ _

theorem accesses_record (st : Nat) (r : WRange) : Accesses (record st r) := by
  unfold record
  split
  · exact accesses_pure ()
  · refine accesses_modCur (fun a => ?_)
    dsimp only
    split <;> split <;> rfl

theorem accesses_storeBytes (va : Word) (xs : List Byte) : Accesses (storeBytes va xs) :=
  accesses_bind (accesses_each _ (fun _ => accesses_checkAccess _ _ _ _ _)) (fun _ => accesses_bind
    (accesses_each _ (fun _ => accesses_storeNat _ _ _ _ _)) (fun _ => accesses_record _ _))

theorem accesses_shuffle (n : Nat) : ∀ xs : List α, Accesses (shuffle n xs) := by
  induction n with
  | zero => exact accesses_pure
  | succ n ih =>
    intro xs
    refine accesses_bind (accesses_drawBelow _) (fun k => ?_)
    split
    · exact accesses_pure _
    · exact accesses_bind (ih _) (fun _ => accesses_pure _)

theorem accesses_drainBank (id : Nat) : Accesses (drainBank id) := by
  unfold drainBank drainWhere
  refine accesses_get_bind (fun s => ?_)
  dsimp only
  split
  · exact accesses_pure ()
  · refine accesses_bind (accesses_shuffle _ _) (fun order => accesses_modify (fun t => ?_))
    exact accessFrame_trans (foldl_rel accessFrame_refl accessFrame_trans performAdd_accessFrame _ t) ⟨rfl, rfl⟩

end Sys2Proof.Proofs
end

/-! ## Frames and areas read and written (R124) -/
section
namespace Sys2Proof.Proofs

open Sys2Proof.Machine Sys2Proof.Laws

variable {α β : Type} {s t u : State}

theorem frameAddress_ok {a : Reg} (st : Nat) (h : (s.g a).toNat % 64 = 0) : frameAddress a st s = .ok (s.g a) s := by
  refine (exec_bind_ok (exec_getG a s)).trans ?_
  rw [if_neg (not_not_intro h)]
  rfl

theorem frameAddress_misaligned {a : Reg} (st : Nat) (h : (s.g a).toNat % 64 ≠ 0) :
    frameAddress a st s = (trap 0x43 (some (s.g a)) 0 st : Exec Word) s := by
  refine (exec_bind_ok (exec_getG a s)).trans ?_
  rw [if_pos h]
  rfl

theorem frameAccess_ok {x : Exec α} {a : α} (h : x s = .ok a t) : frameAccess x s = .ok a t :=
  exec_bind_ok (attempt_ok h)

theorem inFlight_ok {x : Exec α} {a : α} (i : Instr) (st : Nat) (h : x s = .ok a t) :
    inFlight i st x s = .ok a (s.flying t i st) :=
  (exec_bind_ok (exec_get s)).trans (exec_bind_ok h)

theorem flying_cut (s t : State) (i : Instr) (st : Nat) : (s.flying t i st).cur.cut = t.cur.cut := by
  rcases flying_cases s t i st with h | ⟨us, h⟩ <;> rw [h]

theorem eachGet_length {f : α → Exec β} {xs : List α} {ys : List β} (h : eachGet xs f s = .ok ys t) :
    ys.length = xs.length := by
  induction xs generalizing s ys with
  | nil =>
    cases h
    rfl
  | cons x xs ih =>
    obtain ⟨y, u, -, h⟩ := exec_bind_eq_ok h
    obtain ⟨zs, v, hz, h⟩ := exec_bind_eq_ok h
    cases h
    exact congrArg (· + 1) (ih hz)

/-- Bytes are loaded in whole words. -/
theorem loadBytes_length {va : Word} {n : Nat} {xs : List Byte} (h : loadBytes va n s = .ok xs t) : xs.length = n / 8 * 8 := by
  obtain ⟨ws, u, hw, h⟩ := exec_bind_eq_ok h
  cases h
  have hlen := eachGet_length hw
  rw [List.length_range] at hlen
  simp [List.length_flatten, Function.comp_def, hlen]

theorem restoreRest_ok {va : Word} {head body : List Byte} {size n : Nat} (named : List Nat) (hn : head.length = n)
    (h : loadBytes (va + nw n) (size - n) s = .ok body t) : restoreRest va head size named s = .ok (head ++ body) t := by
  subst hn
  have hread : restoreRead (va + nw head.length) (size - head.length) named s = .ok body t := exec_bind_ok (attempt_ok h)
  exact exec_bind_ok hread

theorem needRows_ok {want : Nat} (h : want ≤ s.rowsFree) :
    needRows want s = .ok () { s with cur := { s.cur with stall := none } } := by
  refine (exec_bind_ok (exec_get s)).trans ?_
  rw [if_neg (fun hlt => Nat.not_lt.mpr h hlt.2)]
  rfl

/-! ### vspill and vsave (R125, R126) -/

/-- A form that no pre-emption cuts, whose body answers from where the cut is forgotten, completes, and its place is taken (R21,
R162). -/
theorem vinsn_uncut {pipe : Nat} {i : Instr} {body : Exec Unit} (hr : s.runs .threadOnly) (hq : s.cur.vqueue.length < 32)
    (hi : cuttable i = false) (h : body s.uncut = .ok () t) (hc : t.cur.cut = none) :
    vinsn pipe i body s = .next ((t.enqueue (VToken.of pipe i s.uncut t)).retire i .seq) := by
  refine insn_ok hr ?_
  have hq' : ¬ 32 ≤ s.cur.vqueue.length := by omega
  refine (exec_bind_ok (exec_getCur s)).trans ?_
  rw [if_neg hq', hi]
  exact (exec_bind_ok (t := s.uncut) rfl).trans ((exec_bind_ok (queued_ok h)).trans (exec_bind_ok (finishCut_none hc)))

/-- vspill is of a major opcode whose forms no pre-emption cuts (R162). -/
theorem vspill_not_cuttable (d a : Reg) : cuttable (.vspill d a) = false := by
  have h : (wordOf (.vspill d a)).toNat / 2 ^ 26 = 0x1A := by
    have hb : bits (wordOf (.vspill d a)) 26 6 = 0x1A#6 := by
      show bits (0x6800A000#32 ||| put 21 d ||| put 16 a) 26 6 = 0x1A#6
      rw [bits_or_put_below (by decide), bits_or_put_below (by decide)]
      decide
    have ht : (bits (wordOf (.vspill d a)) 26 6).toNat = 26 := congrArg BitVec.toNat hb
    have hlt := (wordOf (.vspill d a)).isLt
    simp only [bits, BitVec.extractLsb'_toNat, Nat.shiftRight_eq_div_pow] at ht
    omega
  unfold cuttable
  rw [h]
  rfl

theorem vspill_ok {d a : Reg} (hr : s.runs .threadOnly) (hq : s.cur.vqueue.length < 32) (hva : (s.g a).toNat % 64 = 0)
    (hd : d.toNat % tagGroup (s.tag d) = 0)
    (h : storeBytes (s.g a) (s.spillBytes d.toNat (min s.regs.len (capacity (tagFmt (s.tag d)) * tagGroup (s.tag d))))
      s.uncut.committed = .ok () u) :
    let w := s.uncut.committed.flying u (.vspill d a) 1
    let t := w.setRegs { w.regs with vstart := 0 }
    exec (.vspill d a) s = .next ((t.enqueue (VToken.of 2 (.vspill d a) s.uncut t)).retire (.vspill d a) .seq) := by
  refine vinsn_uncut hr hq (vspill_not_cuttable d a) ?body ?cut
  case body =>
    refine (exec_bind_ok (checkSource_ok (s := s.uncut) hd)).trans ((exec_bind_ok (frameAddress_ok (s := s.uncut) 6 hva)).trans
      ((exec_bind_ok (exec_get _)).trans ((exec_bind_ok (t := s.uncut.committed) rfl).trans ?_)))
    exact (exec_bind_ok (inFlight_ok _ 1 (frameAccess_ok h))).trans rfl
  case cut =>
    have hcut : u.cur.cut = none := congrArg Agent.cut (accesses_storeBytes _ _ _ _ _ h).1
    exact (flying_cut _ _ _ _).trans hcut

theorem vsave_ok {d a : Reg} (hr : s.runs .threadOnly) (hva : (s.g a).toNat % 64 = 0) :
    let empty : State := { s with cur := { s.cur with vqueue := [] } }
    let w := empty.flying u (.vsave d a) 1
    let t := (w.setRegs { w.regs with vstart := 0 }).setG d (BitVec.ofNat 64 empty.vareaBytes.length)
    storeBytes (s.g a) empty.vareaBytes empty = .ok () u →
    exec (.vsave d a) s = .next ((t.enqueue (VToken.of 2 (.vsave d a) empty t)).retire (.vsave d a) .seq) := by
  intro empty w t h
  refine insn_ok hr ?_
  refine (exec_bind_ok (frameAddress_ok 6 hva)).trans ((exec_bind_ok (t := empty) rfl).trans ?_)
  refine exec_bind_ok (queued_ok ?_)
  refine (exec_bind_ok (exec_get empty)).trans ((exec_bind_ok (inFlight_ok _ 1 (frameAccess_ok h))).trans ?_)
  exact (exec_bind_ok rfl).trans rfl

/-! ### vrestore (R127) -/

/-- The state in which an instruction that has its place in the queue ends: `x` but for the queue, the pc, LOOPCTL and what is pending. -/
def endedFrom (x t : State) : Prop :=
  ∃ q pc ps c, t = { x with cur := { x.cur with vqueue := q, pc := pc, pending := ps, regs := { x.cur.regs with loopCtl := c } } }

/-- What vrestore does in its place in the queue, for the registers that it names there. -/
def restoreBody (d : Reg) (va : Word) : Exec (BitVec 64) := do
  let head ← frameAccess (loadBytes va 64)
  let size ← if areaNat head 0 1 = 2 then restoreFrame va head
    else if areaNat head 0 1 = 1 then restoreArea va head else frameBad va
  putG d (nw size)
  return restoredRegs head

/-- A frame or an area whose rest is restored, after its first bytes have been read. -/
theorem restoreBody_ok {d : Reg} {va : Word} {head : List Byte} {size : Nat} {x : State}
    (hhead : loadBytes va 64 s = .ok head u)
    (hrest : areaNat head 0 1 = 2 ∧ restoreFrame va head u = .ok size x ∨ areaNat head 0 1 = 1 ∧ restoreArea va head u = .ok size x) :
    restoreBody d va s = .ok (restoredRegs head) (x.setG d (nw size)) := by
  refine (exec_bind_ok (frameAccess_ok hhead)).trans ?_
  rcases hrest with ⟨hkind, hx⟩ | ⟨hkind, hx⟩
  · rw [if_pos hkind]
    exact exec_bind_ok hx
  · rw [if_neg (by omega), if_pos hkind]
    exact exec_bind_ok hx

/-- What is neither a frame nor an area traps. -/
theorem restoreBody_bad {d : Reg} {va : Word} {head : List Byte} (hhead : loadBytes va 64 s = .ok head u)
    (h1 : areaNat head 0 1 ≠ 1) (h2 : areaNat head 0 1 ≠ 2) :
    restoreBody d va s = (trap 0x45 (some va) 0 2 : Exec (BitVec 64)) u := by
  refine (exec_bind_ok (frameAccess_ok hhead)).trans ?_
  rw [if_neg h2, if_neg h1]
  rfl

/-- vrestore whose body answers completes, and its place is taken. -/
theorem vrestore_ok {d a : Reg} {regs : BitVec 64} {x : State} (hr : s.runs .threadOnly) (hva : (s.g a).toNat % 64 = 0)
    (h : restoreBody d (s.g a) { s with cur := { s.cur with vqueue := [] } } = .ok regs x) :
    ∃ t, exec (.vrestore d a) s = .next t ∧ endedFrom x t := by
  let empty : State := { s with cur := { s.cur with vqueue := [] } }
  let token : VToken := { VToken.of 2 (.vrestore d a) empty x with writes := regs, whole := true }
  have hqueue : queuedRestore (.vrestore d a) (restoreBody d (s.g a)) empty = .ok () (x.enqueue token) :=
    (exec_bind_ok (exec_get empty)).trans (exec_bind_ok h)
  obtain ⟨ps, c, ht⟩ := retire_frame (x.enqueue token) (.vrestore d a)
  refine ⟨_, insn_ok (t := x.enqueue token) (f := .seq) hr ?_, _, _, _, _, ht⟩
  exact (exec_bind_ok (frameAddress_ok 2 hva)).trans ((exec_bind_ok (t := empty) rfl).trans (exec_bind_ok hqueue))

/-- vrestore whose body traps takes the trap. -/
theorem vrestore_trap {d a : Reg} {p : Trap} (hr : s.runs .threadOnly) (hva : (s.g a).toNat % 64 = 0)
    (h : restoreBody d (s.g a) { s with cur := { s.cur with vqueue := [] } } = .error (.trap p) u) :
    exec (.vrestore d a) s = .next (settle (.vrestore d a) (throw (.trap p)) u) :=
  insn_error hr ((exec_bind_ok (frameAddress_ok 2 hva)).trans
    ((exec_bind_ok (t := { s with cur := { s.cur with vqueue := [] } }) rfl).trans
      (exec_bind_error ((exec_bind_ok (exec_get _)).trans (exec_bind_error h)))))

/-! ### A spill frame restored (R127) -/

theorem replaceV_members (s : State) (w : Bool) (n : Nat) (r : VReg) : vectorsOnly s (s.replaceV w n r) ∧
    ∀ m, (s.replaceV w n r).v m = if m = n ∧ m < 32 then r else s.v m := by
  unfold State.replaceV
  refine ⟨vectorsOnly_trans (setV_vectorsOnly s n r) (setRegs_vectorsOnly ?_), fun m => v_setV s n m r⟩
  split <;> rfl

/-- R127: a frame whose rest can be read, and for whose rows there is room, is restored. -/
theorem restoreFrame_ok {va : Word} {head body : List Byte} (hlen : head.length = 64) (hok : frameOk head = true) :
    let (v, f, g, _, n) := frameHead head
    let xs := head ++ body
    loadBytes (va + 64) (frameSize f n - 64) u = .ok body t →
    (List.range g).foldl (fun k j => k + newRows (t.v (v + j)) (frameMember xs j)) 0 ≤ t.rowsFree →
    ∃ x, restoreFrame va head u = .ok (frameSize f n) (x.setRegs { x.regs with vstart := 0 }) ∧ vectorsOnly t x ∧
      ∀ m, x.v m = if v ≤ m ∧ m < v + g ∧ m < 32 then frameMember xs (m - v) else t.v m := by
  dsimp only
  generalize hh : frameHead head = h
  obtain ⟨v, f, g, tail, n⟩ := h
  intro hbody hrows
  let xs := head ++ body
  let u0 : State := { t with cur := { t.cur with stall := none } }
  obtain ⟨hvec, hreg⟩ := foldl_members (F := fun s j => s.replaceV true (v + j) (frameMember xs j)) (h := fun j _ => frameMember xs j)
    (d := v) (s := u0) (fun w j _ => by
      refine ⟨(replaceV_members w true (v + j) _).1, fun m => ?_⟩
      exact (replaceV_members w true (v + j) _).2 m) g
  refine ⟨_, ?_, vectorsOnly_trans (t := u0) rfl hvec, hreg⟩
  have hneed : needRows (((List.range g).map (fun j => (v + j, frameMember xs j))).foldl (fun n e => n + newRows (t.v e.1) e.2) 0) t =
      .ok () u0 := needRows_ok (by rw [List.foldl_map]; exact hrows)
  unfold restoreFrame
  rw [hok, hh]
  refine (congrFun (if_neg (by decide)) u).trans ?_
  refine (exec_bind_ok (restoreRest_ok _ hlen hbody)).trans ((exec_bind_ok (exec_get t)).trans ((exec_bind_ok hneed).trans ?_))
  refine (exec_bind_ok (exec_modify _ u0)).trans ?_
  rw [List.foldl_map]
  rfl

/-- The registers of a frame's group are registers (R125). -/
theorem frameHead_member {head : List Byte} (hok : frameOk head = true) {j : Nat} (hj : j < (frameHead head).2.2.1) :
    (frameHead head).1 + j < 32 := by
  simp only [frameOk, Bool.and_eq_true, decide_eq_true_eq, beq_iff_eq] at hok
  obtain ⟨⟨⟨⟨-, hv⟩, hmod⟩, -⟩, -⟩ := hok
  have hg : (frameHead head).2.2.1 = 1 ∨ (frameHead head).2.2.1 = 2 ∨ (frameHead head).2.2.1 = 4 ∨ (frameHead head).2.2.1 = 8 := by
    unfold frameHead tagGroup
    dsimp only
    have h4 := Nat.mod_lt (BitVec.ofNat 6 (areaNat head 2 1)).toNat (show 0 < 4 by decide)
    interval_cases (BitVec.ofNat 6 (areaNat head 2 1)).toNat % 4 <;> simp
  rcases hg with hg | hg | hg | hg <;> rw [hg] at hj hmod <;> omega

/-- What an instruction that ends after writing one scalar register leaves as it was. -/
theorem endedFrom_setG {x t : State} {d : Reg} {y : Word} (h : endedFrom (x.setG d y) t) :
    t.mem = x.mem ∧ t.cur.v = x.cur.v ∧ t.cur.p = x.cur.p ∧ { t.cur.regs with loopCtl := x.cur.regs.loopCtl } = x.cur.regs ∧
    (d ≠ 0 → t.g d = y) ∧ ∀ n : Reg, n ≠ d → t.g n = x.g n := by
  obtain ⟨q, pc, ps, c, rfl⟩ := h
  refine ⟨setG_mem x d y, setG_cur_v x d y, setG_cur_p x d y, ?_, fun hd => ?_, fun n hn => ?_⟩
  · show { (x.setG d y).cur.regs with loopCtl := x.cur.regs.loopCtl } = x.cur.regs
    rw [setG_cur_regs]
  · exact (g_setG x d d y).trans (if_pos ⟨rfl, hd⟩)
  · exact (g_setG x d n y).trans (if_neg (fun h => hn h.1))

/-- R127: vrestore of a spill frame. -/
theorem vrestore_frame {d a : Reg} {head body : List Byte} {v f g tl len : Nat} (hr : s.runs .threadOnly)
    (hva : (s.g a).toNat % 64 = 0) (hhead : loadBytes (s.g a) 64 { s with cur := { s.cur with vqueue := [] } } = .ok head u)
    (hkind : areaNat head 0 1 = 2) (hok : frameOk head = true) (hh : frameHead head = (v, f, g, tl, len))
    (hbody : loadBytes (s.g a + 64) (frameSize f len - 64) u = .ok body t)
    (hrows : (List.range g).foldl (fun n j => n + newRows (t.v (v + j)) (frameMember (head ++ body) j)) 0 ≤ t.rowsFree) :
    ∃ z, exec (.vrestore d a) s = .next z ∧ z.mem = t.mem ∧ z.regs.start = 0 ∧ z.regs.vl = t.regs.vl ∧ z.regs.vtype = t.regs.vtype ∧
      z.cur.p = t.cur.p ∧ (d ≠ 0 → z.g d = BitVec.ofNat 64 (frameSize f len)) ∧ (∀ n : Reg, n ≠ d → z.g n = t.g n) ∧
      (∀ j, j < g → z.v (v + j) = frameMember (head ++ body) j) ∧ (∀ n, ¬(v ≤ n ∧ n < v + g) → z.v n = t.v n) := by
  have hmember : ∀ j, j < g → v + j < 32 := by
    intro j hj
    have := frameHead_member hok (j := j)
    rw [hh] at this
    exact this hj
  obtain ⟨x, hx, hvec, hreg⟩ : ∃ x, restoreFrame (s.g a) head u = .ok (frameSize f len) (x.setRegs { x.regs with vstart := 0 }) ∧
      vectorsOnly t x ∧ ∀ m, x.v m = if v ≤ m ∧ m < v + g ∧ m < 32 then frameMember (head ++ body) (m - v) else t.v m := by
    have := restoreFrame_ok (va := s.g a) (body := body) (u := u) (t := t) (loadBytes_length hhead) hok
    rw [hh] at this
    exact this hbody hrows
  obtain ⟨z, hz, hend⟩ := vrestore_ok (d := d) hr hva (restoreBody_ok hhead (.inl ⟨hkind, hx⟩))
  obtain ⟨hmem, hv, hp, hregs, hd, hg⟩ := endedFrom_setG hend
  have hzv : ∀ m, z.v m = x.v m := fun m => by rw [State.v, hv]; rfl
  have hstart : z.regs.vstart = 0 := (congrArg Regs.vstart hregs :)
  have hvl : z.regs.vl = x.regs.vl := (congrArg Regs.vl hregs :)
  have hvtype : z.regs.vtype = x.regs.vtype := (congrArg Regs.vtype hregs :)
  obtain ⟨V, st, vh, vd, rfl⟩ : ∃ V st vh vd, x = { t with cur := { t.cur with v := V, stall := st, regs := { t.cur.regs with
    vhigh := vh, vdirty := vd } } } := ⟨_, _, _, _, hvec⟩
  refine ⟨z, hz, hmem, ?_, hvl, hvtype, hp, hd, hg, fun j hj => ?_, fun n hn => ?_⟩
  · rw [Regs.start, hstart]
    rfl
  · rw [hzv, hreg, if_pos ⟨by omega, by omega, hmember j hj⟩, Nat.add_sub_cancel_left]
  · rw [hzv, hreg, if_neg (fun h => hn ⟨h.1, h.2.1⟩)]

end Sys2Proof.Proofs
end

/-! ### A vector save area restored (R126, R127) -/
section
namespace Sys2Proof.Proofs

open Sys2Proof.Machine Sys2Proof.Laws

variable {s t u : State}

/-- Values put into a vector one after another, each from its place in an area: those below `n` that are saved are in it, and the next
stands after them. -/
theorem foldl_places {σ γ : Type} {f : σ × Nat → Nat → σ × Nat} {put : Vector γ 32 → σ} {val : Nat → γ} {place size : Nat → Nat}
    {saved : Nat → Bool} (hf : ∀ V k (h : k < 32), f (put V, place k) k = (put (V.set k (val k) h), place k + size k))
    (hp : ∀ k, place (k + 1) = if saved k then place k + size k else place k) (V0 : Vector γ 32) {n : Nat} (hn : n ≤ 32) :
    ∃ V, ((List.range n).filter saved).foldl f (put V0, place 0) = (put V, place n) ∧
      ∀ k (_ : k < 32), V[k] = if k < n ∧ saved k then val k else V0[k] := by
  induction n with
  | zero => exact ⟨V0, rfl, fun k _ => by simp⟩
  | succ n ih =>
    obtain ⟨V, hV, hk⟩ := ih (by omega)
    have hn32 : n < 32 := by omega
    rw [List.range_succ, List.filter_append, List.foldl_append, hV, hp]
    cases h : saved n with
    | false =>
      refine ⟨V, by simp [h], fun k hk32 => (hk k hk32).trans ?_⟩
      by_cases hkn : k = n
      · subst hkn
        simp [h]
      · have : k < n + 1 ↔ k < n := by omega
        simp only [this]
    | true =>
      refine ⟨V.set n (val n) hn32, by simp [h, hf _ n hn32], fun k hk32 => ?_⟩
      by_cases hkn : k = n
      · subst hkn
        simp [h]
      · have hkn' : ¬ n = k := fun e => hkn e.symm
        have : k < n + 1 ↔ k < n := by omega
        simp [this, hkn', hk k hk32]

section
variable (xs : List Byte)

/-- The descriptor word of register `k` in an area (R126). -/
def areaWord (k : Nat) : Nat := areaNat xs (64 + 4 * k) 4

/-- The bits of VDIRTY in an area: of registers from 0 on, of predicates from 32 on (R122). -/
def areaDirty (n : Nat) : Bool := (areaNat xs 40 8).testBit n

/-- Does the area store register `k` (R121, R122)? -/
def areaSaved (k : Nat) : Bool := decide (k ≤ areaNat xs 32 8 % 32) && areaDirty xs k

/-- The rows that the area stores of each register (R121). -/
def areaRows : Nat := areaNat xs 32 8 / 2 ^ 9 % 16

/-- Is register `k`, where the area stores it, followed by a scale row (R126)? -/
def areaScaled (k : Nat) : Bool := Fmt.isBlock (areaWord xs k % 64 / 4) && k % 2 ^ (areaWord xs k % 4) == 0

/-- Where the rows of register `k` stand in the area, and where the registers end, for 32 (R126). -/
def areaPlace (k : Nat) : Nat :=
  ((List.range k).filter (areaSaved xs)).foldl (fun o j => o + 64 * areaRows xs + if areaScaled xs j then 64 else 0) 192

/-- Where predicate `k` stands in the area (R126). -/
def areaPredPlace (k : Nat) : Nat :=
  areaPlace xs 32 + 128 * ((List.range k).filter (fun j => decide (1 ≤ j) && areaDirty xs (32 + j))).length

/-- Register `k` as the area stores it. -/
def areaStored (k : Nat) : VReg :=
  areaReg (areaWord xs k) (areaRows xs) ((xs.drop (areaPlace xs k)).take (64 * areaRows xs))
    (if areaScaled xs k then some ((xs.drop (areaPlace xs k + 64 * areaRows xs)).take 64) else none)

theorem savedRegs_area : savedRegs (nw (areaNat xs 32 8)) (nw (areaNat xs 40 8)) = (List.range 32).filter (areaSaved xs) := by
  refine List.filter_congr fun k hk => ?_
  have hk : k < 32 := List.mem_range.mp hk
  have h64 : k < 64 := by omega
  have hw : wbits (nw (areaNat xs 32 8)) 4 0 = areaNat xs 32 8 % 32 := by
    simp only [wbits, bitsOf, nw, BitVec.toNat_ofNat, Nat.shiftRight_zero]
    omega
  rw [hw, nw, BitVec.getLsbD_ofNat, decide_eq_true h64, Bool.true_and]
  rfl

theorem savedPreds_area : savedPreds (nw (areaNat xs 40 8)) =
    (List.range 32).filter (fun j => decide (1 ≤ j) && areaDirty xs (32 + j)) := by
  refine List.filter_congr fun k hk => ?_
  have hk : k < 32 := List.mem_range.mp hk
  have h64 : 32 + k < 64 := by omega
  rw [nw, BitVec.getLsbD_ofNat, decide_eq_true h64, Bool.true_and]
  rfl

theorem wbits_areaRows : wbits (nw (areaNat xs 32 8)) 12 9 = areaRows xs := by
  simp only [wbits, bitsOf, nw, BitVec.toNat_ofNat, Nat.shiftRight_eq_div_pow, areaRows]
  omega

theorem hasScale_area (k : Nat) : hasScale k (BitVec.ofNat 6 (areaWord xs k)) = areaScaled xs k := by
  have h : areaWord xs k % 64 % 4 = areaWord xs k % 4 := by omega
  simp only [hasScale, areaScaled, tagFmt, tagGroup, BitVec.toNat_ofNat]
  rw [h]

theorem areaPlace_succ (k : Nat) : areaPlace xs (k + 1) =
    if areaSaved xs k then areaPlace xs k + 64 * areaRows xs + (if areaScaled xs k then 64 else 0) else areaPlace xs k := by
  unfold areaPlace
  rw [List.range_succ, List.filter_append, List.foldl_append]
  cases h : areaSaved xs k <;> simp [h]

theorem areaPredPlace_succ (k : Nat) : areaPredPlace xs (k + 1) =
    if (decide (1 ≤ k) && areaDirty xs (32 + k)) then areaPredPlace xs k + 128 else areaPredPlace xs k := by
  unfold areaPredPlace
  rw [List.range_succ, List.filter_append, List.length_append]
  cases h : (decide (1 ≤ k) && areaDirty xs (32 + k)) <;> simp [h]
  omega

/-- R127: what an area restores: every register and predicate, VL, VTYPE, VSTART, VHIGH and VDIRTY, and nothing else. -/
theorem vareaLoad_eq (s : State) : ∃ V P, s.vareaLoad xs = { s with cur := { s.cur with v := V, p := P, regs := { s.cur.regs with
      vl := nw (areaNat xs 8 8) &&& 0x7FF07FF, vtype := nw (areaNat xs 16 8) &&& 0x1FE0, vstart := nw (areaNat xs 24 8) &&& 0x7FF,
      vhigh := nw (areaNat xs 32 8) &&& 0x1E3F, vdirty := nw (areaNat xs 40 8) &&& 0xFFFFFFFEFFFFFFFF } } } ∧
    (∀ k (_ : k < 32), V[k] = if areaSaved xs k then areaStored xs k else areaDesc (areaWord xs k)) ∧
    (∀ k (_ : k < 32), P[k] = if decide (1 ≤ k) && areaDirty xs (32 + k) then
      BitVec.ofNat 1024 (areaNat xs (areaPredPlace xs k) 128) else 0) := by
  let s0 : State := { s with cur := { s.cur with
    v := Vector.ofFn (fun n => areaDesc (areaNat xs (64 + 4 * n.val) 4)), p := Vector.replicate 32 0 } }
  unfold State.vareaLoad
  dsimp only
  rw [savedRegs_area, savedPreds_area, wbits_areaRows]
  obtain ⟨V, hV, hVk⟩ := foldl_places (put := fun V => { s0 with cur := { s0.cur with v := V } }) (val := areaStored xs)
    (place := areaPlace xs) (size := fun k => 64 * areaRows xs + if areaScaled xs k then 64 else 0) (saved := areaSaved xs)
    (f := fun (s, o) n =>
      (s.setV n (areaReg (areaNat xs (64 + 4 * n) 4) (areaRows xs) ((xs.drop o).take (64 * areaRows xs))
        (if hasScale n (BitVec.ofNat 6 (areaNat xs (64 + 4 * n) 4)) then some ((xs.drop (o + 64 * areaRows xs)).take 64) else none)),
        o + 64 * areaRows xs + if hasScale n (BitVec.ofNat 6 (areaNat xs (64 + 4 * n) 4)) then 64 else 0))
    (fun V k h => by
      have hs := hasScale_area xs k
      unfold areaWord at hs
      simp only [hs, State.setV, h, dite_true]
      exact Prod.ext rfl (Nat.add_assoc _ _ _))
    (fun k => (areaPlace_succ xs k).trans (by rw [Nat.add_assoc])) s0.cur.v (le_refl 32)
  generalize hr : List.foldl _ (_, 192) ((List.range 32).filter (areaSaved xs)) = r
  obtain rfl : r = _ := hr.symm.trans hV
  dsimp only
  obtain ⟨P, hP, hPk⟩ := foldl_places (put := fun P => { s0 with cur := { s0.cur with v := V, p := P } })
    (val := fun k => BitVec.ofNat 1024 (areaNat xs (areaPredPlace xs k) 128)) (place := areaPredPlace xs) (size := fun _ => 128)
    (saved := fun j => decide (1 ≤ j) && areaDirty xs (32 + j))
    (f := fun (s, o) n => ({ s with cur := { s.cur with
      p := if k : n < 32 then s.cur.p.set n (BitVec.ofNat 1024 (areaNat xs o 128)) k else s.cur.p } }, o + 128))
    (fun P k h => by simp only [h, dite_true]) (areaPredPlace_succ xs) s0.cur.p (le_refl 32)
  generalize hr : List.foldl _ (_, areaPlace xs 32) _ = r
  obtain rfl : r = _ := hr.symm.trans hP
  refine ⟨V, P, rfl, fun k hk => (hVk k hk).trans ?_, fun k hk => (hPk k hk).trans ?_⟩
  · simp [hk, s0, areaWord]
  · simp only [hk, true_and, s0, Vector.getElem_replicate]

end

/-- R127: an area whose rest can be read, and for whose rows there is room, is restored. -/
theorem restoreArea_ok {va : Word} {head more body : List Byte} {u1 u2 : State} (hlen : head.length = 64)
    (hmore : loadBytes (va + 64) 128 u = .ok more u1) (hok : vareaOk (head ++ more) = true)
    (hbody : loadBytes (va + 192) (areaNat (head ++ more) 48 8 - 192) u1 = .ok body u2)
    (hrows : u2.vareaNew (head ++ more ++ body) ≤ u2.rowsFree) :
    restoreArea va head u = .ok (areaNat (head ++ more) 48 8)
      (({ u2 with cur := { u2.cur with stall := none } } : State).vareaLoad (head ++ more ++ body)) := by
  have hlen2 : (head ++ more).length = 192 := by rw [List.length_append, hlen, loadBytes_length hmore]
  refine (exec_bind_ok (frameAccess_ok hmore)).trans ?_
  dsimp only
  rw [hok]
  refine (congrFun (if_neg (by decide)) u1).trans ?_
  refine (exec_bind_ok (restoreRest_ok _ hlen2 hbody)).trans ((exec_bind_ok (exec_get u2)).trans
    ((exec_bind_ok (needRows_ok hrows)).trans ?_))
  rfl

/-- What is read of register `k` after an area has been restored (R127). -/
theorem areaStored_eq (xs : List Byte) (k : Nat) :
    (areaStored xs k).wlen = BitVec.ofNat 11 (areaWord xs k / 256) ∧ (areaStored xs k).tail = BitVec.ofNat 2 (areaWord xs k / 64) ∧
    (areaStored xs k).tag = BitVec.ofNat 6 (areaWord xs k) ∧
    (areaStored xs k).image = BitVec.ofNat 4096 (areaNat xs (areaPlace xs k) (64 * areaRows xs)) ∧
    (areaStored xs k).rows = BitVec.ofNat 8 (2 ^ areaRows xs - 1) ∧ (areaStored xs k).scaleRow = areaScaled xs k ∧
    (areaScaled xs k = true → (areaStored xs k).scale = BitVec.ofNat 512 (areaNat xs (areaPlace xs k + 64 * areaRows xs) 64)) := by
  unfold areaStored
  cases areaScaled xs k
  · exact ⟨rfl, rfl, rfl, rfl, rfl, rfl, nofun⟩
  · exact ⟨rfl, rfl, rfl, rfl, rfl, rfl, fun _ => rfl⟩

/-- R126, R127: vrestore of a vector save area. -/
theorem vrestore_area {d a : Reg} {head more body : List Byte} {u1 u2 : State} (hr : s.runs .threadOnly)
    (hva : (s.g a).toNat % 64 = 0) (hhead : loadBytes (s.g a) 64 { s with cur := { s.cur with vqueue := [] } } = .ok head u)
    (hkind : areaNat head 0 1 = 1) (hmore : loadBytes (s.g a + 64) 128 u = .ok more u1) (hok : vareaOk (head ++ more) = true)
    (hbody : loadBytes (s.g a + 192) (areaNat (head ++ more) 48 8 - 192) u1 = .ok body u2)
    (hrows : u2.vareaNew (head ++ more ++ body) ≤ u2.rowsFree) :
    let xs := head ++ more ++ body
    ∃ z, exec (.vrestore d a) s = .next z ∧ z.mem = u2.mem ∧ z.regs.vl = BitVec.ofNat 64 (areaNat xs 8 8) &&& 0x7FF07FF ∧
      z.regs.vtype = BitVec.ofNat 64 (areaNat xs 16 8) &&& 0x1FE0 ∧ z.regs.vstart = BitVec.ofNat 64 (areaNat xs 24 8) &&& 0x7FF ∧
      z.regs.vhigh = BitVec.ofNat 64 (areaNat xs 32 8) &&& 0x1E3F ∧
      z.regs.vdirty = BitVec.ofNat 64 (areaNat xs 40 8) &&& 0xFFFFFFFEFFFFFFFF ∧
      (∀ k, k < 32 → z.v k = if areaSaved xs k then areaStored xs k else areaDesc (areaWord xs k)) ∧
      (∀ q : Reg, q ≠ 0 → z.p q = if areaDirty xs (32 + q.toNat) then
        BitVec.ofNat 1024 (areaNat xs (areaPredPlace xs q.toNat) 128) else 0) ∧
      (d ≠ 0 → z.g d = BitVec.ofNat 64 (areaNat (head ++ more) 48 8)) ∧ ∀ n : Reg, n ≠ d → z.g n = u2.g n := by
  intro xs
  have hx := restoreArea_ok (loadBytes_length hhead) hmore hok hbody hrows
  obtain ⟨V, P, hload, hV, hP⟩ := vareaLoad_eq xs { u2 with cur := { u2.cur with stall := none } }
  obtain ⟨z, hz, hend⟩ := vrestore_ok (d := d) hr hva (restoreBody_ok hhead (.inr ⟨hkind, hx⟩))
  obtain ⟨hmem, hv, hp, hregs, hd, hg⟩ := endedFrom_setG hend
  rw [hload] at hmem hv hp hregs hg
  refine ⟨z, hz, hmem, (congrArg Regs.vl hregs :), (congrArg Regs.vtype hregs :), (congrArg Regs.vstart hregs :),
    (congrArg Regs.vhigh hregs :), (congrArg Regs.vdirty hregs :), fun k hk => ?_, fun q hq => ?_, hd, hg⟩
  · rw [State.v, hv, dif_pos hk]
    exact hV k hk
  · have hq1 : 1 ≤ q.toNat := Nat.one_le_iff_ne_zero.mpr fun h => hq (BitVec.eq_of_toNat_eq h)
    rw [State.p, if_neg hq, hp]
    refine (hP q.toNat q.isLt).trans ?_
    rw [decide_eq_true hq1, Bool.true_and]

/-- Settles O17: the stores by `vspill_ok` and `vsave_ok`, the restores by `vrestore_frame` and `vrestore_area`, each trap by the
step of its instruction that raises it. -/
theorem spillSaveRestore : Obligations.SpillSaveRestore := by
  unfold Obligations.SpillSaveRestore
  intro s u d a head body hr hq va empty n queued
  refine ⟨fun hva hd h => vspill_ok hr hq hva hd h, fun hva h => vsave_ok hr hva h, fun hva => ⟨fun hd => ?_, ?_, ?_⟩,
    ?frame, ?area,
    fun hva hhead h1 h2 => vrestore_trap hr hva (restoreBody_bad hhead h1 h2)⟩
  · refine vinsn_error (e := .trap { cause := 0x43, val := some va, val2 := 0, strm := 6 }) hr hq ?_
    rw [vspill_not_cuttable]
    exact (exec_bind_ok (checkSource_ok (s := s.uncut) hd)).trans (exec_bind_error (frameAddress_misaligned (s := s.uncut) 6 hva))
  · exact insn_error (e := .trap { cause := 0x43, val := some va, val2 := 0, strm := 6 }) hr
      (exec_bind_error (frameAddress_misaligned 6 hva))
  · exact insn_error (e := .trap { cause := 0x43, val := some va, val2 := 0, strm := 2 }) hr
      (exec_bind_error (frameAddress_misaligned 2 hva))
  case frame =>
    intro u' hva hhead hkind hok
    rcases hh : frameHead head with ⟨v, f, g, tl, len⟩
    exact fun hbody hrows => vrestore_frame hr hva hhead hkind hok hh hbody hrows
  case area =>
    intro u' more hva hhead hkind hmore desc hok u2 hbody xs hrows
    obtain ⟨z, hz, hmem, hvl, hvtype, hvstart, hvhigh, hvdirty, hv, hp, hd, hg⟩ :=
      vrestore_area (d := d) hr hva hhead hkind hmore hok hbody hrows
    refine ⟨z, hz, hmem, hvl, hvtype, hvstart, hvhigh, hvdirty, fun k hk => ?_, hp, hd, hg⟩
    rw [hv k hk]
    obtain ⟨hwlen, htail, hrest⟩ := areaStored_eq xs k
    show _ ∧ _ ∧ (areaSaved xs k = true → _) ∧ (areaSaved xs k = false → _)
    cases hsaved : areaSaved xs k
    · exact ⟨rfl, rfl, nofun, fun _ => ⟨rfl, rfl, rfl⟩⟩
    · exact ⟨hwlen, htail, fun _ => hrest, nofun⟩

end Sys2Proof.Proofs
end

/-! ## Whose turn it is: an agent given the turn, and the turn given back -/
section
namespace Sys2Proof.Proofs

open Sys2Proof.Machine Sys2Proof.Laws

variable {α : Type} {s t u : State}

theorem focus_frame (s : State) (id : Nat) : ∃ c os, s.focus id = { s with cur := c, others := os } := by
  unfold State.focus
  split
  · exact ⟨_, _, rfl⟩
  · split <;> exact ⟨_, _, rfl⟩

/-- The agent that is there gets the turn. -/
theorem focus_cur {id : Nat} {a : Agent} (h : s.agent? id = some a) : (s.focus id).cur = a := by
  unfold State.agent? at h
  unfold State.focus
  split
  · rename_i hc
    rw [if_pos hc] at h
    exact Option.some.inj h
  · rename_i hc
    rw [if_neg hc] at h
    rw [h]

/-- The agent that has had the turn is found under its identity after another has got it. -/
theorem agent?_focus_turn (s : State) (id : Nat) : (s.focus id).agent? s.cur.id = some s.cur := by
  unfold State.focus
  split
  · exact agent_self s
  · rename_i hc
    split
    · exact agent_self s
    · rename_i a ha
      have hid : a.id = id := by simpa using List.find?_some ha
      have hne : ¬ a.id = s.cur.id := fun h => hc (h.symm.trans hid)
      simp [State.agent?, hne]

theorem mem_focus_agents {id : Nat} {a : Agent} (h : a ∈ (s.focus id).agents) : a ∈ s.agents := by
  unfold State.focus at h
  split at h
  · exact h
  · split at h
    · exact h
    · rename_i b hb
      have hb : b ∈ s.others := List.mem_of_find?_eq_some hb
      simp only [State.agents, List.mem_cons, List.mem_filter] at h ⊢
      rcases h with rfl | rfl | ⟨h, -⟩
      · exact .inr hb
      · exact .inl rfl
      · exact .inr h

theorem mem_of_agent? {id : Nat} {a : Agent} (h : s.agent? id = some a) : a ∈ s.agents := by
  unfold State.agent? at h
  unfold State.agents
  split at h
  · exact Option.some.inj h ▸ List.mem_cons_self
  · exact List.mem_cons_of_mem _ (List.mem_of_find?_eq_some h)

theorem agent?_isSome_of_mem {a : Agent} (h : a ∈ s.agents) : ∃ b, s.agent? a.id = some b :=
  Option.isSome_iff_exists.mp ((agent?_isSome_iff s a.id).mpr (List.mem_map_of_mem h))

theorem mem_putAgent_agents {a b : Agent} (h : b ∈ (s.putAgent a).agents) : b = a ∨ b ∈ s.agents := by
  unfold State.putAgent at h
  simp only [State.agents, List.mem_cons] at h ⊢
  split at h
  · rcases h with h | h
    · exact .inl h
    · exact .inr (.inr h)
  · split at h
    · rcases h with h | h
      · exact .inr (.inl h)
      · obtain ⟨x, hx, hxb⟩ := List.mem_map.mp h
        split at hxb
        · exact .inl hxb.symm
        · exact .inr (.inr (hxb ▸ hx))
    · rcases h with h | h
      · exact .inr (.inl h)
      · rcases List.mem_append.mp h with h | h
        · exact .inr (.inr h)
        · exact .inl (List.mem_singleton.mp h)

/-- What an agent that is there does, with the turn given back. -/
theorem asAgent_ok {id : Nat} {b : Agent} {x : Exec α} {a : α} (h : s.agent? id = some b) (hx : x (s.focus id) = .ok a t) :
    asAgent id x s = .ok a (t.focus s.cur.id) := by
  simp only [asAgent, h, hx]

/-- A change of an agent's own data is a change of that agent, and of nothing in memory. -/
theorem asAgent_modCur {id : Nat} {b : Agent} (h : s.agent? id = some b) {f : Agent → Agent} (hf : (f b).id = id) :
    ∃ t, asAgent id (modCur f) s = .ok () t ∧ t.mem = s.mem ∧ t.agent? id = some (f b) := by
  refine ⟨_, asAgent_ok h (exec_modCur f _), ?_, ?_⟩
  · rw [focus_mem]
    exact focus_mem s id
  · have hturn := agent?_focus_turn { s.focus id with cur := f (s.focus id).cur } s.cur.id
    rw [focus_cur h] at hturn ⊢
    rwa [hf] at hturn

theorem drawBelow_ok (n : Nat) (s : State) : ∃ k m, drawBelow n s = .ok k { s with fresh := m } := by
  unfold drawBelow
  split
  · exact ⟨0, s.fresh, rfl⟩
  · exact ⟨_, _, rfl⟩

/-! ### Stopping a launch: who has the turn, and who is left (R365) -/

theorem focus_cur_id {id : Nat} (h : id ∈ s.agents.map Agent.id) : (s.focus id).cur.id = id := by
  obtain ⟨b, hb⟩ := Option.isSome_iff_exists.mp ((agent?_isSome_iff s id).mpr h)
  rw [focus_cur hb]
  exact agent?_id hb

/-- What another agent does, of a computation that keeps the identities of the agents, gives the turn back. -/
theorem asAgent_cur_id {id : Nat} {x : Exec α} {a : α} (hx : Answers x) (h : asAgent id x s = .ok a t) : t.cur.id = s.cur.id := by
  unfold asAgent at h
  split at h
  · cases h
  · obtain ⟨b, v, hv, hroster⟩ := hx (s.focus id)
    rw [hv] at h
    cases h
    refine focus_cur_id (((sameRoster_focus s id).trans hroster).ids _ |>.mpr ?_)
    exact List.mem_map_of_mem List.mem_cons_self

theorem each_cur_id {β : Type} {f : β → Exec Unit} (hf : ∀ b {s t : State}, f b s = .ok () t → t.cur.id = s.cur.id) (xs : List β) :
    ∀ {s t : State}, each xs f s = .ok () t → t.cur.id = s.cur.id := by
  induction xs with
  | nil =>
    intro s t h
    cases h
    rfl
  | cons x xs ih =>
    intro s t h
    obtain ⟨_, u, hu, h⟩ := exec_bind_eq_ok h
    exact (ih h).trans (hf x hu)

theorem accesses_giveUp (c : Cmd) : Accesses (giveUp c) := by
  unfold giveUp
  refine accesses_get_bind (fun s => ?_)
  split
  · split
    · exact accesses_bridgeWrite _ _ _ _ _
    · exact accesses_modify (fun _ => ⟨rfl, rfl⟩)
    · exact accesses_pure ()
  · exact accesses_pure ()

/-- Accesses leave the turn where it is. -/
theorem accessFrame_cur_id (h : accessFrame s t) : t.cur.id = s.cur.id := (congrArg Agent.id h.1 :)

theorem dropCmds_cur (s : State) (l : Nat) : (s.dropCmds l).cur = s.cur := by
  refine foldl_frame State.cur (f := fun (s : State) (c : Cmd) => s.handChannel c.unit) (fun s c => ?_) _ _
  unfold State.handChannel
  split <;> rfl

theorem releaseLaunch_cur_id (l : Nat) (h : releaseLaunch l s = .ok () t) : t.cur.id = s.cur.id := by
  obtain ⟨_, _, hs, h⟩ := exec_bind_eq_ok h
  cases hs
  exact each_cur_id (fun id {_ _} h => asAgent_cur_id (answers_release 3) h) _ h

theorem ok_wf {x : Exec α} {a : α} (hx : Keeps x) (h : x s = .ok a t) (hs : s.wf = true) : t.wf = true := by
  have := hx s hs
  rwa [h] at this

theorem ok_roster {x : Exec α} {a : α} (hx : Answers x) (h : x s = .ok a t) : SameRoster s t := by
  obtain ⟨b, v, hv, hroster⟩ := hx s
  cases hv.symm.trans h
  exact hroster

/-- How the stop of a launch in the table ends: its state word is written and what it held is freed, from a state with the same launch
table, where the same agent has the turn. -/
theorem stopLaunch_end {l c : Nat} {x : Launch} (hl : s.launch? l = some x) (h : stopLaunch l c s = .ok () t) :
    ∃ u : State, t = (u.writeState x 4 c).freeLaunch l ∧ u.launches = s.launches ∧ u.cur.id = s.cur.id ∧ (s.wf = true → u.wf = true) := by
  have hhas : kvHas s.launches l = true := by rw [← launch?_isSome_iff, hl, Option.isSome_some]
  unfold stopLaunch at h
  obtain ⟨_, _, hs, h⟩ := exec_bind_eq_ok h
  cases hs
  rw [if_pos hhas] at h
  obtain ⟨_, s1, h1, h⟩ := exec_bind_eq_ok h
  obtain ⟨_, s2, h2, h⟩ := exec_bind_eq_ok h
  obtain ⟨_, s3, h3, h⟩ := exec_bind_eq_ok h
  obtain ⟨_, s4, h4, h⟩ := exec_bind_eq_ok h
  obtain ⟨_, s5, h5, h⟩ := exec_bind_eq_ok h
  obtain rfl : s2 = s1.dropCmds l := by cases h2; rfl
  obtain ⟨ws, rfl⟩ : ∃ ws, s3 = { s1.dropCmds l with sent := ws } := by cases h3; exact ⟨_, rfl⟩
  let clear (u : State) (a : Agent) : State := match a.status with
    | .paged _ _ => u.clearPendingBit a
    | _ => u
  cases h5
  have hclear (u : State) (a : Agent) : (clear u a).launches = u.launches ∧ (clear u a).cur = u.cur := by
    simp only [clear]
    split <;> exact ⟨rfl, rfl⟩
  have hclear_wf (u : State) (a : Agent) (hu : u.wf = true) : (clear u a).wf = true := by
    simp only [clear]
    split
    · exact clearPendingBit_wf _ _ hu
    · exact hu
  let s5 := (s4.agents.filter (fun a => a.launch == l)).foldl clear s4
  have hlaunches : s5.launches = s.launches := by
    refine (foldl_frame State.launches (fun u a => (hclear u a).1) _ s4).trans ((ok_roster (answers_releaseLaunch l) h4).launches.trans ?_)
    exact (sameRoster_dropCmds s1 l).launches.trans (ok_roster (answers_each _ answers_giveUp) h1).launches
  have hx : s5.launch? l = some x := by rw [State.launch?, hlaunches, ← State.launch?, hl]
  refine ⟨s5, ?state, hlaunches, ?turn, fun hwf => ?wf⟩
  case state =>
    have ht : (match s5.launch? l with | none => s5 | some x => (s5.writeState x 4 c).freeLaunch l) = t :=
      (EStateM.Result.ok.inj h).2
    rw [hx] at ht
    exact ht.symm
  case turn =>
    refine (congrArg Agent.id (foldl_frame State.cur (fun u a => (hclear u a).2) _ s4)).trans ((releaseLaunch_cur_id l h4).trans ?_)
    refine (congrArg Agent.id (dropCmds_cur s1 l)).trans (each_cur_id (fun c {_ _} h => ?_) _ h1)
    exact accessFrame_cur_id (accesses_giveUp c _ _ _ h)
  case wf =>
    refine foldl_wf _ hclear_wf _ s4 (ok_wf (keeps_releaseLaunch l) h4 (wf_of_mem (s := s1) (dropCmds_mem s1 l) ?_))
    exact ok_wf (keeps_each _ keeps_giveUp) h1 hwf

end Sys2Proof.Proofs
end

/-! ## What is left of a launch that has been stopped (R315, R365) -/
section
namespace Sys2Proof.Proofs

open Sys2Proof.Machine Sys2Proof.Laws

variable {s t u : State}

/-- The turn and what has been sent are as they were, and every agent was there, with other handles at most. -/
def handlesOnly (s t : State) : Prop :=
  t.cur.id = s.cur.id ∧ t.sent = s.sent ∧ ∀ b ∈ t.agents, ∃ a ∈ s.agents, b = { a with handles := b.handles }

theorem handlesOnly_refl (s : State) : handlesOnly s s := ⟨rfl, rfl, fun b hb => ⟨b, hb, rfl⟩⟩

theorem handlesOnly_trans (h : handlesOnly s t) (k : handlesOnly t u) : handlesOnly s u := by
  obtain ⟨hc, hs, ha⟩ := h
  obtain ⟨kc, ks, ka⟩ := k
  refine ⟨kc.trans hc, ks.trans hs, fun b hb => ?_⟩
  obtain ⟨c, hcm, hbc⟩ := ka b hb
  obtain ⟨a, ham, hca⟩ := ha c hcm
  refine ⟨a, ham, hbc.trans ?_⟩
  rw [hca]

theorem putAgent_handlesOnly {a : Agent} (hs : Vector Handle 8) (h : s.agent? a.id = some a) :
    handlesOnly s (s.putAgent { a with handles := hs }) := by
  refine ⟨?_, ?_, fun b hb => ?_⟩
  · unfold State.putAgent
    split
    · rename_i hc
      exact hc.symm
    · split <;> rfl
  · unfold State.putAgent
    split
    · rfl
    · split <;> rfl
  · rcases mem_putAgent_agents hb with rfl | hb
    · exact ⟨a, mem_of_agent? h, rfl⟩
    · exact ⟨b, hb, rfl⟩

theorem handPort_handlesOnly (s : State) (g : Nat) : handlesOnly s (s.handPort g) := by
  unfold State.handPort
  dsimp only
  split
  · rename_i id h rest p _ _
    have hset : handlesOnly s (s.setCluster g { s.cluster g with portQueue := rest, ports := kvSet (s.cluster g).ports p (id, h) }) :=
      ⟨rfl, rfl, fun b hb => ⟨b, hb, rfl⟩⟩
    split
    · exact hset
    · rename_i a ha
      split
      · refine handlesOnly_trans hset (putAgent_handlesOnly _ ?_)
        rwa [agent?_id ha]
      · exact hset
  · exact handlesOnly_refl s

theorem handPorts_handlesOnly (s : State) (g : Nat) : handlesOnly s (s.handPorts g) :=
  foldl_rel handlesOnly_refl handlesOnly_trans (fun s _ => handPort_handlesOnly s g) _ s

/-- Of what a launch held, what else there is of it is a dispatcher, a sweep context or free (R315). -/
theorem freeLaunch_kept (s : State) (l : Nat) : (s.freeLaunch l).cur.id = s.cur.id ∧ (s.freeLaunch l).sent = s.sent ∧
    ∀ a ∈ (s.freeLaunch l).agents, a.launch = l → a.kind = .dispatcher ∨ a.kind = .sweep ∨ a.status = .free := by
  obtain ⟨hcur, hsent, hagents⟩ : handlesOnly _ (s.freeLaunch l) := foldl_rel handlesOnly_refl handlesOnly_trans
    (f := fun (u : State) (e : Nat × Cluster) => u.handPorts e.1) (fun u e => handPorts_handlesOnly u e.1) _ _
  refine ⟨hcur.trans ?_, hsent, fun b hb hl => ?_⟩
  · dsimp only
    split <;> rfl
  · obtain ⟨a, ha, hba⟩ := hagents b hb
    have hal : a.launch = l := by rw [← hl, hba]
    rw [hba]
    simp only [State.agents, List.mem_cons, List.mem_filter] at ha
    rcases ha with ha | ⟨-, ha⟩
    · split at ha
      · exact .inr (.inr (ha ▸ rfl))
      · rename_i hgone
        rw [← ha] at hgone
        simp only [hal, beq_self_eq_true, Bool.true_and, Bool.and_eq_true, bne_iff_ne] at hgone
        tauto
    · simp only [hal, beq_self_eq_true, Bool.true_and, Bool.not_eq_true', Bool.and_eq_false_iff, bne_eq_false_iff_eq] at ha
      tauto

theorem getElem_leBytes (n x k : Nat) (h : k < (leBytes n x).length) : (leBytes n x)[k] = BitVec.ofNat 8 (x / 256 ^ k) := by
  induction n generalizing x k with
  | zero => simp [leBytes] at h
  | succ n ih =>
    cases k with
    | zero => simp [leBytes]
    | succ k =>
      simp only [leBytes, List.getElem_cons_succ]
      rw [ih, Nat.div_div_eq_div_mul, Nat.pow_succ, Nat.mul_comm]

theorem writeState_cur (s : State) (x : Launch) (st c : Nat) : (s.writeState x st c).cur = s.cur := by
  unfold State.writeState
  dsimp only
  split <;> rfl

theorem writeState_written (hs : s.wf = true) (x : Launch) (st c : Nat) : stateWordWritten (s.writeState x st c) x st c := by
  unfold State.writeState stateWordWritten
  dsimp only
  cases x.away with
  | none => exact memNat_memPutNat _ _ _ _ hs
  | some p =>
    intro k hk
    have hbyte : (leBytes 8 (x.ident + c * 2 ^ 48 + st * 2 ^ 60))[k]? =
        some (BitVec.ofNat 8 ((x.ident + c * 2 ^ 48 + st * 2 ^ 60) / 256 ^ k)) := by
      rw [List.getElem?_eq_getElem (by simpa using hk), getElem_leBytes]
    exact ⟨_, List.mem_append_right _ (List.mem_map.mpr ⟨(_, k), List.mem_zipIdx_iff_getElem?.mpr hbyte, rfl⟩), rfl, rfl, rfl⟩

/-- A state word stays written where the memory and what has been sent stay. -/
theorem stateWordWritten_of_eq {x : Launch} {st c : Nat} (hm : t.mem = s.mem) (hsent : t.sent = s.sent) (h : stateWordWritten s x st c) :
    stateWordWritten t x st c := by
  unfold stateWordWritten at h ⊢
  rwa [hm, hsent]

theorem launch?_freeLaunch (s : State) (l : Nat) : (s.freeLaunch l).launch? l = none := by
  simp [State.launch?, freeLaunch_launches, kvDel]

theorem freeLaunch_gone (hs : s.wf = true) (x : Launch) (l st c : Nat) : launchGone ((s.writeState x st c).freeLaunch l) x l st c := by
  obtain ⟨-, hsent, hagents⟩ := freeLaunch_kept (s.writeState x st c) l
  exact ⟨launch?_freeLaunch _ l, stateWordWritten_of_eq (freeLaunch_mem _ l) hsent (writeState_written hs x st c), hagents⟩

/-- Giving the turn to another agent leaves a launch gone. -/
theorem launchGone_focus {x : Launch} {l st c : Nat} (h : launchGone s x l st c) (id : Nat) : launchGone (s.focus id) x l st c := by
  obtain ⟨hl, hword, hagents⟩ := h
  obtain ⟨a, os, hf⟩ := focus_frame s id
  exact ⟨by rw [hf]; exact hl, stateWordWritten_of_eq (focus_mem s id) (by rw [hf]) hword, fun a ha => hagents a (mem_focus_agents ha)⟩

/-- The stop of a launch answers, and the turn is where it was (R365). -/
theorem stopLaunch_ok (l c : Nat) (s : State) : ∃ t, stopLaunch l c s = .ok () t ∧ t.cur.id = s.cur.id := by
  cases hl : s.launch? l with
  | none =>
    have hhas : kvHas s.launches l = false := by rw [← launch?_isSome_iff, hl, Option.isSome_none]
    refine ⟨{ s with cur := { s.cur with status := .ended c } }, ?_, rfl⟩
    exact (exec_bind_ok (exec_get s)).trans (by rw [if_neg (by simp [hhas])]; rfl)
  | some x =>
    have hhas : kvHas s.launches l = true := by rw [← launch?_isSome_iff, hl, Option.isSome_some]
    obtain ⟨t, ht, -⟩ := stopLaunch_answers c hhas
    obtain ⟨u, htu, -, hcur, -⟩ := stopLaunch_end hl ht
    refine ⟨t, ht, ?_⟩
    rw [htu, (freeLaunch_kept _ l).1, writeState_cur, hcur]

/-- A launch that was in the table has gone with its stop (R365). -/
theorem stopLaunch_gone {l c : Nat} {x : Launch} (hs : s.wf = true) (hl : s.launch? l = some x) (h : stopLaunch l c s = .ok () t) :
    launchGone t x l 4 c := by
  obtain ⟨u, rfl, -, -, hwf⟩ := stopLaunch_end hl h
  exact freeLaunch_gone (hwf hs) x l 4 c

end Sys2Proof.Proofs
end

/-! ## A thread saved, at once or at an element (R323–R325) -/
section
namespace Sys2Proof.Proofs

open Sys2Proof.Machine Sys2Proof.Laws

variable {s t u w : State}

theorem putAgent_accessFrame {a : Agent} (hs : Vector Handle 8) (h : s.agent? a.id = some a) :
    accessFrame s (s.putAgent { a with handles := hs }) := by
  unfold State.putAgent
  split
  · rename_i hc
    have hc : s.cur.id = a.id := hc
    obtain rfl : s.cur = a := by rw [← hc, agent_self] at h; exact Option.some.inj h
    exact ⟨rfl, rfl⟩
  · split <;> exact ⟨rfl, rfl⟩

theorem handPort_accessFrame (s : State) (g : Nat) : accessFrame s (s.handPort g) := by
  unfold State.handPort
  dsimp only
  split
  · rename_i id h rest p _ _
    split
    · exact ⟨rfl, rfl⟩
    · rename_i a ha
      split
      · refine accessFrame_trans (t := s.setCluster g _) ⟨rfl, rfl⟩ (putAgent_accessFrame _ ?_)
        rwa [agent?_id ha]
      · exact ⟨rfl, rfl⟩
  · exact accessFrame_refl s

theorem setHandle_accessFrame (s : State) (h : Nat) (x : Handle) : accessFrame s (s.setHandle h x) := by
  unfold State.setHandle
  split <;> exact ⟨rfl, rfl⟩

theorem releasePort_accessFrame (s : State) (h : Nat) : accessFrame s (s.releasePort h) :=
  accessFrame_trans (t := s.freePort h) (accessFrame_trans (t := s.setCluster s.myCluster _) ⟨rfl, rfl⟩ (setHandle_accessFrame _ _ _))
    (handPort_accessFrame _ _)

theorem dropHandles_accessFrame (s : State) : accessFrame s s.dropHandles :=
  foldl_rel accessFrame_refl accessFrame_trans
    (fun _ _ => accessFrame_trans (setHandle_accessFrame _ _ _) (releasePort_accessFrame _ _)) _ s

/-- Where a save area stands is as before. -/
theorem accessFrame_saveAddr (h : accessFrame s t) (slot : Nat) : t.saveAddr slot = s.saveAddr slot := by
  have hd : t.dev.ctxbase = s.dev.ctxbase := (congrArg Device.ctxbase h.2 :)
  rw [State.saveAddr, hd, State.saveAddr]

/-- A thread saved: its area is written from a state that differs from the one before in the bookkeeping of its accesses only, and its
registers give back their rows. -/
theorem saveThread_ok {st : Status} (h : saveThread st w = .ok () u) : ∃ v, accessFrame w v ∧ (w.wf = true → v.wf = true) ∧
    u.mem = memPuts v.mem (v.saveAddr (saveSlot v.cur.id)) (v.cur.saveHead (3072 + v.vareaBytes.length) ++ v.vareaBytes) ∧
    u.cur.id = v.cur.id ∧ u.cur.status = st ∧ u.cur.v = Vector.replicate 32 VReg.fresh := by
  unfold saveThread at h
  obtain ⟨_, w1, h1, h⟩ := exec_bind_eq_ok h
  cases h1
  obtain ⟨_, w1, h1, h⟩ := exec_bind_eq_ok h
  obtain ⟨_, w2, h2, h⟩ := exec_bind_eq_ok h
  obtain ⟨_, w3, h3, h⟩ := exec_bind_eq_ok h
  obtain ⟨_, _, hs, h⟩ := exec_bind_eq_ok h
  cases hs
  have f2 := accesses_modify (fun s =>
    accessFrame_trans (writeBackThread_accessFrame s s.myCluster s.cur.id) (dropHandles_accessFrame _)) _ _ _ h2
  have f3 := accesses_modCur (fun _ => by rfl) _ _ _ h3
  have hwf (hw : w.wf = true) : w3.wf = true :=
    ok_wf (keeps_modCur _) h3 (ok_wf (keeps_modify (fun s hs => wf_of_mem (dropHandles_mem _) (writeBackThread_wf s _ _ hs))) h2
      (ok_wf (keeps_drainBank _) h1 hw))
  refine ⟨w3, accessFrame_trans (accesses_drainBank _ _ _ _ h1) (accessFrame_trans f2 f3), hwf, ?_⟩
  dsimp only at h
  split at h
  · obtain ⟨_, _, -, h⟩ := exec_bind_eq_ok h
    obtain ⟨_, _, h, -⟩ := exec_bind_eq_ok h
    simp at h
  · rw [exec_set] at h
    have ht := (EStateM.Result.ok.inj h).2
    rw [← ht]
    dsimp only
    exact ⟨rfl, rfl, rfl, rfl⟩

/-- A value that stands among the bytes written is read back from its place. -/
theorem memNat_memPuts {m : List Host.Cell} (hm : Memory.wf m) (a n x : Nat) (pre post : List Byte) :
    memNat (memPuts m a (pre ++ (leBytes n x ++ post))) (a + pre.length) n = x % 256 ^ n := by
  rw [← leNat_leBytes]
  unfold memNat
  congr 1
  refine memBytes_eq _ _ _ _ (leBytes_length n x) (fun i hi => ?_)
  rw [memByte_memPuts _ _ _ _ hm, dif_pos (by simp only [List.length_append]; omega)]
  have hk : a + pre.length + i - a = pre.length + i := by omega
  simp only [hk, List.getElem_append_right (Nat.le_add_right _ _), Nat.add_sub_cancel_left, List.getElem_append_left hi]

/-- The area begins with its kind, its launch and its pc (R325). -/
theorem saveHead_words (a : Agent) (total : Nat) :
    ∃ rest, a.saveHead total = leBytes 8 3 ++ (leBytes 8 a.launch ++ (leBytes 8 a.pc.toNat ++ rest)) := by
  unfold Agent.saveHead
  simp only [List.append_assoc]
  exact ⟨_, rfl⟩

theorem rowsHeld_unmapped (a : Agent) (h : a.v = Vector.replicate 32 VReg.fresh) : a.rowsHeld = 0 := by
  rw [Agent.rowsHeld, h]
  decide +kernel

/-- What stands at the beginning of the area of a thread saved (R325). -/
theorem saveThread_area {st : Status} (hw : w.wf = true) (h : saveThread st w = .ok () u) :
    memNat u.mem (w.saveAddr (saveSlot w.cur.id)) 8 = 3 ∧
    memNat u.mem (w.saveAddr (saveSlot w.cur.id) + 8) 8 = w.cur.launch % 2 ^ 64 ∧
    memNat u.mem (w.saveAddr (saveSlot w.cur.id) + 16) 8 = w.cur.pc.toNat := by
  obtain ⟨v, hv, hwf, hmem, -⟩ := saveThread_ok h
  have hid : v.cur.id = w.cur.id := accessFrame_cur_id hv
  have hlaunch : v.cur.launch = w.cur.launch := (congrArg Agent.launch hv.1 :)
  have hpc : v.cur.pc = w.cur.pc := (congrArg Agent.pc hv.1 :)
  obtain ⟨rest, hrest⟩ := saveHead_words v.cur (3072 + v.vareaBytes.length)
  rw [hmem, hrest, accessFrame_saveAddr hv, hid, hlaunch, hpc]
  have hm : Memory.wf v.mem := hwf hw
  simp only [List.append_assoc]
  refine ⟨?_, ?_, ?_⟩
  · have hkind := memNat_memPuts hm (w.saveAddr (saveSlot w.cur.id)) 8 3 []
      (leBytes 8 w.cur.launch ++ (leBytes 8 w.cur.pc.toNat ++ (rest ++ v.vareaBytes)))
    rwa [List.nil_append, List.length_nil, Nat.add_zero] at hkind
  · have hlaunch := memNat_memPuts hm (w.saveAddr (saveSlot w.cur.id)) 8 w.cur.launch (leBytes 8 3)
      (leBytes 8 w.cur.pc.toNat ++ (rest ++ v.vareaBytes))
    rwa [leBytes_length] at hlaunch
  · have hpc := memNat_memPuts hm (w.saveAddr (saveSlot w.cur.id)) 8 w.cur.pc.toNat (leBytes 8 3 ++ leBytes 8 w.cur.launch)
      (rest ++ v.vareaBytes)
    rw [List.append_assoc, List.length_append, leBytes_length, leBytes_length] at hpc
    exact hpc.trans (Nat.mod_eq_of_lt w.cur.pc.isLt)

/-! ### Pre-empted, for whatever reason (R116, R323) -/

/-- An agent that can be saved is saved with the turn given to it, and the turn is given back. -/
theorem saveAway_eq {id : Nat} {a : Agent} (ha : s.agent? id = some a) (h : saveThread .saved (s.focus id) = .ok () u) :
    s.saveAway id = u.focus s.cur.id := by
  simp only [State.saveAway, ha, settle_ok _ h]

/-- An agent pre-empted is saved at once, or its next instruction is cut at one of its elements, and nothing in memory is different. -/
theorem preempt_cases {id : Nat} {a : Agent} (ha : s.agent? id = some a) : preempt id s = .ok () (s.saveAway id) ∨
    ∃ k ∈ (s.focus id).cutPoints, ∃ t, preempt id s = .ok () t ∧ t.mem = s.mem ∧ t.agent? id = some { a with cut := some k } := by
  obtain ⟨n, m, hdraw⟩ := drawBelow_ok ((s.focus id).cutPoints.length + 1) s
  have hstart : preempt id s = (match (none :: (s.focus id).cutPoints.map some)[n]? with
      | some (some k) => asAgent id (modCur (fun a => { a with cut := some k }))
      | _ => set (s.saveAway id) : Exec Unit) { s with fresh := m } :=
    (exec_bind_ok (exec_get s)).trans (exec_bind_ok hdraw)
  rw [hstart]
  cases hn : (none :: (s.focus id).cutPoints.map some)[n]? with
  | none => exact .inl rfl
  | some o =>
    cases o with
    | none => exact .inl rfl
    | some k =>
      have hk : k ∈ (s.focus id).cutPoints := by simpa using List.mem_of_getElem? hn
      have hm : ({ s with fresh := m } : State).agent? id = some a := ha
      exact .inr ⟨k, hk, asAgent_modCur hm (show a.id = id from agent?_id ha)⟩

end Sys2Proof.Proofs
end

/-! ## Row pressure, restoring, and sweep contexts (R116, R326, R327) -/
section
namespace Sys2Proof.Proofs

open Sys2Proof.Machine Sys2Proof.Laws

variable {s t u w : State} {a v : Agent}

/-- Of two agents the one with the greater holding, or at the same holding with the lower number (R116). -/
def heavier (b : Option Agent) (a : Agent) : Option Agent := match b with
  | none => some a
  | some x => if x.rowsHeld < a.rowsHeld ∨ (x.rowsHeld = a.rowsHeld ∧ a.id < x.id) then some a else b

/-- The agents that row pressure may pre-empt (R116). -/
def pressed (s : State) (core : Nat) (stalled : Agent) : List Agent :=
  let prio (a : Agent) : Nat := (s.queueRank core (if a.kind = .sweep then 4 else 0) a).1
  s.agents.filter (fun a => a.saveable && placeCore a.id == core && a.id != stalled.id &&
    decide (prio a ≤ prio stalled) && decide (0 < a.rowsHeld))

theorem rowVictim_eq (s : State) (core : Nat) (stalled : Agent) :
    s.rowVictim core stalled = (pressed s core stalled).foldl heavier none := by
  unfold State.rowVictim heavier pressed
  rfl

theorem heavier_some (b : Option Agent) (a : Agent) :
    ∃ c, heavier b a = some c ∧ (c = a ∨ b = some c) ∧ a.rowsHeld ≤ c.rowsHeld ∧ ∀ y, b = some y → y.rowsHeld ≤ c.rowsHeld := by
  cases b with
  | none => exact ⟨a, rfl, .inl rfl, le_refl a.rowsHeld, fun y hy => by simp at hy⟩
  | some x =>
    unfold heavier
    dsimp only
    split
    · refine ⟨a, rfl, .inl rfl, le_refl _, fun y hy => ?_⟩
      cases hy
      omega
    · refine ⟨x, rfl, .inr rfl, by omega, fun y hy => ?_⟩
      cases hy
      exact le_refl _

theorem foldl_heavier (xs : List Agent) (b : Option Agent) (h : xs.foldl heavier b = some v) :
    (v ∈ xs ∨ b = some v) ∧ ∀ y, y ∈ xs ∨ b = some y → y.rowsHeld ≤ v.rowsHeld := by
  induction xs generalizing b with
  | nil =>
    refine ⟨.inr h, ?_⟩
    rintro y (hy | hy)
    · simp at hy
    · cases hy.symm.trans h
      exact le_refl _
  | cons x xs ih =>
    obtain ⟨c, hc, hcx, hxc, hbc⟩ := heavier_some b x
    obtain ⟨hv, hmax⟩ := ih (heavier b x) h
    rw [hc] at hv hmax
    have hcv : c.rowsHeld ≤ v.rowsHeld := hmax c (.inr rfl)
    refine ⟨?_, ?_⟩
    · rcases hv with hv | hv
      · exact .inl (List.mem_cons_of_mem _ hv)
      · cases hv
        exact hcx.imp (fun h : v = x => h ▸ List.mem_cons_self) id
    · rintro y (hy | hy)
      · rcases List.mem_cons.mp hy with rfl | hy
        · exact hxc.trans hcv
        · exact hmax y (.inl hy)
      · exact (hbc y hy).trans hcv

theorem mem_pressed {core : Nat} : v ∈ pressed s core a ↔ v ∈ s.agents ∧ v.saveable = true ∧ placeCore v.id = core ∧ v.id ≠ a.id ∧
    (s.queueRank core (if v.kind = .sweep then 4 else 0) v).1 ≤ (s.queueRank core (if a.kind = .sweep then 4 else 0) a).1 ∧
    0 < v.rowsHeld := by
  simp only [pressed, List.mem_filter, Bool.and_eq_true, beq_iff_eq, bne_iff_ne, decide_eq_true_eq, and_assoc]

/-- The victim of row pressure may be pre-empted, and of all that may be holds the most rows (R116). -/
theorem rowVictim_some {core : Nat} (h : s.rowVictim core a = some v) :
    v ∈ pressed s core a ∧ ∀ b ∈ pressed s core a, b.rowsHeld ≤ v.rowsHeld := by
  rw [rowVictim_eq] at h
  obtain ⟨hv, hmax⟩ := foldl_heavier _ _ h
  exact ⟨hv.resolve_right (by simp), fun b hb => hmax b (.inl hb)⟩

/-- Has a head of the core stalled for 512 cycles on rows (R116)? -/
def longStalled (s : State) (core : Nat) (b : Agent) : Bool :=
  placeCore b.id == core && ((b.kind == .sweep && !(s.core core).sweepSaved) || (b.kind == .thread && b.status == .running)) &&
    (match b.stall with | none => false | some k => decide (k + 512 ≤ s.clock))

/-- ROW_STALL_PREEMPT where a head has stalled and there is a victim (R116). -/
theorem rowStallPreempt_eq {core : Nat} (ha : s.agents.find? (longStalled s core) = some a)
    (hv : (s.putAgent { a with stall := some s.clock }).rowVictim core a = some v) :
    exec (.rowStallPreempt core) s = event (preempt v.id) (s.putAgent { a with stall := some s.clock }) := by
  show event _ s = _
  unfold event
  rw [eventStep_bind_ok (exec_get s)]
  split
  · rename_i hnone
    cases hnone.symm.trans ha
  · rename_i b hb
    obtain rfl : b = a := Option.some.inj (hb.symm.trans ha)
    dsimp only
    rw [eventStep_bind_ok (exec_set _ _), hv]

/-! ### Restoring (R326) -/

theorem takePort_cur_id (s : State) (h : Nat) (want : Option Nat) : (s.takePort h want).cur.id = s.cur.id := by
  unfold State.takePort
  dsimp only
  split
  · rfl
  · exact accessFrame_cur_id (setHandle_accessFrame _ _ _)

theorem loadHead_id (a : Agent) (xs : List Byte) (vstart : Nat) : (a.loadHead xs vstart).id = a.id := by
  unfold Agent.loadHead
  dsimp only

theorem restoreThread_ok {slot : Nat} (h : restoreThread slot w = .ok () u) : u.cur.id = w.cur.id ∧ u.cur.status = .running := by
  unfold restoreThread at h
  obtain ⟨_, _, hs, h⟩ := exec_bind_eq_ok h
  cases hs
  dsimp only at h
  split at h
  · obtain ⟨_, _, -, h⟩ := exec_bind_eq_ok h
    obtain ⟨_, _, h, -⟩ := exec_bind_eq_ok h
    simp at h
  split at h
  · obtain ⟨_, _, h, -⟩ := exec_bind_eq_ok h
    simp at h
  split at h
  · obtain ⟨_, _, h, -⟩ := exec_bind_eq_ok h
    simp at h
  obtain ⟨_, _, hload, -⟩ := vareaLoad_eq (xs := (memBytes w.mem (w.saveAddr slot) 32768).drop 3072) w
  rw [exec_set] at h
  have hu := (EStateM.Result.ok.inj h).2
  rw [← hu]
  refine ⟨?_, rfl⟩
  dsimp only
  refine (foldl_frame (fun (s : State) => s.cur.id) (fun s h => ?_) _ _).trans ?_
  · split
    · rfl
    · exact takePort_cur_id s h none
  · rw [hload]
    exact loadHead_id _ _ _

theorem rereadWeight_cur (s : State) (l : Nat) : (s.rereadWeight l).cur = s.cur := by
  unfold State.rereadWeight State.weightRead
  split
  · rfl
  · split <;> rfl

/-- A thread that has been restored runs, and has the turn still (R326). -/
theorem resumeThread_ok {old : Nat} (h : resumeThread old w = .ok () u) : u.cur.id = w.cur.id ∧ u.cur.status = .running := by
  obtain ⟨_, x, hx, h⟩ := exec_bind_eq_ok h
  obtain ⟨_, y, hy, h⟩ := exec_bind_eq_ok h
  obtain ⟨hid, hrun⟩ := restoreThread_ok hx
  obtain rfl : x.matchEntries = y := (EStateM.Result.ok.inj hy).2
  have hu : State.rereadWeight { x.matchEntries with
      cur := x.matchEntries.cur.onTower (old / 512 == x.matchEntries.myTower) } x.matchEntries.cur.launch = u := (EStateM.Result.ok.inj h).2
  have htower (a : Agent) (b : Bool) : (a.onTower b).id = a.id ∧ (a.onTower b).status = a.status := by
    cases b <;> exact ⟨rfl, rfl⟩
  rw [← hu, rereadWeight_cur]
  obtain ⟨hi, hs⟩ := htower x.matchEntries.cur (old / 512 == x.matchEntries.myTower)
  exact ⟨hi.trans hid, hs.trans hrun⟩

/-- The agent that had the turn, once it has been given back: it runs if it ran. -/
theorem wholeOrStop_ok {id : Nat} {x : Exec Unit} (h : x (s.focus id) = .ok () u) : wholeOrStop id x s = u.focus s.cur.id := by
  simp only [wholeOrStop, h]

/-- CONTEXT_RESTORE of a saved thread on its own scalar core (R326). -/
theorem contextRestore_ok {ag : Nat} (ha : s.agent? ag = some a) (hsaved : a.status = .saved) (hag : ag < 8192)
    (h : resumeThread ag (s.focus ag) = .ok () u) : exec (.contextRestore ag ag) s = .next (u.focus s.cur.id) := by
  obtain ⟨hid, hrun⟩ := resumeThread_ok h
  rw [focus_cur ha, agent?_id ha] at hid
  have hturn : (u.focus s.cur.id).agent? ag = some u.cur := hid ▸ agent?_focus_turn u s.cur.id
  have hrename : s.rename ag ag = s := if_pos rfl
  show execContextRestore ag ag s = _
  unfold execContextRestore
  rw [if_neg (by omega), ha]
  dsimp only
  rw [if_pos ⟨hsaved, .inl rfl⟩, hrename, ha]
  dsimp only
  rw [wholeOrStop_ok h, hturn, if_neg (by simp [hrun])]

/-! ### Sweep contexts (R327) -/

theorem exec_modCore (k : Nat) (f : Core → Core) (s : State) : modCore k f s = .ok () (s.setCore k (f (s.core k))) := rfl

/-- The sweep context that has the turn, saved at an area for its command: its registers give back their rows (R327). -/
def sweepAway (w : State) (base : Nat) (c : Cmd) : State :=
  { w with
    mem := memPuts w.mem base (w.sweepArea c),
    cur := { w.cur with v := Vector.replicate 32 VReg.fresh, p := Vector.replicate 32 0, vqueue := [], stall := none } }

/-- SWEEP_CONTEXT_SAVE between batches, where the area can be written (R327). -/
theorem sweepContextSave_ok {core : Nat} {c : Cmd} (ha : s.agent? (sweepId core) = some a) (hcore : (s.core core).sweepSaved = false)
    (hc : s.cmds.find? (fun c => (s.core core).sweep == some c.id) = some c)
    (harea : s.areaUsable (s.saveAddr (saveSlot (sweepId core))) = true) :
    ∃ t, exec (.sweepContextSave core) s = .next t ∧ (t.core core).sweepSaved = true ∧
      t.mem = memPuts s.mem (s.saveAddr (saveSlot (sweepId core))) ((s.focus (sweepId core)).sweepArea c) ∧
      ∃ b, t.agent? (sweepId core) = some b ∧ b.rowsHeld = 0 ∧ b.g = a.g := by
  obtain ⟨w, hw⟩ : ∃ w, w = s.focus (sweepId core) := ⟨_, rfl⟩
  let x := sweepAway w (s.saveAddr (saveSlot (sweepId core))) c
  let y := x.setCore core { x.core core with sweepSaved := true }
  have hcur : w.cur = a := hw ▸ focus_cur ha
  have hid : y.cur.id = sweepId core := (congrArg Agent.id hcur).trans (agent?_id ha)
  have hrun : exec (.sweepContextSave core) s = .next (y.focus s.cur.id) := by
    refine event_ok ((exec_bind_ok (exec_get s)).trans ?_)
    refine (exec_bind_ok (exec_need (by simp [hcore]) s)).trans ?_
    rw [hc]
    dsimp only
    rw [if_neg (by simp [harea])]
    refine asAgent_ok (t := y) ha ?_
    rw [← hw]
    exact (exec_bind_ok (exec_get w)).trans ((exec_bind_ok (exec_set x w)).trans (exec_modCore core _ x))
  obtain ⟨b, os, hfocus⟩ := focus_frame y s.cur.id
  refine ⟨_, hrun, ?_, ?_, y.cur, hid ▸ agent?_focus_turn y s.cur.id, rowsHeld_unmapped _ rfl, (congrArg Agent.g hcur :)⟩
  · rw [hfocus]
    exact congrArg Core.sweepSaved (core_setCore x core _)
  · rw [focus_mem, ← hw, ← focus_mem s (sweepId core), ← hw]
    dsimp only [y, x, State.setCore, sweepAway]

end Sys2Proof.Proofs
end

/-! ## The pager's answers (R363, R385), and the saving and restoring of agents as a whole -/
section
namespace Sys2Proof.Proofs

open Sys2Proof.Machine Sys2Proof.Laws

variable {s t u : State} {a : Agent} {ag cause : Nat} {saved : Bool}

/-- The agent that had the turn is found under its identity once it has given the turn back. -/
theorem agent?_given (h : t.cur.id = ag) (id : Nat) : (t.focus id).agent? ag = some t.cur := h ▸ agent?_focus_turn t id

/-! ### A trap that the pager does not take: who has the turn then -/

theorem enter_cur_id (s : State) (a b c d : Word) (k : Nat) : (s.enter a b c d k).cur.id = s.cur.id := by
  unfold State.enter State.setPc State.setRegs State.setG
  dsimp only
  split <;> rfl

/-- What is taken ends with the same agent having the turn, be it that its launch is to stop. -/
def turnKept (x : Exec Unit) (s : State) : Prop :=
  ∃ t, (x s = .ok () t ∨ ∃ c, x s = .error (.stop c) t) ∧ t.cur.id = s.cur.id

theorem takeException_turnKept (kcause ktval ktval2 kepc : Word) (c : Nat) (s : State) :
    turnKept (takeException kcause ktval ktval2 kepc c) s := by
  unfold takeException turnKept
  rw [show ∀ f : State → Exec Unit, (get >>= f) s = f s s from fun _ => rfl]
  split
  · exact ⟨s, .inr ⟨_, rfl⟩, rfl⟩
  · split
    · exact ⟨s, .inr ⟨_, rfl⟩, rfl⟩
    · exact ⟨_, .inl rfl, enter_cur_id _ _ _ _ _ _⟩

theorem noteFault_cur (s : State) (l stage cl : Nat) (k : Word) : (s.noteFault l stage cl k).cur = s.cur := by
  unfold State.noteFault
  split <;> rfl

/-- What runs on a sequencer ended (R364). -/
theorem endInstance_ok (kcause ktval ktval2 : Word) (s : State) : ∃ t, endInstance kcause ktval ktval2 s = .ok () t ∧
    t.cur = { s.cur with
      regs := { s.cur.regs with kcause := kcause, ktval := ktval, ktval2 := ktval2, kepc := s.cur.pc },
      status := .ended (wbits kcause 6 0) } :=
  ⟨_, rfl, noteFault_cur _ _ _ _ _⟩

/-- A trap of a resident dispatcher is an exception of it (R350). -/
theorem takeTrap_dispatcher {p : Trap} {i : Instr} (hk : s.cur.kind = .dispatcher) :
    takeTrap p i s = takeException (p.word false) (p.tval i) p.val2 (if p.next then s.cur.pc + 4 else s.cur.pc) p.cause
      { s with cur := { s.cur with linkHit := none } } := by
  have hbranch : takeTrap p i s = (if pagerCause p.cause && s.dev.fltbase != 0 && s.cur.kind != .dispatcher
      then pagerRoute p (p.tval i)
      else match s.cur.kind with
      | .thread => takeException (p.word false) (p.tval i) p.val2 (if p.next then s.cur.pc + 4 else s.cur.pc) p.cause
      | .dispatcher => takeException (p.word false) (p.tval i) p.val2 (if p.next then s.cur.pc + 4 else s.cur.pc) p.cause
      | _ => endInstance (p.word false) (p.tval i) p.val2) { s with cur := { s.cur with linkHit := none } } := rfl
  rw [hbranch, hk]
  simp

theorem takeTrap_turnKept {p : Trap} (i : Instr) (hp : pagerCause p.cause = false) (s : State) : turnKept (takeTrap p i) s := by
  unfold turnKept
  by_cases hk : s.cur.kind = .thread
  · rw [takeTrap_thread hk (.inl hp)]
    exact takeException_turnKept _ _ _ _ _ _
  by_cases hd : s.cur.kind = .dispatcher
  · rw [takeTrap_dispatcher hd]
    exact takeException_turnKept _ _ _ _ _ _
  · rw [takeTrap_sequencer hk hd (.inl hp)]
    obtain ⟨t, ht, hcur⟩ := endInstance_ok (p.word false) (p.tval i) p.val2 { s with cur := { s.cur with linkHit := none } }
    exact ⟨t, .inl ht, by rw [hcur]⟩

/-- A trap that the pager does not take leaves the turn where it is. -/
theorem settle_trap_cur_id {p : Trap} {i : Instr} {x : Exec Unit} (h : x s = .error (.trap p) t) (hp : pagerCause p.cause = false) :
    (settle i x s).cur.id = t.cur.id := by
  obtain ⟨u, hu | ⟨c, hu⟩, hid⟩ := takeTrap_turnKept i hp t
  · rw [settle_trap i h hu, hid]
  · obtain ⟨v, hv, hvid⟩ := stopLaunch_ok u.cur.launch c u
    have hsettle : settle i x s = v := by simp only [settle, h, hu, eventStep, hv]
    rw [hsettle, hvid, hid]

/-! ### The answers -/

/-- What an answer 1 or 2 begins with: a saved agent is restored, another runs. -/
def pagerBack (ag : Nat) (saved : Bool) : Exec Unit :=
  if saved then resumeThread ag else modCur (fun a => { a with status := .running })

theorem pagerBack_saved (ag : Nat) : pagerBack ag true = resumeThread ag := if_pos rfl

/-- The word by which the pager answers (R362). -/
def pagerWord (s : State) (a : Agent) (ag : Nat) : Nat := memNat s.mem (a.postedAt + 64 * seatOf ag) 8

/-- The address of which the record tells (R362). -/
def pagerAddress (s : State) (a : Agent) (ag : Nat) : Word :=
  BitVec.ofNat 64 (memNat s.mem (a.postedAt + 64 * seatOf ag + 32) 8)

theorem denyFault_eq (ag cause : Nat) (s : State) :
    denyFault ag cause s = (trap 0x18 (some (pagerAddress s s.cur ag)) (BitVec.ofNat 64 cause) : Exec Unit) s := rfl

section
variable (ha : s.agent? ag = some a) (hpaged : a.status = .paged saved cause)
include ha hpaged

theorem exec_pagerAnswer : exec (.pagerAnswer ag) s =
    if pagerWord s a ag = 0 then .next s
    else if pagerWord s a ag = 1 then .next (wholeOrStop ag (pagerBack ag saved) s)
    else if pagerWord s a ag = 2 then
      if ((wholeOrStop ag (pagerBack ag saved) s).agent? ag).any (fun b => b.status == .running)
        then agentEvent ag (.hint 0) (denyFault ag cause) (wholeOrStop ag (pagerBack ag saved) s)
      else .next (wholeOrStop ag (pagerBack ag saved) s)
    else .next (wholeOrStop ag (throw (.stop cause)) s) := by
  show execPagerAnswer ag s = _
  unfold execPagerAnswer
  rw [ha]
  dsimp only
  rw [hpaged]
  rfl

theorem pagerAnswer_resumes (hw : pagerWord s a ag = 1) (h : pagerBack ag saved (s.focus ag) = .ok () u) :
    exec (.pagerAnswer ag) s = .next (u.focus s.cur.id) := by
  rw [exec_pagerAnswer ha hpaged, if_neg (by omega), if_pos hw, wholeOrStop_ok h]

theorem pagerAnswer_denies (hw : pagerWord s a ag = 2) (h : pagerBack ag saved (s.focus ag) = .ok () u) (hid : u.cur.id = ag)
    (hrun : u.cur.status = .running) :
    exec (.pagerAnswer ag) s = agentEvent ag (.hint 0) (denyFault ag cause) (u.focus s.cur.id) := by
  have hturn := agent?_given hid s.cur.id
  rw [exec_pagerAnswer ha hpaged, if_neg (by omega), if_neg (by omega), if_pos hw, wholeOrStop_ok h, hturn, if_pos (by simp [hrun])]

theorem pagerAnswer_stops (hw : 3 ≤ pagerWord s a ag) :
    exec (.pagerAnswer ag) s = .next ((eventStep (stopLaunch a.launch cause) (s.focus ag)).focus s.cur.id) := by
  rw [exec_pagerAnswer ha hpaged, if_neg (by omega), if_neg (by omega), if_neg (by omega)]
  simp only [wholeOrStop, exec_throw, focus_cur ha]

end

/-- The trap of a denial (R363). -/
def denial (s : State) (a : Agent) (ag cause : Nat) : Trap :=
  { cause := 0x18, val := some (pagerAddress s a ag), val2 := BitVec.ofNat 64 cause }

theorem denyFault_trap (ag cause : Nat) (s : State) : denyFault ag cause s = .error (.trap (denial s s.cur ag cause)) s := by
  rw [denyFault_eq, exec_trap]
  rfl

theorem denial_cause (s : State) (a : Agent) (ag cause : Nat) : wbits ((denial s a ag cause).word false) 6 0 = 0x18 := by
  have hword : (denial s a ag cause).word false = nw (0x18 + 8192 * 6) := by simp [Trap.word, denial, bit1]
  rw [hword]
  decide

/-- A denial of the agent that has the turn: the turn stays, and what runs on a sequencer ends with PAGER_DENY (R363, R364). -/
theorem settle_denyFault (ag cause : Nat) (s : State) : (settle (.hint 0) (denyFault ag cause) s).cur.id = s.cur.id ∧
    (s.cur.kind ≠ .thread → s.cur.kind ≠ .dispatcher →
      let b := (settle (.hint 0) (denyFault ag cause) s).cur
      b.status = .ended 0x18 ∧ b.regs.ktval2 = BitVec.ofNat 64 cause ∧ b.regs.ktval = pagerAddress s s.cur ag) := by
  have hp : pagerCause (denial s s.cur ag cause).cause = false := rfl
  refine ⟨settle_trap_cur_id (denyFault_trap ag cause s) hp, fun hk hd => ?_⟩
  obtain ⟨t, ht, hcur⟩ := endInstance_ok ((denial s s.cur ag cause).word false) ((denial s s.cur ag cause).tval (.hint 0))
    (denial s s.cur ag cause).val2 { s with cur := { s.cur with linkHit := none } }
  rw [settle_trap (.hint 0) (denyFault_trap ag cause s) ((takeTrap_sequencer hk hd (.inl hp)).trans ht), hcur, denial_cause]
  exact ⟨rfl, rfl, rfl⟩

/-- An agent that was not saved runs with the answer. -/
theorem pagerBack_runs (ha : s.agent? ag = some a) : ∃ u, pagerBack ag false (s.focus ag) = .ok () u ∧
    u.cur = { a with status := .running } ∧ u.mem = s.mem :=
  ⟨_, rfl, by rw [← focus_cur ha], focus_mem s ag⟩

section
variable (ha : s.agent? ag = some a) (hpaged : a.status = .paged false cause)
include ha hpaged

/-- An agent that was not saved runs on. -/
theorem pagerAnswer_runs (hw : pagerWord s a ag = 1) : ∃ t, exec (.pagerAnswer ag) s = .next t ∧ t.mem = s.mem ∧
    t.agent? ag = some { a with status := .running } := by
  obtain ⟨u, hu, hcur, hmem⟩ := pagerBack_runs ha
  have hid : u.cur.id = ag := by rw [hcur, ← agent?_id ha]
  exact ⟨_, pagerAnswer_resumes ha hpaged hw hu, (focus_mem _ _).trans hmem, hcur ▸ agent?_given hid s.cur.id⟩

/-- An agent that was not saved is denied its access; what runs on a sequencer ends with it. -/
theorem pagerAnswer_ends (hw : pagerWord s a ag = 2) : ∃ t b, exec (.pagerAnswer ag) s = .next t ∧ t.agent? ag = some b ∧
    (a.kind ≠ .thread → a.kind ≠ .dispatcher →
      b.status = .ended 0x18 ∧ b.regs.ktval2 = BitVec.ofNat 64 cause ∧ b.regs.ktval = pagerAddress s a ag) := by
  obtain ⟨u, hu, hcur, hmem⟩ := pagerBack_runs ha
  have hid : u.cur.id = ag := by rw [hcur, ← agent?_id ha]
  have hgiven := agent?_given hid s.cur.id
  let v := (u.focus s.cur.id).focus ag
  have hvcur : v.cur = { a with status := .running } := (focus_cur hgiven).trans hcur
  have hvmem : v.mem = s.mem := (focus_mem _ _).trans ((focus_mem _ _).trans hmem)
  obtain ⟨hturn, hend⟩ := settle_denyFault ag cause v
  have hvid : v.cur.id = ag := by rw [hvcur, ← agent?_id ha]
  refine ⟨(settle (.hint 0) (denyFault ag cause) v).focus (u.focus s.cur.id).cur.id, _, ?_, agent?_given (hturn.trans hvid) _,
    fun hk hd => ?_⟩
  · rw [pagerAnswer_denies ha hpaged hw hu hid (by rw [hcur]), agentEvent, hgiven]
  · have haddr : pagerAddress v v.cur ag = pagerAddress s a ag := by rw [pagerAddress, hvmem, hvcur, pagerAddress]
    rw [← haddr]
    exact hend (by rwa [hvcur]) (by rwa [hvcur])

end

/-- An answer from 3 on stops the launch, which has then gone (R363, R365). -/
theorem pagerStop_gone {x : Launch} (hs : s.wf = true) (hl : s.launch? a.launch = some x) :
    launchGone ((eventStep (stopLaunch a.launch cause) (s.focus ag)).focus s.cur.id) x a.launch 4 cause := by
  obtain ⟨t, ht, -⟩ := stopLaunch_ok a.launch cause (s.focus ag)
  obtain ⟨c, os, hfocus⟩ := focus_frame s ag
  have hwf : (s.focus ag).wf = true := wf_of_mem (focus_mem s ag) hs
  have hlaunch : (s.focus ag).launch? a.launch = some x := by rw [hfocus]; exact hl
  have hstep : eventStep (stopLaunch a.launch cause) (s.focus ag) = t := by simp only [eventStep, ht]
  rw [hstep]
  exact launchGone_focus (stopLaunch_gone hwf hlaunch ht) _

/-! ### Pre-empted, for whatever reason -/

/-- A step has cut the next instruction of an agent of `r` at one of the elements `ks`, and nothing in memory is different (R162). -/
def cutAt (s : State) (ks : List Nat) (i : Instr) (id : Nat) (r : State) : Prop := ∃ k ∈ ks, ∃ t b, exec i s = .next t ∧ t.mem = s.mem ∧
  r.agent? id = some b ∧ t.agent? id = some { b with cut := some k }

/-- A step that pre-empts an agent saves it, or cuts its next instruction. -/
theorem preempts {i : Instr} {id : Nat} {r : State} (hi : exec i s = event (preempt id) r) (hmem : r.mem = s.mem)
    (ha : r.agent? id = some a) : exec i s = .next (r.saveAway id) ∨ cutAt s (r.focus id).cutPoints i id r := by
  rcases preempt_cases ha with h | ⟨k, hk, t, ht, htm, hta⟩
  · exact .inl (hi.trans (event_ok h))
  · exact .inr ⟨k, hk, t, a, hi.trans (event_ok ht), htm.trans hmem, ha, hta⟩

/-- PREEMPT of an agent that can be saved (R323). -/
theorem preempt_eq (ha : s.agent? ag = some a) (hsaveable : a.saveable = true) : exec (.preempt ag) s = event (preempt ag) s := by
  show event _ s = _
  unfold event
  rw [eventStep_bind_ok (exec_get s), ha]
  dsimp only
  rw [eventStep_bind_ok (exec_need hsaveable s)]

/-- The agent pre-empted by row pressure is saved or cut, and any other that holds more rows has a higher priority than the one that has
stalled (R116). -/
theorem rowStallPreempt_victim {core : Nat} {v : Agent} (ha : s.agents.find? (longStalled s core) = some a)
    (hv : (s.putAgent { a with stall := some s.clock }).rowVictim core a = some v) :
    let r := s.putAgent { a with stall := some s.clock }
    let prio (b : Agent) : Nat := (r.queueRank core (if b.kind = .sweep then 4 else 0) b).1
    (exec (.rowStallPreempt core) s = .next (r.saveAway v.id) ∨
      cutAt s (r.focus v.id).cutPoints (.rowStallPreempt core) v.id r) ∧
    placeCore v.id = core ∧ v.id ≠ a.id ∧ 0 < v.rowsHeld ∧
    ∀ b ∈ r.agents, b.saveable = true → placeCore b.id = core → b.id ≠ a.id → v.rowsHeld < b.rowsHeld → prio a < prio b := by
  intro r prio
  obtain ⟨hpressed, hmax⟩ := rowVictim_some hv
  obtain ⟨hmem, -, hcore, hne, -, hrows⟩ := mem_pressed.mp hpressed
  obtain ⟨b, hb⟩ := agent?_isSome_of_mem hmem
  refine ⟨preempts (rowStallPreempt_eq ha hv) (putAgent_mem _ _) hb, hcore, hne, hrows, fun b hb hs hc hn hlt => ?_⟩
  by_contra hprio
  exact absurd (hmax b (mem_pressed.mpr ⟨hb, hs, hc, hn, not_lt.mp hprio, by omega⟩)) (by omega)

/-- Settles O49: saving writes the area from a state that differs in the bookkeeping of accesses only, and every later clause follows what
the agent with the turn does until the turn is given back. -/
theorem savingAndRestoring : Obligations.SavingAndRestoring := by
  unfold Obligations.SavingAndRestoring
  intro s u ag a ha w _
  have hcur : w.cur = a := focus_cur ha
  have hid : w.cur.id = ag := (congrArg Agent.id hcur).trans (agent?_id ha)
  have hresumed (h : resumeThread ag w = .ok () u) : u.cur.id = ag ∧ u.cur.status = .running :=
    (resumeThread_ok h).imp_left (fun h => h.trans hid)
  refine ⟨?saved, ?pressure, ?restored, ?sweep, ?pager⟩
  case saved =>
    intro h hsaveable
    obtain ⟨v, -, -, -, -, hstatus, hv⟩ := saveThread_ok h
    refine ⟨?_, hstatus, rowsHeld_unmapped _ hv, fun hs => ?_⟩
    · rw [← saveAway_eq ha h]
      exact preempts (preempt_eq ha hsaveable) rfl ha
    · have harea := saveThread_area (wf_of_mem (focus_mem s ag) hs) h
      obtain ⟨c, os, hfocus⟩ := focus_frame s ag
      have hbase (slot : Nat) : (s.focus ag).saveAddr slot = s.saveAddr slot := by rw [hfocus]; rfl
      rwa [hbase, focus_cur ha] at harea
  case pressure =>
    intro core v _ _ hstalled r prio hv
    exact rowStallPreempt_victim hstalled hv
  case restored =>
    intro hsaved hag h
    exact ⟨contextRestore_ok ha hsaved hag h, (hresumed h).2⟩
  case sweep =>
    intro core c hag hcore hc harea
    subst hag
    exact sweepContextSave_ok ha hcore hc harea
  case pager =>
    intro saved cause hpaged answer
    refine ⟨fun hw => (exec_pagerAnswer ha hpaged).trans (if_pos hw), ?_, ?_, ?_, ?_, fun hw => ?_⟩
    · rintro hw rfl
      obtain ⟨t, ht, hmem, hb⟩ := pagerAnswer_runs ha hpaged hw
      exact ⟨t, _, ht, hmem, hb, rfl⟩
    · rintro hw rfl h
      have hback : pagerBack ag true w = .ok () u := by rw [pagerBack_saved, h]
      exact ⟨pagerAnswer_resumes ha hpaged hw hback, (hresumed h).2⟩
    · rintro hw rfl
      exact pagerAnswer_ends ha hpaged hw
    · rintro hw rfl h
      have hback : pagerBack ag true w = .ok () u := by rw [pagerBack_saved, h]
      obtain ⟨hturn, hrun⟩ := hresumed h
      exact ⟨pagerAnswer_denies ha hpaged hw hback hturn hrun, denyFault_eq ag cause⟩
    · have hstop := pagerAnswer_stops ha hpaged hw
      exact ⟨hstop, fun x hs hl => ⟨_, hstop, pagerStop_gone hs hl⟩⟩

end Sys2Proof.Proofs
end

/-! # Scalar instructions, control transfers, control registers (spec/07_scalar_control_system.md): scalar integers -/
section
namespace Sys2Proof.Proofs

open Sys2Proof.Machine Sys2Proof.Laws

variable {s : State} {i : Instr} {d a b : Reg}

/-! ### The shapes of scalar integer forms (R130–R133) -/

theorem rr_ok {f : Word → Word → Word} (hr : s.runs .any) :
    rr i d a b f s = .next ((s.setG d (f (s.g a) (s.g b))).retire i .seq) := plain_ok hr

theorem rrEv_ok {f : Word → Word → Word × Events} (hr : s.runs .any) :
    rrEv i d a b f s = .next (((s.raise (f (s.g a) (s.g b)).2).setG d (f (s.g a) (s.g b)).1).retire i .seq) := plain_ok hr

theorem ri_ok {f : Word → Word} (hr : s.runs .any) :
    ri i d a f s = .next ((s.setG d (f (s.g a))).retire i .seq) := plain_ok hr

theorem ofBool_slt (x y : Word) : ofBool (x.slt y) = if x.toInt < y.toInt then 1 else 0 := by
  simp [ofBool, BitVec.slt]

theorem ofBool_ult (x y : Word) : ofBool (x.ult y) = if x.toNat < y.toNat then 1 else 0 := by
  simp [ofBool, BitVec.ult]

/-! ### The scalar register file (R71, R80) -/

/-- The end of an instruction leaves the scalar registers alone. -/
@[simp] theorem retire_g (s : State) (i : Instr) (n : Reg) : (s.retire i .seq).g n = s.g n := by
  obtain ⟨ps, c, h⟩ := retire_frame s i
  rw [h]
  rfl

@[simp] theorem retire_status (s : State) (i : Instr) : (s.retire i .seq).cur.status = s.cur.status := by
  obtain ⟨ps, c, h⟩ := retire_frame s i
  rw [h]

/-- Who executes goes on executing. -/
theorem runs_retire {c : Who} (h : s.runs c) (i : Instr) : (s.retire i .seq).runs c := by
  obtain ⟨ps, c, he⟩ := retire_frame s i
  rw [he]
  exact h

/-- A register written leaves who executes. -/
theorem runs_setG {c : Who} (h : s.runs c) (n : Reg) (x : Word) : (s.setG n x).runs c := by
  unfold State.runs
  rw [setG_cur_status, setG_cur_kind]
  exact h

/-- Settles O1: each form by the shape it has. -/
theorem scalarIntegers : Obligations.ScalarIntegers := by
  unfold Obligations.ScalarIntegers
  refine ⟨fun s d a b hr => ?_, fun s d a imm hr => ?_, fun s x => ⟨g_zero s, setG_zero s x, fun a b hr => ?_⟩⟩
  · simp only [← wbits_low_six, ← ofBool_slt, ← ofBool_ult]
    exact ⟨rr_ok (f := (· + ·)) hr, rr_ok (f := (· - ·)) hr, rr_ok (f := (· &&& ·)) hr, rr_ok (f := (· ||| ·)) hr,
      rr_ok (f := (· ^^^ ·)) hr, rr_ok (f := fun x y => x <<< wbits y 5 0) hr, rr_ok (f := fun x y => x >>> wbits y 5 0) hr,
      rr_ok (f := fun x y => x.sshiftRight (wbits y 5 0)) hr, rr_ok (f := fun x y => ofBool (x.slt y)) hr,
      rr_ok (f := fun x y => ofBool (x.ult y)) hr, rr_ok (f := (· * ·)) hr, rr_ok (f := mulHigh) hr⟩
  · have himm : imm.toInt = (sext imm).toInt := (BitVec.toInt_signExtend_of_le (by decide)).symm
    rw [himm, ← ofBool_slt, ← ofBool_ult]
    exact ⟨ri_ok (f := (· + sext imm)) hr, ri_ok (f := (· &&& zext imm)) hr, ri_ok (f := (· ||| zext imm)) hr,
      ri_ok (f := (· ^^^ zext imm)) hr, ri_ok (f := fun x => ofBool (x.slt (sext imm))) hr,
      ri_ok (f := fun x => ofBool (x.ult (sext imm))) hr, ri_ok (a := 0) (f := fun _ => sext imm <<< 16) hr,
      ri_ok (f := fun x => x <<< 16 ||| zext imm) hr⟩
  · have hadd : exec (.add 0 a b) s = .next ((s.setG 0 (s.g a + s.g b)).retire (.add 0 a b) .seq) := rr_ok (f := (· + ·)) hr
    have hmul : exec (.mul 0 a b) s = .next ((s.setG 0 (s.g a * s.g b)).retire (.mul 0 a b) .seq) := rr_ok (f := (· * ·)) hr
    rw [setG_zero] at hadd hmul
    exact ⟨hadd, hmul⟩

/-! ### Division (R131) -/

/-- Raising no event changes nothing. -/
@[simp] theorem raise_zero (s : State) : s.raise 0 = s := by
  simp [State.raise, State.setRegs, State.regs, nw]

theorem exec_div (hr : s.runs .any) : exec (.div d a b) s =
    .next (((s.raise (divSigned (s.g a) (s.g b)).2.2).setG d (divSigned (s.g a) (s.g b)).1).retire (.div d a b) .seq) :=
  rrEv_ok (f := fun x y => ((divSigned x y).1, (divSigned x y).2.2)) hr

theorem exec_rem (hr : s.runs .any) : exec (.rem d a b) s =
    .next (((s.raise (if s.g b = 0 then evDZ else 0)).setG d (divSigned (s.g a) (s.g b)).2.1).retire (.rem d a b) .seq) :=
  rrEv_ok (f := fun x y => ((divSigned x y).2.1, if y = 0 then evDZ else 0)) hr

theorem exec_divu (hr : s.runs .any) : exec (.divu d a b) s =
    .next (((s.raise (divUnsigned (s.g a) (s.g b)).2.2).setG d (divUnsigned (s.g a) (s.g b)).1).retire (.divu d a b) .seq) :=
  rrEv_ok (f := fun x y => ((divUnsigned x y).1, (divUnsigned x y).2.2)) hr

theorem exec_remu (hr : s.runs .any) : exec (.remu d a b) s =
    .next (((s.raise (if s.g b = 0 then evDZ else 0)).setG d (divUnsigned (s.g a) (s.g b)).2.1).retire (.remu d a b) .seq) :=
  rrEv_ok (f := fun x y => ((divUnsigned x y).2.1, if y = 0 then evDZ else 0)) hr

theorem divSigned_zero (x : Word) : divSigned x 0 =
    (if x = 0 then 0 else if x.toInt < 0 then 0x8000000000000000 else 0x7FFFFFFFFFFFFFFF, x, 8) := by
  simp [divSigned, BitVec.slt, evDZ]

theorem divUnsigned_zero (x : Word) : divUnsigned x 0 = (if x = 0 then 0 else 0xFFFFFFFFFFFFFFFF, x, 8) := if_pos rfl

theorem divSigned_overflow : divSigned 0x8000000000000000 0xFFFFFFFFFFFFFFFF = (0x7FFFFFFFFFFFFFFF, 0, 4) := rfl

theorem divSigned_plain {x y : Word} (hy : y ≠ 0) (h : ¬(x = 0x8000000000000000 ∧ y = 0xFFFFFFFFFFFFFFFF)) :
    divSigned x y = (x.sdiv y, x.srem y, 0) := by
  have hne : x ≠ BitVec.intMin 64 ∨ y ≠ -1#64 := by
    rw [← not_and_or]
    exact h
  have hq : toWord (x.toInt.tdiv y.toInt) = x.sdiv y := by
    rw [toWord, ← BitVec.toInt_sdiv_of_ne_or_ne x y hne, BitVec.ofInt_toInt]
  have hr : toWord (x.toInt.tmod y.toInt) = x.srem y := by
    rw [toWord, ← BitVec.toInt_srem, BitVec.ofInt_toInt]
  rw [← hq, ← hr]
  exact (if_neg hy).trans (if_neg h)

theorem divUnsigned_plain {x y : Word} (hy : y ≠ 0) : divUnsigned x y = (x / y, x % y, 0) := if_neg hy

/-- The quotient truncates, and the remainder has the sign of the dividend (R131). -/
theorem sdiv_srem {x y : Word} (hy : y ≠ 0) (h : ¬(x = 0x8000000000000000 ∧ y = 0xFFFFFFFFFFFFFFFF)) :
    (x.sdiv y).toInt * y.toInt + (x.srem y).toInt = x.toInt ∧ (x.srem y).toInt.natAbs < y.toInt.natAbs ∧
      ((x.srem y).toInt = 0 ∨ ((x.srem y).toInt < 0 ↔ x.toInt < 0)) := by
  have hne : x ≠ BitVec.intMin 64 ∨ y ≠ -1#64 := by
    rw [← not_and_or]
    exact h
  have hy' : y.toInt ≠ 0 := fun e => hy (BitVec.eq_of_toInt_eq e)
  rw [BitVec.toInt_sdiv_of_ne_or_ne x y hne, BitVec.toInt_srem]
  refine ⟨Int.tdiv_mul_add_tmod _ _, ?_, ?_⟩
  · rw [Int.natAbs_tmod]
    exact Nat.mod_lt _ (Int.natAbs_pos.mpr hy')
  · have hsign := Int.sign_tmod x.toInt y.toInt
    split at hsign
    · exact .inl (Int.sign_eq_zero_iff_zero.mp hsign)
    · right
      rw [← Int.sign_eq_neg_one_iff_neg, ← Int.sign_eq_neg_one_iff_neg, hsign]

/-- Settles O2: each corner of R131 by what the division gives there. -/
theorem scalarDivision : Obligations.ScalarDivision := by
  unfold Obligations.ScalarDivision
  intro s d a b hr x y
  rw [exec_div hr, exec_divu hr, exec_rem hr, exec_remu hr]
  refine ⟨fun hy => ?_, fun hx hy => ?_, fun hy h => ?_, fun hy => ?_⟩
  · have hb : s.g b = 0 := hy
    rw [hb, divSigned_zero, divUnsigned_zero, if_pos rfl]
    exact ⟨rfl, rfl, rfl, rfl⟩
  · have ha : s.g a = 0x8000000000000000 := hx
    have hb : s.g b = 0xFFFFFFFFFFFFFFFF := hy
    rw [ha, hb, divSigned_overflow, if_neg (by decide), raise_zero]
    exact ⟨rfl, rfl⟩
  · obtain ⟨hdiv, hlt, hsign⟩ := sdiv_srem hy h
    refine ⟨x.sdiv y, x.srem y, hdiv, hlt, hsign, ?_⟩
    rw [divSigned_plain hy h, if_neg hy, raise_zero]
    exact ⟨rfl, rfl⟩
  · refine ⟨x / y, x % y, Nat.div_add_mod' _ _, Nat.mod_lt _ ?_, ?_⟩
    · exact Nat.pos_of_ne_zero fun e => hy (BitVec.eq_of_toNat_eq e)
    · rw [divUnsigned_plain hy, if_neg hy, raise_zero]
      exact ⟨rfl, rfl⟩

end Sys2Proof.Proofs
end

/-! ## Immediate shifts, sel, constants (R133, R134) -/
section
namespace Sys2Proof.Proofs

open Sys2Proof.Machine Sys2Proof.Laws

variable {s : State}

/-! ### Words as sums of fields (R68) -/

/-- A field placed where a word holds zeros adds to it. -/
theorem ofNat_or_put {k lo n : Nat} (v : BitVec n) (h : k / 2 ^ lo % 2 ^ n = 0) :
    BitVec.ofNat 32 k ||| put lo v = BitVec.ofNat 32 (k + v.toNat * 2 ^ lo) := by
  have hput : put lo v = BitVec.ofNat 32 (v.toNat * 2 ^ lo) := by
    apply BitVec.eq_of_toNat_eq
    simp [put, Nat.shiftLeft_eq]
  have hbit (i : Nat) (hi : i < n) : k.testBit (lo + i) = false := by
    have := congrArg (fun x => x.testBit i) h
    simpa [Nat.testBit_mod_two_pow, Nat.testBit_div_two_pow, hi, Nat.add_comm] using this
  have hand : BitVec.ofNat 32 k &&& put lo v = 0 := by
    refine BitVec.eq_of_getLsbD_eq fun j _ => ?_
    by_cases hj : lo ≤ j ∧ j - lo < n
    · have := hbit (j - lo) hj.2
      rw [Nat.add_sub_cancel' hj.1] at this
      simp [BitVec.getLsbD_ofNat, this]
    · have hv : j < lo ∨ v.getLsbD (j - lo) = false := by
        rcases Nat.lt_or_ge j lo with hl | hl
        · exact .inl hl
        · exact .inr (BitVec.getLsbD_of_ge v _ (by omega))
      rcases hv with hv | hv <;> simp [put, hv]
  rw [← BitVec.add_eq_or_of_and_eq_zero _ _ hand, hput, ← BitVec.ofNat_add]

/-- Two registers and a field below them placed where a word holds zeros add to it. -/
theorem ofNat_or_put_fields {k lo n : Nat} (a b : Reg) (v : BitVec n) (hlo : lo + n ≤ 16) (ha : k / 2 ^ 21 % 2 ^ 5 = 0)
    (hb : k / 2 ^ 16 % 2 ^ 5 = 0) (hv : k / 2 ^ lo % 2 ^ n = 0) : BitVec.ofNat 32 k ||| put 21 a ||| put 16 b ||| put lo v =
      BitVec.ofNat 32 (k + a.toNat * 2 ^ 21 + b.toNat * 2 ^ 16 + v.toNat * 2 ^ lo) := by
  have habove : (k + a.toNat * 2 ^ 21 + b.toNat * 2 ^ 16) / 2 ^ lo % 2 ^ n = 0 := by
    have hd : 2 ^ lo * 2 ^ n ∣ a.toNat * 2 ^ 21 + b.toNat * 2 ^ 16 := by
      rw [← Nat.pow_add]
      exact Nat.dvd_add (Dvd.dvd.mul_left (pow_dvd_pow 2 (by omega)) _) (Dvd.dvd.mul_left (pow_dvd_pow 2 hlo) _)
    obtain ⟨c, hc⟩ := hd
    rw [Nat.add_assoc, hc, ← Nat.mod_mul_right_div_self, Nat.add_mul_mod_self_left, Nat.mod_mul_right_div_self, hv]
  rw [ofNat_or_put a ha, ofNat_or_put b (by omega), ofNat_or_put v habove]

/-- The same where the field is the lowest. -/
theorem ofNat_or_put_low {k n : Nat} (a b : Reg) (v : BitVec n) (hn : n ≤ 16) (ha : k / 2 ^ 21 % 2 ^ 5 = 0)
    (hb : k / 2 ^ 16 % 2 ^ 5 = 0) (hv : k % 2 ^ n = 0) : BitVec.ofNat 32 k ||| put 21 a ||| put 16 b ||| put 0 v =
      BitVec.ofNat 32 (k + a.toNat * 2 ^ 21 + b.toNat * 2 ^ 16 + v.toNat) := by
  simpa using ofNat_or_put_fields (lo := 0) a b v (by omega) ha hb (by simpa using hv)

/-- The encoding of an instruction whose fields are in range decodes to it. -/
theorem decode_of_encode? {w : IWord} {i : Instr} (h : encode? i = some w) (hw : i.wellFormed = true) : decode w = some i :=
  decode_eq_some_iff.mpr ⟨h, hw⟩

/-- Major 0x0A with sop 3 is no instruction (R133). -/
theorem decode_sop3 (d a : Reg) (sh : BitVec 6) : decode (0x280000C0#32 ||| put 21 d ||| put 16 a ||| put 0 sh) = none := by
  generalize hw : 0x280000C0#32 ||| put 21 d ||| put 16 a ||| put 0 sh = w
  have hmajor : bits w 26 6 = 0x0A := by simp [← hw, bits_put_other]
  have hsop : bits w 6 10 = 3 := by simp [← hw, bits_put_other]
  have hform : decodeForm w = none := (decodeForm_major hmajor).trans (show decode0A w = none by simp [decode0A, hsop])
  simp [decode, hform]

/-- Settles O3: the words by `ofNat_or_put_low`, the results by the shape of the forms. -/
theorem immediateShifts : Obligations.ImmediateShifts := by
  unfold Obligations.ImmediateShifts
  refine ⟨fun d a sh => ⟨?_, ?_, ?_, decode_of_encode? rfl rfl, decode_of_encode? rfl rfl, decode_of_encode? rfl rfl, ?_⟩,
    fun s d a sh hr => ?_, fun s d a b hr => ?_⟩
  · exact ofNat_or_put_low (k := 0x28000000) d a sh (by decide) rfl rfl rfl
  · exact (ofNat_or_put_low (k := 0x28000040) d a sh (by decide) rfl rfl rfl).trans (congrArg _ (by omega))
  · exact (ofNat_or_put_low (k := 0x28000080) d a sh (by decide) rfl rfl rfl).trans (congrArg _ (by omega))
  · have := ofNat_or_put_low (k := 0x280000C0) d a sh (by decide) rfl rfl rfl
    rw [show 0x0A * 2 ^ 26 + d.toNat * 2 ^ 21 + a.toNat * 2 ^ 16 + 3 * 2 ^ 6 + sh.toNat =
      0x280000C0 + d.toNat * 2 ^ 21 + a.toNat * 2 ^ 16 + sh.toNat by omega, ← this]
    exact decode_sop3 d a sh
  · exact ⟨ri_ok (f := (· <<< sh.toNat)) hr, ri_ok (f := (· >>> sh.toNat)) hr, ri_ok (f := fun x => x.sshiftRight sh.toNat) hr⟩
  · have hcount : wbits (s.g b) 5 0 = ((s.g b).setWidth 6).toNat := wbits_low_six _
    refine ⟨⟨_, _, rr_ok (f := fun x y => x <<< wbits y 5 0) hr, ri_ok (f := (· <<< ((s.g b).setWidth 6).toNat)) hr, ?_⟩,
      ⟨_, _, rr_ok (f := fun x y => x >>> wbits y 5 0) hr, ri_ok (f := (· >>> ((s.g b).setWidth 6).toNat)) hr, ?_⟩,
      ⟨_, _, rr_ok (f := fun x y => x.sshiftRight (wbits y 5 0)) hr,
        ri_ok (f := fun x => x.sshiftRight ((s.g b).setWidth 6).toNat) hr, ?_⟩⟩
    all_goals rw [retire_g, retire_g, hcount]

/-! ### A constant built (R134) -/

/-- g12 after ori from g0, or after an lsi of what it holds. -/
theorem ori_twelve {imm : BitVec 16} (hr : s.runs .any) :
    ∃ t, exec (.ori 12 0 imm) s = .next t ∧ t.runs .any ∧ t.g 12 = imm.setWidth 64 := by
  refine ⟨_, ri_ok (f := (· ||| zext imm)) hr, runs_retire (runs_setG hr _ _) _, ?_⟩
  rw [retire_g, g_setG, if_pos ⟨rfl, by decide⟩, g_zero]
  exact BitVec.zero_or

theorem lsi_twelve {imm : BitVec 16} {x : Word} (hr : s.runs .any) (hx : s.g 12 = x) :
    ∃ t, exec (.lsi 12 12 imm) s = .next t ∧ t.runs .any ∧ t.g 12 = x <<< 16 ||| imm.setWidth 64 := by
  refine ⟨_, ri_ok (f := fun x => x <<< 16 ||| zext imm) hr, runs_retire (runs_setG hr _ _) _, ?_⟩
  rw [retire_g, g_setG, if_pos ⟨rfl, by decide⟩, hx]

/-- Settles O4: sel is a function of the state; the constant grows by 16 bits with each word. -/
theorem selAndConstant : Obligations.SelAndConstant := by
  unfold Obligations.SelAndConstant
  refine ⟨fun s d a b hr => plain_ok (f := fun s => if s.g b ≠ 0 then s.setG d (s.g a) else s) hr, fun d a b => ?_,
    decode_of_encode? rfl rfl, decode_of_encode? rfl rfl, decode_of_encode? rfl rfl, decode_of_encode? rfl rfl,
    fun s hr => ?_⟩
  · exact ofNat_or_put_fields (k := 0x2C000000) d a b (by decide) rfl rfl rfl
  · obtain ⟨t, ht, hrt, hgt⟩ := ori_twelve (imm := 0x1234) hr
    obtain ⟨u, hu, hru, hgu⟩ := lsi_twelve (imm := 0x5678) hrt hgt
    obtain ⟨v, hv, hrv, hgv⟩ := lsi_twelve (imm := 0x9ABC) hru hgu
    obtain ⟨w, hw, _, hgw⟩ := lsi_twelve (imm := 0xDEF0) hrv hgv
    exact ⟨t, u, v, w, ht, hgt.trans (by decide), hu, hgu.trans (by decide), hv, hgv.trans (by decide), hw, hgw.trans (by decide)⟩

end Sys2Proof.Proofs
end

/-! ## Jumps, branches, the end of an instruction (R138, R139, R141, R359) -/
section
namespace Sys2Proof.Proofs

open Sys2Proof.Machine Sys2Proof.Laws

variable {s : State} {i : Instr}

/-! ### The end of an instruction -/

/-- Single step makes an event pending in user mode of a thread alone (R359). -/
theorem stepTrap_frame (s : State) (i : Instr) : ∃ ps, s.stepTrap i = { s with cur := { s.cur with pending := ps } } ∧
    (s.cur.kind ≠ .thread ∨ s.regs.kstatus.getLsbD 0 = true ∨ s.regs.kstatus.getLsbD 11 = false → ps = s.cur.pending) := by
  unfold State.stepTrap
  split
  · rename_i h
    obtain ⟨hk, hm, hs⟩ := h
    refine ⟨_, rfl, fun hc => ?_⟩
    rcases hc with hc | hc | hc
    · exact absurd hk hc
    · exact absurd (hm.symm.trans hc) (by decide)
    · exact absurd (hs.symm.trans hc) (by decide)
  · exact ⟨_, rfl, fun _ => rfl⟩

/-- The instruction is the last of the body of an active LOOPV (R141). -/
def atBodyEnd (s : State) : Prop := s.regs.loopCtl.toNat % 64 ≠ 0 ∧
  s.cur.pc = s.regs.loopAddr + 4 * BitVec.ofNat 64 (s.regs.loopCtl.toNat % 64 - 1)

/-- The register that counts the passes of an active LOOPV (R141). -/
def loopReg (s : State) : Reg := BitVec.ofNat 5 (s.regs.loopCtl.toNat / 64)

theorem loopReg_eq (s : State) : BitVec.ofNat 5 (wbits s.regs.loopCtl 10 6) = loopReg s := by
  apply BitVec.eq_of_toNat_eq
  simp [loopReg, wbits, bitsOf, Nat.shiftRight_eq_div_pow]

theorem advance_elsewhere (h : ¬ atBodyEnd s) : s.advance = s.setPc (s.cur.pc + 4) := by
  simp only [State.advance, wbits_low_six]
  exact if_neg h

theorem advance_again (h : atBodyEnd s) (hg : s.g (loopReg s) ≠ 0) : s.advance = s.setPc s.regs.loopAddr := by
  simp only [State.advance, wbits_low_six, loopReg_eq]
  exact (if_pos h).trans (if_pos hg)

theorem advance_over (h : atBodyEnd s) (hg : s.g (loopReg s) = 0) :
    s.advance = (s.setRegs { s.regs with loopCtl := 0 }).setPc (s.cur.pc + 4) := by
  simp only [State.advance, wbits_low_six, loopReg_eq]
  exact (if_pos h).trans (if_neg (not_not_intro hg))

/-- What becomes pending leaves the pc and the control registers as the end of the instruction makes them. -/
theorem retire_seq_of_advance {t : State} (h : s.advance = t) :
    (s.retire i .seq).cur.pc = t.cur.pc ∧ (s.retire i .seq).regs = t.regs := by
  subst h
  obtain ⟨ps, he, _⟩ := stepTrap_frame s.advance i
  rw [State.retire, he]
  exact ⟨rfl, rfl⟩

theorem retire_jump (s : State) (i : Instr) (target : Word) :
    (s.retire i (.jump target)).cur.pc = target ∧ (s.retire i (.jump target)).regs = s.regs := by
  obtain ⟨ps, he, _⟩ := stepTrap_frame (s.setPc target) i
  rw [State.retire, he]
  exact ⟨rfl, rfl⟩

/-- However an instruction goes on, its end changes the pc, the control registers and what is pending alone. -/
theorem retire_flow_frame (s : State) (i : Instr) (f : Flow) :
    ∃ ps, { s.retire i f with cur := { (s.retire i f).cur with pc := s.cur.pc, regs := s.cur.regs } } =
        { s with cur := { s.cur with pending := ps } } ∧
      (s.cur.kind ≠ .thread ∨ s.regs.kstatus.getLsbD 0 = true ∨ s.regs.kstatus.getLsbD 11 = false → ps = s.cur.pending) := by
  cases f with
  | seq =>
    obtain ⟨pc, c, ha⟩ : ∃ pc c, s.advance = { s with cur := { s.cur with pc := pc, regs := { s.cur.regs with loopCtl := c } } } :=
      ⟨_, _, advance_frame s⟩
    obtain ⟨ps, he, hps⟩ := stepTrap_frame s.advance i
    rw [ha] at hps
    refine ⟨ps, ?_, hps⟩
    rw [State.retire, he, ha]
  | jump target =>
    obtain ⟨ps, he, hps⟩ := stepTrap_frame (s.setPc target) i
    refine ⟨ps, ?_, hps⟩
    rw [State.retire, he]
    rfl
  | back => exact ⟨_, rfl, fun _ => rfl⟩

/-- Settles O5: the jumps run as they are defined; the end of an instruction by its cases. -/
theorem jumpsAndTheEndOfInstructions : Obligations.JumpsAndTheEndOfInstructions := by
  unfold Obligations.JumpsAndTheEndOfInstructions
  refine ⟨fun s hr => ⟨fun d off => insn_ok hr rfl, fun a off => insn_ok hr rfl, fun a off => insn_ok hr rfl⟩, fun s i => ?_⟩
  refine ⟨retire_jump s i, fun h => ?_, fun h hg => ?_, fun h hg => ?_, retire_flow_frame s i⟩
  · exact retire_seq_of_advance (advance_elsewhere h)
  · exact retire_seq_of_advance (advance_again h hg)
  · exact retire_seq_of_advance (advance_over h hg)

/-! ### Conditional branches -/

theorem branch_ok {a b : Reg} {off : BitVec 16} {c : Word → Word → Bool} (hr : s.runs .any) : branch i a b off c s =
    .next (s.retire i (if c (s.g a) (s.g b) then .jump (s.cur.pc + off.signExtend 64 * 4) else .seq)) := insn_ok hr rfl

/-- Settles O6: the words by `ofNat_or_put_low`, the target by `branch_ok`. -/
theorem conditionalBranches : Obligations.ConditionalBranches := by
  unfold Obligations.ConditionalBranches
  refine ⟨fun a b off => ?_, fun s a b off hr => ?_⟩
  · exact ⟨ofNat_or_put_low (k := 0x34000000) a b off (by decide) rfl rfl rfl,
      ofNat_or_put_low (k := 0x38000000) a b off (by decide) rfl rfl rfl,
      ofNat_or_put_low (k := 0x3C000000) a b off (by decide) rfl rfl rfl,
      ofNat_or_put_low (k := 0x40000000) a b off (by decide) rfl rfl rfl⟩
  · have hbeq := branch_ok (i := .beq a b off) (a := a) (b := b) (off := off) (c := fun x y => x == y) hr
    have hbne := branch_ok (i := .bne a b off) (a := a) (b := b) (off := off) (c := fun x y => x != y) hr
    have hblt := branch_ok (i := .blt a b off) (a := a) (b := b) (off := off) (c := fun x y => x.slt y) hr
    have hbge := branch_ok (i := .bge a b off) (a := a) (b := b) (off := off) (c := fun x y => !(x.slt y)) hr
    simp only [beq_iff_eq, bne_iff_ne, BitVec.slt, decide_eq_true_eq, Bool.not_eq_true', decide_eq_false_iff_not,
      Int.not_lt] at hbeq hbne hblt hbge
    refine ⟨hbeq, hbne, hblt, hbge, fun j => (retire_jump s j _).1, fun j h => ?_⟩
    exact (retire_seq_of_advance (advance_elsewhere fun he => he.1 h)).1

end Sys2Proof.Proofs
end

/-! ## Predicate branches and loopv (R22, R140–R143, R373) -/
section
namespace Sys2Proof.Proofs

open Sys2Proof.Machine Sys2Proof.Laws

variable {s u : State} {i : Instr}

/-! ### Predicate branches -/

/-- Every earlier vector instruction of the thread has completed (R22). -/
def drained (s : State) : State := { s with cur := { s.cur with vqueue := [] } }

theorem predBranch_ok {off : BitVec 16} {c : State → Bool} (hr : s.runs .threadOnly) : predBranch i off c s =
    .next ((drained s).retire i (if c (drained s) then .jump (s.cur.pc + off.signExtend 64 * 4) else .seq)) := insn_ok hr rfl

theorem getLsbD_predMask (s : State) {k : Nat} (hk : k < 1024) :
    (BitVec.ofNat 1024 (2 ^ s.regs.len - 1)).getLsbD k = decide (k < s.regs.vl.toNat % 2048) := by
  rw [BitVec.getLsbD_ofNat, Nat.testBit_two_pow_sub_one, Regs.len, wbits_low_eleven, decide_eq_true hk, Bool.true_and]

theorem getLsbD_predBits (s : State) (a : Reg) (k : Nat) :
    (s.predBits a).getLsbD k = ((s.p a).getLsbD k && decide (k < s.regs.vl.toNat % 2048)) := by
  rw [State.predBits, getLsbD_and_lowMask, Regs.len, wbits_low_eleven]

/-- bpany's test: some bit below VL is set (R140). -/
theorem predBits_ne_zero (s : State) (a : Reg) :
    s.predBits a ≠ 0 ↔ ∃ k, k < s.regs.vl.toNat % 2048 ∧ k < 1024 ∧ (s.p a).getLsbD k = true := by
  constructor
  · intro h
    by_contra hn
    refine h (BitVec.eq_of_getLsbD_eq fun k hk => ?_)
    rw [getLsbD_predBits s a k]
    by_cases hv : k < s.regs.vl.toNat % 2048
    · have : (s.p a).getLsbD k = false := by
        by_contra hp
        exact hn ⟨k, hv, hk, by simpa using hp⟩
      simp [this]
    · simp [hv]
  · rintro ⟨k, hv, hk, hp⟩ h0
    have := getLsbD_predBits s a k
    rw [h0, hp] at this
    simp [hv] at this

/-- bpall's test: every bit below VL is set (R140). -/
theorem predBits_eq_mask (s : State) (a : Reg) : s.predBits a = BitVec.ofNat 1024 (2 ^ s.regs.len - 1) ↔
    ∀ k, k < s.regs.vl.toNat % 2048 → k < 1024 → (s.p a).getLsbD k = true := by
  constructor
  · intro h k hv hk
    have := getLsbD_predBits s a k
    rw [h, getLsbD_predMask s hk] at this
    simpa [hv] using this
  · intro h
    refine BitVec.eq_of_getLsbD_eq fun k hk => ?_
    rw [getLsbD_predBits s a k, getLsbD_predMask s hk]
    by_cases hv : k < s.regs.vl.toNat % 2048
    · simp [h k hv hk]
    · simp [hv]

theorem bpany_ok {a : Reg} {off : BitVec 16} (hr : s.runs .threadOnly) : exec (.bpany a off) s = .next ((drained s).retire
    (.bpany a off) (if s.predBits a ≠ 0 then .jump (s.cur.pc + off.signExtend 64 * 4) else .seq)) := by
  simp only [← bne_iff_ne]
  exact predBranch_ok (c := fun s => s.predBits a != 0) hr

theorem bpall_ok {a : Reg} {off : BitVec 16} (hr : s.runs .threadOnly) : exec (.bpall a off) s = .next ((drained s).retire
    (.bpall a off) (if s.predBits a = BitVec.ofNat 1024 (2 ^ s.regs.len - 1) then .jump (s.cur.pc + off.signExtend 64 * 4)
      else .seq)) := by
  simp only [← beq_iff_eq (a := s.predBits a)]
  exact predBranch_ok (c := fun s => s.predBits a == BitVec.ofNat 1024 (2 ^ s.regs.len - 1)) hr

/-! ### loopv -/

/-- The body's words are as many as were asked for, and LOOPV refuses none of them (R142). -/
theorem readBody_words {base : Word} {n : Nat} {ws : List IWord} (h : readBody base n s = .ok ws u) :
    ws.length = n ∧ ∀ w ∈ ws, loopRefuses w = false := by
  obtain ⟨xs, t, hread, hrest⟩ := exec_bind_eq_ok h
  cases hfind : xs.zipIdx.find? (fun e => loopRefuses e.1) with
  | some e => simp [hfind] at hrest
  | none =>
    rw [hfind] at hrest
    obtain ⟨rfl, rfl⟩ : xs = ws ∧ t = u := by simpa using hrest
    refine ⟨by simpa using eachGet_length hread, fun w hw => ?_⟩
    obtain ⟨k, hk, rfl⟩ := List.mem_iff_getElem.mp hw
    have := List.find?_eq_none.mp hfind (xs[k], k) (List.mk_mem_zipIdx_iff_getElem?.mpr (by simp))
    simpa using this

theorem loopRefuses_false {w : IWord} (h : loopRefuses w = false) : ¬(0x0D ≤ w.toNat / 2 ^ 26 ∧ w.toNat / 2 ^ 26 ≤ 0x12) ∧
    w.toNat / 2 ^ 26 ≠ 0x30 ∧ w.toNat / 2 ^ 26 ≠ 0x31 := by
  simpa [loopRefuses, and_assoc] using h

variable {a : Reg} {n : BitVec 16} {ws : List IWord}

theorem loopv_active (hr : s.runs .threadOnly) (h : s.regs.loopCtl.toNat % 64 ≠ 0) :
    exec (.loopv a n) s = .next (settle (.loopv a n) (trap 0x0F none s.regs.loopAddr) s) := by
  refine insn_error (e := .trap { cause := 0x0F, val := none, val2 := s.regs.loopAddr }) (t := s) hr ?_
  refine (exec_bind_ok (exec_get s)).trans ?_
  rw [wbits_low_six, if_pos h]
  rfl

/-- Where no loop is active and the body's words have been read, the count decides (R142, R143, R373). -/
theorem loopv_skips (hr : s.runs .threadOnly) (h : s.regs.loopCtl.toNat % 64 = 0)
    (hb : readBody (s.cur.pc + 4) n.toNat s = .ok ws u) (hu : u.g a = 0) :
    exec (.loopv a n) s = .next (u.retire (.loopv a n) (.jump (s.cur.pc + 4 + 4 * nw n.toNat))) := by
  refine insn_ok hr ((exec_bind_ok (exec_get s)).trans ?_)
  rw [wbits_low_six, if_neg (not_not_intro h)]
  refine (exec_bind_ok hb).trans ((exec_bind_ok (exec_getG a u)).trans ?_)
  rw [if_pos hu]
  rfl

theorem loopv_starts (hr : s.runs .threadOnly) (h : s.regs.loopCtl.toNat % 64 = 0)
    (hb : readBody (s.cur.pc + 4) n.toNat s = .ok ws u) (hu : u.g a ≠ 0) :
    exec (.loopv a n) s = .next (({ u with cur := { u.cur with
        replay := Vector.ofFn (fun k => ws.getD k.val 0),
        regs := { u.cur.regs with loopAddr := s.cur.pc + 4, loopCtl := nw (64 * a.toNat + n.toNat) } } } : State).retire
      (.loopv a n) (.jump (s.cur.pc + 4))) := by
  refine insn_ok hr ((exec_bind_ok (exec_get s)).trans ?_)
  rw [wbits_low_six, if_neg (not_not_intro h)]
  refine (exec_bind_ok hb).trans ((exec_bind_ok (exec_getG a u)).trans ?_)
  rw [if_neg hu]
  rfl

/-- Settles O7: the tests by `predBits_ne_zero` and `predBits_eq_mask`, loopv by what it finds in LOOPCTL and in its count. -/
theorem predicateBranchesAndLoops : Obligations.PredicateBranchesAndLoops := by
  unfold Obligations.PredicateBranchesAndLoops
  refine ⟨fun s a off hr => ⟨fun h => ?_, fun h => ?_, fun h => ?_, fun h => ?_⟩,
    fun s u a n ws hr => ⟨loopv_active hr, fun h hb hu => ?_, loopv_starts hr, fun hb => ?_⟩⟩
  · rw [bpany_ok hr, if_pos ((predBits_ne_zero s a).mpr h)]
    rfl
  · rw [bpany_ok hr, if_neg]
    · rfl
    · rw [predBits_ne_zero]
      rintro ⟨k, hv, hk, hp⟩
      exact absurd ((h k hv hk).symm.trans hp) (by decide)
  · rw [bpall_ok hr, if_pos ((predBits_eq_mask s a).mpr h)]
    rfl
  · rw [bpall_ok hr, if_neg]
    · rfl
    · rw [predBits_eq_mask]
      obtain ⟨k, hv, hk, hp⟩ := h
      exact fun h => absurd (hp.symm.trans (h k hv hk)) (by decide)
  · rw [loopv_skips hr h hb hu, nw, BitVec.ofNat_toNat]
  · obtain ⟨hlen, hws⟩ := readBody_words hb
    exact ⟨hlen, fun w hw => loopRefuses_false (hws w hw)⟩

end Sys2Proof.Proofs
end

/-! ## Scalar floating point (R136, R137) -/
section
namespace Sys2Proof.Proofs

open Sys2Proof.Machine Sys2Proof.Laws

variable {s : State} {i : Instr} {d a b : Reg} {fmt rm : BitVec 2}

/-- A scalar form rounds once, writes its result and raises its events (R136). -/
theorem fop_ok {f : Fmt → Rnd → Val → Val → Val → Nat × Events} (hr : s.runs .threadOnly) : fop i d a b fmt rm f s =
    .next ((s.putScalar d (f (scalarFmt fmt) (s.rnd rm 0) (scalarOperand (scalarFmt fmt) (s.rnd rm 0).fz (s.g a))
      (scalarOperand (scalarFmt fmt) (s.rnd rm 0).fz (s.g b)) (scalarOperand (scalarFmt fmt) (s.rnd rm 0).fz (s.g d)))).retire i
        .seq) := plain_ok hr

theorem fltTest_nan {x y : Val} (h : x.isNan = true ∨ y.isNan = true) : fltTest x y = (0, 16) :=
  if_pos (by simpa using h)

theorem fltTest_ordered {x y : Val} (hx : x.isNan = false) (hy : y.isNan = false) :
    fltTest x y = (if cmpVal x y < 0 then 1 else 0, 0) := if_neg (by simp [hx, hy])

/-- Settles O8: each form by `fop_ok`. -/
theorem scalarFloat : Obligations.ScalarFloat := by
  unfold Obligations.ScalarFloat
  intro s d a b fmt rm hr f val done
  have hflt : exec (.flt d a b fmt) s = done (.flt d a b fmt) (fltTest (val (s.rnd 0 0) a) (val (s.rnd 0 0) b)) :=
    fop_ok (f := fun _ _ x y _ => fltTest x y) hr
  refine ⟨fop_ok (f := fun f r x y _ => fAdd f r x y) hr, fop_ok (f := fun f r x y _ => fSub f r x y) hr,
    fop_ok (f := fun f r x y _ => fMul f r x y) hr, fop_ok (f := fun f r x y z => fMulAdd f r x y z) hr,
    fun h => ?_, fun hx hy => ?_⟩
  · rw [hflt, fltTest_nan h]
  · rw [hflt, fltTest_ordered hx hy]

/-! ### Conversions -/

theorem scalarFmt_float (fmt : BitVec 2) : 5 ≤ scalarFmt fmt := by
  revert fmt
  decide

theorem isInt_false {f : Fmt} (h : 5 ≤ f) : f.isInt = false :=
  decide_eq_false (Nat.not_le.mpr (Nat.lt_of_lt_of_le (by decide) h))

theorem fcvt_ok {dir : Bool} {x : BitVec 4} {src dst : Fmt} {w : Word} {e : Events} (hr : s.runs .threadOnly)
    (hsrc : (if dir then scalarFmt fmt else x.toNat) = src) (hdst : (if dir then x.toNat else scalarFmt fmt) = dst)
    (hc : convertScalar src dst (s.rnd rm 0) (s.g a) = (w, e)) :
    exec (.fcvt d a dir x fmt rm) s = .next (((s.raise e).setG d w).retire (.fcvt d a dir x fmt rm) .seq) := by
  obtain rfl : (convertScalar src dst (s.rnd rm 0) (s.g a)).1 = w := congrArg Prod.fst hc
  obtain rfl : (convertScalar src dst (s.rnd rm 0) (s.g a)).2 = e := congrArg Prod.snd hc
  subst hsrc hdst
  exact plain_ok hr

/-- The integer that a word's bits denote in a signed format of its width (R81). -/
theorem decodeInt_toNat {f : Fmt} {w : Nat} (hf : f.signed = true) (hw : f.bits = w) (hpos : 0 < w) (x : BitVec w) :
    decodeInt f x.toNat = x.toInt := by
  obtain ⟨n, rfl⟩ : ∃ n, w = n + 1 := ⟨w - 1, by omega⟩
  rw [decodeInt, hw, BitVec.toInt_eq_toNat_cond, Nat.add_sub_cancel, Nat.pow_succ]
  by_cases h : 2 ^ n ≤ x.toNat
  · rw [if_pos ⟨hf, h⟩, if_neg (by omega)]
    norm_cast
  · rw [if_neg (fun k => h k.2), if_pos (by omega)]

theorem valToInt_lt (f : Fmt) (r : Rnd) (v : Val) : (valToInt f r v).1 < 2 ^ f.bits := by
  have hbits (x : Int) : intBits f x < 2 ^ f.bits := by
    have hpos : (0 : Int) < 2 ^ f.bits := by positivity
    have hlt := Int.emod_lt_of_pos x hpos
    have hnn := Int.emod_nonneg x hpos.ne'
    have : ((intBits f x : Nat) : Int) < 2 ^ f.bits := by rwa [intBits, Int.toNat_of_nonneg hnn]
    exact_mod_cast this
  cases v with
  | nan => exact Nat.two_pow_pos _
  | inf n => exact hbits _
  | fin n m e =>
    rw [valToInt]
    generalize roundInt r n m e = rounded
    obtain ⟨k, whole⟩ := rounded
    dsimp only
    split
    · exact hbits _
    · split <;> exact hbits _

/-- An integer result is written sign-extended (R137). -/
theorem toWord_decodeInt {f : Fmt} {w b : Nat} (hf : f.signed = true) (hw : f.bits = w) (hpos : 0 < w) (hb : b < 2 ^ w) :
    toWord (decodeInt f b) = (BitVec.ofNat w b).signExtend 64 := by
  have h := decodeInt_toNat hf hw hpos (BitVec.ofNat w b)
  rw [BitVec.toNat_ofNat, Nat.mod_eq_of_lt hb] at h
  rw [h]
  rfl

theorem convertScalar_floats {src dst : Fmt} (hs : 5 ≤ src) (hd : 5 ≤ dst) (r : Rnd) (x : Word) : convertScalar src dst r x =
    (nw (roundVal dst r (scalarOperand src r.fz x)).1, (roundVal dst r (scalarOperand src r.fz x)).2) := by
  simp [convertScalar, isInt_false hs, isInt_false hd]

theorem convertScalar_fromInt {src dst : Fmt} {w : Nat} (hi : src.isInt = true) (hs : src.signed = true) (hw : src.bits = w)
    (hpos : 0 < w) (hd : 5 ≤ dst) (r : Rnd) (x : Word) : convertScalar src dst r x =
      (nw (roundVal dst r (intVal (x.setWidth w).toInt)).1, (roundVal dst r (intVal (x.setWidth w).toInt)).2) := by
  rw [← decodeInt_toNat hs hw hpos, BitVec.toNat_setWidth, ← hw]
  simp [convertScalar, hi, isInt_false hd]

theorem convertScalar_toInt {src dst : Fmt} {w : Nat} (hs : 5 ≤ src) (hi : dst.isInt = true) (hsg : dst.signed = true)
    (hw : dst.bits = w) (hpos : 0 < w) (r : Rnd) (x : Word) : convertScalar src dst r x =
      ((BitVec.ofNat w (valToInt dst r (scalarOperand src r.fz x)).1).signExtend 64, (valToInt dst r (scalarOperand src r.fz x)).2) := by
  rw [← toWord_decodeInt hsg hw hpos (hw ▸ valToInt_lt _ _ _)]
  simp [convertScalar, hi, isInt_false hs]

/-! ### Rounding what a format holds (R84, R85, R87) -/

/-- A magnitude without a remainder rounds to itself in every mode. -/
theorem roundsUp_exact (mode : Mode) (u : Nat) (neg : Bool) (lo : Nat) : roundsUp mode u neg lo 0 0 false = false := by
  unfold roundsUp
  split <;> simp

/-- The bits of a finite magnitude of at most the format's precision (R83). -/
theorem packFloat_held {f : Fmt} (neg : Bool) {m : Nat} (e : Int) (hm : m < 2 ^ (f.fracBits + 1)) : packFloat f neg m e =
    (if neg then f.signBit else 0) +
      if m < 2 ^ f.fracBits then m else (e + f.bias + f.fracBits).toNat * 2 ^ f.fracBits + (m - 2 ^ f.fracBits) := by
  simp only [packFloat, Nat.not_le.mpr hm, if_false]
  split
  · rfl
  · rw [Nat.add_assoc]

/-- The exponent of a magnitude's last place is the one a format gives it: for a normal value and for a subnormal one (R83). -/
theorem quantum_held {f : Fmt} {m : Nat} {e : Int} (h0 : m ≠ 0) (hm : m < 2 ^ (f.fracBits + 1))
    (h : e = 1 - (f.bias : Int) - f.fracBits ∨ 2 ^ f.fracBits ≤ m ∧ 1 - (f.bias : Int) - f.fracBits ≤ e) :
    max (e + bitLen m - 1) (1 - (f.bias : Int)) - f.fracBits = e := by
  have hlt : m.log2 < f.fracBits + 1 := (Nat.log2_lt h0).mpr hm
  rw [bitLen, if_neg h0]
  rcases h with rfl | ⟨hn, he⟩
  · omega
  · have hle : f.fracBits ≤ m.log2 := (Nat.le_log2 h0).mpr hn
    omega

/-- The magnitude of a value lies beyond the largest finite one of the format (R83, R88). -/
def beyondFinite (f : Fmt) (m : Nat) (e : Int) : Prop := 2 ^ f.fracBits ≤ m ∧
  if f = 9 then 15 < e + f.bias + f.fracBits ∨ e + f.bias + f.fracBits = 15 ∧ m = 15
  else ((2 ^ f.expBits - 1 : Nat) : Int) ≤ e + f.bias + f.fracBits

/-- A magnitude that the format holds rounds to its own bits without an event (R87). -/
theorem roundMag_held {f : Fmt} (mode : Mode) (u : Nat) (neg : Bool) {m : Nat} {e : Int} (h0 : m ≠ 0)
    (hm : m < 2 ^ (f.fracBits + 1)) (hq : max (e + bitLen m - 1) (1 - (f.bias : Int)) - f.fracBits = e)
    (hov : ¬ beyondFinite f m e) : roundMag f mode u false neg m e false = (packFloat f neg m e, 0) := by
  have hov' : ((2 ^ f.fracBits ≤ m) && (if f = 9 then 15 < e + f.bias + f.fracBits || (e + f.bias + f.fracBits == 15 && m == 15)
      else (2 ^ f.expBits - 1 : Nat) ≤ e + f.bias + f.fracBits)) = false := by
    rw [Bool.eq_false_iff]
    intro h
    rw [Bool.and_eq_true, decide_eq_true_eq] at h
    refine hov ⟨h.1, ?_⟩
    by_cases h9 : f = 9 <;> simpa [h9] using h.2
  simp only [roundMag, h0, false_and, if_false, hq, Int.lt_irrefl, Int.sub_self, Int.toNat_zero, Nat.shiftRight_zero, Nat.pow_zero,
    Nat.mod_one, roundsUp_exact, Bool.false_eq_true, Nat.not_le.mpr hm, hov', bne_self_eq_false, Bool.or_self, Bool.false_and]

theorem float_bits {f : Fmt} (h5 : 5 ≤ f) (h10 : f ≤ 10) : f.bits - 1 = f.fracBits + f.expBits := by
  interval_cases f <;> rfl

/-- A word of a floating-point format is its sign, exponent and fraction (R83). -/
theorem float_fields {f : Fmt} (h5 : 5 ≤ f) (h10 : f ≤ 10) {x : Nat} (hx : x < 2 ^ f.bits) :
    x = (if x / f.signBit % 2 == 1 then f.signBit else 0) +
      (x / 2 ^ f.fracBits % 2 ^ f.expBits * 2 ^ f.fracBits + x % 2 ^ f.fracBits) := by
  have hsign : f.signBit = 2 ^ f.fracBits * 2 ^ f.expBits := by rw [Fmt.signBit, float_bits h5 h10, Nat.pow_add]
  have hbits : 2 ^ f.bits = f.signBit * 2 := by
    rw [Fmt.signBit, ← Nat.pow_succ, Nat.succ_eq_add_one, Nat.sub_add_cancel (by linarith [bits_pos f])]
  have hlow : x % f.signBit = x / 2 ^ f.fracBits % 2 ^ f.expBits * 2 ^ f.fracBits + x % 2 ^ f.fracBits := by
    rw [hsign, Nat.mod_mul, Nat.add_comm, Nat.mul_comm]
  have htop : x / f.signBit < 2 := Nat.div_lt_of_lt_mul (hbits ▸ hx)
  rw [← hlow]
  have hdiv := Nat.div_add_mod x f.signBit
  obtain hq | hq := Nat.le_one_iff_eq_zero_or_eq_one.mp (Nat.lt_succ_iff.mp htop)
  all_goals
    rw [hq] at hdiv ⊢
    simpa using hdiv.symm

variable {f : Fmt} {r : Rnd}

/-- A subnormal value or a zero rounds to its sign and fraction (R83). -/
theorem roundVal_subnormal (hfz : r.fz = false) (neg : Bool) {fr : Nat} (hfr : fr < 2 ^ f.fracBits) :
    roundVal f r (.fin neg fr (1 - (f.bias : Int) - f.fracBits)) = ((if neg then f.signBit else 0) + fr, 0) := by
  rw [roundVal, hfz]
  by_cases h0 : fr = 0
  · subst h0
    exact if_pos ⟨rfl, rfl⟩
  · have hm : fr < 2 ^ (f.fracBits + 1) := by rw [Nat.pow_succ]; omega
    have hov : ¬ beyondFinite f fr (1 - (f.bias : Int) - f.fracBits) := fun h => absurd h.1 (Nat.not_le.mpr hfr)
    rw [roundMag_held _ _ _ h0 hm (quantum_held h0 hm (.inl rfl)) hov, packFloat_held _ _ hm, if_pos hfr]

/-- A normal value that is no NaN and no infinity rounds to its sign, exponent and fraction (R83). -/
theorem roundVal_normal (hfz : r.fz = false) (neg : Bool) {ex fr : Nat} (hfr : fr < 2 ^ f.fracBits) (hex : ex ≠ 0)
    (hfin : if f = 9 then ex < 15 ∨ ex = 15 ∧ fr < 7 else ex < 2 ^ f.expBits - 1) :
    roundVal f r (.fin neg (2 ^ f.fracBits + fr) ((ex : Int) - f.bias - f.fracBits)) =
      ((if neg then f.signBit else 0) + (ex * 2 ^ f.fracBits + fr), 0) := by
  have h0 : 2 ^ f.fracBits + fr ≠ 0 := by have := Nat.two_pow_pos f.fracBits; omega
  have hm : 2 ^ f.fracBits + fr < 2 ^ (f.fracBits + 1) := by rw [Nat.pow_succ]; omega
  have he : (ex : Int) - f.bias - f.fracBits + f.bias + f.fracBits = ex := by omega
  have hov : ¬ beyondFinite f (2 ^ f.fracBits + fr) ((ex : Int) - f.bias - f.fracBits) := by
    rintro ⟨-, h⟩
    rw [he] at h
    split at h
    · subst f
      have : (2 : Nat) ^ Fmt.fracBits 9 = 8 := rfl
      rw [if_pos rfl] at hfin
      omega
    · rw [if_neg ‹_›] at hfin
      omega
  rw [roundVal, hfz, roundMag_held _ _ _ h0 hm (quantum_held h0 hm (.inr ⟨Nat.le_add_right _ _, by omega⟩)) hov,
    packFloat_held _ _ hm, he, if_neg (Nat.not_lt.mpr (Nat.le_add_right _ _)), Int.toNat_natCast, Nat.add_sub_cancel_left]

/-- A value that a format holds rounds to its own bits in every mode, without an event. -/
theorem roundVal_decodeFloat (h5 : 5 ≤ f) (h10 : f ≤ 10) (hfz : r.fz = false) {x : Nat} (hx : x < 2 ^ f.bits)
    (hnan : (decodeFloat f x).isNan = false) : roundVal f r (decodeFloat f x) = (x, 0) := by
  have hfields := float_fields h5 h10 hx
  have hfrac : x % 2 ^ f.fracBits < 2 ^ f.fracBits := Nat.mod_lt _ (Nat.two_pow_pos _)
  have hexp : x / 2 ^ f.fracBits % 2 ^ f.expBits < 2 ^ f.expBits := Nat.mod_lt _ (Nat.two_pow_pos _)
  unfold decodeFloat at hnan ⊢
  generalize (x / f.signBit % 2 == 1) = neg at *
  generalize x / 2 ^ f.fracBits % 2 ^ f.expBits = ex at *
  generalize x % 2 ^ f.fracBits = fr at *
  dsimp only at hnan ⊢
  rw [hfields]
  by_cases hex : ex = 0
  · rw [if_pos hex, roundVal_subnormal hfz neg hfrac, hex, Nat.zero_mul, Nat.zero_add]
  · rw [if_neg hex] at hnan ⊢
    by_cases h9 : f = 9
    · subst f
      rw [if_pos rfl] at hnan ⊢
      by_cases hn : ex = 15 ∧ fr = 7
      · rw [if_pos hn] at hnan
        exact absurd hnan (by decide)
      · rw [if_neg hn]
        exact roundVal_normal (f := 9) hfz neg hfrac hex (by
          have : (2 : Nat) ^ Fmt.expBits 9 = 16 := rfl
          have : (2 : Nat) ^ Fmt.fracBits 9 = 8 := rfl
          rw [if_pos rfl]
          omega)
    · rw [if_neg h9] at hnan ⊢
      by_cases hmax : ex = 2 ^ f.expBits - 1
      · rw [if_pos hmax] at hnan ⊢
        by_cases hfr : fr = 0
        · rw [if_pos hfr, roundVal, Fmt.inf, if_neg h9, if_neg h9, hfr, hmax, Nat.add_zero, Nat.add_comm]
        · rw [if_neg hfr] at hnan
          exact absurd hnan (by decide)
      · rw [if_neg hmax]
        exact roundVal_normal hfz neg hfrac hex (by rw [if_neg h9]; omega)

theorem eq_nan_of_isNan {v : Val} (h : v.isNan = true) : v = .nan := by
  cases v with
  | nan => rfl
  | inf n => exact absurd h (by simp [Val.isNan])
  | fin n m e => exact absurd h (by simp [Val.isNan])

/-- Settles O9: the conversions by the format each side has, rounding by `roundVal_decodeFloat`. -/
theorem scalarConversions : Obligations.ScalarConversions := by
  unfold Obligations.ScalarConversions
  refine ⟨fun s d a fmt rm hr => ?_, fun s d a dir x fmt rm hr h5 _ => ?_, fun f r x h5 h10 hfz _ hx => ?_⟩
  · have hfrom64 := convertScalar_fromInt (src := 4) (w := 64) rfl rfl rfl (by decide) (scalarFmt_float fmt) (s.rnd rm 0) (s.g a)
    have hto64 := convertScalar_toInt (dst := 4) (w := 64) (scalarFmt_float fmt) rfl rfl rfl (by decide) (s.rnd rm 0) (s.g a)
    rw [BitVec.setWidth_eq] at hfrom64
    rw [BitVec.signExtend_eq] at hto64
    exact ⟨fcvt_ok hr rfl rfl (convertScalar_fromInt (src := 3) (w := 32) rfl rfl rfl (by decide) (scalarFmt_float fmt) _ _),
      fcvt_ok hr rfl rfl hfrom64, fcvt_ok hr rfl rfl (convertScalar_toInt (dst := 3) (w := 32) (scalarFmt_float fmt) rfl rfl rfl (by decide) _ _),
      fcvt_ok hr rfl rfl hto64⟩
  · refine fcvt_ok hr rfl rfl (convertScalar_floats ?_ ?_ _ _)
    · split
      · exact scalarFmt_float fmt
      · exact h5
    · split
      · exact h5
      · exact scalarFmt_float fmt
  · refine ⟨roundVal_decodeFloat h5 h10 hfz hx, fun hnan => ?_⟩
    rw [eq_nan_of_isNan hnan]
    rfl

end Sys2Proof.Proofs
end

/-! ## Reading control registers (R22, R149, R154) -/
section
namespace Sys2Proof.Proofs

open Sys2Proof.Machine Sys2Proof.Laws

variable {s t : State} {i : Instr} {d a : Reg} {k : BitVec 12} {n : Nat} {x : Word}

theorem needSupervisor_ok (h : s.cur.user = false) : needSupervisor s = .ok () s := by
  refine (exec_bind_ok (exec_get s)).trans ?_
  rw [State.supervisor, h]
  rfl

theorem needSupervisor_trap (h : s.cur.user = true) : needSupervisor s = .error (.trap { cause := 0x04 }) s := by
  refine (exec_bind_ok (exec_get s)).trans ?_
  rw [State.supervisor, h]
  rfl

/-- A step that is taken under a condition. -/
theorem exec_when {α : Type} {c : Prop} {dec : Decidable c} {x : Exec Unit} {f : Unit → Exec α} (hx : c → x s = .ok () t)
    (hn : ¬ c → t = s) : (if c then x >>= f else f ()) s = f () t := by
  by_cases hc : c
  · rw [if_pos hc]
    exact exec_bind_ok (hx hc)
  · rw [if_neg hc, hn hc]

theorem resyncs_iff (n : Nat) : creg.resyncs n = true ↔ n ∈ [2, 3, 4, 0x10, 0x13, 0x14, 0x15, 0x16, 0x17] := by
  simp only [creg.resyncs, Bool.or_eq_true, beq_iff_eq, Bool.and_eq_true, decide_eq_true_eq, List.mem_cons, List.not_mem_nil,
    or_false]
  omega

theorem readPriv_iff (n : Nat) : creg.readPriv n = true ↔ n = 0x100 ∨ 0x102 ≤ n := by simp [creg.readPriv]

/-- The state in which KGET reads register `n`: earlier vector instructions have completed where they may write it (R22). -/
def readFrom (s : State) (n : Nat) : State :=
  if n ∈ [2, 3, 4, 0x10, 0x13, 0x14, 0x15, 0x16, 0x17] then drained s else s

theorem creg_drained (s : State) (n : Nat) : (drained s).creg n = s.creg n := rfl

theorem kget_ok (hr : s.runs .threadOnly) (hk : k.toNat = n) (hp : n < 0x102 ∧ n ≠ 0x100 ∨ s.cur.user = false)
    (hx : s.creg n = x) : exec (.kget d k) s = .next (((readFrom s k.toNat).setG d x).retire (.kget d k) .seq) := by
  subst hk hx
  refine insn_ok hr ?_
  refine (exec_when (t := s) (fun hc => needSupervisor_ok ?_) (fun _ => rfl)).trans ?_
  · rw [readPriv_iff] at hc
    exact hp.resolve_left (by omega)
  refine (exec_when (t := readFrom s k.toNat) (fun hc => ?_) (fun hc => ?_)).trans ?_
  · rw [readFrom, if_pos ((resyncs_iff _).mp hc)]
    rfl
  · rw [readFrom, if_neg (fun h => hc ((resyncs_iff _).mpr h))]
  · have hc : (readFrom s k.toNat).creg k.toNat = s.creg k.toNat := by
      unfold readFrom
      split
      · exact creg_drained s _
      · rfl
    rw [← hc]
    rfl

theorem kget_user (hr : s.runs .threadOnly) (hk : k.toNat = 0x100 ∨ 0x102 ≤ k.toNat) (hu : s.cur.user = true) :
    exec (.kget d k) s = .next (settle (.kget d k) (trap 0x04) s) := by
  refine insn_error (e := .trap { cause := 0x04 }) (t := s) hr ?_
  refine (congrFun (if_pos ((readPriv_iff _).mpr hk)) s).trans ?_
  exact exec_bind_error (needSupervisor_trap hu)

theorem creg_slen (s : State) (n : Fin 8) : s.creg (0x020 + n) = s.regs.slen[n] := by
  obtain ⟨n, hn⟩ := n
  interval_cases n <;> rfl

end Sys2Proof.Proofs
end

/-! ## Fields of control registers (R80, R91, R108, R128, R150) -/
section
namespace Sys2Proof.Proofs

open Sys2Proof.Machine Sys2Proof.Laws

/-- The bits from `lo` to `hi` of a word. -/
def fieldMask (hi lo : Nat) : Word := BitVec.ofNat 64 ((2 ^ (hi + 1 - lo) - 1) <<< lo)

theorem testBit_wbits (x : Word) (hi lo j : Nat) :
    (wbits x hi lo).testBit j = (decide (j < hi + 1 - lo) && x.getLsbD (lo + j)) := by
  simp [wbits, bitsOf, Nat.testBit_mod_two_pow, Nat.testBit_shiftRight, BitVec.getLsbD]

/-- A field put back in its place is the word with the other bits cleared. -/
theorem and_fieldMask (x : Word) (hi lo : Nat) : x &&& fieldMask hi lo = BitVec.ofNat 64 (wbits x hi lo <<< lo) := by
  refine BitVec.eq_of_getLsbD_eq fun j hj => ?_
  rw [BitVec.getLsbD_and, fieldMask, BitVec.getLsbD_ofNat, BitVec.getLsbD_ofNat, Nat.testBit_shiftLeft, Nat.testBit_shiftLeft,
    Nat.testBit_two_pow_sub_one, testBit_wbits]
  by_cases hlo : lo ≤ j
  · rw [Nat.add_sub_cancel' hlo]
    simp [hj, hlo, Bool.and_comm]
  · simp [hlo]

/-- A field of a word replaced by the same field of another (R80). -/
theorem wput_wbits (y x : Word) (hi lo : Nat) :
    wput y hi lo (wbits x hi lo) = (y &&& ~~~fieldMask hi lo) ||| (x &&& fieldMask hi lo) := by
  show (y &&& ~~~fieldMask hi lo) ||| (BitVec.ofNat 64 (wbits x hi lo <<< lo) &&& fieldMask hi lo) = _
  rw [← and_fieldMask, BitVec.and_assoc, BitVec.and_self]

variable {r : Regs} {x y : Word}

theorem wbits_low_three (x : Word) : wbits x 2 0 = x.toNat % 8 := by simp [wbits, bitsOf]
theorem wbits_low_four (x : Word) : wbits x 3 0 = x.toNat % 16 := by simp [wbits, bitsOf]

/-- FRM takes a mode that R91 defines; of any other only the flush bit. -/
theorem setFrm_mode (h : x.toNat % 8 ≤ 4) : r.setFrm x = { r with frm := x &&& 0xF } := by
  rw [Regs.setFrm, wbits_low_three, if_pos h]

theorem setFrm_noMode (h : 4 < x.toNat % 8) : r.setFrm x = { r with frm := (r.frm &&& ~~~8) ||| (x &&& 8) } := by
  rw [Regs.setFrm, wbits_low_three, if_neg (Nat.not_le.mpr h), wput_wbits]
  rfl

/-- A sparse length that the register can hold is taken; of any other write the length stays (R128). -/
theorem slenSet_length (h : x.toNat % 2048 ≤ 128) : slenSet y x = x &&& 0xFFFFFFFF800007FF := by
  simp only [slenSet, wbits_low_eleven, if_pos h]

theorem slenSet_noLength (h : 128 < x.toNat % 2048) :
    slenSet y x = (x &&& 0xFFFFFFFF80000000) ||| (y &&& 0x7FF) := by
  rw [slenSet, wbits_low_eleven, if_neg (Nat.not_le.mpr h), wput_wbits, BitVec.and_assoc]
  rfl

theorem wbits_eq_div_mod (x : Word) (hi lo : Nat) : wbits x hi lo = x.toNat / 2 ^ lo % 2 ^ (hi + 1 - lo) := by
  rw [wbits, bitsOf, Nat.shiftRight_eq_div_pow]

/-- A VTYPE of a format and a tail that are assigned is taken, and VL follows it (R108, R109). -/
theorem setVtype_legal (hf : x.toNat / 512 % 16 ≤ 12) (ht : x.toNat / 32 % 4 ≠ 3) : r.setVtype x =
    let f : Fmt := x.toNat / 512 % 16
    let n := min r.len (min (4096 * 2 ^ (x.toNat / 128 % 4) / Fmt.bits f) 1024)
    let vl := if Fmt.isBlock f then n / 32 * 32 else n
    let dlen := if Fmt.isBlock f then min r.dlen vl else vl
    { r with vtype := x &&& 0x1FE0, vl := BitVec.ofNat 64 (vl + 65536 * dlen) } := by
  have h : ¬(13 ≤ wbits x 12 9 ∨ wbits x 6 5 = 3) := by
    rw [wbits_eq_div_mod, wbits_eq_div_mod]
    norm_num
    omega
  rw [Regs.setVtype, if_neg h, wbits_eq_div_mod, wbits_eq_div_mod]
  rfl

theorem setVtype_reserved (h : 12 < x.toNat / 512 % 16 ∨ x.toNat / 32 % 4 = 3) : r.setVtype x = r := by
  have h : 13 ≤ wbits x 12 9 ∨ wbits x 6 5 = 3 := by
    rw [wbits_eq_div_mod, wbits_eq_div_mod]
    norm_num
    omega
  rw [Regs.setVtype, if_pos h]

/-- LOOPCTL made of a register field and a length. -/
theorem loopCtl_fields (x y : Word) : nw (64 * wbits x 10 6 + wbits y 5 0) = (x &&& 0x7C0) ||| (y &&& 0x3F) := by
  have hx : x &&& (0x7C0 : Word) = BitVec.ofNat 64 (wbits x 10 6 <<< 6) := and_fieldMask x 10 6
  have hy : y &&& (0x3F : Word) = BitVec.ofNat 64 (wbits y 5 0) := (and_fieldMask y 5 0).trans (by rw [Nat.shiftLeft_zero])
  have hlt : wbits y 5 0 < 2 ^ 6 := by
    rw [wbits_low_six]
    exact Nat.mod_lt _ (by decide)
  rw [hx, hy, nw, Nat.mul_comm, ← Nat.shiftLeft_eq _ 6, Nat.shiftLeft_add_eq_or_of_lt hlt]
  exact BitVec.ofNat_or

theorem loopCtl_whole (x : Word) : nw (64 * wbits x 10 6 + wbits x 5 0) = x &&& 0x7FF := by
  rw [loopCtl_fields, ← BitVec.and_or_distrib_left]
  rfl

theorem loopCtl_empty (x : Word) : nw (64 * wbits x 10 6) = x &&& 0x7C0 :=
  (loopCtl_fields x 0).trans (by simp)

end Sys2Proof.Proofs
end

/-! ## Writing control registers (R150, R154) -/
section
namespace Sys2Proof.Proofs

open Sys2Proof.Machine Sys2Proof.Laws

variable {s t u : State} {i : Instr} {a : Reg} {k : BitVec 12} {n : Nat} {x : Word}

/-! ### Older instructions that have completed (R150, R357) -/

/-- The place of the last element that passes a test, from 1, is after every one that does. -/
theorem lastPlace_bound {α : Type} (p : α → Bool) (xs : List α) : ∀ {m z : Nat}, z ≤ m →
    z ≤ (xs.zipIdx m).foldl (fun n e => if p e.1 then e.2 + 1 else n) z ∧
      ∀ j (h : j < xs.length), p xs[j] = true → m + j < (xs.zipIdx m).foldl (fun n e => if p e.1 then e.2 + 1 else n) z := by
  induction xs with
  | nil => exact fun _ => ⟨Nat.le_refl _, fun j h => absurd h (Nat.not_lt_zero j)⟩
  | cons y ys ih =>
    intro m z hz
    rw [List.zipIdx_cons, List.foldl_cons]
    dsimp only
    obtain ⟨hle, hlater⟩ := ih (m := m + 1) (z := if p y then m + 1 else z) (by split <;> omega)
    refine ⟨Nat.le_trans ?_ hle, fun j hj hp => ?_⟩
    · split <;> omega
    · cases j with
      | zero =>
        have hy : p y = true := hp
        rw [if_pos hy] at hle ⊢
        omega
      | succ j =>
        have := hlater j (Nat.lt_of_succ_lt_succ hj) hp
        omega

/-- Every queued instruction that passes the test of a settling has nothing left to be undone nor read. -/
theorem settle_settled (b : Agent) (p : VToken → Bool) : ∀ t ∈ (b.settle p).vqueue, p t = true → t.snap = none ∧ t.late = none := by
  obtain ⟨_, hlast⟩ := lastPlace_bound p b.vqueue (m := 0) (Nat.le_refl 0)
  unfold Agent.settle
  generalize List.foldl _ 0 (b.vqueue.zipIdx 0) = m at *
  intro t ht hp
  rcases List.mem_append.mp ht with ht | ht
  · obtain ⟨q, _, rfl⟩ := List.mem_map.mp ht
    exact ⟨rfl, rfl⟩
  · obtain ⟨j, hj, rfl⟩ := List.mem_iff_getElem.mp ht
    rw [List.length_drop] at hj
    rw [List.getElem_drop] at hp
    have := hlast (m + j) (by omega) hp
    omega

/-! ### KSET -/

/-- The state in which KSET writes register `n` (R150). -/
def writtenFrom (s : State) (n : Nat) : State := { s with cur := s.cur.settle (creg.usedBy n) }

theorem writePriv_iff (n : Nat) : creg.writePriv n = true ↔ 0x100 ≤ n ∨ n = 0x030 ∨ n = 0x031 := by
  simp only [creg.writePriv, Bool.or_eq_true, beq_iff_eq, decide_eq_true_eq]
  omega

/-- What KSET does before its end: the older instructions that use the register complete, then it is written. -/
def ksetBody (a : Reg) (k : BitVec 12) : Exec Flow := do
  if creg.writePriv k.toNat then needSupervisor
  modCur (fun a => a.settle (creg.usedBy k.toNat))
  writeCreg k.toNat (← getG a)
  return .seq

theorem exec_kset : exec (.kset a k) s = insn .threadOnly (.kset a k) (ksetBody a k) s := rfl

theorem ksetBody_eq (hk : k.toNat = n) (hp : n < 0x100 ∧ n ≠ 0x030 ∧ n ≠ 0x031 ∨ s.cur.user = false) :
    ksetBody a k s = (writeCreg n ((writtenFrom s k.toNat).g a) >>= fun _ => pure .seq) (writtenFrom s k.toNat) := by
  subst hk
  unfold ksetBody
  refine (exec_when (t := s) (fun hc => needSupervisor_ok ?_) (fun _ => rfl)).trans ?_
  · rw [writePriv_iff] at hc
    exact hp.resolve_left (by omega)
  · rfl

theorem kset_ok (hr : s.runs .threadOnly) (hk : k.toNat = n) (hp : n < 0x100 ∧ n ≠ 0x030 ∧ n ≠ 0x031 ∨ s.cur.user = false)
    (hw : writeCreg n ((writtenFrom s k.toNat).g a) (writtenFrom s k.toNat) = .ok () t) :
    exec (.kset a k) s = .next (t.retire (.kset a k) .seq) := by
  rw [exec_kset]
  exact insn_ok hr ((ksetBody_eq hk hp).trans (exec_bind_ok hw))

theorem kset_error {e : Stop} (hr : s.runs .threadOnly) (hk : k.toNat = n)
    (hp : n < 0x100 ∧ n ≠ 0x030 ∧ n ≠ 0x031 ∨ s.cur.user = false)
    (hw : writeCreg n ((writtenFrom s k.toNat).g a) (writtenFrom s k.toNat) = .error e t) :
    exec (.kset a k) s = .next (settle (.kset a k) (throw e) t) := by
  rw [exec_kset]
  exact insn_error hr ((ksetBody_eq hk hp).trans (exec_bind_error hw))

theorem kset_user (hr : s.runs .threadOnly) (hk : 0x100 ≤ k.toNat ∨ k.toNat = 0x030 ∨ k.toNat = 0x031) (hu : s.cur.user = true) :
    exec (.kset a k) s = .next (settle (.kset a k) (trap 0x04) s) := by
  rw [exec_kset]
  refine insn_error (e := .trap { cause := 0x04 }) (t := s) hr ?_
  refine (congrFun (if_pos ((writePriv_iff _).mpr hk)) s).trans ?_
  exact exec_bind_error (needSupervisor_trap hu)

theorem writeCreg_slen (s : State) (x : Word) (n : Fin 8) : writeCreg (0x020 + n) x s =
    .ok () (s.setRegs { s.regs with slen := s.regs.slen.set n (slenSet s.regs.slen[n] x) }) := by
  obtain ⟨n, hn⟩ := n
  interval_cases n <;> rfl

/-! ### The registers of a loop (R143, R144) -/

/-- The words of a body put into the replay buffer. -/
def replayed (s : State) (ws : List IWord) : State :=
  { s with cur := { s.cur with replay := Vector.ofFn (fun k => ws.getD k.val 0) } }

theorem setLoopAddr_idle (h : s.regs.loopCtl.toNat % 64 = 0) :
    setLoopAddr x s = .ok () (s.setRegs { s.regs with loopAddr := x &&& 0x00FFFFFFFFFFFFFC }) := by
  refine (exec_bind_ok (exec_getRegs s)).trans ?_
  rw [wbits_low_six, if_neg (not_not_intro h)]
  rfl

theorem setLoopAddr_active {ws : List IWord} (h : s.regs.loopCtl.toNat % 64 ≠ 0)
    (hb : readBody (x &&& 0x00FFFFFFFFFFFFFC) (s.regs.loopCtl.toNat % 64) s = .ok ws u) :
    setLoopAddr x s = .ok () ((replayed u ws).setRegs { u.regs with loopAddr := x &&& 0x00FFFFFFFFFFFFFC }) := by
  refine (exec_bind_ok (exec_getRegs s)).trans ?_
  rw [wbits_low_six, if_pos h]
  exact exec_bind_ok hb

theorem setLoopCtl_empty (h : x.toNat % 64 = 0) :
    setLoopCtl x s = .ok () (s.setRegs { s.regs with loopCtl := x &&& 0x7C0 }) := by
  refine (exec_bind_ok (exec_getRegs s)).trans ?_
  rw [wbits_low_six, h, ← loopCtl_empty]
  rfl

theorem setLoopCtl_long (h : 32 < x.toNat % 64) :
    setLoopCtl x s = .ok () (s.setRegs { s.regs with loopCtl := (x &&& 0x7C0) ||| (s.regs.loopCtl &&& 0x3F) }) := by
  rw [← loopCtl_fields]
  refine (exec_bind_ok (exec_getRegs s)).trans ?_
  simp only [wbits_low_six x, Nat.not_le.mpr h, decide_false, Bool.false_and, Bool.false_eq_true, if_false]
  rfl

theorem setLoopCtl_body {ws : List IWord} (h0 : x.toNat % 64 ≠ 0) (h : x.toNat % 64 ≤ 32)
    (hb : readBody s.regs.loopAddr (x.toNat % 64) s = .ok ws u) :
    setLoopCtl x s = .ok () ((replayed u ws).setRegs { u.regs with loopCtl := x &&& 0x7FF }) := by
  rw [← loopCtl_whole]
  refine (exec_bind_ok (exec_getRegs s)).trans ?_
  simp only [wbits_low_six x, h, decide_true, if_true, Bool.true_and, bne_iff_ne, ne_eq, h0, not_false_eq_true]
  exact exec_bind_ok hb

end Sys2Proof.Proofs
end

/-! ## L2WAYS (R187–R189) -/
section
namespace Sys2Proof.Proofs

open Sys2Proof.Machine Sys2Proof.Laws

variable {s t u : State} {i : Instr} {a : Reg} {k : BitVec 12} {x : Word}

/-! ### A wait that ends -/

/-- An instruction that is executed again out of its wait, and completes, gives the turn back. -/
theorem rerun_ok {w : Wait} {id : Nat} {run : Instr → State → Out} (hw : u.waitsIn id w i) (hrun : run i (u.retry id) = .next t)
    (ht : t.cur.status = .running) : rerun w id run u = .next (t.focus u.cur.id) := by
  obtain ⟨b, hb, hst⟩ := hw
  have hrun' : run i { u.focus id with cur := { (u.focus id).cur with status := .running } } = .next t := hrun
  simp only [rerun, hb, hst, if_true, hrun', ht]

theorem execL2waysWrite_ok {id : Nat} (hw : u.waitsIn id .update (.kset a k)) (hrun : execKset a k (u.retry id) = .next t)
    (ht : t.cur.status = .running) : execL2waysWrite id u = .next (t.focus u.cur.id) := rerun_ok hw hrun ht

/-! ### The value that L2WAYS takes -/

/-- The ways that a write of L2WAYS leaves ceded: a number above 8 is refused (R187). -/
def waysAfter (b : Tower) (x : Word) : Nat := if x.toNat % 16 ≤ 8 then x.toNat % 16 else b.l2ways.toNat % 16

/-- The size of the staging cache that a write of L2WAYS leaves: one that does not hold the pinned units is refused (R189). -/
def stagingAfter (b : Tower) (x : Word) : Nat :=
  if x.toNat / 256 % 32 ≤ 12 ∧ b.pinned ≤ 2 ^ 31 * (x.toNat / 256 % 32) then x.toNat / 256 % 32 else b.l2ways.toNat / 256 % 32

theorem newWays_eq (b : Tower) (x : Word) : b.newWays x = BitVec.ofNat 64 (256 * stagingAfter b x + waysAfter b x) := by
  rw [Tower.newWays, wbits_low_four, wbits_low_four, wbits_eq_div_mod, wbits_eq_div_mod]
  rfl

theorem waysAfter_lt (b : Tower) (x : Word) : waysAfter b x < 16 := by
  unfold waysAfter
  split <;> exact Nat.mod_lt _ (by decide)

theorem wbits_newWays (b : Tower) (x : Word) : wbits (b.newWays x) 3 0 = waysAfter b x := by
  have := waysAfter_lt b x
  rw [newWays_eq, wbits_low_four, BitVec.toNat_ofNat]
  omega

/-- The state in which the tower takes the new value: its loads of the TSP have been read where the ways change (R188). -/
def waysFrom (s : State) (x : Word) : State :=
  if waysAfter (s.tower s.myTower) x = (s.tower s.myTower).l2ways.toNat % 16 then s else s.tspRead s.myTower

theorem waysFrom_tower (s : State) (x : Word) (w : Nat) : (waysFrom s x).tower w = s.tower w := by
  unfold waysFrom
  split <;> rfl

theorem waysFrom_status (s : State) (x : Word) : (waysFrom s x).cur.status = s.cur.status := by
  unfold waysFrom
  split
  · rfl
  · rw [State.tspRead]
    dsimp only
    split <;> rfl

theorem setL2ways_waits (h : waysAfter (s.tower s.myTower) x ≠ (s.tower s.myTower).l2ways.toNat % 16)
    (hp : s.tspPending s.myTower = true) : setL2ways x s = .error (.wait .update) s := by
  refine (exec_bind_ok (exec_get s)).trans ?_
  dsimp only
  rw [wbits_newWays, wbits_low_four, if_pos ⟨h, hp⟩]
  rfl

theorem setL2ways_ok (h : waysAfter (s.tower s.myTower) x = (s.tower s.myTower).l2ways.toNat % 16 ∨ s.tspPending s.myTower = false) :
    setL2ways x s = .ok () ((waysFrom s x).setWays s.myTower x) := by
  refine (exec_bind_ok (exec_get s)).trans ?_
  dsimp only
  rw [wbits_newWays, wbits_low_four, if_neg]
  · rfl
  · rintro ⟨hne, hp⟩
    rcases h with h | h
    · exact hne h
    · exact absurd (h.symm.trans hp) (by decide)

theorem writeCreg_l2ways (s : State) (x : Word) : writeCreg 0x100 x s = setL2ways x s := rfl

/-! ### What a tower cedes and takes back (R188) -/

theorem setWays_tower (s : State) (w : Nat) (x : Word) :
    ((s.setWays w x).tower w).l2ways = BitVec.ofNat 64 (256 * stagingAfter (s.tower w) x + waysAfter (s.tower w) x) := by
  rw [← newWays_eq]
  simp only [State.setWays, tower_setTower]

theorem setWays_status (s : State) (w : Nat) (x : Word) : (s.setWays w x).cur.status = s.cur.status := rfl

/-- A location that is not listed reads as zero. -/
theorem memByte_unlisted {m : List Host.Cell} {loc : Nat} (h : ∀ c ∈ m, c.1 ≠ loc) : memByte m loc = 0 := by
  induction m with
  | nil => rfl
  | cons c m ih =>
    obtain ⟨b, y⟩ := c
    have hb : ¬ b = loc := h (b, y) List.mem_cons_self
    rw [memByte, if_neg hb, ih fun c hc => h c (List.mem_cons_of_mem _ hc), ite_self]

/-- The bytes of the ways that change hands are zero, and no error stands in them. -/
theorem setWays_clears (s : State) (w : Nat) (x : Word) {j : Nat}
    (hlo : 2 ^ 23 * min (waysAfter (s.tower w) x) ((s.tower w).l2ways.toNat % 16) ≤ j)
    (hhi : j < 2 ^ 23 * max (waysAfter (s.tower w) x) ((s.tower w).l2ways.toNat % 16)) :
    memByte (s.setWays w x).mem (2 ^ 46 + w * 2 ^ 26 + j) = 0 ∧ errorUnit (2 ^ 46 + w * 2 ^ 26 + j) ∉ (s.setWays w x).poison ∧
      ∀ e ∈ (s.setWays w x).latent, e.unit ≠ errorUnit (2 ^ 46 + w * 2 ^ 26 + j) := by
  rw [← wbits_low_four, Nat.min_comm] at hlo
  rw [← wbits_low_four, Nat.max_comm] at hhi
  have hunit : errorUnit (2 ^ 46 + w * 2 ^ 26 + j) = (2 ^ 46 + w * 2 ^ 26 + j) / 8 := if_neg (by omega)
  have hcleared : 2 ^ 46 + w * 2 ^ 26 + 2 ^ 23 * min (wbits (s.tower w).l2ways 3 0) (waysAfter (s.tower w) x) ≤
      8 * ((2 ^ 46 + w * 2 ^ 26 + j) / 8) ∧ 8 * ((2 ^ 46 + w * 2 ^ 26 + j) / 8) <
        2 ^ 46 + w * 2 ^ 26 + 2 ^ 23 * max (wbits (s.tower w).l2ways 3 0) (waysAfter (s.tower w) x) := by omega
  rw [hunit]
  simp only [State.setWays, setTower_mem, setTower_poison, setTower_latent, State.cleanUnits, wbits_newWays]
  refine ⟨memByte_unlisted fun c hc he => ?_, fun hm => ?_, fun e hm he => ?_⟩
  · have := (List.mem_filter.mp hc).2
    simp only [Bool.or_eq_true, decide_eq_true_eq] at this
    omega
  · have := (List.mem_filter.mp hm).2
    simp only [decide_eq_true hcleared] at this
    exact absurd this (by decide)
  · have := (List.mem_filter.mp hm).2
    rw [he] at this
    simp only [decide_eq_true hcleared] at this
    exact absurd this (by decide)

/-- What a write of L2WAYS leaves in the register, and in the ways that change hands (R187, R188). -/
theorem waysFrom_l2ways (s : State) (x : Word) : (((waysFrom s x).setWays s.myTower x).tower s.myTower).l2ways =
    BitVec.ofNat 64 (256 * stagingAfter (s.tower s.myTower) x + waysAfter (s.tower s.myTower) x) := by
  rw [setWays_tower, waysFrom_tower]

theorem waysFrom_clears (s : State) (x : Word) {j : Nat}
    (hlo : 2 ^ 23 * min (waysAfter (s.tower s.myTower) x) ((s.tower s.myTower).l2ways.toNat % 16) ≤ j)
    (hhi : j < 2 ^ 23 * max (waysAfter (s.tower s.myTower) x) ((s.tower s.myTower).l2ways.toNat % 16)) :
    let z := (waysFrom s x).setWays s.myTower x
    let loc := 2 ^ 46 + s.myTower * 2 ^ 26 + j
    memByte z.mem loc = 0 ∧ errorUnit loc ∉ z.poison ∧ ∀ e ∈ z.latent, e.unit ≠ errorUnit loc :=
  setWays_clears (waysFrom s x) s.myTower x (by rwa [waysFrom_tower]) (by rwa [waysFrom_tower])

end Sys2Proof.Proofs
end

/-! ## The control registers as a whole -/
section
namespace Sys2Proof.Proofs

open Sys2Proof.Machine Sys2Proof.Laws

/-- Settles O44: KGET by `kget_ok`, KSET by what it writes in each register. -/
theorem controlRegisters : Obligations.ControlRegisters := by
  unfold Obligations.ControlRegisters
  refine ⟨fun s d k hr => ?_, fun s' v a k ws hr => ?_⟩
  · intro u r t reads
    have hreads {n : Nat} {x : Word} (hx : s.creg n = x) : reads n x := fun hk hp => kget_ok hr hk hp hx
    exact ⟨⟨hreads rfl, hreads rfl, hreads rfl, hreads rfl, hreads rfl, hreads rfl, hreads rfl, hreads rfl, hreads rfl,
      hreads rfl, hreads rfl, hreads rfl, hreads rfl, hreads rfl, fun n => hreads (creg_slen s n), hreads rfl, hreads rfl,
      hreads rfl, hreads rfl, hreads rfl, hreads rfl, hreads rfl, hreads rfl, hreads rfl, hreads rfl, hreads rfl, hreads rfl,
      hreads rfl, hreads rfl⟩, kget_user hr⟩
  · intro s x i r done regs tower at_
    have hdone {n : Nat} {t : State} (hw : writeCreg n x s = .ok () t) : at_ n (done t) := fun hk hp => kset_ok hr hk hp hw
    have hregs {n : Nat} {q q' : Regs} (hw : writeCreg n x s = .ok () (s.setRegs q)) (hq : q = q') : at_ n (regs q') :=
      hdone (hw.trans (by rw [hq]))
    -- Registers that take what is written, masked, close at once; those that may refuse a value are left, one goal per outcome.
    refine ⟨hdone rfl, hdone rfl, hdone rfl, hdone rfl, fun hk hp => ⟨fun h => ?frm, fun h => ?frmRefused⟩, hdone rfl, hdone rfl,
      hdone rfl, hdone rfl, hdone rfl, fun n hk hp => ⟨fun h => ?slen, fun h => ?slenRefused⟩,
      fun hk hp => ⟨fun hf ht => ?vtype, fun h => ?vtypeRefused⟩, fun hk hp => ⟨fun h => ?loopAddr, fun h hb => ?loopAddrActive⟩,
      fun hk hp => ⟨fun h => ?loopCtlEmpty, fun h => ?loopCtlLong, fun h0 h hb => ?loopCtlBody⟩, fun hk hp => ?l2ways,
      hdone rfl, hdone rfl, hdone rfl, hdone rfl, hdone rfl, hdone rfl, hdone rfl, hdone rfl, kset_user hr, settle_settled _ _⟩
    case frm => exact hregs (n := 0x011) (q := r.setFrm x) rfl (setFrm_mode h) hk hp
    case frmRefused => exact hregs (n := 0x011) (q := r.setFrm x) rfl (setFrm_noMode h) hk hp
    case slen => exact hregs (writeCreg_slen s x n) (by rw [slenSet_length h]) hk hp
    case slenRefused => exact hregs (writeCreg_slen s x n) (by rw [slenSet_noLength h]) hk hp
    case vtype => exact hregs (n := 0x001) (q := r.setVtype x) rfl (setVtype_legal hf ht) hk hp
    case vtypeRefused => exact hregs (n := 0x001) (q := r.setVtype x) rfl (setVtype_reserved h) hk hp
    case loopAddr => exact hdone (n := 0x030) (setLoopAddr_idle h) hk hp
    case loopAddrActive => exact hdone (n := 0x030) (setLoopAddr_active h hb) hk hp
    case loopCtlEmpty => exact hdone (n := 0x031) (setLoopCtl_empty h) hk hp
    case loopCtlLong => exact hdone (n := 0x031) (setLoopCtl_long h) hk hp
    case loopCtlBody => exact hdone (n := 0x031) (setLoopCtl_body h0 h hb) hk hp
    case l2ways =>
      have hr' : s.cur.status = .running := hr.1
      refine ⟨fun hne hpending => ?_, fun h => ?_⟩
      · have hw : writeCreg 0x100 x s = .error (.wait .update) s :=
          (writeCreg_l2ways s x).trans (setL2ways_waits hne hpending)
        exact (kset_error hr hk hp hw).trans (congrArg Host.Outcome.next (settle_wait i (exec_throw _ s)))
      · have hrun : exec i s' = .next (((waysFrom s x).setWays s.myTower x).retire i .seq) :=
          hdone (n := 0x100) ((writeCreg_l2ways s x).trans (setL2ways_ok h)) hk hp
        have hstatus : (((waysFrom s x).setWays s.myTower x).retire i .seq).cur.status = .running := by
          rw [retire_status, setWays_status, waysFrom_status, hr']
        exact ⟨hrun, fun u id hw hu => execL2waysWrite_ok hw ((congrArg (execKset a k) hu).trans hrun) hstatus, waysFrom_l2ways s x,
          fun j hlo hhi => waysFrom_clears s x hlo hhi⟩

end Sys2Proof.Proofs
end

/-! ## TLBINV, CFLUSH, WFI (R129, R151–R153) -/
section
namespace Sys2Proof.Proofs

open Sys2Proof.Machine Sys2Proof.Laws

variable {s t u : State} {i : Instr} {d a : Reg} {x : Word}

/-! ### TLBINV -/

/-- Where every update on its way performs, none is left (R103). -/
theorem drainAll_bank (h : drainWhere (fun _ => true) s = .ok () u) : u.bank = [] := by
  have hrest := (exec_bind_ok (exec_get s)).symm.trans h
  dsimp only at hrest
  split at hrest
  · rename_i hempty
    obtain rfl : s = u := by simpa using hrest
    simpa using hempty
  · obtain ⟨order, v, _, hlast⟩ := exec_bind_eq_ok hrest
    rw [exec_modify] at hlast
    obtain rfl := EStateM.Result.ok.inj hlast |>.2
    exact List.filter_false _

/-- The elements of every queued load have been read for good. -/
def readForGood (s : State) : State :=
  let f (a : Agent) : Agent := { a.readDone (fun _ => true) with lateRead := none }
  { s with cur := f s.cur, others := s.others.map f }

/-- The translations that stay when those of an address, or all, are removed (R151). -/
def tlbStay (d : Reg) (va : Word) (ts : List TlbEntry) : List TlbEntry := if d = 0 then ts.filter (fun e => !e.holds va) else []

theorem tlbStay_nil (d : Reg) (va : Word) : tlbStay d va [] = [] := by
  unfold tlbStay
  split <;> rfl

theorem tlbinv_user (hr : s.runs .threadOnly) (hu : s.cur.user = true) :
    exec (.tlbinv d a) s = .next (settle (.tlbinv d a) (trap 0x04) s) :=
  insn_error (e := .trap { cause := 0x04 }) hr (exec_bind_error (needSupervisor_trap hu))

theorem tlbinv_waits (hr : s.runs .threadOnly) (hu : s.cur.user = false) (hs : s.sent ≠ []) : exec (.tlbinv d a) s = .next s := by
  refine (insn_error (e := .idle) (t := s) hr ?_).trans (congrArg Host.Outcome.next (settle_idle _ (exec_throw _ s)))
  refine (exec_bind_ok (needSupervisor_ok hu)).trans ((exec_bind_ok (exec_getG a s)).trans ((exec_bind_ok (exec_get s)).trans ?_))
  rw [show s.sent.isEmpty = false by simpa using hs]
  rfl

theorem tlbinv_ok (hr : s.runs .threadOnly) (hu : s.cur.user = false) (hs : s.sent = [])
    (hd : drainWhere (fun _ => true) s = .ok () u) :
    exec (.tlbinv d a) s = .next (((readForGood u).mapTlbs (tlbStay d (s.g a))).retire (.tlbinv d a) .seq) := by
  refine insn_ok hr ?_
  refine (exec_bind_ok (needSupervisor_ok hu)).trans ((exec_bind_ok (exec_getG a s)).trans ((exec_bind_ok (exec_get s)).trans ?_))
  rw [hs]
  exact (exec_bind_ok (exec_need_true s)).trans (exec_bind_ok hd)

/-- Every TLB of the device changes alike. -/
theorem mapTlbs_spec (s : State) {f : List TlbEntry → List TlbEntry} (hf : f [] = []) :
    { s.mapTlbs f with towers := s.towers, clusters := s.clusters, cores := s.cores } = s ∧
    (∀ w, (s.mapTlbs f).tower w = { s.tower w with tlb := f (s.tower w).tlb }) ∧
    (∀ g, (s.mapTlbs f).cluster g = { s.cluster g with tlb := f (s.cluster g).tlb }) ∧
    (∀ k, (s.mapTlbs f).core k = { s.core k with tlb := (s.core k).tlb.map (fun e => (e.1, f e.2)) }) := by
  refine ⟨rfl, fun w => ?_, fun g => ?_, fun k => ?_⟩
  · exact kvGet_map (f := fun (t : Tower) => { t with tlb := f t.tlb }) (congrArg (fun ts => { Tower.fresh with tlb := ts }) hf) _ _
  · exact kvGet_map (f := fun (c : Cluster) => { c with tlb := f c.tlb }) (congrArg (fun ts => { Cluster.fresh with tlb := ts }) hf) _ _
  · exact kvGet_map (f := fun (c : Core) => { c with tlb := c.tlb.map (fun e => (e.1, f e.2)) }) rfl _ _

/-! ### CFLUSH -/

/-- A line written back and invalidated is no more held (R152). -/
theorem flushLine_gone (s : State) (g line : Nat) : (s.flushLine g line).l1? g line = none := by
  unfold State.flushLine
  split
  · assumption
  · rw [State.l1?, State.l1Drop, cluster_setCluster, List.find?_eq_none]
    intro l hl
    simpa using (List.mem_filter.mp hl).2

theorem flushAddress_gone {pl : Place} (h : translate s s.ctx .probe x = .ok pl) (hc : pl.cls = .dram ∨ pl.cls = .flash) :
    (s.flushAddress x).l1? s.myCluster (pl.loc / 64) = none := by
  have he : s.flushAddress x = s.flushLine s.myCluster (pl.loc / 64) := by
    rw [State.flushAddress, h]
    rcases hc with hc | hc <;> simp only [hc]
  rw [he]
  exact flushLine_gone _ _ _

theorem flushCluster_empty (s : State) (g : Nat) : ((s.flushCluster g).cluster g).l1 = [] := by
  rw [State.flushCluster, cluster_setCluster]

theorem passBar_ok {st : Nat} (h : s.passes st) : passBar st s = .ok () s :=
  (exec_bind_ok (exec_getCur s)).trans (exec_need (by rw [h]; rfl) s)

theorem passBar_waits {st : Nat} (h : ¬ s.passes st) : passBar st s = .error .idle s := by
  refine (exec_bind_ok (exec_getCur s)).trans ?_
  rw [Bool.not_eq_false] at h
  rw [h]
  rfl

theorem cflush_address (hr : s.runs .threadOnly) (h : s.passes 0) :
    exec (.cflush 0 a) s = .next ((s.flushAddress (s.g a)).retire (.cflush 0 a) .seq) :=
  insn_ok hr (exec_bind_ok (passBar_ok h))

theorem cflush_held (hr : s.runs .threadOnly) (h : ¬ s.passes 0) : exec (.cflush 0 a) s = .next s :=
  (insn_error (e := .idle) (t := s) hr (exec_bind_error (passBar_waits h))).trans
    (congrArg Host.Outcome.next (settle_idle _ (exec_throw _ s)))

theorem cflush_thread (hr : s.runs .threadOnly) (h : drainBank s.cur.id s = .ok () u) :
    exec (.cflush 1 a) s = .next ((u.writeBackThread u.myCluster u.cur.id).retire (.cflush 1 a) .seq) :=
  insn_ok hr ((exec_bind_ok (exec_getCur s)).trans (exec_bind_ok h))

theorem cflush_user (hr : s.runs .threadOnly) (hu : s.cur.user = true) :
    exec (.cflush 2 a) s = .next (settle (.cflush 2 a) (trap 0x04) s) :=
  insn_error (e := .trap { cause := 0x04 }) hr (exec_bind_error (needSupervisor_trap hu))

theorem cflush_cluster (hr : s.runs .threadOnly) (hu : s.cur.user = false)
    (h : each ((s.agents.filter (fun b => placeCluster s.dev.towerok b.id == s.myCluster)).map (fun b => b.id)) drainBank s = .ok () u) :
    exec (.cflush 2 a) s = .next ((u.flushCluster s.myCluster).retire (.cflush 2 a) .seq) :=
  insn_ok hr ((exec_bind_ok (needSupervisor_ok hu)).trans ((exec_bind_ok (exec_get s)).trans (exec_bind_ok h)))

/-! ### WFI -/

/-- What WFI waits for has come: an event is pending, or the time (R153). -/
def wfiEnds (s : State) (a : Reg) : Prop := s.cur.pending ≠ [] ∨ s.g a ≠ 0 ∧ (s.g a).toNat ≤ s.time s.myTower

theorem wfi_user (hr : s.runs .threadOnly) (hu : s.cur.user = true) :
    exec (.wfi a) s = .next (settle (.wfi a) (trap 0x04) s) :=
  insn_error (e := .trap { cause := 0x04 }) hr (exec_bind_error (needSupervisor_trap hu))

theorem wfi_ends (hr : s.runs .threadOnly) (hu : s.cur.user = false) (h : wfiEnds s a) :
    exec (.wfi a) s = .next (s.retire (.wfi a) .seq) := by
  refine insn_ok hr ((exec_bind_ok (needSupervisor_ok hu)).trans ((exec_bind_ok (exec_get s)).trans ?_))
  refine congrFun (if_pos ?_) s
  simpa [wfiEnds] using h

theorem wfi_sleeps (hr : s.runs .threadOnly) (hu : s.cur.user = false) (h : ¬ wfiEnds s a) :
    exec (.wfi a) s = .next (s.sleep .wfi (.wfi a)) := by
  refine (insn_error (e := .wait .wfi) (t := s) hr ?_).trans (congrArg Host.Outcome.next (settle_wait _ (exec_throw _ s)))
  refine (exec_bind_ok (needSupervisor_ok hu)).trans ((exec_bind_ok (exec_get s)).trans ?_)
  refine congrFun (if_neg ?_) s
  simpa [wfiEnds] using h

theorem execWfiWake_ok {id : Nat} (hw : u.waitsIn id .wfi (.wfi a)) (hrun : execWfi a (u.retry id) = .next t)
    (ht : t.cur.status = .running) : execWfiWake id u = .next (t.focus u.cur.id) := rerun_ok hw hrun ht

/-- Settles O45: each form by what it does in the mode that may execute it. -/
theorem maintenance : Obligations.Maintenance := by
  unfold Obligations.Maintenance
  intro s u d a hr
  refine ⟨fun hu => ⟨tlbinv_user hr hu, cflush_user hr hu, wfi_user hr hu⟩, tlbinv_waits hr, fun hu hs hd => ?_, cflush_address hr,
    cflush_held hr, fun pl => flushAddress_gone, cflush_thread hr, fun hu h => ⟨cflush_cluster hr hu h, flushCluster_empty _ _⟩,
    fun hu => ⟨fun h => ?_, fun hp ht => wfi_sleeps hr hu ?_⟩⟩
  · refine ⟨drainAll_bank hd, _, tlbinv_ok hr hu hs hd, ?_⟩
    obtain ⟨hrest, htowers, hclusters, hcores⟩ := mapTlbs_spec (readForGood u) (tlbStay_nil d (s.g a))
    exact ⟨hrest, htowers, hclusters, hcores⟩
  · have hend : exec (.wfi a) s = .next (s.retire (.wfi a) .seq) := wfi_ends hr hu h
    refine ⟨hend, fun r id hw hs => execWfiWake_ok hw ((congrArg (execWfi a) hs).trans hend) ?_⟩
    rw [retire_status]
    exact hr.1
  · rintro (h | ⟨h0, hle⟩)
    · exact h hp
    · rcases ht with ht | ht
      · exact h0 ht
      · omega

end Sys2Proof.Proofs
end

/-! # Vector computing (spec/08_vector_compute.md)

## Which forms a pre-emption may cut (R162, R267) -/
section
namespace Sys2Proof.Proofs

open Sys2Proof.Machine Sys2Proof.Laws

variable {i : Instr} {c : IWord} {d a b p : Reg} {rm : BitVec 2}

/-- Does a word lie in a major opcode whose forms are elementwise? -/
def elementwiseWord (w : IWord) : Bool :=
  decide (0x1B ≤ w.toNat / 2 ^ 26 ∧ w.toNat / 2 ^ 26 ≤ 0x1D) || w.toNat / 2 ^ 26 == 0x21

/-- The forms of other majors that are elementwise. -/
def elementwiseBesides (i : Instr) : Bool := (i matches .vbcast ..) || (i matches .vmrd ..) || (i matches .vmwr ..)

theorem cuttable_eq (i : Instr) : cuttable i = (elementwiseWord (wordOf i) || elementwiseBesides i) := by
  simp only [cuttable, elementwiseWord, elementwiseBesides, Bool.or_assoc] <;> rfl

/-- A field below the major opcode does not move a word to another. -/
theorem elementwiseWord_or_put {x : IWord} {lo n : Nat} {v : BitVec n} (h : lo + n ≤ 26) :
    elementwiseWord (x ||| put lo v) = elementwiseWord x := by
  have hmajor (w : IWord) : w.toNat / 2 ^ 26 = (bits w 26 6).toNat := by
    have := w.isLt
    simp only [bits, BitVec.extractLsb'_toNat, Nat.shiftRight_eq_div_pow]
    omega
  simp only [elementwiseWord, hmajor, bits_or_put_below h]

/-! By the fixed bits `c` of a word: of two sources, of one, and of each with a rounding field (R68, R159). -/

theorem cuttable_two (h : wordOf i = c ||| put 21 d ||| put 16 a ||| put 11 b ||| put 6 p) :
    cuttable i = (elementwiseWord c || elementwiseBesides i) := by
  rw [cuttable_eq, h]
  simp (disch := decide) only [elementwiseWord_or_put]

theorem cuttable_one (h : wordOf i = c ||| put 21 d ||| put 16 a ||| put 6 p) :
    cuttable i = (elementwiseWord c || elementwiseBesides i) := by
  rw [cuttable_eq, h]
  simp (disch := decide) only [elementwiseWord_or_put]

theorem cuttable_two_rounded (h : wordOf i = c ||| put 21 d ||| put 16 a ||| put 11 b ||| put 6 p ||| put 0 rm) :
    cuttable i = (elementwiseWord c || elementwiseBesides i) := by
  rw [cuttable_eq, h]
  simp (disch := decide) only [elementwiseWord_or_put]

theorem cuttable_one_rounded (h : wordOf i = c ||| put 21 d ||| put 16 a ||| put 6 p ||| put 0 rm) :
    cuttable i = (elementwiseWord c || elementwiseBesides i) := by
  rw [cuttable_eq, h]
  simp (disch := decide) only [elementwiseWord_or_put]

end Sys2Proof.Proofs
end


/-! ## The checks of a form, in their order (R112, R160, R162, R368) -/
section
namespace Sys2Proof.Proofs

open Sys2Proof.Machine Sys2Proof.Laws

variable {s : State} {whole legal : Bool} {srcs : List Reg} {tags : Word} {dests : List (Reg × Fmt)} {x : Exec Unit} {d v : Reg}
  {f g : Nat} {va vb vd : Option Reg}

/-- Is the number of a source no multiple of its tag's group (R112)? -/
def misaligned (s : State) (v : Reg) : Bool := v.toNat % tagGroup (s.tag v) != 0

/-- The part of `State.checkTrap` that is about destinations and VSTART. -/
def destTrap (s : State) (whole : Bool) (srcs : List Reg) (dests : List (Reg × Fmt)) : Option (Exec Unit) :=
  let group (e : Reg × Fmt) : Nat := (s.regs.destGroup e.2).getD 1
  if dests.any (fun e => (s.regs.destGroup e.2).isNone) then some (trap 0x42)
  else match dests.find? (fun e => e.1.toNat % group e != 0) with
    | some e => some (trap 0x41 (some (e.1.setWidth 64)) ((mkTag e.2 (group e)).setWidth 64))
    | none =>
      if s.regs.start ≠ 0 ∧ (whole || dests.any (fun e => srcs.any (s.overlaps e.1 e.2 (group e)))) = true then
        some (trap 0x49 (some s.regs.vstart))
      else none

/-- The sources in order, then the formats, then the destinations. -/
theorem checkTrap_cases (h : s.checkTrap whole srcs legal tags dests = some x) :
    (∃ v, srcs.find? (misaligned s) = some v ∧ x = trap 0x41 (some (v.setWidth 64)) ((s.tag v).setWidth 64)) ∨
    (∀ v ∈ srcs, v.toNat % tagGroup (s.tag v) = 0) ∧
      (legal = false ∧ x = trap 0x05 none tags ∨ legal = true ∧ destTrap s whole srcs dests = some x) := by
  have heq : s.checkTrap whole srcs legal tags dests =
      (match srcs.find? (misaligned s) with
        | some v => some (trap 0x41 (some (v.setWidth 64)) ((s.tag v).setWidth 64))
        | none => if !legal then some (trap 0x05 none tags) else destTrap s whole srcs dests) := rfl
  rw [heq] at h
  cases hv : srcs.find? (misaligned s) with
  | some v =>
    rw [hv] at h
    exact .inl ⟨v, rfl, (Option.some.inj h).symm⟩
  | none =>
    rw [hv] at h
    refine .inr ⟨fun v hmem => by simpa [misaligned] using List.find?_eq_none.mp hv v hmem, ?_⟩
    cases legal with
    | false => exact .inl ⟨rfl, (Option.some.inj h).symm⟩
    | true => exact .inr ⟨rfl, h⟩

theorem destTrap_group (h : s.regs.destGroup f = some g) : destTrap s whole srcs [(d, f)] =
    if d.toNat % g ≠ 0 then some (trap 0x41 (some (d.setWidth 64)) ((mkTag f g).setWidth 64))
    else if s.regs.start ≠ 0 ∧ (whole || srcs.any (s.overlaps d f g)) = true then some (trap 0x49 (some s.regs.vstart))
    else none := by
  unfold destTrap
  by_cases hd : d.toNat % g = 0 <;> simp [h, hd]

/-- The trap of one destination: no group for its format, a misaligned number, a VSTART inside. -/
theorem destTrap_cases (h : destTrap s whole srcs [(d, f)] = some x) :
    s.regs.destGroup f = none ∧ x = trap 0x42 ∨
    ∃ g, s.regs.destGroup f = some g ∧
      (d.toNat % g ≠ 0 ∧ x = trap 0x41 (some (d.setWidth 64)) ((mkTag f g).setWidth 64) ∨
       d.toNat % g = 0 ∧ s.regs.start ≠ 0 ∧ (whole || srcs.any (s.overlaps d f g)) = true ∧ x = trap 0x49 (some s.regs.vstart)) := by
  cases hg : s.regs.destGroup f with
  | none =>
    have hx : some (trap 0x42) = some x := by simpa [destTrap, hg] using h
    exact .inl ⟨rfl, (Option.some.inj hx).symm⟩
  | some g =>
    rw [destTrap_group hg] at h
    refine .inr ⟨g, rfl, ?_⟩
    split at h
    · rename_i hd
      exact .inl ⟨hd, (Option.some.inj h).symm⟩
    · rename_i hd
      split at h
      · rename_i hs
        exact .inr ⟨not_not.mp hd, hs.1, hs.2, (Option.some.inj h).symm⟩
      · exact nomatch h

/-- What a failing check answers is a trap, which changes nothing. -/
theorem checkTrap_throws (h : s.checkTrap whole srcs legal tags dests = some x) : ∃ e, ∀ t, x t = .error e t := by
  rcases checkTrap_cases h with ⟨v, -, rfl⟩ | ⟨-, ⟨-, rfl⟩ | ⟨-, h⟩⟩
  · exact ⟨_, fun _ => rfl⟩
  · exact ⟨_, fun _ => rfl⟩
  · unfold destTrap at h
    dsimp only at h
    split at h
    · exact Option.some.inj h ▸ ⟨_, fun _ => rfl⟩
    · split at h
      · exact Option.some.inj h ▸ ⟨_, fun _ => rfl⟩
      · split at h
        · exact Option.some.inj h ▸ ⟨_, fun _ => rfl⟩
        · exact nomatch h

/-! ### The checks made -/

theorem each_checkSource_ok (h : ∀ v ∈ srcs, v.toNat % tagGroup (s.tag v) = 0) : each srcs checkSource s = .ok () s := by
  induction srcs with
  | nil => rfl
  | cons v srcs ih =>
    obtain ⟨hv, hrest⟩ := List.forall_mem_cons.mp h
    exact (exec_bind_ok (checkSource_ok hv)).trans (ih hrest)

/-- The first source that is misaligned traps. -/
theorem each_checkSource_trap (h : srcs.find? (misaligned s) = some v) :
    each srcs checkSource s = (trap 0x41 (some (v.setWidth 64)) ((s.tag v).setWidth 64) : Exec Unit) s := by
  induction srcs with
  | nil => exact nomatch h
  | cons w srcs ih =>
    by_cases hw : w.toNat % tagGroup (s.tag w) = 0
    · have hnot : ¬ misaligned s w = true := by simp [misaligned, hw]
      rw [List.find?_cons_of_neg hnot] at h
      exact (exec_bind_ok (checkSource_ok hw)).trans (ih h)
    · have hmis : misaligned s w = true := by simp [misaligned, hw]
      rw [List.find?_cons_of_pos hmis] at h
      obtain rfl := Option.some.inj h
      exact exec_bind_error (checkSource_trap hw)

theorem checkDest_none (h : s.regs.destGroup f = none) : checkDest d f s = (trap 0x42 : Exec Nat) s := by
  refine exec_bind_error (e := .trap { cause := 0x42 }) ((exec_bind_ok (exec_getRegs s)).trans ?_)
  rw [h]
  rfl

theorem needStartZero_ok (h : s.regs.start = 0) : needStartZero s = .ok () s := by
  refine (exec_bind_ok (exec_getRegs s)).trans ?_
  exact congrFun (if_neg (not_not_intro h)) s

theorem needStartZero_trap (h : s.regs.start ≠ 0) : needStartZero s = (trap 0x49 (some s.regs.vstart) : Exec Unit) s := by
  refine (exec_bind_ok (exec_getRegs s)).trans ?_
  exact congrFun (if_pos h) s

/-- A form none of whose sources its destination overlaps, or that starts at 0, goes on (R162). -/
theorem checkRestart_ok (hc : s.cur.cut = none) (h : mayRestart s d srcs f g) : checkRestart d f g srcs s = .ok () s := by
  refine (exec_bind_ok (exec_get s)).trans ?_
  split
  · rename_i hany
    have hstart : s.regs.start = 0 := h.resolve_right fun hno => by
      obtain ⟨v, hv, ho⟩ := List.any_eq_true.mp hany
      exact absurd ho (by simp [hno v hv])
    rw [if_neg (not_not_intro hstart)]
    exact congrArg (EStateM.Result.ok ()) (uncut_self hc)
  · rfl

theorem checkRestart_apart (h : srcs.any (s.overlaps d f g) = false) : checkRestart d f g srcs s = .ok () s := by
  refine (exec_bind_ok (exec_get s)).trans ?_
  rw [show srcs.any (fun v => s.overlaps d f g v) = false from h]
  rfl

theorem checkRestart_trap (hs : s.regs.start ≠ 0) (h : srcs.any (s.overlaps d f g) = true) :
    checkRestart d f g srcs s = (trap 0x49 (some s.regs.vstart) : Exec Unit) s := by
  refine (exec_bind_ok (exec_get s)).trans ?_
  rw [show srcs.any (fun v => s.overlaps d f g v) = true from h, if_pos rfl, if_pos hs]
  exact exec_bind_error rfl

/-! ### Forms that check sources and formats, and then their destination -/

/-- A form that checks its sources, and then its formats, `bad` ones a mismatch with the tags of the registers named. -/
def checked (srcs : List Reg) (bad : State → Prop) [DecidablePred bad] (va vb vd : Option Reg) (next : State → Exec Unit) : Exec Unit := do
  each srcs checkSource
  let t ← get
  if bad t then mismatch va vb vd
  next t

/-- A form that writes a destination of format `f` from VSTART 0 alone. -/
def fromZero (d : Reg) (f : Fmt) (next : Nat → Exec Unit) : Exec Unit := do
  let g ← checkDest d f
  needStartZero
  next g

section
variable {bad : State → Prop} [DecidablePred bad] {next : State → Exec Unit}

theorem checked_ok (ha : ∀ v ∈ srcs, v.toNat % tagGroup (s.tag v) = 0) (hb : ¬ bad s) :
    checked srcs bad va vb vd next s = next s s := by
  refine (exec_bind_ok (each_checkSource_ok ha)).trans ((exec_bind_ok (exec_get s)).trans ?_)
  exact congrFun (if_neg hb) s

/-- A form that fails a check of R160 does what the trap of the first it fails does. -/
theorem checked_trap (h : s.checkTrap whole srcs legal tags dests = some x) (hb : bad s ↔ legal = false)
    (ht : legal = false → tags = s.mismatchTags va vb vd) (hnext : ∀ x, destTrap s whole srcs dests = some x → next s s = x s) :
    checked srcs bad va vb vd next s = x s := by
  rcases checkTrap_cases h with ⟨v, hv, rfl⟩ | ⟨ha, ⟨hl, rfl⟩ | ⟨hl, hd⟩⟩
  · exact exec_bind_error (each_checkSource_trap hv)
  · refine (exec_bind_ok (each_checkSource_ok ha)).trans ((exec_bind_ok (exec_get s)).trans ?_)
    rw [if_pos (hb.mpr hl), ht hl]
    exact exec_bind_error (mismatch_trap _ _ _)
  · exact (checked_ok ha (fun hbad => by simp [hb.mp hbad] at hl)).trans (hnext x hd)

end

theorem elementwise_trap {p : Reg} {op : State → Nat → Nat × Events} (h : destTrap s false srcs [(d, f)] = some x) :
    elementwise d p f srcs op s = x s := by
  rcases destTrap_cases h with ⟨hg, rfl⟩ | ⟨g, hg, ⟨hd, rfl⟩ | ⟨hd, hs, ho, rfl⟩⟩
  · exact exec_bind_error (checkDest_none hg)
  · exact exec_bind_error (checkDest_trap hg hd)
  · exact (exec_bind_ok (checkDest_ok hg hd)).trans (exec_bind_error (checkRestart_trap hs ho))

theorem fromZero_trap {next : Nat → Exec Unit} (h : destTrap s true srcs [(d, f)] = some x) : fromZero d f next s = x s := by
  rcases destTrap_cases h with ⟨hg, rfl⟩ | ⟨g, hg, ⟨hd, rfl⟩ | ⟨hd, hs, -, rfl⟩⟩
  · exact exec_bind_error (checkDest_none hg)
  · exact exec_bind_error (checkDest_trap hg hd)
  · exact (exec_bind_ok (checkDest_ok hg hd)).trans (exec_bind_error (needStartZero_trap hs))

theorem fromZero_ok {next : Nat → Exec Unit} {lo hi : Nat} (h : VectorReady s d srcs f g lo hi) (hs : s.regs.start = 0) :
    fromZero d f next s = next g s :=
  (exec_bind_ok (checkDest_ok h.group h.dest)).trans (exec_bind_ok (needStartZero_ok hs))

/-! ### The instruction -/

section
variable {pipe : Nat} {i : Instr} {body : Exec Unit}

/-- An elementwise form whose body does what the trap of a failing check does takes that trap, whether a cut is due or not. -/
theorem vinsn_checkTrap (hr : s.runs .threadOnly) (hq : s.cur.vqueue.length < 32) (hi : cuttable i = true)
    (h : s.checkTrap whole srcs legal tags dests = some x) (hb : body s = x s) : vinsn pipe i body s = .next (settle i x s) := by
  obtain ⟨e, he⟩ := checkTrap_throws h
  refine (vinsn_error (t := s) (e := e) hr hq (by rw [hi]; exact hb.trans (he s))).trans ?_
  rw [settle_congr (x := throw e) (y := x) (he s).symm]

/-- A form that no pre-emption cuts has forgotten the cut where it traps (R162). -/
theorem vinsn_checkTrap_uncut (hr : s.runs .threadOnly) (hq : s.cur.vqueue.length < 32) (hi : cuttable i = false)
    (h : s.checkTrap whole srcs legal tags dests = some x) (hb : body s.uncut = x s.uncut) :
    vinsn pipe i body s = .next (settle i x s.uncut) := by
  obtain ⟨e, he⟩ := checkTrap_throws h
  refine (vinsn_error (t := s.uncut) (e := e) hr hq (by rw [hi]; exact hb.trans (he s.uncut))).trans ?_
  rw [settle_congr (x := throw e) (y := x) (he s.uncut).symm]

end

end Sys2Proof.Proofs
end

/-! ## Events of elements, in whatever order they are raised (R105–R107) -/
section
namespace Sys2Proof.Proofs

open Sys2Proof.Machine Sys2Proof.Laws

variable {s t u : State} {es es' : List (Nat × Events)}

/-- Event bit `b` is raised at index `n`. -/
def raisedAt (es : List (Nat × Events)) (n b : Nat) : Prop := ∃ e ∈ es, e.1 = n ∧ e.2.testBit b = true

/-- The same events are raised at the same indices. -/
def sameEvents (es es' : List (Nat × Events)) : Prop := ∀ n b, raisedAt es n b ↔ raisedAt es' n b

@[simp] theorem raisedAt_nil (n b : Nat) : ¬ raisedAt [] n b := by simp [raisedAt]

@[simp] theorem raisedAt_cons (e : Nat × Events) (es : List (Nat × Events)) (n b : Nat) :
    raisedAt (e :: es) n b ↔ e.1 = n ∧ e.2.testBit b = true ∨ raisedAt es n b := by simp [raisedAt]

@[simp] theorem raisedAt_append (es es' : List (Nat × Events)) (n b : Nat) :
    raisedAt (es ++ es') n b ↔ raisedAt es n b ∨ raisedAt es' n b := by
  simp only [raisedAt, List.mem_append, or_and_right, exists_or]

/-- Events listed by element. -/
@[simp] theorem raisedAt_map (ks : List Nat) (ev : Nat → Events) (n b : Nat) :
    raisedAt (ks.map (fun k => (k, ev k))) n b ↔ n ∈ ks ∧ (ev n).testBit b = true := by
  unfold raisedAt
  constructor
  · rintro ⟨e, he, rfl, hb⟩
    obtain ⟨k, hk, rfl⟩ := List.mem_map.mp he
    exact ⟨hk, hb⟩
  · exact fun ⟨hk, hb⟩ => ⟨_, List.mem_map.mpr ⟨n, hk, rfl⟩, rfl, hb⟩

theorem sameEvents_of_mem_iff (h : ∀ e, e ∈ es ↔ e ∈ es') : sameEvents es es' := fun n b => by
  simp only [raisedAt, h]

theorem sameEvents_refl (es : List (Nat × Events)) : sameEvents es es := fun _ _ => Iff.rfl

theorem sameEvents_reverse (es : List (Nat × Events)) : sameEvents es.reverse es :=
  sameEvents_of_mem_iff fun _ => List.mem_reverse

/-- Elements that raise nothing. -/
theorem sameEvents_quiet (ks : List Nat) : sameEvents (ks.map (fun k => (k, 0))) [] := fun n b => by simp

/-- Elements of which some raise one event. -/
theorem sameEvents_filter (ks : List Nat) (c : Nat → Bool) (e : Events) :
    sameEvents (ks.map (fun k => (k, if c k = true then e else 0))) ((ks.filter c).map (fun k => (k, e))) := fun n b => by
  cases hc : c n <;> simp [hc]

/-! ### What the flags merge -/

theorem testBit_foldl_or (es : List (Nat × Events)) (m b : Nat) :
    (es.foldl (fun m e => m ||| e.2) m).testBit b = true ↔ m.testBit b = true ∨ ∃ n, raisedAt es n b := by
  induction es generalizing m with
  | nil => simp
  | cons e es ih => simp [ih, exists_or, or_assoc]

theorem le_foldl_min (es : List (Nat × Events)) (m x : Nat) :
    x ≤ es.foldl (fun m e => min m e.1) m ↔ x ≤ m ∧ ∀ e ∈ es, x ≤ e.1 := by
  induction es generalizing m with
  | nil => simp
  | cons e es ih => simp [ih, and_assoc]

/-- The lowest index at which an event is raised is that of whatever list raises the same. -/
theorem foldl_min_congr (h : sameEvents es es') (b m : Nat) :
    (es.filter (fun e => e.2.testBit b)).foldl (fun m e => min m e.1) m =
      (es'.filter (fun e => e.2.testBit b)).foldl (fun m e => min m e.1) m := by
  have hle (es : List (Nat × Events)) (x : Nat) :
      x ≤ (es.filter (fun e => e.2.testBit b)).foldl (fun m e => min m e.1) m ↔ x ≤ m ∧ ∀ n, raisedAt es n b → x ≤ n := by
    rw [le_foldl_min]
    refine and_congr_right fun _ => ⟨?_, fun hn e he => ?_⟩
    · rintro hn n ⟨e, he, rfl, hb⟩
      exact hn e (List.mem_filter.mpr ⟨he, hb⟩)
    · obtain ⟨he, hb⟩ := List.mem_filter.mp he
      exact hn _ ⟨e, he, rfl, hb⟩
  refine eq_of_forall_le_iff fun x => ?_
  rw [hle, hle]
  simp only [h _ b]

/-- FFLAGS and the index registers depend on which events are raised at which indices alone. -/
theorem eventsRaised_congr (h : sameEvents es es') (he : eventsRaised s t es) : eventsRaised s t es' := by
  have hor : es.foldl (fun m e => m ||| e.2) 0 = es'.foldl (fun m e => m ||| e.2) 0 :=
    Nat.eq_of_testBit_eq fun b => Bool.eq_iff_iff.mpr (by simp only [testBit_foldl_or, h _ b])
  have hbit (b : Nat) : (fun e : Nat × Events => e.2 / 2 ^ b % 2 == 1) = fun e => e.2.testBit b :=
    funext fun e => by rw [Nat.testBit_eq_decide_div_mod_eq]; rfl
  have hmin (b m : Nat) : (es.filter (fun e => e.2 / 2 ^ b % 2 == 1)).foldl (fun m e => min m e.1) m =
      (es'.filter (fun e => e.2 / 2 ^ b % 2 == 1)).foldl (fun m e => min m e.1) m := by
    rw [hbit]
    exact foldl_min_congr h b m
  obtain ⟨hff, hnv, hdz, hof, huf, hnx⟩ := he
  have hmin0 := hmin 0
  simp only [Nat.pow_zero, Nat.div_one] at hmin0
  exact ⟨hor ▸ hff, hnv.trans (hmin 4 _), hdz.trans (hmin 3 _), hof.trans (hmin 2 _), huf.trans (hmin 1 _),
    hnx.trans (hmin0 _)⟩

/-- Events raised after others. -/
theorem eventsRaised_append (h : eventsRaised s t es) (h' : eventsRaised t u es') : eventsRaised s u (es ++ es') := by
  have hor : BitVec.ofNat 64 ((es ++ es').foldl (fun m e => m ||| e.2) 0) =
      BitVec.ofNat 64 (es.foldl (fun m e => m ||| e.2) 0) ||| BitVec.ofNat 64 (es'.foldl (fun m e => m ||| e.2) 0) := by
    rw [← BitVec.ofNat_or]
    refine congrArg _ (Nat.eq_of_testBit_eq fun b => Bool.eq_iff_iff.mpr ?_)
    simp [testBit_foldl_or, Nat.testBit_or]
  obtain ⟨hff, hnv, hdz, hof, huf, hnx⟩ := h
  obtain ⟨hff', hnv', hdz', hof', huf', hnx'⟩ := h'
  refine ⟨?_, ?_, ?_, ?_, ?_, ?_⟩
  · rw [hff', hff, hor, BitVec.or_assoc]
  · rw [hnv', hnv, List.filter_append, List.foldl_append]
  · rw [hdz', hdz, List.filter_append, List.foldl_append]
  · rw [hof', hof, List.filter_append, List.foldl_append]
  · rw [huf', huf, List.filter_append, List.foldl_append]
  · rw [hnx', hnx, List.filter_append, List.foldl_append]

theorem eventsRaised_nil (h : t.regs = { s.regs with vhigh := t.regs.vhigh, vdirty := t.regs.vdirty, vstart := t.regs.vstart }) :
    eventsRaised s t [] := by
  unfold eventsRaised
  rw [h]
  simp

end Sys2Proof.Proofs
end

/-! ## A form that writes a result group (R160) -/
section
namespace Sys2Proof.Proofs

open Sys2Proof.Machine Sys2Proof.Laws

variable {s : State} {d p : Reg} {srcs : List Reg} {f g lo hi : Nat}

/-- A group with rows for its elements takes them and is written (R111, R114, R115). -/
theorem takeRows_writeGroup_ok (h : VectorReady s d srcs f g lo hi) (hf : f < 16) {xs : List (Nat × Nat)}
    (hn : xs.Pairwise (fun a b => a.1 ≠ b.1)) (hlo : ∀ e ∈ xs, lo ≤ e.1) :
    ∃ t u, takeRows d.toNat f g lo hi s = .ok () t ∧ writeGroup d.toNat f g lo hi xs t = .ok () u ∧ vectorsOnly s u ∧
      groupWritten s u d.toNat f g hi xs ∧ rowsWritten s u d.toNat f g lo hi hi := by
  have hg := destGroup_cases h.group
  obtain ⟨t, ht, ft, vt⟩ := takeRows_ok h.rows
  obtain ⟨u, hu, fu, vu⟩ := writeGroup_ok ((vectorsOnly_cut ft).trans h.uncut) d.toNat f g lo hi xs
  have hm : membersWritten s u d.toNat f g lo hi xs := by
    intro j hj
    have hin : d.toNat ≤ d.toNat + j ∧ d.toNat + j < d.toNat + g ∧ d.toNat + j < 32 :=
      ⟨by omega, by omega, member_lt hg h.dest hj⟩
    refine ⟨(memberAfter s d.toNat f g lo hi xs j).scale, ?_⟩
    rw [vu, if_pos hin, vt, if_pos hin, vectorsOnly_tail ft, Nat.add_sub_cancel_left]
    rfl
  refine ⟨t, u, ht, hu, vectorsOnly_trans ft fu, ⟨groupHolds_of_members hm hf hg hn hlo, fun n hout => ?_⟩,
    rowsWritten_of_members hm⟩
  have hout : ¬(d.toNat ≤ n ∧ n < d.toNat + g ∧ n < 32) := fun h => hout ⟨h.1, h.2.1⟩
  rw [vu, if_neg hout, vt, if_neg hout]

/-- A result group written with the values and events of its elements, in the registers' order. -/
theorem writeResult_ok (h : VectorReady s d srcs f g s.regs.start s.regs.len) (hf : f < 16) {rs : List (Nat × Nat × Events)}
    (hn : rs.Pairwise (fun a b => a.1 ≠ b.1)) (hlo : ∀ e ∈ rs, s.regs.start ≤ e.1) :
    ∃ u w, writeResult d f g rs s = .ok () (w.setRegs { w.regs with vstart := 0 }) ∧ vectorsOnly s u ∧ flagsOnly u w ∧
      groupWritten s u d.toNat f g s.regs.len (rs.map (fun e => (e.1, e.2.1))) ∧
      rowsWritten s u d.toNat f g s.regs.start s.regs.len s.regs.len ∧ eventsRaised u w (rs.map (fun e => (e.1, e.2.2))) := by
  obtain ⟨t, u, ht, hu, fu, hg, hr⟩ := takeRows_writeGroup_ok h hf (xs := rs.map (fun e => (e.1, e.2.1)))
    (List.pairwise_map.mpr hn) (fun e he => by obtain ⟨r, hr, rfl⟩ := List.mem_map.mp he; exact hlo r hr)
  obtain ⟨w, hw, fw, he⟩ := flags_ok (s := u) (rs.map (fun e => (e.1, e.2.2)))
  have hcut : w.cur.cut = none := by rw [fw]; exact (vectorsOnly_cut fu).trans h.uncut
  refine ⟨u, w, ?_, fu, fw, hg, hr, he⟩
  exact (exec_bind_ok (exec_getRegs s)).trans ((exec_bind_ok ht).trans ((exec_bind_ok hu).trans ((exec_bind_ok hw).trans
    (endStrip_ok hcut))))

/-- Flags raised after VSTART has become 0 are those raised before. -/
theorem flag_vstart (s : State) (e : Events) (i : Nat) : (s.setRegs { s.regs with vstart := 0 }).flag e i =
    (s.flag e i).setRegs { (s.flag e i).regs with vstart := 0 } := by
  unfold State.flag
  split <;> rfl

theorem flags_vstart {w : State} (es : List (Nat × Events)) (h : flags es s = .ok () w) :
    flags es (s.setRegs { s.regs with vstart := 0 }) = .ok () (w.setRegs { w.regs with vstart := 0 }) := by
  obtain rfl : es.foldl (fun s e => s.flag e.2 e.1) s = w := by simpa [flags] using h
  have hfold : es.foldl (fun s e => s.flag e.2 e.1) (s.setRegs { s.regs with vstart := 0 }) =
      (es.foldl (fun s e => s.flag e.2 e.1) s).setRegs { (es.foldl (fun s e => s.flag e.2 e.1) s).regs with vstart := 0 } := by
    clear h
    induction es generalizing s with
    | nil => rfl
    | cons e es ih => rw [List.foldl_cons, flag_vstart, ih, List.foldl_cons]
  exact congrArg (EStateM.Result.ok ()) hfold

variable {pipe : Nat} {i : Instr} {body : Exec Unit} {rs : List (Nat × Nat × Events)} {xs : List (Nat × Nat)}
  {es es' : List (Nat × Events)}

/-- A form that writes a result group and raises further events completes, with elements and events in whatever order they are listed. -/
theorem writeResult_completes (h : VectorReady s d srcs f g s.regs.start s.regs.len) (hf : f < 16)
    (hn : rs.Pairwise (fun a b => a.1 ≠ b.1)) (hlo : ∀ e ∈ rs, s.regs.start ≤ e.1)
    (hb : body s = (writeResult d f g rs >>= fun _ => flags es) s)
    (hx : ∀ e, e ∈ rs.map (fun e => (e.1, e.2.1)) ↔ e ∈ xs) (he : sameEvents (rs.map (fun e => (e.1, e.2.2)) ++ es) es') :
    vectorCompletes s (vinsn pipe i body s) d f g s.regs.len xs es' := by
  obtain ⟨u, w, hwrite, fu, fw, ⟨⟨hval, hkeep, htail, hdesc⟩, hother⟩, hrows, hev⟩ := writeResult_ok h hf hn hlo
  obtain ⟨w', hflags, fw', hev'⟩ := flags_ok (s := w) es
  have hbody := hb.trans ((exec_bind_ok hwrite).trans (flags_vstart es hflags))
  have hgroup : groupWritten s u d.toNat f g s.regs.len xs :=
    ⟨⟨fun e hmem => hval e ((hx e).mpr hmem), fun k hk hcap hno => hkeep k hk hcap fun e hmem => hno e ((hx e).mp hmem),
      htail, hdesc⟩, hother⟩
  obtain ⟨t, ht, -, hc⟩ := vectorCompletes_of_body (pipe := pipe) (i := i) h.runs h.room h.uncut hbody fu
    (flagsOnly_trans fw fw') hgroup hrows (eventsRaised_congr he (eventsRaised_append hev hev'))
  exact ht ▸ hc

/-! ### Elementwise forms -/

theorem mem_actives {k : Nat} (h : k ∈ s.actives p) : s.regs.start ≤ k ∧ k < s.regs.len := by
  obtain ⟨i, hi, rfl⟩ := List.mem_iff_getElem.mp (List.mem_of_mem_filter h)
  simp only [List.length_drop, List.length_range] at hi
  simp only [List.getElem_drop, List.getElem_range]
  omega

theorem actives_pairwise (s : State) (p : Reg) : (s.actives p).Pairwise (· < ·) :=
  (List.pairwise_lt_range.sublist (List.drop_sublist _ _)).filter _

theorem stripElems_uncut (h : s.cur.cut = none) (p : Reg) : s.stripElems p = s.actives p := by
  simp [State.stripElems, cutAt_none h]

theorem elementwise_ok {op : State → Nat → Nat × Events} (h : VectorReady s d srcs f g s.regs.start s.regs.len)
    (hm : mayRestart s d srcs f g) :
    elementwise d p f srcs op s = writeResult d f g ((s.actives p).map (fun k => (k, op s k))) s := by
  refine (exec_bind_ok (checkDest_ok h.group h.dest)).trans ((exec_bind_ok (checkRestart_ok h.uncut hm)).trans
    ((exec_bind_ok (exec_get s)).trans ?_))
  rw [stripElems_uncut h.uncut]

section
variable {bad : State → Prop} [DecidablePred bad] {va vb vd : Option Reg} {next : State → Exec Unit}
  {op : State → Nat → Nat × Events} {val : Nat → Nat} {ev : Nat → Events}

/-- An elementwise form that passes its checks completes with what `op` gives for each active element (R160). -/
theorem checked_completes (h : VectorReady s d srcs f g s.regs.start s.regs.len) (hm : mayRestart s d srcs f g) (hf : f < 16)
    (hb : ¬ bad s) (hnext : next s = elementwise d p f srcs op) (hop : ∀ k, op s k = (val k, ev k))
    (he : sameEvents ((s.actives p).map (fun k => (k, ev k))) es') :
    vectorCompletes s (vinsn pipe i (checked srcs bad va vb vd next) s) d f g s.regs.len
      ((s.actives p).map (fun k => (k, val k))) es' := by
  refine writeResult_completes (rs := (s.actives p).map (fun k => (k, val k, ev k))) (es := []) h hf ?distinct ?start ?body ?_ ?_
  case distinct => exact List.pairwise_map.mpr ((actives_pairwise s p).imp Nat.ne_of_lt)
  case start =>
    intro e hmem
    obtain ⟨k, hk, rfl⟩ := List.mem_map.mp hmem
    exact (mem_actives hk).1
  case body =>
    refine (checked_ok h.sources hb).trans ((congrFun hnext s).trans ((elementwise_ok h hm).trans ?_))
    simp only [hop]
    exact congrFun bind_pure_unit.symm s
  · simp [Function.comp_def]
  · simpa [Function.comp_def] using he

/-- An elementwise form that fails a check takes the trap of the first it fails. -/
theorem checked_traps {legal : Bool} {x : Exec Unit} (hr : s.runs .threadOnly) (hq : s.cur.vqueue.length < 32)
    (hi : cuttable i = true) (hb : bad s ↔ legal = false) (hnext : next s = elementwise d p f srcs op)
    (h : s.checkTrap false srcs legal (s.mismatchTags va vb vd) [(d, f)] = some x) :
    vinsn pipe i (checked srcs bad va vb vd next) s = .next (settle i x s) :=
  vinsn_checkTrap hr hq hi h (checked_trap h hb (fun _ => rfl) fun _ hd => (congrFun hnext s).trans (elementwise_trap hd))

end

end Sys2Proof.Proofs
end

/-! ## The end of a form that writes more than one group, or predicates (R160) -/
section
namespace Sys2Proof.Proofs

open Sys2Proof.Machine Sys2Proof.Laws

variable {s t u w : State} {pipe : Nat} {i : Instr} {body : Exec Unit} {es : List (Nat × Events)}

/-- Nothing is different but what the body of a vector form may write: vector registers, predicates, the wait for rows, VSTART,
VHIGH, VDIRTY, FFLAGS and the FIDX registers. -/
def bodyFrame (s t : State) : Prop :=
  t = { s with cur := { s.cur with v := t.cur.v, p := t.cur.p, stall := t.cur.stall, regs := { s.cur.regs with
    vstart := t.cur.regs.vstart, vhigh := t.cur.regs.vhigh, vdirty := t.cur.regs.vdirty, fflags := t.cur.regs.fflags,
    fidxNv := t.cur.regs.fidxNv, fidxDz := t.cur.regs.fidxDz, fidxOf := t.cur.regs.fidxOf, fidxUf := t.cur.regs.fidxUf,
    fidxNx := t.cur.regs.fidxNx } } }

theorem bodyFrame_trans (h : bodyFrame s t) (k : bodyFrame t u) : bodyFrame s u := k.trans (by rw [h])

theorem bodyFrame_of_vectorsOnly (h : vectorsOnly s t) : bodyFrame s t := h.trans (by rw [h])

theorem bodyFrame_of_flagsOnly (h : flagsOnly s t) : bodyFrame s t := h.trans (by rw [h])

theorem bodyFrame_vstart (s : State) (x : Word) : bodyFrame s (s.setRegs { s.regs with vstart := x }) := rfl

/-- A vector form whose body writes nothing else completes with what its body wrote (R160). -/
theorem vinsn_ends (hr : s.runs .threadOnly) (hq : s.cur.vqueue.length < 32) (hc : s.cur.cut = none) (hb : body s = .ok () w)
    (hw : bodyFrame s w) : ∃ t, vinsn pipe i body s = .next t ∧ vectorFrame s t ∧ t.cur.pc = (s.retire (.hint 0) .seq).cur.pc ∧
      t.cur.v = w.cur.v ∧ t.cur.p = w.cur.p ∧ { t.regs with loopCtl := w.regs.loopCtl } = w.regs := by
  obtain ⟨v, p, st, vs, vh, vd, ff, nv, dz, ov, uf, nx, rfl⟩ : ∃ v p st vs vh vd ff nv dz ov uf nx,
      w = { s with cur := { s.cur with v := v, p := p, stall := st, regs := { s.cur.regs with
        vstart := vs, vhigh := vh, vdirty := vd, fflags := ff, fidxNv := nv, fidxDz := dz, fidxOf := ov, fidxUf := uf,
        fidxNx := nx } } } := ⟨_, _, _, _, _, _, _, _, _, _, _, _, hw⟩
  have hend := vinsn_ok (pipe := pipe) (i := i) hr hq hc hb hc
  generalize VToken.of pipe i s _ = token at hend
  generalize ht0 : State.enqueue _ token = t0 at hend
  have hpc : (t0.retire i .seq).cur.pc = (s.retire (.hint 0) .seq).cur.pc := by
    rw [retire_pc, retire_pc]
    subst ht0
    exact advance_pc_congr rfl rfl rfl rfl
  refine ⟨_, hend, ?_⟩
  obtain ⟨ps, c, ht⟩ := retire_frame t0 i
  subst ht0
  rw [ht] at hpc ⊢
  exact ⟨⟨rfl, rfl, rfl⟩, hpc, rfl, rfl, rfl⟩

/-- The flags at the end are those that the body left. -/
theorem eventsRaised_ends (h : { t.regs with loopCtl := w.regs.loopCtl } = w.regs) (he : eventsRaised s w es) : eventsRaised s t es := by
  unfold eventsRaised at he ⊢
  rw [← h] at he
  exact he

theorem start_ends (h : { t.regs with loopCtl := w.regs.loopCtl } = w.regs) : t.regs.start = w.regs.start := by
  rw [← h]
  rfl

end Sys2Proof.Proofs
end

/-! ## Vector integers (R98, R160, R163) -/
section
namespace Sys2Proof.Proofs

open Sys2Proof.Machine Sys2Proof.Laws

variable {s : State} {d a b p : Reg} {srcs : List Reg} {f : Fmt} {g : Nat}

/-! ### Operation formats (R75, R98) -/

theorem tagFmt_lt (t : BitVec 6) : tagFmt t < 16 := Nat.div_lt_of_lt_mul t.isLt

/-- The operation format of formats that a tag can hold is one. -/
theorem promote_lt {m n : Fmt} (hm : m < 16) (hn : n < 16) : promote m n < 16 := by
  have h : ∀ m n : Fin 16, promote m n < 16 := by decide
  exact h ⟨m, hm⟩ ⟨n, hn⟩

theorem opFmt_lt (s : State) (srcs : List Reg) : s.opFmt srcs < 16 := by
  have hfold (vs : List Reg) : ∀ f < 16, vs.foldl (fun f w => promote f (tagFmt (s.tag w))) f < 16 := by
    induction vs with
    | nil => exact fun f hf => hf
    | cons v vs ih => exact fun f hf => ih _ (promote_lt hf (tagFmt_lt _))
  cases srcs with
  | nil => exact (by decide : 0 < 16)
  | cons v vs =>
    refine hfold vs _ ?_
    split
    · decide
    · exact tagFmt_lt _

/-! ### The forms -/

/-- What a vector integer form reads. -/
def intSources (readsD : Bool) (d a b : Reg) : List Reg := if readsD then [a, b, d] else [a, b]

/-- The element that `op` gives in format `f`, and its events. -/
def intElement (op : Fmt → Int → Int → Int → Int × Events) (f : Fmt) (d a b : Reg) (s : State) (k : Nat) : Nat × Events :=
  let r := op f (s.intOperand a.toNat k) (s.intOperand b.toNat k) (s.intOperand d.toNat k)
  (intBits f r.1, r.2)

variable {i : Instr} {readsD : Bool} {op : Fmt → Int → Int → Int → Int × Events}

theorem vint_eq (i : Instr) (readsD : Bool) (d a b p : Reg) (op : Fmt → Int → Int → Int → Int × Events) (s : State) :
    ∃ pipe, vint i readsD d a b p op s = vinsn pipe i
      (checked (intSources readsD d a b) (fun t => (t.opFmt (intSources readsD d a b)).isInt = false) (some a) (some b)
        (if readsD then some d else none) (fun t => elementwise d p (t.opFmt (intSources readsD d a b)) (intSources readsD d a b)
          (intElement op (t.opFmt (intSources readsD d a b)) d a b))) s :=
  ⟨_, rfl⟩

theorem vint_traps {x : Exec Unit} (hr : s.runs .threadOnly) (hq : s.cur.vqueue.length < 32) (hi : cuttable i = true)
    (h : s.checkTrap false (intSources readsD d a b) (s.opFmt (intSources readsD d a b)).isInt
      (s.mismatchTags (some a) (some b) (if readsD then some d else none)) [(d, s.opFmt (intSources readsD d a b))] = some x) :
    vint i readsD d a b p op s = .next (settle i x s) := by
  obtain ⟨pipe, heq⟩ := vint_eq i readsD d a b p op s
  exact heq.trans (checked_traps hr hq hi Iff.rfl rfl h)

theorem vint_completes {val : Nat → Int} {ev : Nat → Events} {es : List (Nat × Events)}
    (h : VectorReady s d (intSources readsD d a b) f g s.regs.start s.regs.len) (hm : mayRestart s d (intSources readsD d a b) f g)
    (hf : s.opFmt (intSources readsD d a b) = f) (hint : f.isInt = true)
    (hop : ∀ k, op f (s.intOperand a.toNat k) (s.intOperand b.toNat k) (s.intOperand d.toNat k) = (val k, ev k))
    (he : sameEvents ((s.actives p).map (fun k => (k, ev k))) es) :
    vectorCompletes s (vint i readsD d a b p op s) d f g s.regs.len ((s.actives p).map (fun k => (k, intBits f (val k)))) es := by
  obtain ⟨pipe, heq⟩ := vint_eq i readsD d a b p op s
  subst hf
  rw [heq]
  exact checked_completes h hm (opFmt_lt s _) (by simp [hint]) rfl (fun k => by simp only [intElement, hop]) he

/-! ### Saturation and shifts (R82, R163) -/

theorem intMin_le_intMax (f : Fmt) : f.intMin ≤ f.intMax := by
  have : (0 : Int) < 2 ^ (f.bits - 1) := by positivity
  have : (0 : Int) < 2 ^ f.bits := by positivity
  unfold Fmt.intMin Fmt.intMax
  split <;> omega

/-- A value clamped to the range of a format. -/
def clamped (f : Fmt) (z : Int) : Int := max f.intMin (min z f.intMax)

theorem clampInt_eq (f : Fmt) (z : Int) : clampInt f z = (clamped f z, if (clamped f z != z) = true then 4 else 0) := by
  have hle := intMin_le_intMax f
  unfold clampInt clamped
  split
  · rename_i h
    have hmin : max f.intMin (min z f.intMax) = f.intMin := by omega
    have hne : f.intMin ≠ z := by omega
    simp [hmin, hne, evOF]
  · split
    · rename_i h
      have hmax : max f.intMin (min z f.intMax) = f.intMax := by omega
      have hne : f.intMax ≠ z := by omega
      simp [hmax, hne, evOF]
    · have hin : max f.intMin (min z f.intMax) = z := by omega
      simp [hin]

/-- The bits read as a number with sign, by the half of the range they lie in. -/
theorem asSignedBits_eq (f : Fmt) (x : Int) : asSignedBits f x =
    if 2 * intBits f x < 2 ^ f.bits then (intBits f x : Int) else (intBits f x : Int) - 2 ^ f.bits := by
  have hpow : 2 ^ f.bits = 2 * 2 ^ (f.bits - 1) := by
    rw [← Nat.pow_succ', Nat.succ_eq_add_one, Nat.sub_add_cancel (bits_pos f)]
  unfold asSignedBits
  dsimp only
  by_cases h : 2 * intBits f x < 2 ^ f.bits
  · rw [if_pos h, if_neg (by omega)]
  · rw [if_neg h, if_pos (by omega)]

/-- A form that saturates raises OF where its value is clamped. -/
theorem vint_saturates {val : Nat → Int}
    (h : VectorReady s d (intSources readsD d a b) f g s.regs.start s.regs.len) (hm : mayRestart s d (intSources readsD d a b) f g)
    (hf : s.opFmt (intSources readsD d a b) = f) (hint : f.isInt = true)
    (hop : ∀ k, op f (s.intOperand a.toNat k) (s.intOperand b.toNat k) (s.intOperand d.toNat k) = clampInt f (val k)) :
    vectorCompletes s (vint i readsD d a b p op s) d f g s.regs.len
      ((s.actives p).map (fun k => (k, intBits f (clamped f (val k)))))
      (((s.actives p).filter (fun k => clamped f (val k) != val k)).map (fun k => (k, 4))) :=
  vint_completes h hm hf hint (fun k => (hop k).trans (clampInt_eq f (val k))) (sameEvents_filter _ _ 4)

/-- Settles O18: each form by its element function, which no cut due keeps from its trap. -/
theorem vectorIntegers : Obligations.VectorIntegers := by
  unfold Obligations.VectorIntegers
  refine ⟨?two, ?three, ?traps⟩
  case two =>
    intro s d a b p g f h hm hint
    have done {i : Instr} {op : Fmt → Int → Int → Int → Int × Events} (val : Nat → Int)
        (hop : ∀ k, op f (s.intOperand a.toNat k) (s.intOperand b.toNat k) (s.intOperand d.toNat k) = (val k, 0)) :
        vectorCompletes s (vint i false d a b p op s) d f g s.regs.len ((s.actives p).map (fun k => (k, intBits f (val k)))) [] :=
      vint_completes h hm rfl hint hop (sameEvents_quiet _)
    unfold exec
    dsimp only
    refine ⟨done _ fun _ => rfl, done _ fun _ => rfl, vint_saturates h hm rfl hint fun _ => rfl, vint_saturates h hm rfl hint fun _ => rfl,
      done _ fun _ => rfl, done _ fun _ => rfl, done _ fun _ => rfl, done _ fun _ => rfl, done _ fun _ => rfl, done _ fun _ => rfl,
      done _ fun _ => rfl, done _ fun k => ?sra, done _ fun _ => rfl, done _ fun _ => rfl⟩
    case sra => exact Prod.ext (congrArg (· >>> _) (asSignedBits_eq f _)) rfl
  case three =>
    intro s d a b p g f h hm hint
    unfold exec
    dsimp only
    exact vint_completes (readsD := true) h hm rfl hint (fun _ => rfl) (sameEvents_quiet _)
  case traps =>
    intro s d a b p x hr hq
    unfold exec
    dsimp only
    refine ⟨fun h => ?_, fun h => ?_⟩
    · and_intros <;> refine vint_traps hr hq ?_ h <;> exact (cuttable_two rfl).trans rfl
    · exact vint_traps (readsD := true) hr hq ((cuttable_two rfl).trans rfl) h

end Sys2Proof.Proofs
end

/-! ## Vector floating point, sign forms, vfclass (R85, R92, R98, R160, R164, R165) -/
section
namespace Sys2Proof.Proofs

open Sys2Proof.Machine Sys2Proof.Laws

variable {s : State} {d a b p : Reg} {rm : BitVec 2} {srcs : List Reg} {g : Nat} {i : Instr} {b? d? : Option Reg} {x : Exec Unit}

/-! ### Floating-point forms -/

/-- An operand of a form that may have none in its place. -/
def operand? (s : State) (v? : Option Reg) (k : Nat) (r : Rnd) : Val × Events :=
  match v? with
  | none => (.nan, 0)
  | some v => s.operand v.toNat k r

/-- The element that `op` gives in format `f`, with the events of its operands and its own. -/
def fpElement (op : Fmt → Rnd → Val → Val → Val → Nat × Events) (f : Fmt) (b? d? : Option Reg) (a : Reg) (rm : BitVec 2)
    (s : State) (k : Nat) : Nat × Events :=
  let r := s.rnd rm k
  let x := s.operand a.toNat k r
  let y := operand? s b? k r
  let z := operand? s d? k r
  let w := op f r x.1 y.1 z.1
  (w.1, x.2 ||| y.2 ||| z.2 ||| w.2)

theorem vfp_eq (i : Instr) (srcs : List Reg) (b? d? : Option Reg) (d a p : Reg) (rm : BitVec 2)
    (op : Fmt → Rnd → Val → Val → Val → Nat × Events) (s : State) : ∃ pipe, vfp i srcs b? d? d a p rm op s = vinsn pipe i
      (checked srcs (fun t => (t.opFmt srcs).isFloat = false) (some a) b? d?
        (fun t => elementwise d p (t.opFmt srcs) srcs (fpElement op (t.opFmt srcs) b? d? a rm))) s :=
  ⟨_, rfl⟩

theorem vfp_traps {op : Fmt → Rnd → Val → Val → Val → Nat × Events} (hr : s.runs .threadOnly) (hq : s.cur.vqueue.length < 32)
    (hi : cuttable i = true)
    (h : s.checkTrap false srcs (s.opFmt srcs).isFloat (s.mismatchTags (some a) b? d?) [(d, s.opFmt srcs)] = some x) :
    vfp i srcs b? d? d a p rm op s = .next (settle i x s) := by
  obtain ⟨pipe, heq⟩ := vfp_eq i srcs b? d? d a p rm op s
  exact heq.trans (checked_traps hr hq hi Iff.rfl rfl h)

/-- A floating-point form completes with what `op` gives for each active element, by the draw of its own index. -/
theorem vfp_completes {op : Fmt → Rnd → Val → Val → Val → Nat × Events} {val : Nat → Nat × Events} {ev : Nat → Events}
    (h : VectorReady s d srcs (s.opFmt srcs) g s.regs.start s.regs.len) (hm : mayRestart s d srcs (s.opFmt srcs) g)
    (hf : (s.opFmt srcs).isFloat = true)
    (hop : ∀ k, fpElement op (s.opFmt srcs) b? d? a rm s k = ((val k).1, ev k ||| (val k).2)) :
    vectorCompletes s (vfp i srcs b? d? d a p rm op s) d (s.opFmt srcs) g s.regs.len
      ((s.actives p).map (fun k => (k, (val k).1))) ((s.actives p).map (fun k => (k, ev k ||| (val k).2))) := by
  obtain ⟨pipe, heq⟩ := vfp_eq i srcs b? d? d a p rm op s
  rw [heq]
  exact checked_completes h hm (opFmt_lt s srcs) (by simp [hf]) rfl hop (sameEvents_refl _)

/-! By the number of operands. -/

theorem vfp1_traps {op : Fmt → Rnd → Val → Nat × Events} (hr : s.runs .threadOnly) (hq : s.cur.vqueue.length < 32)
    (hi : cuttable i = true)
    (h : s.checkTrap false [a] (s.opFmt [a]).isFloat (s.mismatchTags (some a) none none) [(d, s.opFmt [a])] = some x) :
    vfp1 i d a p rm op s = .next (settle i x s) := vfp_traps hr hq hi h

theorem vfp2_traps {op : Fmt → Rnd → Val → Val → Nat × Events} (hr : s.runs .threadOnly) (hq : s.cur.vqueue.length < 32)
    (hi : cuttable i = true)
    (h : s.checkTrap false [a, b] (s.opFmt [a, b]).isFloat (s.mismatchTags (some a) (some b) none) [(d, s.opFmt [a, b])] = some x) :
    vfp2 i d a b p rm op s = .next (settle i x s) := vfp_traps hr hq hi h

theorem vfp3_traps {op : Fmt → Rnd → Val → Val → Val → Nat × Events} (hr : s.runs .threadOnly) (hq : s.cur.vqueue.length < 32)
    (hi : cuttable i = true) (h : s.checkTrap false [a, b, d] (s.opFmt [a, b, d]).isFloat
      (s.mismatchTags (some a) (some b) (some d)) [(d, s.opFmt [a, b, d])] = some x) :
    vfp3 i d a b p rm op s = .next (settle i x s) := vfp_traps hr hq hi h

theorem vfp1_completes {op : Fmt → Rnd → Val → Nat × Events}
    (h : VectorReady s d [a] (s.opFmt [a]) g s.regs.start s.regs.len) (hm : mayRestart s d [a] (s.opFmt [a]) g)
    (hf : (s.opFmt [a]).isFloat = true) :
    vectorCompletes s (vfp1 i d a p rm op s) d (s.opFmt [a]) g s.regs.len
      ((s.actives p).map (fun k => (k, (op (s.opFmt [a]) (s.rnd rm k) (s.operand a.toNat k (s.rnd rm k)).1).1)))
      ((s.actives p).map (fun k => (k, (s.operand a.toNat k (s.rnd rm k)).2 |||
        (op (s.opFmt [a]) (s.rnd rm k) (s.operand a.toNat k (s.rnd rm k)).1).2))) :=
  vfp_completes h hm hf fun k => by simp only [fpElement, operand?, Nat.or_zero]

theorem vfp2_completes {op : Fmt → Rnd → Val → Val → Nat × Events}
    (h : VectorReady s d [a, b] (s.opFmt [a, b]) g s.regs.start s.regs.len) (hm : mayRestart s d [a, b] (s.opFmt [a, b]) g)
    (hf : (s.opFmt [a, b]).isFloat = true) :
    let x (k : Nat) := s.operand a.toNat k (s.rnd rm k)
    let y (k : Nat) := s.operand b.toNat k (s.rnd rm k)
    vectorCompletes s (vfp2 i d a b p rm op s) d (s.opFmt [a, b]) g s.regs.len
      ((s.actives p).map (fun k => (k, (op (s.opFmt [a, b]) (s.rnd rm k) (x k).1 (y k).1).1)))
      ((s.actives p).map (fun k => (k, (x k).2 ||| (y k).2 ||| (op (s.opFmt [a, b]) (s.rnd rm k) (x k).1 (y k).1).2))) :=
  vfp_completes h hm hf fun k => by simp only [fpElement, operand?, Nat.or_zero]

theorem vfp3_completes {op : Fmt → Rnd → Val → Val → Val → Nat × Events}
    (h : VectorReady s d [a, b, d] (s.opFmt [a, b, d]) g s.regs.start s.regs.len)
    (hm : mayRestart s d [a, b, d] (s.opFmt [a, b, d]) g) (hf : (s.opFmt [a, b, d]).isFloat = true) :
    let x (k : Nat) := s.operand a.toNat k (s.rnd rm k)
    let y (k : Nat) := s.operand b.toNat k (s.rnd rm k)
    let z (k : Nat) := s.operand d.toNat k (s.rnd rm k)
    vectorCompletes s (vfp3 i d a b p rm op s) d (s.opFmt [a, b, d]) g s.regs.len
      ((s.actives p).map (fun k => (k, (op (s.opFmt [a, b, d]) (s.rnd rm k) (x k).1 (y k).1 (z k).1).1)))
      ((s.actives p).map (fun k => (k, (x k).2 ||| (y k).2 ||| (z k).2 |||
        (op (s.opFmt [a, b, d]) (s.rnd rm k) (x k).1 (y k).1 (z k).1).2))) :=
  vfp_completes h hm hf fun _ => rfl

/-! ### Sign forms -/

/-- The bits of an operand of a sign form that may have none in its place. -/
def signOperand? (s : State) (v? : Option Reg) (k : Nat) (f : Fmt) (r : Rnd) : Nat × Events :=
  match v? with
  | none => (0, 0)
  | some v => s.signOperand v.toNat k f r

/-- The bits that `op` gives in format `f`, with the events of the conversions. -/
def signElement (op : Nat → Nat → Nat → Nat) (f : Fmt) (b? : Option Reg) (a : Reg) (rm : BitVec 2) (s : State) (k : Nat) :
    Nat × Events :=
  let x := s.signOperand a.toNat k f (s.rnd rm k)
  let y := signOperand? s b? k f (s.rnd rm k)
  (op f.signBit x.1 y.1, x.2 ||| y.2)

variable {op : Nat → Nat → Nat → Nat}

theorem vsign_eq (i : Instr) (srcs : List Reg) (b? : Option Reg) (d a p : Reg) (rm : BitVec 2) (op : Nat → Nat → Nat → Nat)
    (s : State) : vsign i srcs b? d a p rm op s = vinsn 0 i
      (checked srcs (fun t => (t.opFmt srcs).isFloat = false) (some a) b? none
        (fun t => elementwise d p (t.opFmt srcs) srcs (signElement op (t.opFmt srcs) b? a rm))) s := rfl

theorem vsign_traps (hr : s.runs .threadOnly) (hq : s.cur.vqueue.length < 32) (hi : cuttable i = true)
    (h : s.checkTrap false srcs (s.opFmt srcs).isFloat (s.mismatchTags (some a) b? none) [(d, s.opFmt srcs)] = some x) :
    vsign i srcs b? d a p rm op s = .next (settle i x s) :=
  (vsign_eq ..).trans (checked_traps hr hq hi Iff.rfl rfl h)

theorem vsign_completes {val : Nat → Nat} {ev : Nat → Events} (h : VectorReady s d srcs (s.opFmt srcs) g s.regs.start s.regs.len)
    (hm : mayRestart s d srcs (s.opFmt srcs) g) (hf : (s.opFmt srcs).isFloat = true)
    (hop : ∀ k, signElement op (s.opFmt srcs) b? a rm s k = (val k, ev k)) :
    vectorCompletes s (vsign i srcs b? d a p rm op s) d (s.opFmt srcs) g s.regs.len
      ((s.actives p).map (fun k => (k, val k))) ((s.actives p).map (fun k => (k, ev k))) := by
  rw [vsign_eq]
  exact checked_completes h hm (opFmt_lt s srcs) (by simp [hf]) rfl hop (sameEvents_refl _)

/-- The element of a sign form of one operand. -/
theorem signElement_one (op : Nat → Nat → Nat → Nat) (f : Fmt) (a : Reg) (rm : BitVec 2) (s : State) (k : Nat) :
    signElement op f none a rm s k = (op f.signBit (s.signOperand a.toNat k f (s.rnd rm k)).1 0,
      (s.signOperand a.toNat k f (s.rnd rm k)).2) := by
  simp only [signElement, signOperand?, Nat.or_zero]

/-! ### vfclass -/

/-- A form of one source that checks it, and then its formats. -/
theorem checked_one {bad : State → Prop} [DecidablePred bad] {va vb vd : Option Reg} {next : State → Exec Unit} :
    checked [a] bad va vb vd next = (do
      checkSource a
      let t ← get
      if bad t then mismatch va vb vd
      next t) := by
  simp only [checked, each, bind_assoc, pure_bind]

theorem vfclass_eq (d a p : Reg) (rm : BitVec 2) (s : State) : execVfclass d a p rm s = vinsn 0 (.vfclass d a p rm)
    (checked [a] (fun t => (t.opFmt [a]).isFloat = false) (some a) none none
      (fun t => elementwise d p (classFmt (t.opFmt [a])) [a]
        (fun s k => (classWord (t.opFmt [a]) (s.bitsIn a.toNat k (t.opFmt [a])), 0)))) s := by
  rw [checked_one]
  rfl

theorem classFmt_lt (f : Fmt) : classFmt f < 16 := by
  unfold classFmt
  split
  · decide
  · split <;> decide

/-- Settles O19: the floating-point forms by `vfp_completes`, the sign forms by `vsign_completes`, all their traps by `checked_trap`. -/
theorem vectorFloats : Obligations.VectorFloats := by
  unfold Obligations.VectorFloats
  refine ⟨?forms, ?signs, ?traps⟩
  case forms =>
    intro s d a b p rm g
    unfold exec
    dsimp only
    refine ⟨fun h hm hf => ⟨?_, ?_, ?_⟩, fun h hm hf => ⟨?_, ?_, ?_, ?_, ?_, ?_⟩, fun h hm hf => ⟨?_, ?_⟩⟩
    · exact vfp1_completes h hm hf
    · exact vfp1_completes h hm hf
    · exact vfp1_completes h hm hf
    · exact vfp2_completes h hm hf
    · exact vfp2_completes h hm hf
    · exact vfp2_completes h hm hf
    · exact vfp2_completes h hm hf
    · exact vfp2_completes h hm hf
    · exact vfp2_completes h hm hf
    · exact vfp3_completes h hm hf
    · exact vfp3_completes h hm hf
  case signs =>
    intro s d a b p rm g
    unfold exec
    dsimp only
    refine ⟨fun h hm hf => ⟨?_, ?_⟩, fun h hm hf => ?_, fun h hm hf => ?_⟩
    · exact vsign_completes h hm hf fun k => signElement_one ..
    · exact vsign_completes h hm hf fun k => signElement_one ..
    · exact vsign_completes h hm hf fun _ => rfl
    · rw [vfclass_eq]
      exact checked_completes h hm (classFmt_lt _) (by simp [hf]) rfl (fun _ => rfl) (sameEvents_refl _)
  case traps =>
    intro s d a b p rm x hr hq
    unfold exec
    dsimp only
    refine ⟨fun h => ?_, fun h => ?_, fun h => ?_, fun h => ?_⟩
    · refine ⟨vfp1_traps hr hq ?_ h, vfp1_traps hr hq ?_ h, vfp1_traps hr hq ?_ h, vsign_traps hr hq ?_ h, vsign_traps hr hq ?_ h⟩ <;>
        exact (cuttable_one_rounded rfl).trans rfl
    · rw [vfclass_eq]
      exact checked_traps hr hq ((cuttable_one_rounded rfl).trans rfl) Iff.rfl rfl h
    · refine ⟨vfp2_traps hr hq ?_ h, vfp2_traps hr hq ?_ h, vfp2_traps hr hq ?_ h, vfp2_traps hr hq ?_ h, vfp2_traps hr hq ?_ h,
        vfp2_traps hr hq ?_ h, vsign_traps hr hq ?_ h⟩ <;>
        exact (cuttable_two_rounded rfl).trans rfl
    · refine ⟨vfp3_traps hr hq ?_ h, vfp3_traps hr hq ?_ h⟩ <;> exact (cuttable_two_rounded rfl).trans rfl

end Sys2Proof.Proofs
end

/-! ## Conversions (R160, R168–R171) -/
section
namespace Sys2Proof.Proofs

open Sys2Proof.Machine Sys2Proof.Laws

variable {s : State} {d a b p : Reg} {rm : BitVec 2} {srcs : List Reg} {g : Nat} {i : Instr} {x : Exec Unit}

/-! ### One destination -/

/-- The element of vcvt into format `fr`. -/
def cvtElement (fr : Fmt) (a : Reg) (rm : BitVec 2) (s : State) (k : Nat) : Nat × Events :=
  if fr.isInt then
    if (tagFmt (s.tag a)).isInt then (intBits fr (s.intOperand a.toNat k), 0)
    else valToInt fr (s.rnd rm k) (s.sourceVal a.toNat k (s.rnd rm k).fz)
  else roundVal fr (s.rnd rm k) (s.sourceVal a.toNat k (s.rnd rm k).fz)

theorem vcvt_eq (d a p : Reg) (rm : BitVec 2) (s : State) : execVcvt d a p rm s = vinsn 0 (.vcvt d a p rm)
    (checked [a] (fun t => t.regs.fmt.isBlock = true) (some a) none none
      (fun t => elementwise d p t.regs.fmt [a] (cvtElement t.regs.fmt a rm))) s := by
  rw [checked_one]
  rfl

theorem vdqbx_eq (d a p : Reg) (s : State) : execVdqbx d a p s = vinsn 0 (.vdqbx d a p)
    (checked [a] (fun t => (tagFmt (t.tag a)).isBlock = false) (some a) none none
      (fun _ => elementwise d p 6 [a] (fun s k => ((roundVal 6 rndRNE (s.elemVal a.toNat k)).1, 0)))) s := by
  rw [checked_one]
  rfl

/-- The element of vnsat in format `fr`. -/
def nsatElement (fr : Fmt) (a : Reg) (s : State) (k : Nat) : Nat × Events :=
  (intBits fr (clampInt fr (s.intOperand a.toNat k)).1, (clampInt fr (s.intOperand a.toNat k)).2)

theorem vnsat_eq (d a p : Reg) (s : State) : execVnsat d a p s = vinsn 0 (.vnsat d a p)
    (checked [a] (fun t => (tagFmt (t.tag a)).isInt = false ∨ t.regs.fmt.isInt = false ∨ (tagFmt (t.tag a)).bits < t.regs.fmt.bits)
      (some a) none none (fun t => elementwise d p t.regs.fmt [a] (nsatElement t.regs.fmt a))) s := by
  rw [checked_one]
  rfl

theorem nsatElement_eq (fr : Fmt) (a : Reg) (s : State) (k : Nat) : nsatElement fr a s k =
    (intBits fr (clamped fr (s.intOperand a.toNat k)), if clamped fr (s.intOperand a.toNat k) = s.intOperand a.toNat k then 0 else 4) := by
  simp only [nsatElement, clampInt_eq, bne_iff_ne, ne_eq, ite_not]

/-- The formats that vnsat refuses are those that the statement of its trap does. -/
theorem nsat_legal (f fr : Fmt) : (f.isInt = false ∨ fr.isInt = false ∨ f.bits < fr.bits) ↔
    (f.isInt && fr.isInt && decide (fr.bits ≤ f.bits)) = false := by
  cases f.isInt <;> cases fr.isInt <;> simp

/-! ### Two destinations: the checks of vcvtef (R112, R160, R162, R169) -/

variable {fr fs : Fmt} {h : Nat}

theorem needGroup_none (hn : s.regs.destGroup fr = none) : needGroup fr s = (trap 0x42 : Exec Nat) s := by
  refine (exec_bind_ok (exec_getRegs s)).trans ?_
  rw [hn]

theorem checkAlign_ok (hd : d.toNat % g = 0) : checkAlign d fr g s = .ok () s := by
  rw [checkAlign, if_neg (not_not_intro hd)]
  rfl

theorem checkAlign_trap (hd : d.toNat % g ≠ 0) :
    checkAlign d fr g s = (trap 0x41 (some (d.setWidth 64)) ((mkTag fr g).setWidth 64) : Exec Unit) s := by
  rw [checkAlign, if_pos hd]

/-- What vcvtef does once its source and its formats have been checked. -/
def efChecks (d a b : Reg) (fr fs : Fmt) (rest : Nat → Nat → Exec Unit) : Exec Unit := do
  let g ← needGroup fr
  let h ← needGroup fs
  checkAlign d fr g
  checkAlign b fs h
  checkRestart d fr g [a]
  checkRestart b fs h [a]
  rest g h

theorem destTrap_two (hg : s.regs.destGroup fr = some g) (hh : s.regs.destGroup fs = some h) :
    destTrap s false srcs [(d, fr), (b, fs)] =
      if d.toNat % g ≠ 0 then some (trap 0x41 (some (d.setWidth 64)) ((mkTag fr g).setWidth 64))
      else if b.toNat % h ≠ 0 then some (trap 0x41 (some (b.setWidth 64)) ((mkTag fs h).setWidth 64))
      else if s.regs.start ≠ 0 ∧ (srcs.any (s.overlaps d fr g) || srcs.any (s.overlaps b fs h)) = true then
        some (trap 0x49 (some s.regs.vstart))
      else none := by
  unfold destTrap
  by_cases hd : d.toNat % g = 0 <;> by_cases hb : b.toNat % h = 0 <;> simp [hg, hh, hd, hb]

theorem efChecks_trap {rest : Nat → Nat → Exec Unit} (hx : destTrap s false [a] [(d, fr), (b, fs)] = some x) :
    efChecks d a b fr fs rest s = x s := by
  cases hg : s.regs.destGroup fr with
  | none =>
    obtain rfl : trap 0x42 = x := by simpa [destTrap, hg] using hx
    exact exec_bind_error (needGroup_none hg)
  | some g =>
    refine (exec_bind_ok (needGroup_ok hg)).trans ?_
    cases hh : s.regs.destGroup fs with
    | none =>
      obtain rfl : trap 0x42 = x := by simpa [destTrap, hh] using hx
      exact exec_bind_error (needGroup_none hh)
    | some h =>
      rw [destTrap_two hg hh] at hx
      refine (exec_bind_ok (needGroup_ok hh)).trans ?_
      split at hx
      · rename_i hd
        obtain rfl := Option.some.inj hx
        exact exec_bind_error (checkAlign_trap hd)
      · rename_i hd
        refine (exec_bind_ok (checkAlign_ok (not_not.mp hd))).trans ?_
        split at hx
        · rename_i hb
          obtain rfl := Option.some.inj hx
          exact exec_bind_error (checkAlign_trap hb)
        · rename_i hb
          refine (exec_bind_ok (checkAlign_ok (not_not.mp hb))).trans ?_
          split at hx
          · rename_i hv
            obtain rfl := Option.some.inj hx
            cases hd : [a].any (s.overlaps d fr g) with
            | true => exact exec_bind_error (checkRestart_trap hv.1 hd)
            | false =>
              refine (exec_bind_ok (checkRestart_apart hd)).trans (exec_bind_error (checkRestart_trap hv.1 ?_))
              simpa only [hd, Bool.false_or] using hv.2
          · exact nomatch hx

/-- A conversion with its residual whose two groups are ready passes all its checks. -/
theorem efChecks_ok {rest : Nat → Nat → Exec Unit} {lo hi : Nat} (hd : VectorReady s d [a] fr g lo hi) (hb : VectorReady s b [a] fs h lo hi)
    (hmd : mayRestart s d [a] fr g) (hmb : mayRestart s b [a] fs h) : efChecks d a b fr fs rest s = rest g h s :=
  (exec_bind_ok (needGroup_ok hd.group)).trans ((exec_bind_ok (needGroup_ok hb.group)).trans
    ((exec_bind_ok (checkAlign_ok hd.dest)).trans ((exec_bind_ok (checkAlign_ok hb.dest)).trans
      ((exec_bind_ok (checkRestart_ok hd.uncut hmd)).trans (exec_bind_ok (checkRestart_ok hb.uncut hmb))))))

/-! ### What vcvtef writes (R169) -/

/-- Of an element its number, its conversion into format `fr` with its events, and the residual in the source's format `fs`. -/
def efElement (s : State) (a : Reg) (fr fs : Fmt) (rm : BitVec 2) (k : Nat) : Nat × Nat × Events × Nat :=
  let x := s.sourceVal a.toNat k (s.rnd rm k).fz
  let y := roundVal fr (s.rnd rm k) x
  (k, y.1, y.2, residual fs fr (s.rnd rm k).fz x y.1)

/-- The two groups written: first the conversions at `d`, then the residuals at `b`, with the elements of the strip below VSTART kept. -/
def efWrite (d b p : Reg) (fr fs : Fmt) (rs : State → List (Nat × Nat × Events × Nat)) (g h : Nat) : Exec Unit := do
  let s ← get
  takeRowsTwo d.toNat fr g b.toNat fs h s.regs.start s.regs.len
  writeGroup d.toNat fr g s.regs.start s.regs.len ((rs s).map (fun e => (e.1, e.2.1)))
  modify (fun t => (t.mapRows b.toNat fs h s.regs.start s.regs.len).remap s b.toNat fs h s.regs.start)
  writeGroup b.toNat fs h s.regs.start s.regs.len (s.rawBelow p b.toNat fs s.regs.start ++ (rs s).map (fun e => (e.1, e.2.2.2)))
  flags ((rs s).map (fun e => (e.1, e.2.2.1)))
  endStrip

/-- What vcvtef does once its source's number and its formats have passed. -/
def efBody (d a b p : Reg) (rm : BitVec 2) (s : State) : Exec Unit :=
  efChecks d a b s.regs.fmt (tagFmt (s.tag a)) (efWrite d b p s.regs.fmt (tagFmt (s.tag a))
    (fun t => (t.stripElems p).map (efElement t a s.regs.fmt (tagFmt (s.tag a)) rm)))

theorem vcvtef_eq (d a b p : Reg) (rm : BitVec 2) (s : State) : execVcvtef d a b p rm s = vinsn 0 (.vcvtef d a b p rm)
    (checked [a] (fun t => (tagFmt (t.tag a)).isFloat = false ∨ t.regs.fmt.isFloat = false) (some a) none none
      (efBody d a b p rm)) s := by
  rw [checked_one]
  rfl

/-- A member with the rows mapped that another register maps of its elements below `n` (R169). -/
def withRowsOf (old : VReg) (f : Fmt) (j n : Nat) (r : VReg) : VReg := { r with rows := r.rows ||| (old.rows &&& memberRows f j 0 n) }

theorem remap_members (s old : State) (b : Nat) (f : Fmt) (h n : Nat) : vectorsOnly s (s.remap old b f h n) ∧
    ∀ m, (s.remap old b f h n).v m = if b ≤ m ∧ m < b + h ∧ m < 32 then withRowsOf (old.v (b + (m - b))) f (m - b) n (s.v m) else s.v m := by
  refine foldl_members (h := fun j => withRowsOf (old.v (b + j)) f j n) (fun u j _ => ⟨setV_vectorsOnly _ _ _, fun m => ?_⟩) h
  rw [v_setV]
  split
  · rename_i hm
    rw [hm.1]
    rfl
  · rfl

/-- Rows that are mapped need not be taken again. -/
theorem withRows_again (old r : VReg) (f : Fmt) (j lo hi : Nat) :
    withRows f j lo hi (withRowsOf old f j lo (withRows f j lo hi r)) = withRowsOf old f j lo (withRows f j lo hi r) := by
  simp only [withRows, withRowsOf, VReg.mk.injEq, true_and]
  refine ⟨?_, by cases r.scaleRow <;> simp⟩
  ext k
  simp only [BitVec.getElem_or, BitVec.getElem_and]
  cases (memberRows f j lo hi)[k] <;> simp

/-- A register's own rows are mapped already. -/
theorem withRowsOf_self (r : VReg) (f : Fmt) (j lo hi : Nat) :
    withRowsOf r f j lo (withRows f j lo hi (withRows f j lo hi r)) = withRows f j lo hi r := by
  simp only [withRows, withRowsOf, VReg.mk.injEq, true_and]
  refine ⟨?_, by cases r.scaleRow <;> simp⟩
  ext k
  simp only [BitVec.getElem_or, BitVec.getElem_and]
  cases r.rows[k] <;> simp

/-- A field set to what stands there. -/
theorem putField_field {n : Nat} (x : BitVec n) (lo len : Nat) : putField x lo len (field x lo len) = x := by
  refine BitVec.eq_of_getLsbD_eq fun i hi => ?_
  rw [getLsbD_putField]
  split
  · rename_i h
    rw [testBit_field, decide_eq_true (by omega), Bool.true_and, Nat.add_sub_cancel' h.2.1]
  · rfl

/-- Elements set to what stands there. -/
theorem setElems_own {img : BitVec 4096} {w : Nat} {xs : List (Nat × Nat)} (hx : ∀ e ∈ xs, e.2 = field img (e.1 * w) w) :
    setElems img w xs = img := by
  unfold setElems
  induction xs with
  | nil => rfl
  | cons e xs ih =>
    obtain ⟨he, hxs⟩ := List.forall_mem_cons.mp hx
    have hput : putField img (e.1 * w) w e.2 = img := by rw [he, putField_field]
    exact (congrArg (List.foldl _ · xs) hput).trans (ih hxs)

/-- Elements of a strip set to what they hold leave a member as it would be without them. -/
theorem writeMember_rawBelow (s : State) (p : Reg) (b : Nat) (f : Fmt) (h j n len tail : Nat) (r : VReg) (zs : List (Nat × Nat))
    (hr : r.image = (s.v (b + j)).image) :
    writeMember r f h j len tail (s.rawBelow p b f n ++ zs) = writeMember r f h j len tail zs := by
  have hown : setElems r.image f.bits (memberElems f j (s.rawBelow p b f n)) = r.image := by
    refine setElems_own fun e he => ?_
    simp only [memberElems, State.rawBelow, List.mem_filterMap, List.mem_map, Option.ite_none_right_eq_some, Option.some.injEq] at he
    obtain ⟨_, ⟨k, -, rfl⟩, rfl, rfl⟩ := he
    rw [hr]
  have hset : setElems r.image f.bits (memberElems f j (s.rawBelow p b f n ++ zs)) = setElems r.image f.bits (memberElems f j zs) := by
    rw [memberElems, List.filterMap_append, setElems, List.foldl_append]
    exact congrArg (fun img => setElems img f.bits (memberElems f j zs)) hown
  unfold memberElems at hset
  simp only [writeMember, hset]

/-- R115: with rows for both groups, one request takes them. -/
theorem takeRowsTwo_ok {d b lo hi : Nat} (hrows : s.rowsWanted d fr g lo hi + (s.mapRows d fr g lo hi).rowsWanted b fs h lo hi ≤ s.rowsFree) :
    ∃ t u : State, takeRowsTwo d fr g b fs h lo hi s = .ok () u ∧ vectorsOnly s u ∧
      (∀ n, t.v n = if d ≤ n ∧ n < d + g ∧ n < 32 then withRows fr (n - d) lo hi (s.v n) else s.v n) ∧
      ∀ n, u.v n = if b ≤ n ∧ n < b + h ∧ n < 32 then withRows fs (n - b) lo hi (t.v n) else t.v n := by
  let s0 : State := { s with cur := { s.cur with stall := none } }
  have hneed : needRows (s.rowsWanted d fr g lo hi + (s.mapRows d fr g lo hi).rowsWanted b fs h lo hi) s = .ok () s0 := by
    refine (exec_bind_ok (exec_get s)).trans ?_
    rw [if_neg (fun hlt => Nat.not_lt.mpr hrows hlt.2)]
    rfl
  obtain ⟨f1, v1⟩ := mapRows_members s0 d fr g lo hi
  obtain ⟨f2, v2⟩ := mapRows_members (s0.mapRows d fr g lo hi) b fs h lo hi
  exact ⟨_, _, (exec_bind_ok (exec_get s)).trans (exec_bind_ok hneed),
    vectorsOnly_trans (t := s0) rfl (vectorsOnly_trans f1 f2), v1, v2⟩

/-- With rows for both groups in one request, the two are written one after the other: where they lie apart each as if alone, and
the residual's in any case from whatever its registers held. -/
theorem efWrite_ok {rs : State → List (Nat × Nat × Events × Nat)}
    (hd : VectorReady s d [a] fr g s.regs.start s.regs.len) (hb : VectorReady s b [a] fs h s.regs.start s.regs.len)
    (hrows : s.rowsWanted d.toNat fr g s.regs.start s.regs.len +
      (s.mapRows d.toNat fr g s.regs.start s.regs.len).rowsWanted b.toNat fs h s.regs.start s.regs.len ≤ s.rowsFree) :
    ∃ u t w, efWrite d b p fr fs rs g h s = .ok () (w.setRegs { w.regs with vstart := 0 }) ∧ vectorsOnly s t ∧ flagsOnly t w ∧
      eventsRaised t w ((rs s).map (fun e => (e.1, e.2.2.1))) ∧ u.regs.tail = s.regs.tail ∧
      membersWritten u t b.toNat fs h s.regs.start s.regs.len
        (s.rawBelow p b.toNat fs s.regs.start ++ (rs s).map (fun e => (e.1, e.2.2.2))) ∧
      (d.toNat + g ≤ b.toNat ∨ b.toNat + h ≤ d.toNat →
        membersWritten s t d.toNat fr g s.regs.start s.regs.len ((rs s).map (fun e => (e.1, e.2.1))) ∧
        membersWritten s t b.toNat fs h s.regs.start s.regs.len ((rs s).map (fun e => (e.1, e.2.2.2)))) ∧
      ∀ n, ¬(d.toNat ≤ n ∧ n < d.toNat + g) → ¬(b.toNat ≤ n ∧ n < b.toNat + h) → t.v n = s.v n := by
  obtain ⟨s1, s2, hrun2, f2, v1, v2⟩ := takeRowsTwo_ok hrows
  obtain ⟨s3, hrun3, f3, v3⟩ := writeGroup_ok ((vectorsOnly_cut f2).trans hd.uncut) d.toNat fr g s.regs.start s.regs.len
    ((rs s).map (fun e => (e.1, e.2.1)))
  obtain ⟨f4, v4⟩ := mapRows_members s3 b.toNat fs h s.regs.start s.regs.len
  obtain ⟨f5, v5⟩ := remap_members (s3.mapRows b.toNat fs h s.regs.start s.regs.len) s b.toNat fs h s.regs.start
  obtain ⟨u, hu⟩ : ∃ u, u = (s3.mapRows b.toNat fs h s.regs.start s.regs.len).remap s b.toNat fs h s.regs.start := ⟨_, rfl⟩
  rw [← hu] at f5 v5
  have fu : vectorsOnly s u := vectorsOnly_trans f2 (vectorsOnly_trans f3 (vectorsOnly_trans f4 f5))
  obtain ⟨t, hrun6, f6, v6⟩ := writeGroup_ok ((vectorsOnly_cut fu).trans hd.uncut) b.toNat fs h s.regs.start s.regs.len
    (s.rawBelow p b.toNat fs s.regs.start ++ (rs s).map (fun e => (e.1, e.2.2.2)))
  obtain ⟨w, hrun7, f7, he⟩ := flags_ok (s := t) ((rs s).map (fun e => (e.1, e.2.2.1)))
  have ft : vectorsOnly s t := vectorsOnly_trans fu f6
  have hcut : w.cur.cut = none := by rw [f7]; exact (vectorsOnly_cut ft).trans hd.uncut
  rw [vectorsOnly_tail f2] at v3
  rw [vectorsOnly_tail fu] at v6
  have hbm {j : Nat} (hj : j < h) : b.toNat ≤ b.toNat + j ∧ b.toNat + j < b.toNat + h ∧ b.toNat + j < 32 :=
    ⟨Nat.le_add_right .., Nat.add_lt_add_left hj _, member_lt (destGroup_cases hb.group) hb.dest hj⟩
  have hdm {j : Nat} (hj : j < g) : d.toNat ≤ d.toNat + j ∧ d.toNat + j < d.toNat + g ∧ d.toNat + j < 32 :=
    ⟨Nat.le_add_right .., Nat.add_lt_add_left hj _, member_lt (destGroup_cases hd.group) hd.dest hj⟩
  refine ⟨u, t, w, ?run, ft, f7, he, vectorsOnly_tail fu, ?residual, fun hapart => ⟨?own, ?ownResidual⟩, ?others⟩
  case run =>
    refine (exec_bind_ok (exec_get s)).trans ((exec_bind_ok hrun2).trans ((exec_bind_ok hrun3).trans ((exec_bind_ok
      (exec_modify _ s3)).trans ?_)))
    rw [← hu]
    exact (exec_bind_ok hrun6).trans ((exec_bind_ok hrun7).trans (endStrip_ok hcut))
  case residual =>
    intro j hj
    refine ⟨(t.v (b.toNat + j)).scale, ?_⟩
    have hrow : withRows fs j s.regs.start s.regs.len (u.v (b.toNat + j)) = u.v (b.toNat + j) := by
      rw [v5, if_pos (hbm hj), v4, if_pos (hbm hj), Nat.add_sub_cancel_left, withRows_again]
    rw [memberAfter, hrow, vectorsOnly_tail fu, v6, if_pos (hbm hj), Nat.add_sub_cancel_left]
  case own =>
    intro j hj
    have hout : ¬(b.toNat ≤ d.toNat + j ∧ d.toNat + j < b.toNat + h ∧ d.toNat + j < 32) := by omega
    refine ⟨(t.v (d.toNat + j)).scale, ?_⟩
    rw [v6, if_neg hout, v5, if_neg hout, v4, if_neg hout, v3, if_pos (hdm hj), v2, if_neg hout, v1, if_pos (hdm hj),
      Nat.add_sub_cancel_left]
    rfl
  case ownResidual =>
    intro j hj
    have hout : ¬(d.toNat ≤ b.toNat + j ∧ b.toNat + j < d.toNat + g ∧ b.toNat + j < 32) := by omega
    have hrow : u.v (b.toNat + j) = withRows fs j s.regs.start s.regs.len (s.v (b.toNat + j)) := by
      rw [v5, if_pos (hbm hj), v4, if_pos (hbm hj), v3, if_neg hout, v2, if_pos (hbm hj), v1, if_neg hout,
        Nat.add_sub_cancel_left, withRowsOf_self]
    refine ⟨(t.v (b.toNat + j)).scale, ?_⟩
    rw [v6, if_pos (hbm hj), hrow, Nat.add_sub_cancel_left,
      writeMember_rawBelow (r := withRows fs j s.regs.start s.regs.len (s.v (b.toNat + j))) (hr := rfl)]
    rfl
  case others =>
    intro n hnd hnb
    have hd' : ¬(d.toNat ≤ n ∧ n < d.toNat + g ∧ n < 32) := fun hn => hnd ⟨hn.1, hn.2.1⟩
    have hb' : ¬(b.toNat ≤ n ∧ n < b.toNat + h ∧ n < 32) := fun hn => hnb ⟨hn.1, hn.2.1⟩
    rw [v6, if_neg hb', v5, if_neg hb', v4, if_neg hb', v3, if_neg hd', v2, if_neg hb', v1, if_neg hd']

/-- The descriptors of a group that has been written (R111). -/
theorem descriptors_of_members {s t : State} {d g lo len : Nat} {f : Fmt} {xs : List (Nat × Nat)} (h : membersWritten s t d f g lo len xs)
    {j : Nat} (hj : j < g) : (t.v (d + j)).tag = mkTag f g ∧ (t.v (d + j)).tail = BitVec.ofNat 2 s.regs.tail ∧
      (t.v (d + j)).wlen.toNat = min (len - j * capacity f) (capacity f) := by
  obtain ⟨x, hx⟩ := h j hj
  rw [hx]
  exact ⟨rfl, rfl, memberAfter_wlen s d f g lo len xs j⟩

/-- The residuals stand, whatever the registers held before they were written. -/
theorem residual_elem {s u t : State} {g b lo len k y : Nat} {f : Fmt} {zs : List (Nat × Nat)}
    (h : membersWritten u t b f g lo len (s.rawBelow p b f lo ++ zs)) (hf : f < 16) (hg : g = 1 ∨ g = 2 ∨ g = 4 ∨ g = 8)
    (hn : zs.Pairwise (fun a b => a.1 < b.1)) (hlo : ∀ e ∈ zs, lo ≤ e.1) (hlen : k < len) (hcap : k < g * capacity f) (hk : (k, y) ∈ zs) :
    t.elem b k = y % 2 ^ f.bits := by
  have hdistinct : (s.rawBelow p b f lo ++ zs).Pairwise (fun a b => a.1 ≠ b.1) := by
    refine List.pairwise_append.mpr ⟨?_, hn.imp Nat.ne_of_lt, fun e he e' he' => ?_⟩
    · exact List.pairwise_map.mpr (((List.pairwise_lt_range.filter _).filter _).imp Nat.ne_of_lt)
    · obtain ⟨j, hj, rfl⟩ := List.mem_map.mp he
      exact Nat.ne_of_lt (Nat.lt_of_lt_of_le (of_decide_eq_true (List.mem_filter.mp hj).2) (hlo e' he'))
  obtain ⟨hrow, hval⟩ := memberAfter_listed (s := u) (d := b) (f := f) (g := g) (List.mem_append_right _ hk) hdistinct (hlo _ hk) hlen
  exact (elem_of_members h hf hg hcap hlen hrow).trans hval

/-! ### The statement -/

/-- A conversion with its residual completes (R160, R169). -/
theorem vcvtef_completes (hfr : s.regs.fmt = fr) (hfs : tagFmt (s.tag a) = fs)
    (hd : VectorReady s d [a] fr g s.regs.start s.regs.len)
    (hb : VectorReady s b [a] fs h s.regs.start s.regs.len) (hmd : mayRestart s d [a] fr g)
    (hmb : mayRestart s b [a] fs h) (hs : fs.isFloat = true) (hr : fr.isFloat = true)
    (hrows : s.rowsWanted d.toNat fr g s.regs.start s.regs.len +
      (s.mapRows d.toNat fr g s.regs.start s.regs.len).rowsWanted b.toNat fs h s.regs.start s.regs.len ≤ s.rowsFree) :
    ∃ t, execVcvtef d a b p rm s = .next t ∧ vectorFrame s t ∧ t.regs.start = 0 ∧ t.cur.p = s.cur.p ∧
      (∀ k ∈ s.actives p, k < h * capacity fs → t.elem b.toNat k = (efElement s a fr fs rm k).2.2.2 % 2 ^ fs.bits) ∧
      (∀ j, j < h → (t.v (b.toNat + j)).tag = mkTag fs h ∧ (t.v (b.toNat + j)).tail = BitVec.ofNat 2 s.regs.tail ∧
        (t.v (b.toNat + j)).wlen.toNat = min (s.regs.len - j * capacity fs) (capacity fs)) ∧
      (d.toNat + g ≤ b.toNat ∨ b.toNat + h ≤ d.toNat →
        groupHolds s t d.toNat fr g s.regs.len ((s.actives p).map (fun k => (k, (efElement s a fr fs rm k).2.1))) ∧
        rowsWritten s t d.toNat fr g s.regs.start s.regs.len s.regs.len ∧
        groupHolds s t b.toNat fs h s.regs.len ((s.actives p).map (fun k => (k, (efElement s a fr fs rm k).2.2.2))) ∧
        rowsWritten s t b.toNat fs h s.regs.start s.regs.len s.regs.len) ∧
      eventsRaised s t ((s.actives p).map (fun k => (k, (efElement s a fr fs rm k).2.2.1))) ∧
      ∀ n, ¬(d.toNat ≤ n ∧ n < d.toNat + g) → ¬(b.toNat ≤ n ∧ n < b.toNat + h) → t.v n = s.v n := by
  have hf : fr < 16 := hfr ▸ fmt_lt s.regs
  have hf' : fs < 16 := hfs ▸ tagFmt_lt (s.tag a)
  obtain ⟨u, t, w, hrun, ft, fw, he, hu, hres, hapart, hother⟩ := efWrite_ok (p := p)
    (rs := fun t => (t.stripElems p).map (efElement t a fr fs rm)) hd hb hrows
  simp only [stripElems_uncut hd.uncut, List.map_map, Function.comp_def] at he hres hapart
  have hbody : checked [a] (fun t => (tagFmt (t.tag a)).isFloat = false ∨ t.regs.fmt.isFloat = false) (some a) none none
      (efBody d a b p rm) s = .ok () (w.setRegs { w.regs with vstart := 0 }) := by
    refine (checked_ok hd.sources (by simp [hfs, hfr, hs, hr])).trans ?_
    rw [efBody, hfs, hfr]
    exact (efChecks_ok hd hb hmd hmb).trans hrun
  obtain ⟨t', ht, hframe, -, hv, hp, hregs⟩ := vinsn_ends (pipe := 0) (i := .vcvtef d a b p rm) hd.runs hd.room hd.uncut hbody
    (bodyFrame_trans (bodyFrame_of_vectorsOnly ft) (bodyFrame_trans (bodyFrame_of_flagsOnly fw) (bodyFrame_vstart w 0)))
  have hvt : ∀ n, t'.v n = t.v n := fun n => by
    rw [State.v, hv, fw]
    rfl
  have hup {s0 : State} {e g0 lo len : Nat} {f0 : Fmt} {xs : List (Nat × Nat)} (hm : membersWritten s0 t e f0 g0 lo len xs) :
      membersWritten s0 t' e f0 g0 lo len xs := fun j hj => by
    rw [hvt]
    exact hm j hj
  have hlt {f : Nat → Nat} : ((s.actives p).map (fun k => (k, f k))).Pairwise (fun a b => a.1 < b.1) :=
    List.pairwise_map.mpr (actives_pairwise s p)
  have hlo {f : Nat → Nat} : ∀ e ∈ (s.actives p).map (fun k => (k, f k)), s.regs.start ≤ e.1 := fun e hmem => by
    obtain ⟨k, hk, rfl⟩ := List.mem_map.mp hmem
    exact (mem_actives hk).1
  refine ⟨t', (vcvtef_eq d a b p rm s).trans ht, hframe, start_ends hregs, hp.trans (by rw [fw, ft]; rfl), fun k hk hcap => ?_, fun j hj => ?_,
    fun hap => ?_, eventsRaised_ends hregs ?_, fun n hn hn' => (hvt n).trans (hother n hn hn')⟩
  · exact residual_elem (hup hres) hf' (destGroup_cases hb.group) hlt hlo (mem_actives hk).2 hcap (List.mem_map_of_mem hk)
  · rw [← hu]
    exact descriptors_of_members (hup hres) hj
  · obtain ⟨hmd, hmb⟩ := hapart hap
    exact ⟨groupHolds_of_members (hup hmd) hf (destGroup_cases hd.group) (hlt.imp Nat.ne_of_lt) hlo, rowsWritten_of_members (hup hmd),
      groupHolds_of_members (hup hmb) hf' (destGroup_cases hb.group) (hlt.imp Nat.ne_of_lt) hlo, rowsWritten_of_members (hup hmb)⟩
  · have hq : eventsRaised s t [] := eventsRaised_nil (by rw [ft]; rfl)
    exact eventsRaised_append hq he

/-- Settles O20: the conversions of one destination are elementwise forms that pass or fail R160's checks; vcvtef's two groups are written
one after the other, so that each stands where they lie apart and the residual's where they overlap. -/
theorem vectorConversions : Obligations.VectorConversions := by
  refine ⟨?simple, ?residual, ?traps⟩
  case simple =>
    intro s d a p rm g fs fr r clamp value completes
    refine ⟨fun h hm hl => ?_, fun h hm hl => ?_, fun h hm hs hr hle => ?_⟩ <;> unfold completes exec <;> dsimp only
    · rw [vcvt_eq]
      exact checked_completes h hm (fmt_lt _) (by simpa [fr] using hl) rfl (fun _ => rfl) (sameEvents_refl _)
    · rw [vdqbx_eq]
      exact checked_completes h hm (by decide) (by simpa [fs] using hl) rfl (fun k => rfl) (sameEvents_refl _)
    · rw [vnsat_eq]
      refine checked_completes h hm (fmt_lt _) (fun hbad => ?_) rfl (fun k => nsatElement_eq fr a s k) (sameEvents_refl _)
      exact absurd ((nsat_legal fs fr).mp hbad) (by simp [hs, hr, hle])
  case residual =>
    intro s d a b p rm g h fs fr r x y lo hi hd hb hmd hmb hs hr hrows
    have hx (k : Nat) : s.sourceVal a.toNat k (s.rnd rm k).fz = x k := if_pos hs
    obtain ⟨t, ht⟩ := vcvtef_completes (p := p) (rm := rm) rfl rfl hd hb hmd hmb hs hr hrows
    simp only [efElement, hx] at ht
    exact ⟨t, ht⟩
  case traps =>
    intro s d a b p rm x hrun hq fs fr traps
    refine ⟨fun h => ?_, fun h => ?_, fun h => ?_, fun h => ?_⟩ <;> unfold exec <;> dsimp only
    · rw [vcvt_eq]
      exact checked_traps hrun hq ((cuttable_one_rounded rfl).trans rfl) (by simp [fr]) rfl h
    · rw [vdqbx_eq]
      exact checked_traps hrun hq ((cuttable_one rfl).trans rfl) (by simp [fs]) rfl h
    · rw [vnsat_eq]
      exact checked_traps hrun hq ((cuttable_one rfl).trans rfl) (nsat_legal _ _) rfl h
    · rw [vcvtef_eq]
      exact vinsn_checkTrap hrun hq ((cuttable_two_rounded rfl).trans rfl) h
        (checked_trap h Bool.and_eq_false_iff.symm (fun _ => rfl) fun _ hd => efChecks_trap hd)

end Sys2Proof.Proofs
end

/-! ## Compares and predicate operations (R114, R119, R166, R167) -/
section
namespace Sys2Proof.Proofs

open Sys2Proof.Machine Sys2Proof.Laws

variable {s t u w : State} {d a b p : Reg} {pipe : Nat} {i : Instr} {body : Exec Unit} {es : List (Nat × Events)} {xs : List (Nat × Bool)}
  {len : Nat}

/-! ### A predicate written -/

/-- The bits of a predicate with those listed set. -/
def bitsSet (m : BitVec 1024) (xs : List (Nat × Bool)) : BitVec 1024 :=
  xs.foldl (fun m (i, b) => putField m i 1 (if b then 1 else 0)) m

theorem getLsbD_bitsSet_other {k : Nat} (h : ∀ e ∈ xs, e.1 ≠ k) (m : BitVec 1024) : (bitsSet m xs).getLsbD k = m.getLsbD k := by
  induction xs generalizing m with
  | nil => rfl
  | cons e xs ih =>
    obtain ⟨he, hxs⟩ := List.forall_mem_cons.mp h
    refine (ih hxs _).trans ?_
    rw [getLsbD_putField, if_neg (by omega)]

theorem getLsbD_bitsSet_mem {e : Nat × Bool} (he : e ∈ xs) (hn : xs.Pairwise (fun a b => a.1 ≠ b.1)) (hk : e.1 < 1024) (m : BitVec 1024) :
    (bitsSet m xs).getLsbD e.1 = e.2 := by
  induction xs generalizing m with
  | nil => exact absurd he List.not_mem_nil
  | cons e' xs ih =>
    obtain ⟨hhead, htail⟩ := List.pairwise_cons.mp hn
    rcases List.mem_cons.mp he with rfl | he
    · refine (getLsbD_bitsSet_other (fun e' h => (hhead e' h).symm) _).trans ?_
      rw [getLsbD_putField, if_pos (by omega), Nat.sub_self]
      cases e.2 <;> rfl
    · exact ih he htail _

/-- The bits of a predicate after the tail of a length: those from it on are 0 but under tail 00. -/
def bitsTrimmed (m : BitVec 1024) (tail len : Nat) : BitVec 1024 := if tail = 0 then m else m &&& BitVec.ofNat 1024 (2 ^ len - 1)

theorem getLsbD_bitsTrimmed (m : BitVec 1024) (tail len k : Nat) :
    (bitsTrimmed m tail len).getLsbD k = (m.getLsbD k && (decide (k < len) || tail == 0)) := by
  unfold bitsTrimmed
  split
  · rename_i h
    simp [h]
  · rename_i h
    rw [getLsbD_and_lowMask, beq_eq_false_iff_ne.mpr h, Bool.or_false]

theorem p_set (s : State) (d n : Reg) (x : BitVec 1024) :
    ({ s with cur := { s.cur with p := s.cur.p.set d.toNat x d.isLt } } : State).p n = if n = d ∧ n ≠ 0 then x else s.p n := by
  by_cases h0 : n = 0
  · exact (if_pos h0).trans ((if_pos h0).symm.trans (if_neg fun h => h.2 h0).symm)
  · refine (if_neg h0).trans ?_
    by_cases hd : n = d
    · subst hd
      exact (Vector.getElem_set_self _).trans (if_pos ⟨rfl, h0⟩).symm
    · have hne : d.toNat ≠ n.toNat := fun h => hd (BitVec.eq_of_toNat_eq h.symm)
      exact (Vector.getElem_set_ne d.isLt _ hne).trans ((if_neg h0).symm.trans (if_neg fun h => hd h.1).symm)

/-- Predicate `d` is written with the bits `xs` and a length, and no other (R114, R119). -/
def predicateWritten (s t : State) (d : Reg) (len : Nat) (xs : List (Nat × Bool)) : Prop :=
  (∀ n : Reg, n ≠ d ∨ n = 0 → t.p n = s.p n) ∧ (d ≠ 0 → t.p d = bitsTrimmed (bitsSet (s.p d) xs) s.regs.tail len)

theorem writePred_ok (hc : s.cur.cut = none) (d : Reg) (len : Nat) (xs : List (Nat × Bool)) :
    ∃ t, writePred d len xs s = .ok () t ∧ bodyFrame s t ∧ t.cur.v = s.cur.v ∧ t.regs = { s.regs with vdirty := t.regs.vdirty } ∧
      predicateWritten s t d len xs := by
  refine ⟨_, exec_modify _ s, ?_⟩
  by_cases hd : d = 0
  · rw [if_pos hd]
    exact ⟨rfl, rfl, rfl, fun _ _ => rfl, fun h => absurd hd h⟩
  · rw [if_neg hd]
    refine ⟨rfl, rfl, rfl, fun n hn => ?_, fun _ => ?_⟩
    · exact (p_set s d n _).trans (if_neg fun h => hn.elim (fun hne => hne h.1) h.2)
    · refine (p_set s d d _).trans ((if_pos ⟨rfl, hd⟩).trans ?_)
      simp only [cutAt_none hc, Option.isSome_none, Bool.false_eq_true, or_false]
      rfl

/-! ### The end of a form that writes a predicate -/

theorem bitsSet_map {ks : List Nat} {val : Nat → Bool} (h : ks.Pairwise (· < ·)) :
    (ks.map (fun k => (k, val k))).Pairwise (fun a b => a.1 ≠ b.1) := List.pairwise_map.mpr (h.imp Nat.ne_of_lt)

/-- A form that writes a predicate and raises events completes (R166, R167). -/
theorem predicate_completes (hr : s.runs .threadOnly) (hq : s.cur.vqueue.length < 32) (hc : s.cur.cut = none)
    (hn : xs.Pairwise (fun a b => a.1 ≠ b.1)) (hxs : ∀ e ∈ xs, e.1 < s.regs.len)
    (hb : body s = (do
      writePred d s.regs.len xs
      flags es
      endStrip) s) : predicateCompletes s (vinsn pipe i body s) d xs es := by
  obtain ⟨u, hu, fu, hv, hregs, hother, hd⟩ := writePred_ok hc d s.regs.len xs
  obtain ⟨w, hw, fw, he⟩ := flags_ok (s := u) es
  have hcut : w.cur.cut = none := by rw [fw, fu]; exact hc
  obtain ⟨t, ht, hframe, hpc, hv', hp', hregs'⟩ := vinsn_ends (pipe := pipe) (i := i) hr hq hc
    (hb.trans ((exec_bind_ok hu).trans ((exec_bind_ok hw).trans (endStrip_ok hcut))))
    (bodyFrame_trans fu (bodyFrame_trans (bodyFrame_of_flagsOnly fw) (bodyFrame_vstart w 0)))
  have hpt (n : Reg) : t.p n = u.p n := by
    rw [State.p, State.p, hp', fw]
    rfl
  refine ⟨t, ht, start_ends hregs', hpc, hframe, ?_, eventsRaised_ends hregs' ?_, fun n hn => (hpt n).trans (hother n hn), fun h0 => ?_⟩
  · rw [hv', fw]
    exact hv
  · exact eventsRaised_append (eventsRaised_nil (by rw [hregs]) : eventsRaised s u []) he
  · rw [hpt, hd h0]
    refine ⟨fun e hmem hlt h1024 => ?_, fun k hk hno => ?_, fun k hk => ?_⟩
    · rw [getLsbD_bitsTrimmed, getLsbD_bitsSet_mem hmem hn h1024, decide_eq_true hlt, Bool.true_or, Bool.and_true]
    · rw [getLsbD_bitsTrimmed, getLsbD_bitsSet_other hno, decide_eq_true hk, Bool.true_or, Bool.and_true]
    · have hno : ∀ e ∈ xs, e.1 ≠ k := fun e hmem => Nat.ne_of_lt (Nat.lt_of_lt_of_le (hxs e hmem) hk)
      rw [getLsbD_bitsTrimmed, getLsbD_bitsSet_other hno, decide_eq_false (Nat.not_lt.mpr hk), Bool.false_or]

/-! ### The forms -/

/-- A form that checks its sources alone. -/
theorem checked_sources {srcs : List Reg} {va vb vd : Option Reg} {next : State → Exec Unit} :
    checked srcs (fun _ => False) va vb vd next = (do
      each srcs checkSource
      let t ← get
      next t) := by
  simp only [checked, if_false]

theorem checked_two_sources {va vb vd : Option Reg} {next : State → Exec Unit} :
    checked [a, b] (fun _ => False) va vb vd next = (do
      checkSource a
      checkSource b
      let t ← get
      next t) := by
  simp only [checked_sources, each, bind_assoc, pure_bind]

/-- With no destination no check is left. -/
theorem destTrap_nil (s : State) (srcs : List Reg) : destTrap s false srcs [] = none := by simp [destTrap]

/-- The bit of a compare, and its events. -/
def cmpElement (a b : Reg) (ifNan : Bool × Events) (rel : Int → Bool) (s : State) (k : Nat) : Nat × Bool × Events :=
  if (s.opFmt [a, b]).isInt then
    (k, rel (if s.intOperand a.toNat k < s.intOperand b.toNat k then -1
      else if s.intOperand a.toNat k = s.intOperand b.toNat k then 0 else 1), 0)
  else
    let x := s.operand a.toNat k (s.rnd 0 k)
    let y := s.operand b.toNat k (s.rnd 0 k)
    if x.1.isNan || y.1.isNan then (k, ifNan.1, x.2 ||| y.2 ||| ifNan.2) else (k, rel (cmpVal x.1 y.1), x.2 ||| y.2)

theorem vcmp_eq (i : Instr) (d a b p : Reg) (ifNan : Bool × Events) (rel : Int → Bool) (s : State) :
    vcmp i d a b p ifNan rel s = vinsn 1 i (checked [a, b] (fun _ => False) none none none (fun s => do
      writePred d s.regs.len (((s.stripElems p).map (cmpElement a b ifNan rel s)).map (fun e => (e.1, e.2.1)))
      flags (((s.stripElems p).map (cmpElement a b ifNan rel s)).map (fun e => (e.1, e.2.2)))
      endStrip)) s := by
  rw [checked_two_sources]
  rfl

theorem vcmp_traps {ifNan : Bool × Events} {rel : Int → Bool} {x : Exec Unit} (hr : s.runs .threadOnly) (hq : s.cur.vqueue.length < 32)
    (hi : cuttable i = true) (h : s.checkTrap false [a, b] true 0 [] = some x) : vcmp i d a b p ifNan rel s = .next (settle i x s) := by
  rw [vcmp_eq]
  exact vinsn_checkTrap hr hq hi h (checked_trap h (by simp) (fun hl => nomatch hl) fun _ hd => by rw [destTrap_nil] at hd; exact nomatch hd)

/-- A compare completes with the bits and events of its active elements. -/
theorem vcmp_completes {ifNan : Bool × Events} {rel : Int → Bool} {val : Nat → Bool} {ev : Nat → Events}
    (hr : s.runs .threadOnly) (hq : s.cur.vqueue.length < 32) (hc : s.cur.cut = none)
    (ha : a.toNat % tagGroup (s.tag a) = 0) (hb : b.toNat % tagGroup (s.tag b) = 0)
    (hop : ∀ k, cmpElement a b ifNan rel s k = (k, val k, ev k)) :
    predicateCompletes s (vcmp i d a b p ifNan rel s) d ((s.actives p).map (fun k => (k, val k))) ((s.actives p).map (fun k => (k, ev k))) := by
  rw [vcmp_eq]
  refine predicate_completes hr hq hc (bitsSet_map (actives_pairwise s p)) (fun e he => ?_) ?_
  · obtain ⟨k, hk, rfl⟩ := List.mem_map.mp he
    exact (mem_actives hk).2
  · refine (checked_ok (by simp [ha, hb]) not_false).trans ?_
    simp only [stripElems_uncut hc, List.map_map, Function.comp_def, hop]

theorem vpop_completes {op : Bool → Bool → Bool} (hr : s.runs .threadOnly) (hq : s.cur.vqueue.length < 32) (hc : s.cur.cut = none) :
    predicateCompletes s (vpop i d a b p op s) d ((s.actives p).map (fun k => (k, op ((s.p a).getLsbD k) ((s.p b).getLsbD k)))) [] := by
  refine predicate_completes hr hq hc (bitsSet_map (actives_pairwise s p)) (fun e he => ?_) ?_
  · obtain ⟨k, hk, rfl⟩ := List.mem_map.mp he
    exact (mem_actives hk).2
  · refine (exec_bind_ok (exec_get s)).trans ?_
    rw [stripElems_uncut hc]
    rfl

/-- The bit and the events of a compare, told apart as the statement does. -/
theorem cmpElement_eq (a b : Reg) (ifNan : Bool × Events) (rel : Int → Bool) (s : State) (k : Nat) :
    cmpElement a b ifNan rel s k =
      (k,
        if (s.opFmt [a, b]).isInt = false ∧ ((s.operand a.toNat k (s.rnd 0 k)).1.isNan || (s.operand b.toNat k (s.rnd 0 k)).1.isNan) = true
        then ifNan.1
        else rel (if (s.opFmt [a, b]).isInt then
            (if s.intOperand a.toNat k < s.intOperand b.toNat k then -1
             else if s.intOperand a.toNat k = s.intOperand b.toNat k then 0 else 1)
          else cmpVal (s.operand a.toNat k (s.rnd 0 k)).1 (s.operand b.toNat k (s.rnd 0 k)).1),
        if (s.opFmt [a, b]).isInt then 0
        else (s.operand a.toNat k (s.rnd 0 k)).2 ||| (s.operand b.toNat k (s.rnd 0 k)).2 |||
          (if ((s.operand a.toNat k (s.rnd 0 k)).1.isNan || (s.operand b.toNat k (s.rnd 0 k)).1.isNan) = true then ifNan.2 else 0)) := by
  unfold cmpElement
  cases (s.opFmt [a, b]).isInt
  · dsimp only
    generalize ((s.operand a.toNat k (s.rnd 0 k)).1.isNan || (s.operand b.toNat k (s.rnd 0 k)).1.isNan) = nan
    cases nan <;> simp
  · simp

/-- Settles O22: a compare by the bit and the events of each active element, a predicate operation by its bits. -/
theorem vectorPredicates : Obligations.VectorPredicates := by
  refine ⟨?compares, ?traps, ?operations⟩
  case compares =>
    intro s d a b p hr hq hc ha hb f x y nan order completes
    unfold completes exec
    dsimp only
    refine ⟨vcmp_completes hr hq hc ha hb fun k => ?_, vcmp_completes hr hq hc ha hb fun k => ?_,
      vcmp_completes hr hq hc ha hb fun k => ?_, vcmp_completes hr hq hc ha hb fun k => ?_⟩ <;> exact cmpElement_eq ..
  case traps =>
    intro s d a b p x hr hq h
    unfold exec
    dsimp only
    refine ⟨vcmp_traps hr hq ?_ h, vcmp_traps hr hq ?_ h, vcmp_traps hr hq ?_ h, vcmp_traps hr hq ?_ h⟩ <;>
      exact (cuttable_two rfl).trans rfl
  case operations =>
    intro s d a b p hr hq hc completes
    unfold completes exec
    dsimp only
    exact ⟨vpop_completes hr hq hc, vpop_completes hr hq hc, vpop_completes hr hq hc, vpop_completes hr hq hc⟩

end Sys2Proof.Proofs
end

/-! ## Forms that start at 0 alone; slides, permutes, broadcast (R161, R162, R173–R177) -/
section
namespace Sys2Proof.Proofs

open Sys2Proof.Machine Sys2Proof.Laws

variable {s : State} {d a b p : Reg} {srcs : List Reg} {f g pipe : Nat} {i : Instr} {x : Exec Unit} {va vb vd : Option Reg}
  {bad : State → Prop} [DecidablePred bad] {next : State → Exec Unit} {rest : Nat → Exec Unit}

/-! ### A result group written from VSTART 0 -/

/-- A form that starts at 0 alone, passes its checks and writes a result group completes, with elements and events in whatever order
they are listed. -/
theorem zero_completes {rs : List (Nat × Nat × Events)} {xs : List (Nat × Nat)} {es es' : List (Nat × Events)}
    (h : VectorReady s d srcs f g 0 s.regs.len) (h0 : s.regs.start = 0) (hf : f < 16) (hb : ¬ bad s) (hnext : next s = fromZero d f rest)
    (hrest : rest g s = (writeResult d f g rs >>= fun _ => flags es) s) (hn : rs.Pairwise (fun a b => a.1 ≠ b.1))
    (hx : ∀ e, e ∈ rs.map (fun e => (e.1, e.2.1)) ↔ e ∈ xs) (he : sameEvents (rs.map (fun e => (e.1, e.2.2)) ++ es) es') :
    vectorCompletes s (vinsn pipe i (checked srcs bad va vb vd next) s) d f g s.regs.len xs es' := by
  have hstart : VectorReady s d srcs f g s.regs.start s.regs.len := by rwa [h0]
  refine writeResult_completes hstart hf hn (fun e _ => by rw [h0]; exact Nat.zero_le _) ?_ hx he
  exact (checked_ok h.sources hb).trans ((congrFun hnext s).trans ((fromZero_ok h h0).trans hrest))

/-- A form that starts at 0 alone and fails a check takes the trap of the first it fails. -/
theorem zero_traps {legal : Bool} {tags : Word} (hr : s.runs .threadOnly) (hq : s.cur.vqueue.length < 32) (hi : cuttable i = false)
    (hb : bad s.uncut ↔ legal = false) (ht : legal = false → tags = s.mismatchTags va vb vd) (hnext : next s.uncut = fromZero d f rest)
    (h : s.checkTrap true srcs legal tags [(d, f)] = some x) :
    vinsn pipe i (checked srcs bad va vb vd next) s = .next (settle i x s.uncut) :=
  vinsn_checkTrap_uncut hr hq hi h (checked_trap (s := s.uncut) h hb ht fun _ hd => (congrFun hnext s.uncut).trans (fromZero_trap hd))

/-- The same where any formats pass. -/
theorem zero_traps_sources {tags : Word} (hr : s.runs .threadOnly) (hq : s.cur.vqueue.length < 32) (hi : cuttable i = false)
    (hnext : next s.uncut = fromZero d f rest) (h : s.checkTrap true srcs true tags [(d, f)] = some x) :
    vinsn pipe i (checked srcs (fun _ => False) va vb vd next) s = .next (settle i x s.uncut) :=
  zero_traps hr hq hi (by simp) (fun hl => Bool.noConfusion hl) hnext h

/-- Results without events raise nothing. -/
theorem sameEvents_results {rs : List (Nat × Nat × Events)} (h : ∀ e ∈ rs, e.2.2 = 0) :
    sameEvents (rs.map (fun e => (e.1, e.2.2)) ++ []) [] := fun n b => by
  refine iff_of_false ?_ (raisedAt_nil n b)
  rw [List.append_nil]
  rintro ⟨e, he, -, hb⟩
  obtain ⟨r, hr, rfl⟩ := List.mem_map.mp he
  simp [h r hr] at hb

/-- Without further events a result group is all that is written. -/
theorem writeResult_alone {rs : List (Nat × Nat × Events)} : writeResult d f g rs s = (writeResult d f g rs >>= fun _ => flags []) s :=
  congrFun bind_pure_unit.symm s

/-- A state read again after a check of formats is the one that was checked. -/
theorem get_after_mismatch : (do
      let t ← get
      if bad t then mismatch va vb vd
      let t ← get
      next t) = (do
      let t ← get
      if bad t then mismatch va vb vd
      next t) := by
  funext t
  refine (exec_bind_ok (exec_get t)).trans (Eq.trans ?_ (exec_bind_ok (exec_get t)).symm)
  by_cases h : bad t
  · rw [if_pos h, if_pos h]
    exact (exec_bind_error (mismatch_trap va vb vd)).trans (exec_bind_error (mismatch_trap va vb vd)).symm
  · rw [if_neg h, if_neg h]
    rfl

/-! ### What a move copies (R161) -/

theorem moveFmt_lt (s : State) (a : Reg) : s.moveFmt a < 16 := by
  unfold State.moveFmt
  split
  · decide
  · exact tagFmt_lt _

/-- The bits of the source element named, zero where none is. -/
def movedBits (s : State) (a : Reg) : Option Nat → Nat
  | none => 0
  | some j => s.moveBits a.toNat j

theorem elem_beyond {v j : Nat} (h : tagGroup (s.v v).tag * capacity (tagFmt (s.v v).tag) ≤ j) : s.elem v j = 0 := by
  have : tagGroup (s.v v).tag ≤ j / capacity (tagFmt (s.v v).tag) := (Nat.le_div_iff_mul_le (capacity_pos _)).mpr h
  unfold State.elem State.elemBits
  exact if_pos this

/-- An element beyond the source's group moves as zero, that of a block group too: its scale word is 0 (R113, R161). -/
theorem moveBits_beyond {v j : Nat} (h : tagGroup (s.v v).tag * capacity (tagFmt (s.v v).tag) ≤ j) : s.moveBits v j = 0 := by
  have helem := elem_beyond h
  unfold State.moveBits
  split
  · rename_i hblock
    have hint : (tagFmt (s.v v).tag).isInt = false := by rcases isBlock_cases hblock with hf | hf <;> rw [hf] <;> decide
    have hcap : tagGroup (s.v v).tag * capacity (tagFmt (s.v v).tag) ≤ 32 * (j / 32) := by
      rcases isBlock_cases hblock with hf | hf <;> rw [hf] at h ⊢ <;> simp only [capacity, Fmt.bits] at h ⊢ <;> omega
    have hscale : s.elemScale v j = 0 := by
      unfold State.elemScale State.scaleWord
      simp [hcap]
    have hval : s.elemVal v j = .fin false 0 0 := by
      unfold State.elemVal
      simp only [hint, hblock, hscale, helem, if_true, Bool.false_eq_true, if_false]
      rcases isBlock_cases hblock with hf | hf <;> rw [hf] <;> decide
    rw [hval]
    decide
  · exact helem

/-! ### Slides and vperm (R173, R174) -/

/-- What a move writes once its checks have passed. -/
def moved (d a p : Reg) (keep : State → Nat → Bool) (from_ : State → Nat → Option Nat) (f : Fmt) (g : Nat) : Exec Unit := do
  let s ← get
  writeResult d f g (((s.allActives p).filter (keep s)).map (fun k => (k, movedBits s a (from_ s k), 0)))

/-- A move into the format of what it copies. -/
def moveNext (d a p : Reg) (keep : State → Nat → Bool) (from_ : State → Nat → Option Nat) (s : State) : Exec Unit :=
  fromZero d (s.moveFmt a) (moved d a p keep from_ (s.moveFmt a))

theorem checked_one_source {next : State → Exec Unit} : checked [a] (fun _ => False) va vb vd next = (do
    checkSource a
    let t ← get
    next t) := by
  simp only [checked_sources, each, bind_assoc, pure_bind]

theorem vslideup_eq (d a b p : Reg) (s : State) : execVslideup d a b p s = vinsn 1 (.vslideup d a b p)
    (checked [a] (fun _ => False) none none none
      (moveNext d a p (fun s k => decide ((s.g b).toNat ≤ k)) (fun s k => some (k - (s.g b).toNat)))) s := by
  rw [checked_one_source]
  rfl

theorem vslidedn_eq (d a b p : Reg) (s : State) : execVslidedn d a b p s = vinsn 1 (.vslidedn d a b p)
    (checked [a] (fun _ => False) none none none (moveNext d a p (fun _ _ => true) (fun s k => some (k + (s.g b).toNat)))) s := by
  rw [checked_one_source]
  rfl

/-- The source element of vperm. -/
def permSource (b : Reg) (s : State) (k : Nat) : Option Nat := if 1024 ≤ s.elem b.toNat k then none else some (s.elem b.toNat k)

theorem vperm_eq (d a b p : Reg) (s : State) : execVperm d a b p s = vinsn 1 (.vperm d a b p)
    (checked [a, b] (fun t => (tagFmt (t.tag b)).isInt = false) (some a) (some b) none (moveNext d a p (fun _ _ => true) (permSource b))) s := by
  simp only [checked, each, bind_assoc, pure_bind, ← get_after_mismatch (next := moveNext d a p _ _)]
  rfl

theorem allActives_pairwise (s : State) (p : Reg) : (s.allActives p).Pairwise (· < ·) := List.pairwise_lt_range.filter _

theorem move_completes {keep : State → Nat → Bool} {from_ : State → Nat → Option Nat}
    (h : VectorReady s d srcs (s.moveFmt a) g 0 s.regs.len) (h0 : s.regs.start = 0) (hb : ¬ bad s) :
    vectorCompletes s (vinsn pipe i (checked srcs bad va vb vd (moveNext d a p keep from_)) s) d (s.moveFmt a) g s.regs.len
      (((s.allActives p).filter (keep s)).map (fun k => (k, movedBits s a (from_ s k)))) [] := by
  refine zero_completes (rest := moved d a p keep from_ (s.moveFmt a)) (es := [])
    (rs := ((s.allActives p).filter (keep s)).map (fun k => (k, movedBits s a (from_ s k), 0))) h h0 (moveFmt_lt s a) hb rfl ?_ ?_ ?_ ?_
  · exact (exec_bind_ok (exec_get s)).trans writeResult_alone
  · exact List.pairwise_map.mpr (((allActives_pairwise s p).filter _).imp Nat.ne_of_lt)
  · simp [Function.comp_def]
  · exact sameEvents_results (List.forall_mem_map.mpr fun _ _ => rfl)

/-! ### vcompress (R176) -/

/-- What vcompress writes once its checks have passed. -/
def compressed (d a p : Reg) (f : Fmt) (g : Nat) : Exec Unit := do
  let s ← get
  writeResult d f g ((s.allActives p).zipIdx.map (fun e => (e.2, s.moveBits a.toNat e.1, 0)))

theorem vcompress_eq (d a p : Reg) (s : State) : execVcompress d a p s = vinsn 1 (.vcompress d a p)
    (checked [a] (fun _ => False) none none none (fun t => fromZero d (t.moveFmt a) (compressed d a p (t.moveFmt a)))) s := by
  rw [checked_one_source]
  rfl

/-- The places of a list are told apart. -/
theorem zipIdx_pairwise (ks : List Nat) : ks.zipIdx.Pairwise (fun a b => a.2 ≠ b.2) := by
  refine (List.pairwise_map (f := Prod.snd) (R := (· ≠ ·))).mp ?_
  rw [List.zipIdx_map_snd]
  exact List.nodup_range'

theorem vcompress_completes (h : VectorReady s d [a] (s.moveFmt a) g 0 s.regs.len) (h0 : s.regs.start = 0) :
    vectorCompletes s (execVcompress d a p s) d (s.moveFmt a) g s.regs.len
      ((s.allActives p).zipIdx.map (fun e => (e.2, s.moveBits a.toNat e.1))) [] := by
  rw [vcompress_eq]
  refine zero_completes (rest := compressed d a p (s.moveFmt a)) (es := [])
    (rs := (s.allActives p).zipIdx.map (fun e => (e.2, s.moveBits a.toNat e.1, 0))) h h0 (moveFmt_lt s a) not_false rfl ?_ ?_ ?_ ?_
  · exact (exec_bind_ok (exec_get s)).trans writeResult_alone
  · exact List.pairwise_map.mpr (zipIdx_pairwise _)
  · simp [Function.comp_def]
  · exact sameEvents_results (List.forall_mem_map.mpr fun _ _ => rfl)

/-! ### vbcast (R175) and vmvs (R177) -/

theorem vbcast_eq (d a p : Reg) (s : State) : execVbcast d a p s = vinsn 1 (.vbcast d a p)
    (checked [] (fun t => t.regs.fmt.isBlock = true) none none none
      (fun t => elementwise d p t.regs.fmt [] (fun s _ => ((s.g a).toNat % 2 ^ t.regs.fmt.bits, 0)))) s := by
  simp only [checked, each, pure_bind]
  rfl

/-- vmvs reads its source after every earlier vector instruction, and writes a scalar. -/
theorem vmvs_ok (hr : s.runs .threadOnly) (ha : a.toNat % tagGroup (s.tag a) = 0) : execVmvs d a b s =
    .next ((({ s with cur := { s.cur with vqueue := [] } } : State).setG d
      (if (s.moveFmt a).isInt then toWord (decodeInt (s.moveFmt a) (if 1024 ≤ (s.g b).toNat then 0 else s.moveBits a.toNat (s.g b).toNat))
       else nw (if 1024 ≤ (s.g b).toNat then 0 else s.moveBits a.toNat (s.g b).toNat))).retire (.vmvs d a b) .seq) := by
  refine insn_ok hr ((exec_bind_ok (checkSource_ok ha)).trans ?_)
  rfl

theorem vmvs_traps (hr : s.runs .threadOnly) (h : s.checkTrap false [a] true 0 [] = some x) :
    execVmvs d a b s = .next (settle (.vmvs d a b) x s) := by
  rcases checkTrap_cases h with ⟨v, hv, rfl⟩ | ⟨-, ⟨hl, -⟩ | ⟨-, hd⟩⟩
  · obtain rfl := List.mem_singleton.mp (List.mem_of_find?_eq_some hv)
    have hmis : v.toNat % tagGroup (s.tag v) ≠ 0 := by simpa [misaligned] using List.find?_some hv
    exact insn_error hr (exec_bind_error (checkSource_trap hmis))
  · exact nomatch hl
  · rw [destTrap_nil] at hd
    exact nomatch hd

/-- Settles O23: slides, vperm and vcompress start at 0 alone and write what `movedBits` copies; vbcast is elementwise; vmvs writes its
scalar once the vector queue is empty. -/
theorem vectorMovesAndPermutes : Obligations.VectorMovesAndPermutes := by
  refine ⟨?moves, ?scalar, ?traps⟩
  case moves =>
    intro s d a b p g f ks amount bits moves
    refine ⟨fun h h0 => ⟨?_, ?_, fun j hj => moveBits_beyond hj, ?_⟩, fun h h0 hint => ?_, fun h hl => ?_⟩
    · unfold moves exec
      dsimp only
      rw [vslideup_eq]
      exact move_completes h h0 not_false
    · unfold moves exec
      dsimp only
      rw [vslidedn_eq, ← List.filter_true ks]
      exact move_completes h h0 not_false
    · unfold moves exec
      exact vcompress_completes h h0
    · have hbits (k : Nat) : movedBits s a (permSource b s k) = if 1024 ≤ s.elem b.toNat k then 0 else bits (s.elem b.toNat k) := by
        unfold permSource
        split <;> rfl
      unfold moves exec
      dsimp only
      simp only [← hbits]
      rw [vperm_eq, ← List.filter_true ks]
      exact move_completes h h0 (by simp [hint])
    · unfold exec
      dsimp only
      rw [vbcast_eq]
      exact checked_completes h (.inr (by simp)) (fmt_lt _) (by simp [hl]) rfl (fun _ => rfl) (sameEvents_quiet _)
  case scalar =>
    intro s d a b hr ha f x
    unfold exec
    exact vmvs_ok hr ha
  case traps =>
    intro s d a b p x hr hq traps
    refine ⟨fun h => ⟨?_, ?_, ?_⟩, fun h => ?_, fun h => ?_, fun h => ?_⟩
    · unfold traps exec
      dsimp only
      rw [vslideup_eq]
      exact zero_traps_sources hr hq ((cuttable_two rfl).trans rfl) rfl h
    · unfold traps exec
      dsimp only
      rw [vslidedn_eq]
      exact zero_traps_sources hr hq ((cuttable_two rfl).trans rfl) rfl h
    · unfold traps exec
      dsimp only
      rw [vcompress_eq]
      exact zero_traps_sources hr hq ((cuttable_one rfl).trans rfl) rfl h
    · unfold traps exec
      dsimp only
      rw [vperm_eq]
      exact zero_traps hr hq ((cuttable_two rfl).trans rfl) Iff.rfl (fun _ => rfl) rfl h
    · unfold exec
      dsimp only
      rw [vbcast_eq]
      exact checked_traps hr hq ((cuttable_one rfl).trans rfl) (by simp) rfl h
    · unfold exec
      exact vmvs_traps hr h

end Sys2Proof.Proofs
end

/-! ## Running sums of the active elements (R101, R178, R179) -/
section
namespace Sys2Proof.Proofs

variable {α β : Type} {ks : List Nat}

/-- A fold that keeps what each step shows lists, last first, what the steps before it led to. -/
theorem foldl_history (step : α → Nat → α) (out : α → Nat → β) (h : ks.Pairwise (· < ·)) (z : α) (ys : List β) :
    ks.foldl (fun acc k => (step acc.1 k, out acc.1 k :: acc.2)) (z, ys) =
      (ks.foldl step z, (ks.map (fun k => out ((ks.filter (fun j => decide (j < k))).foldl step z) k)).reverse ++ ys) := by
  induction ks using List.reverseRecOn with
  | nil => rfl
  | append_singleton ks k ih =>
    obtain ⟨hks, -, hlast⟩ := List.pairwise_append.mp h
    have hbelow : ∀ j ∈ ks, j < k := fun j hj => hlast j hj k (List.mem_singleton.mpr rfl)
    have hall : (ks ++ [k]).filter (fun j => decide (j < k)) = ks := by
      rw [List.filter_append, List.filter_eq_self.mpr (fun j hj => decide_eq_true (hbelow j hj))]
      simp
    have hone : ∀ j ∈ ks, (ks ++ [k]).filter (fun i => decide (i < j)) = ks.filter (fun i => decide (i < j)) := fun j hj => by
      have : ¬ k < j := Nat.lt_asymm (hbelow j hj)
      simp [List.filter_append, this]
    have hmap : ks.map (fun j => out (((ks ++ [k]).filter (fun i => decide (i < j))).foldl step z) j) =
        ks.map (fun j => out ((ks.filter (fun i => decide (i < j))).foldl step z) j) :=
      List.map_congr_left fun j hj => by rw [hone j hj]
    rw [List.foldl_append, ih hks, List.map_append, hmap, List.map_singleton, hall, List.foldl_append, List.reverse_append]
    rfl

/-- In an ascending list the elements up to one of it are those before it, and it. -/
theorem filter_upTo {k : Nat} (h : ks.Pairwise (· < ·)) (hk : k ∈ ks) :
    ks.filter (fun j => decide (j ≤ k)) = ks.filter (fun j => decide (j < k)) ++ [k] := by
  induction ks with
  | nil => exact absurd hk List.not_mem_nil
  | cons x ks ih =>
    obtain ⟨hx, hks⟩ := List.pairwise_cons.mp h
    rcases List.mem_cons.mp hk with rfl | hk
    · have hle : ks.filter (fun j => decide (j ≤ k)) = [] := List.filter_eq_nil_iff.mpr fun j hj => by simp [hx j hj]
      have hlt : ks.filter (fun j => decide (j < k)) = [] :=
        List.filter_eq_nil_iff.mpr fun j hj => by simp [Nat.le_of_lt (hx j hj)]
      simp [hle, hlt]
    · have := hx k hk
      simp [ih hks hk, this, Nat.le_of_lt this]

theorem foldl_add_eq (f : Nat → Int) (ks : List Nat) (z : Int) : ks.foldl (fun n k => n + f k) z = z + (ks.map f).sum := by
  induction ks generalizing z with
  | nil => simp
  | cons k ks ih => rw [List.foldl_cons, ih, List.map_cons, List.sum_cons, Int.add_assoc]

end Sys2Proof.Proofs
end

/-! ## Reductions (R101, R178) -/
section
namespace Sys2Proof.Proofs

open Sys2Proof.Machine Sys2Proof.Laws

variable {s : State} {d a b p : Reg} {rm : BitVec 2} {f : Fmt} {g : Nat} {i : Instr} {x : Exec Unit} {ok : Fmt → Bool}
  {red : State → Fmt → List Nat → Nat × List (Nat × Events)}

/-- What a reduction writes once its checks have passed. -/
def reduced (d p : Reg) (red : State → Fmt → List Nat → Nat × List (Nat × Events)) (f : Fmt) (g : Nat) : Exec Unit := do
  let s ← get
  if s.regs.len = 0 then writeResult d f g []
  else do
    writeResult d f g [(0, (red s f (s.allActives p)).1, 0)]
    flags (red s f (s.allActives p)).2

theorem vreduce_eq (i : Instr) (d a b p : Reg) (ok : Fmt → Bool) (red : State → Fmt → List Nat → Nat × List (Nat × Events)) (s : State) :
    vreduce i d a b p ok red s = vinsn 1 i (checked (redSources b a) (fun t => ok (t.opFmt (redSources b a)) = false)
      (if a = 0 then none else some a) (some b) none
      (fun t => fromZero d (t.opFmt (redSources b a)) (reduced d p red (t.opFmt (redSources b a))))) s := rfl

/-- A reduction writes element 0 and raises its events, unless VL is 0. -/
theorem vreduce_completes {v : Nat} {es : List (Nat × Events)} (h : VectorReady s d (redSources b a) (s.opFmt (redSources b a)) g 0 s.regs.len)
    (h0 : s.regs.start = 0) (hok : ok (s.opFmt (redSources b a)) = true)
    (hv : (red s (s.opFmt (redSources b a)) (s.allActives p)).1 = v)
    (he : sameEvents (red s (s.opFmt (redSources b a)) (s.allActives p)).2 es) :
    vectorCompletes s (vreduce i d a b p ok red s) d (s.opFmt (redSources b a)) g s.regs.len
      (if s.regs.len = 0 then [] else [(0, v)]) (if s.regs.len = 0 then [] else es) := by
  rw [vreduce_eq]
  by_cases hlen : s.regs.len = 0
  · rw [if_pos hlen, if_pos hlen]
    refine zero_completes (rest := reduced d p red (s.opFmt (redSources b a))) (rs := []) (es := []) h h0 (opFmt_lt s _) (by simp [hok]) rfl ?_
      List.Pairwise.nil (by simp) (sameEvents_refl _)
    refine (exec_bind_ok (exec_get s)).trans ?_
    rw [if_pos hlen]
    exact writeResult_alone
  · rw [if_neg hlen, if_neg hlen]
    refine zero_completes (rest := reduced d p red (s.opFmt (redSources b a))) (rs := [(0, v, 0)])
      (es := (red s (s.opFmt (redSources b a)) (s.allActives p)).2) h h0 (opFmt_lt s _) (by simp [hok]) rfl ?_ (List.pairwise_singleton _ _)
      (by simp) fun n b => ?_
    · refine (exec_bind_ok (exec_get s)).trans ?_
      rw [if_neg hlen, hv]
    · simpa using he n b

/-- A reduction without events. -/
theorem vreduce_quiet {v : Nat} (h : VectorReady s d (redSources b a) (s.opFmt (redSources b a)) g 0 s.regs.len)
    (h0 : s.regs.start = 0) (hok : ok (s.opFmt (redSources b a)) = true)
    (hred : red s (s.opFmt (redSources b a)) (s.allActives p) = (v, [])) :
    vectorCompletes s (vreduce i d a b p ok red s) d (s.opFmt (redSources b a)) g s.regs.len
      (if s.regs.len = 0 then [] else [(0, v)]) [] := by
  have hdone := vreduce_completes (i := i) (es := []) h h0 hok (congrArg Prod.fst hred) (by rw [hred]; exact sameEvents_refl [])
  rwa [ite_self] at hdone

theorem vreduce_traps (hr : s.runs .threadOnly) (hq : s.cur.vqueue.length < 32) (hi : cuttable i = false)
    (h : s.checkTrap true (redSources b a) (ok (s.opFmt (redSources b a)))
      (s.mismatchTags (if a = 0 then none else some a) (some b) none) [(d, s.opFmt (redSources b a))] = some x) :
    vreduce i d a b p ok red s = .next (settle i x s.uncut) := by
  rw [vreduce_eq]
  exact zero_traps hr hq hi Iff.rfl (fun _ => rfl) rfl h

/-! ### Over integers -/

/-- The greatest of a list of integers, the least of the format where it is empty. -/
theorem intBits_greatest {f : Fmt} (hint : f.isInt = true) (xs : List Int) :
    (match xs with | [] => leastBits f | x :: rest => intBits f (rest.foldl max x)) =
      intBits f (match xs with | [] => f.intMin | x :: rest => rest.foldl max x) := by
  cases xs with
  | nil => exact if_pos hint
  | cons x rest => rfl

/-! ### Over floating-point numbers

Each by its operands `y`, the draws `rnd` of their indices, and its start value `st`, values with the events of their conversion. -/

/-- The start value of a reduction and its events, told apart. -/
theorem startVal_eq (s : State) (a : Reg) (r : Rnd) : startVal s a r =
    (if a = 0 then .fin false 0 0 else (s.operand a.toNat 0 r).1, if a = 0 then 0 else (s.operand a.toNat 0 r).2) := by
  unfold startVal
  split <;> rfl

variable {rnd : Nat → Rnd} {y : Nat → Val × Events} {st : Val × Events} {ks : List Nat}

/-- One addition of an ordered sum. -/
def sumStep (f : Fmt) (rnd : Nat → Rnd) (y : Nat → Val × Events) (acc k : Nat) : Nat × Events :=
  fAdd f (rnd k) (decodeFloat f acc) (y k).1

/-- The ordered sum of R101 of elements `ks`. -/
def orderedSum (f : Fmt) (rnd : Nat → Rnd) (y : Nat → Val × Events) (z : Val) (ks : List Nat) : Nat :=
  ks.foldl (fun acc k => (sumStep f rnd y acc k).1) (roundVal f rndRNE z).1

/-- The events of one of its additions, with those of the operand. -/
def sumEvents (f : Fmt) (rnd : Nat → Rnd) (y : Nat → Val × Events) (z : Val) (ks : List Nat) (k : Nat) : Events :=
  (y k).2 ||| (sumStep f rnd y (orderedSum f rnd y z (ks.filter (fun j => decide (j < k)))) k).2

/-- What vfredosum gives. -/
def orderedRed (f : Fmt) (rnd : Nat → Rnd) (y : Nat → Val × Events) (st : Val × Events) (ks : List Nat) : Nat × List (Nat × Events) :=
  if ks = [] then ((startResult f (rnd 0) st.1).1, [(0, st.2 ||| (startResult f (rnd 0) st.1).2)])
  else ks.foldl (fun acc k => ((sumStep f rnd y acc.1 k).1, (k, (y k).2 ||| (sumStep f rnd y acc.1 k).2) :: acc.2))
    ((roundVal f rndRNE st.1).1, [(0, st.2)])

theorem orderedRed_eq (h : ks.Pairwise (· < ·)) : orderedRed f rnd y st ks =
    if ks = [] then ((startResult f (rnd 0) st.1).1, [(0, st.2 ||| (startResult f (rnd 0) st.1).2)])
    else (orderedSum f rnd y st.1 ks, (ks.map (fun k => (k, sumEvents f rnd y st.1 ks k))).reverse ++ [(0, st.2)]) := by
  unfold orderedRed
  split
  · rfl
  · exact foldl_history (fun acc k => (sumStep f rnd y acc k).1) (fun acc k => (k, (y k).2 ||| (sumStep f rnd y acc k).2)) h _ _

theorem orderedRed_value (h : ks.Pairwise (· < ·)) : (orderedRed f rnd y st ks).1 =
    if ks = [] then (startResult f (rnd 0) st.1).1 else orderedSum f rnd y st.1 ks := by
  rw [orderedRed_eq h, apply_ite Prod.fst]

theorem orderedRed_events (h : ks.Pairwise (· < ·)) : sameEvents (orderedRed f rnd y st ks).2
    ((0, if ks = [] then st.2 ||| (startResult f (rnd 0) st.1).2 else st.2) :: ks.map (fun k => (k, sumEvents f rnd y st.1 ks k))) := by
  rw [orderedRed_eq h]
  split
  · rename_i hks
    subst hks
    exact sameEvents_refl _
  · exact sameEvents_of_mem_iff fun e => by simp [or_comm]

/-- The leaves of the tree, with the events of their conversion: the active elements of `len`. -/
def treeLeaves (y : Nat → Val × Events) (ks : List Nat) (len : Nat) : List (Option (Val × Events)) :=
  (List.range len).map (fun k => if ks.contains k then some (y k) else none)

/-- The tree of R101 over those leaves. -/
def treeOver (f : Fmt) (rnd : Nat → Rnd) (y : Nat → Val × Events) (ks : List Nat) (len : Nat) : Option Val × List (Nat × Events) :=
  treeSum f rnd (treeDepth len) 0
    ((treeLeaves y ks len).map (fun x => x.map (fun y => y.1)) ++ List.replicate (2 ^ treeDepth len - len) none)

theorem treeOver_eq (f : Fmt) (rnd : Nat → Rnd) (y : Nat → Val × Events) (ks : List Nat) (len : Nat) : treeOver f rnd y ks len =
    treeSum f rnd (treeDepth len) 0
      ((List.range len).map (fun k => if k ∈ ks then some (y k).1 else none) ++ List.replicate (2 ^ treeDepth len - len) none) := by
  unfold treeOver treeLeaves
  rw [List.map_map]
  congr 2
  refine List.map_congr_left fun k _ => ?_
  by_cases hk : k ∈ ks <;> simp [hk]

/-- The start value, and the sum of the tree added to it where some element is active. -/
def treeResult (f : Fmt) (rnd : Nat → Rnd) (z : Val) : Option Val → Nat × Events
  | none => startResult f (rnd 0) z
  | some v => fAdd f (rnd 0) z v

/-- What vfredsum gives. -/
def treeRed (f : Fmt) (rnd : Nat → Rnd) (y : Nat → Val × Events) (st : Val × Events) (ks : List Nat) (len : Nat) :
    Nat × List (Nat × Events) :=
  ((treeResult f rnd st.1 (treeOver f rnd y ks len).1).1, (0, st.2 ||| (treeResult f rnd st.1 (treeOver f rnd y ks len).1).2) ::
    ((treeLeaves y ks len).zipIdx.filterMap (fun e => e.1.map (fun y => (e.2, y.2))) ++ (treeOver f rnd y ks len).2))

theorem treeResult_value (f : Fmt) (rnd : Nat → Rnd) (z : Val) (t : Option Val) : (treeResult f rnd z t).1 =
    match t with | none => (startResult f (rnd 0) z).1 | some v => (fAdd f (rnd 0) z v).1 := by cases t <;> rfl

theorem treeResult_events (f : Fmt) (rnd : Nat → Rnd) (z : Val) (t : Option Val) : (treeResult f rnd z t).2 =
    match t with | none => (startResult f (rnd 0) z).2 | some v => (fAdd f (rnd 0) z v).2 := by cases t <;> rfl

theorem vfredsum_eq (d a b p : Reg) (rm : BitVec 2) (s : State) : execVfredsum d a b p rm s =
    vreduce (.vfredsum d a b p rm) d a b p (fun f => f.isFloat) (fun s f ks =>
      treeRed f (s.rnd rm) (fun k => s.operand b.toNat k (s.rnd rm k)) (startVal s a (s.rnd rm 0)) ks s.regs.len) s := by
  refine congrArg (fun red => vreduce (.vfredsum d a b p rm) d a b p (fun f => f.isFloat) red s) (funext fun s => funext fun f => funext fun ks => ?_)
  unfold treeRed treeOver treeLeaves
  dsimp only
  split <;> rename_i ht <;> rw [ht] <;> rfl

/-- The events of the leaves are those of the active elements. -/
theorem mem_treeLeaves_events {len : Nat} (h : ∀ k ∈ ks, k < len) (e : Nat × Events) :
    e ∈ (treeLeaves y ks len).zipIdx.filterMap (fun e => e.1.map (fun y => (e.2, y.2))) ↔ e ∈ ks.map (fun k => (k, (y k).2)) := by
  have hget (k : Nat) : (treeLeaves y ks len)[k]? = if k < len then some (if k ∈ ks then some (y k) else none) else none := by
    by_cases hk : k < len <;> simp [treeLeaves, hk]
  simp only [List.mem_filterMap, List.mem_map, List.mem_zipIdx_iff_getElem?, hget]
  constructor
  · rintro ⟨⟨leaf, k⟩, hleaf, hsome⟩
    obtain ⟨v, rfl, rfl⟩ := Option.map_eq_some_iff.mp hsome
    simp only [Option.ite_none_right_eq_some, Option.some.injEq] at hleaf
    obtain ⟨-, hk, rfl⟩ := hleaf
    exact ⟨k, hk, rfl⟩
  · rintro ⟨k, hk, rfl⟩
    exact ⟨(some (y k), k), by rw [if_pos (h k hk), if_pos hk], rfl⟩

theorem treeRed_events {len : Nat} (h : ∀ k ∈ ks, k < len) : sameEvents (treeRed f rnd y st ks len).2
    ((0, st.2 ||| (treeResult f rnd st.1 (treeOver f rnd y ks len).1).2) :: ks.map (fun k => (k, (y k).2)) ++
      (treeOver f rnd y ks len).2) :=
  sameEvents_of_mem_iff fun e => by
    rw [treeRed, List.cons_append, List.mem_cons, List.mem_cons, List.mem_append, List.mem_append, mem_treeLeaves_events h]

theorem mem_allActives {k : Nat} (h : k ∈ s.allActives p) : k < s.regs.len := List.mem_range.mp (List.mem_of_mem_filter h)

/-- What vredmax gives over numbers, of its operands with their indices. -/
def greatestRed (f : Fmt) (r : Rnd) (xs : List (Nat × Val × Events)) : Nat × List (Nat × Events) :=
  match xs with
  | [] => (leastBits f, [])
  | x :: rest => ((roundVal f { rndRNE with fz := r.fz } (rest.foldl (fun m y => minMaxVal true m y.2.1) x.2.1)).1,
      xs.map (fun x => (x.1, x.2.2)) ++ [(0, (roundVal f { rndRNE with fz := r.fz } (rest.foldl (fun m y => minMaxVal true m y.2.1) x.2.1)).2)])

/-- Its operands: the start value, where one is named, and the active elements. -/
def greatestOperands (y : Nat → Val × Events) (st? : Option (Val × Events)) (ks : List Nat) : List (Nat × Val × Events) :=
  st?.toList.map (fun st => (0, st)) ++ ks.map (fun k => (k, y k))

theorem greatestRed_value (hf : f.isInt = false) (r : Rnd) (st? : Option (Val × Events)) : (greatestRed f r (greatestOperands y st? ks)).1 =
    match (st?.map Prod.fst).toList ++ ks.map (fun k => (y k).1) with
    | [] => f.inf true
    | x :: rest => (roundVal f { rndRNE with fz := r.fz } (rest.foldl (minMaxVal true) x)).1 := by
  have hleast : leastBits f = f.inf true := if_neg (by simp [hf])
  unfold greatestOperands
  cases st? with
  | some st =>
    simp only [greatestRed, Option.toList_some, Option.map_some, List.map_cons, List.map_nil, List.cons_append, List.nil_append, List.foldl_map]
  | none =>
    cases ks with
    | nil => exact hleast
    | cons k ks =>
      simp only [greatestRed, Option.toList_none, Option.map_none, List.map_nil, List.nil_append, List.map_cons, List.foldl_map]

theorem greatestRed_events (r : Rnd) (st? : Option (Val × Events)) : sameEvents (greatestRed f r (greatestOperands y st? ks)).2
    (match (st?.map Prod.fst).toList ++ ks.map (fun k => (y k).1) with
    | [] => []
    | x :: rest => (0, (st?.map Prod.snd).getD 0 |||
        (roundVal f { rndRNE with fz := r.fz } (rest.foldl (minMaxVal true) x)).2) :: ks.map (fun k => (k, (y k).2))) := fun n b => by
  unfold greatestOperands
  cases st? with
  | some st =>
    simp only [greatestRed, Option.toList_some, Option.map_some, Option.getD_some, List.map_nil, List.nil_append, List.foldl_map,
      List.map_cons, List.map_map, Function.comp_def, raisedAt_cons, raisedAt_append,
      raisedAt_nil, Nat.testBit_or, Bool.or_eq_true, List.cons_append]
    tauto
  | none =>
    cases ks with
    | nil => exact Iff.rfl
    | cons k ks =>
      simp only [greatestRed, Option.toList_none, Option.map_none, Option.getD_none, List.map_nil, List.nil_append, List.map_cons,
        List.foldl_map, List.map_map, Function.comp_def, raisedAt_cons, raisedAt_append,
        raisedAt_nil, Nat.zero_or, List.cons_append]
      tauto

theorem isInt_of_isFloat {f : Fmt} (h : f.isFloat = true) : f.isInt = false := by
  unfold Fmt.isFloat at h
  unfold Fmt.isInt
  have h5 : 5 ≤ f := of_decide_eq_true (Bool.and_elim_left h)
  exact decide_eq_false (Nat.not_le_of_lt h5)

/-- The start value of a reduction that names one. -/
def start? (s : State) (a : Reg) : Option (Val × Events) := if a = 0 then none else some (s.operand a.toNat 0 (s.rnd 0 0))

theorem start?_value (s : State) (a : Reg) : ((start? s a).map Prod.fst).toList =
    if a = 0 then [] else [if a = 0 then .fin false 0 0 else (s.operand a.toNat 0 (s.rnd 0 0)).1] := by
  unfold start?
  split <;> rfl

theorem start?_events (s : State) (a : Reg) : ((start? s a).map Prod.snd).getD 0 =
    if a = 0 then 0 else (s.operand a.toNat 0 (s.rnd 0 0)).2 := by
  unfold start?
  split <;> rfl

theorem vredmax_eq (d a b p : Reg) (s : State) : execVredmax d a b p s = vreduce (.vredmax d a b p) d a b p (fun _ => true) (fun s f ks =>
    if f.isInt then (match (if a = 0 then [] else [s.intOperand a.toNat 0]) ++ ks.map (fun k => s.intOperand b.toNat k) with
      | [] => leastBits f | x :: rest => intBits f (rest.foldl max x), [])
    else greatestRed f (s.rnd 0 0) (greatestOperands (fun k => s.operand b.toNat k (s.rnd 0 k)) (start? s a) ks)) s := by
  refine congrArg (fun red => vreduce (.vredmax d a b p) d a b p (fun _ => true) red s) (funext fun s => funext fun f => funext fun ks => ?_)
  unfold greatestOperands start?
  by_cases ha : a = 0
  · simp only [if_pos ha]
    rfl
  · simp only [if_neg ha]
    rfl

/-- Settles O24: each reduction by the value and the events it gives, which its frame writes and raises. -/
theorem reductions : Obligations.Reductions := by
  refine ⟨?integers, ?floats, ?traps⟩
  case integers =>
    intro s d a b p g srcs f xs completes h h0 hint
    unfold completes exec
    dsimp only
    refine ⟨vreduce_quiet h h0 hint (Prod.ext (congrArg (intBits f) ?sum) rfl), vreduce_quiet h h0 ?ok ?greatest⟩
    case sum =>
      rw [foldl_add_eq, List.sum_append]
      by_cases ha : a = 0
      · rw [if_pos ha, if_pos ha, List.sum_nil]
      · rw [if_neg ha, if_neg ha, List.sum_singleton]
    case ok => rfl
    case greatest => exact (if_pos hint).trans (Prod.ext (intBits_greatest hint xs) rfl)
  case floats =>
    intro s d a b p rm g srcs f ks r z y n leaf leaves ez ey flushed sum best top completes h h0 hfloat
    unfold completes exec
    dsimp only
    rw [vfredsum_eq, vredmax_eq]
    have hint : f.isInt = false := isInt_of_isFloat hfloat
    have hnot : ¬ f.isInt = true := by rw [hint]; exact Bool.false_ne_true
    have hz (m : BitVec 2) : (startVal s a (s.rnd m 0)).1 = z m := congrArg Prod.fst (startVal_eq s a (s.rnd m 0))
    have hez (m : BitVec 2) : (startVal s a (s.rnd m 0)).2 = ez m := congrArg Prod.snd (startVal_eq s a (s.rnd m 0))
    refine ⟨vreduce_completes h h0 hfloat ?sum ?sumEvents, vreduce_completes h h0 hfloat ?tree ?treeEvents,
      vreduce_completes h h0 ?ok ?greatest ?greatestEvents⟩
    case ok => rfl
    case sum =>
      refine (orderedRed_value (rnd := s.rnd rm) (y := fun k => s.operand b.toNat k (s.rnd rm k))
        (st := startVal s a (s.rnd rm 0)) (allActives_pairwise s p)).trans ?_
      rw [hz]
      rfl
    case sumEvents =>
      have hev := orderedRed_events (f := f) (rnd := s.rnd rm) (y := fun k => s.operand b.toNat k (s.rnd rm k))
        (st := startVal s a (s.rnd rm 0)) (allActives_pairwise s p)
      rw [hz, hez] at hev
      exact hev
    case tree =>
      refine (treeResult_value ..).trans ?_
      rw [hz, treeOver_eq]
      rfl
    case treeEvents =>
      have hev := treeRed_events (f := f) (rnd := s.rnd rm) (y := fun k => s.operand b.toNat k (s.rnd rm k))
        (st := startVal s a (s.rnd rm 0)) (ks := s.allActives p) (len := s.regs.len) (fun k hk => mem_allActives hk)
      rw [hz, hez, treeResult_events, treeOver_eq] at hev
      exact hev
    case greatest =>
      have hval := greatestRed_value (y := fun k => s.operand b.toNat k (s.rnd 0 k)) (ks := ks) hint (s.rnd 0 0) (start? s a)
      rw [start?_value] at hval
      exact (congrArg Prod.fst (if_neg hnot)).trans hval
    case greatestEvents =>
      have hev := greatestRed_events (f := f) (y := fun k => s.operand b.toNat k (s.rnd 0 k)) (ks := ks) (s.rnd 0 0) (start? s a)
      rw [start?_value, start?_events] at hev
      exact (if_neg hnot : (if f.isInt = true then _ else _) = _) ▸ hev
  case traps =>
    intro s d a b p rm x hr hq srcs f traps
    unfold traps exec
    dsimp only
    refine ⟨fun h => ?_, fun h => ?_, fun h => ?_, fun h => ?_⟩
    · exact vreduce_traps hr hq ((cuttable_two rfl).trans rfl) h
    · exact vreduce_traps hr hq ((cuttable_two_rounded rfl).trans rfl) h
    · exact vreduce_traps hr hq ((cuttable_two_rounded rfl).trans rfl) h
    · rw [vredmax_eq]
      exact vreduce_traps hr hq ((cuttable_two rfl).trans rfl) h

end Sys2Proof.Proofs
end

/-! ## Scans (R179) -/
section
namespace Sys2Proof.Proofs

open Sys2Proof.Machine Sys2Proof.Laws

variable {s : State} {d a b p : Reg} {f : Fmt} {g : Nat} {ks : List Nat} {α : Type}

/-! ### What is accumulated up to each element -/

/-- What a scan gives for its elements: the bits of what is accumulated up to each, and the events of the step to it. -/
def scanResults (step : α → Nat → α) (val : α → Nat) (ev : α → Nat → Events) (z : α) (ks : List Nat) : List (Nat × Nat × Events) :=
  (ks.foldl (fun (acc : α × List (Nat × Nat × Events)) k =>
    (step acc.1 k, (k, val (step acc.1 k), ev acc.1 k) :: acc.2)) (z, [])).2

variable {step : α → Nat → α} {val : α → Nat} {ev : α → Nat → Events} {z : α}

theorem scanResults_eq (h : ks.Pairwise (· < ·)) : scanResults step val ev z ks =
    (ks.map (fun k => (k, val ((ks.filter (fun j => decide (j ≤ k))).foldl step z),
      ev ((ks.filter (fun j => decide (j < k))).foldl step z) k))).reverse := by
  refine (congrArg Prod.snd (foldl_history step (fun acc k => (k, val (step acc k), ev acc k)) h z [])).trans ?_
  rw [List.append_nil]
  refine congrArg List.reverse (List.map_congr_left fun k hk => ?_)
  rw [filter_upTo h hk, List.foldl_append]
  rfl

theorem scanResults_distinct (h : ks.Pairwise (· < ·)) : (scanResults step val ev z ks).Pairwise (fun a b => a.1 ≠ b.1) := by
  rw [scanResults_eq h, List.pairwise_reverse]
  exact List.pairwise_map.mpr (h.imp fun hlt => (Nat.ne_of_lt hlt).symm)

theorem mem_scanResults (h : ks.Pairwise (· < ·)) (e : Nat × Nat) : e ∈ (scanResults step val ev z ks).map (fun e => (e.1, e.2.1)) ↔
    e ∈ ks.map (fun k => (k, val ((ks.filter (fun j => decide (j ≤ k))).foldl step z))) := by
  rw [scanResults_eq h, List.map_reverse, List.mem_reverse, List.map_map]
  rfl

theorem scanResults_events (h : ks.Pairwise (· < ·)) : sameEvents ((scanResults step val ev z ks).map (fun e => (e.1, e.2.2)))
    (ks.map (fun k => (k, ev ((ks.filter (fun j => decide (j < k))).foldl step z) k))) := by
  rw [scanResults_eq h, List.map_reverse, List.map_map]
  exact sameEvents_reverse _

/-! ### The form -/

/-- The sources of a scan: the vector and, where it is named, the carry. -/
def scanSources (a b : Reg) : List Reg := if b = 0 then [a] else [a, b]

/-- What vscan gives for integers. -/
def intScan (s : State) (f : Fmt) (a b : Reg) (ks : List Nat) : List (Nat × Nat × Events) :=
  scanResults (fun n k => n + s.intOperand a.toNat k) (intBits f) (fun _ _ => 0) (if b = 0 then 0 else s.intOperand b.toNat 0) ks

/-- What vscan gives for numbers, the ordered sum's steps. -/
def floatScan (s : State) (f : Fmt) (a b : Reg) (ks : List Nat) : List (Nat × Nat × Events) :=
  scanResults (fun acc k => (sumStep f (s.rnd 0) (fun k => s.operand a.toNat k (s.rnd 0 k)) acc k).1) id
    (fun acc k => (s.operand a.toNat k (s.rnd 0 k)).2 ||| (sumStep f (s.rnd 0) (fun k => s.operand a.toNat k (s.rnd 0 k)) acc k).2)
    (roundVal f rndRNE (startVal s b (s.rnd 0 0)).1).1 ks

/-- What vscan writes once its checks have passed. -/
def scanned (d a b p : Reg) (f : Fmt) (g : Nat) : Exec Unit := do
  let s ← get
  if f.isInt then writeResult d f g (intScan s f a b (s.allActives p))
  else do
    writeResult d f g (floatScan s f a b (s.allActives p))
    flags (if s.allActives p = [] then [] else [(0, (startVal s b (s.rnd 0 0)).2)])

theorem vscan_eq (d a b p : Reg) (s : State) : execVscan d a b p s = vinsn 1 (.vscan d a b p)
    (checked (scanSources a b) (fun _ => False) none none none
      (fun t => fromZero d (t.opFmt (scanSources a b)) (scanned d a b p (t.opFmt (scanSources a b))))) s := by
  rw [checked_sources]
  rfl

theorem vscan_ints (h : VectorReady s d (scanSources a b) (s.opFmt (scanSources a b)) g 0 s.regs.len) (h0 : s.regs.start = 0)
    (hint : (s.opFmt (scanSources a b)).isInt = true) :
    vectorCompletes s (execVscan d a b p s) d (s.opFmt (scanSources a b)) g s.regs.len ((s.allActives p).map (fun k =>
      (k, intBits (s.opFmt (scanSources a b)) ((if b = 0 then 0 else s.intOperand b.toNat 0) +
        (((s.allActives p).filter (fun j => decide (j ≤ k))).map (fun j => s.intOperand a.toNat j)).sum)))) [] := by
  have hks := allActives_pairwise s p
  rw [vscan_eq]
  refine zero_completes (rest := scanned d a b p (s.opFmt (scanSources a b))) (es := [])
    (rs := intScan s (s.opFmt (scanSources a b)) a b (s.allActives p)) h h0 (opFmt_lt s _) not_false rfl ?body
    (scanResults_distinct hks) (fun e => ?elements) (sameEvents_results ?quiet)
  case body =>
    refine (exec_bind_ok (exec_get s)).trans ?_
    rw [if_pos hint]
    exact writeResult_alone
  case elements =>
    refine (mem_scanResults hks e).trans ?_
    simp only [foldl_add_eq]
  case quiet =>
    rw [intScan, scanResults_eq hks]
    intro e he
    obtain ⟨k, -, rfl⟩ := List.mem_map.mp (List.mem_reverse.mp he)
    rfl

theorem vscan_floats (h : VectorReady s d (scanSources a b) (s.opFmt (scanSources a b)) g 0 s.regs.len) (h0 : s.regs.start = 0)
    (hint : (s.opFmt (scanSources a b)).isInt = false) {carry : Val × Events} (hc : startVal s b (s.rnd 0 0) = carry) :
    vectorCompletes s (execVscan d a b p s) d (s.opFmt (scanSources a b)) g s.regs.len ((s.allActives p).map (fun k =>
      (k, orderedSum (s.opFmt (scanSources a b)) (s.rnd 0) (fun k => s.operand a.toNat k (s.rnd 0 k)) carry.1
        ((s.allActives p).filter (fun j => decide (j ≤ k))))))
      (if s.allActives p = [] then [] else (0, carry.2) :: (s.allActives p).map (fun k =>
        (k, sumEvents (s.opFmt (scanSources a b)) (s.rnd 0) (fun k => s.operand a.toNat k (s.rnd 0 k)) carry.1 (s.allActives p) k))) := by
  subst hc
  have hks := allActives_pairwise s p
  rw [vscan_eq]
  refine zero_completes (rest := scanned d a b p (s.opFmt (scanSources a b)))
    (es := if s.allActives p = [] then [] else [(0, (startVal s b (s.rnd 0 0)).2)])
    (rs := floatScan s (s.opFmt (scanSources a b)) a b (s.allActives p)) h h0 (opFmt_lt s _) not_false rfl ?body
    (scanResults_distinct hks) (mem_scanResults hks) fun n b => ?events
  case body =>
    refine (exec_bind_ok (exec_get s)).trans ?_
    rw [if_neg (by rw [hint]; exact Bool.false_ne_true)]
  case events =>
    rw [raisedAt_append, floatScan, scanResults_events hks n b]
    split
    · rename_i hnil
      simp [hnil]
    · rw [raisedAt_cons, raisedAt_cons]
      exact or_comm.trans (or_congr_left (or_iff_left (raisedAt_nil n b)))

end Sys2Proof.Proofs
end

/-! ## Pruning (R180) -/
section
namespace Sys2Proof.Proofs

open Sys2Proof.Machine Sys2Proof.Laws

variable {s : State} {d a b p : Reg} {f : Fmt} {g n : Nat}

/-! ### What is kept -/

theorem bestMag_mem {xs : List (Nat × Val)} {x : Nat × Val} (h : bestMag xs = some x) : x ∈ xs := by
  cases xs with
  | nil => exact nomatch h
  | cons y ys =>
    obtain rfl := Option.some.inj h
    clear h
    induction ys generalizing y with
    | nil => exact List.mem_singleton.mpr rfl
    | cons z zs ih =>
      rw [List.foldl_cons]
      split
      · exact List.mem_cons_of_mem _ (ih z)
      · exact List.mem_cons.mpr ((List.mem_cons.mp (ih y)).imp_right (List.mem_cons_of_mem _))

/-- Only candidates are kept. -/
theorem keepTwo_mem {xs : List (Nat × Val)} {k : Nat} (h : k ∈ keepTwo xs) : ∃ v, (k, v) ∈ xs := by
  unfold keepTwo at h
  split at h
  · exact absurd h List.not_mem_nil
  · rename_i j v hj
    have hj := bestMag_mem hj
    split at h
    · obtain rfl := List.mem_singleton.mp h
      exact ⟨v, hj⟩
    · rename_i i w hi
      have hi := List.mem_of_mem_filter (bestMag_mem hi)
      have hk : k = i ∨ k = j := by split at h <;> simp at h <;> tauto
      rcases hk with rfl | rfl
      · exact ⟨w, hi⟩
      · exact ⟨v, hj⟩

/-- The elements kept of quad `q`. -/
def keptOf (s : State) (a p : Reg) (q : Nat) : List Nat :=
  keepTwo (((s.allActives p).filter (fun k => k / 4 == q)).map (fun k => (k, s.elemVal a.toNat k)))

theorem keptOf_quad {q k : Nat} (h : k ∈ keptOf s a p q) : k / 4 = q := by
  obtain ⟨v, hv⟩ := keepTwo_mem h
  obtain ⟨j, hj, he⟩ := List.mem_map.mp hv
  obtain ⟨rfl, -⟩ := Prod.mk.inj he
  exact beq_iff_eq.mp (List.mem_filter.mp hj).2

/-- An element below the length is kept where its own quad keeps it. -/
theorem mem_keptLists {len k : Nat} (hk : k < len) :
    k ∈ ((List.range ((len + 3) / 4)).map (keptOf s a p)).flatten ↔ k ∈ keptOf s a p (k / 4) := by
  simp only [List.mem_flatten, List.mem_map, List.mem_range, exists_exists_and_eq_and]
  constructor
  · rintro ⟨q, -, hq⟩
    rwa [keptOf_quad hq]
  · exact fun h => ⟨k / 4, by omega, h⟩

/-! ### What is written -/

/-- The two elements that a quad's kept ones become, zeros where there are fewer. -/
def prunedPair (s : State) (a : Reg) (q : Nat) (js : List Nat) : List (Nat × Nat) :=
  [(2 * q, match js with | [] => 0 | j :: _ => s.moveBits a.toNat j),
   (2 * q + 1, match js with | _ :: j :: _ => s.moveBits a.toNat j | _ => 0)]

theorem prunedPair_eq (s : State) (a : Reg) (q : Nat) (js : List Nat) :
    prunedPair s a q js = [(2 * q, movedBits s a js[0]?), (2 * q + 1, movedBits s a js[1]?)] := by
  rcases js with _ | ⟨i, _ | ⟨j, js⟩⟩ <;> rfl

/-- The elements that `n` quads become. -/
def prunedElems (s : State) (a p : Reg) (n : Nat) : List (Nat × Nat) :=
  ((List.range n).map (fun q => [(2 * q, movedBits s a (keptOf s a p q)[0]?), (2 * q + 1, movedBits s a (keptOf s a p q)[1]?)])).flatten

theorem prunedElems_eq (s : State) (a p : Reg) (n : Nat) :
    (((List.range n).map (keptOf s a p)).zipIdx.map (fun e => prunedPair s a e.2 e.1)).flatten = prunedElems s a p n := by
  refine congrArg List.flatten (List.ext_getElem (by simp) fun q _ _ => ?_)
  simp [prunedPair_eq]

/-- Each is listed once. -/
theorem prunedElems_distinct (s : State) (a p : Reg) (n : Nat) : (prunedElems s a p n).Pairwise (fun a b => a.1 ≠ b.1) := by
  refine List.pairwise_flatten.mpr ⟨fun l hl => ?_, List.pairwise_map.mpr (List.pairwise_lt_range.imp fun hlt x hx y hy => ?_)⟩
  · obtain ⟨q, -, rfl⟩ := List.mem_map.mp hl
    simp
  · simp only [List.mem_cons, List.not_mem_nil, or_false] at hx hy
    rcases hx with rfl | rfl <;> rcases hy with rfl | rfl <;> dsimp only <;> omega

/-- The mask of `len` elements of which `n` quads keep some. -/
def keptMask (s : State) (a p : Reg) (n len : Nat) : List (Nat × Bool) :=
  (List.range len).map (fun k => (k, ((List.range n).map (keptOf s a p)).flatten.contains k))

/-- What vprune writes once its checks have passed. -/
def pruned (d a b p : Reg) (f : Fmt) (g : Nat) : Exec Unit := do
  let s ← get
  takeRows d.toNat f g 0 (2 * ceilDiv s.regs.len 4)
  writeGroup d.toNat f g 0 (2 * ceilDiv s.regs.len 4)
    (((List.range (ceilDiv s.regs.len 4)).map (keptOf s a p)).zipIdx.map (fun e => prunedPair s a e.2 e.1)).flatten
  writePred b s.regs.len (keptMask s a p (ceilDiv s.regs.len 4) s.regs.len)
  setVstart 0

theorem vprune_eq (d a b p : Reg) (s : State) : execVprune d a b p s = vinsn 1 (.vprune d a b p)
    (checked [a] (fun _ => False) none none none (fun t => fromZero d (t.moveFmt a) (pruned d a b p (t.moveFmt a)))) s := by
  rw [checked_one_source]
  rfl

/-! A group and a predicate written stand until something else writes them. -/

theorem groupWritten_congr {t u : State} {d len : Nat} {xs : List (Nat × Nat)} (hv : t.cur.v = u.cur.v) (h : groupWritten s u d f g len xs) :
    groupWritten s t d f g len xs := by
  have hvn (n : Nat) : t.v n = u.v n := by rw [State.v, State.v, hv]
  simp only [groupWritten, groupHolds, State.elem, State.elemBits, State.rawElem, hvn]
  exact h

theorem rowsWritten_congr {t u : State} {d lo hi len : Nat} (hv : t.cur.v = u.cur.v) (h : rowsWritten s u d f g lo hi len) :
    rowsWritten s t d f g lo hi len := fun j hj => by
  rw [State.v, hv]
  exact h j hj

theorem predicateWritten_congr {t u w : State} {len : Nat} {xs : List (Nat × Bool)} (hs : u.cur.p = s.cur.p) (htail : u.regs.tail = s.regs.tail)
    (ht : t.cur.p = w.cur.p) (h : predicateWritten u w d len xs) : predicateWritten s t d len xs := by
  have hsn (n : Reg) : u.p n = s.p n := by rw [State.p, State.p, hs]
  have htn (n : Reg) : t.p n = w.p n := by rw [State.p, State.p, ht]
  simp only [predicateWritten, hsn, htail] at h
  simp only [predicateWritten, htn]
  exact h

/-- vprune writes its elements and the mask of those kept, and raises no event. -/
theorem vprune_completes (h : VectorReady s d [a] (s.moveFmt a) g 0 (2 * ((s.regs.len + 3) / 4))) (h0 : s.regs.start = 0) :
    ∃ t, execVprune d a b p s = .next t ∧ vectorFrame s t ∧ t.regs.start = 0 ∧
      groupWritten s t d.toNat (s.moveFmt a) g (2 * ((s.regs.len + 3) / 4)) (prunedElems s a p ((s.regs.len + 3) / 4)) ∧
      rowsWritten s t d.toNat (s.moveFmt a) g 0 (2 * ((s.regs.len + 3) / 4)) (2 * ((s.regs.len + 3) / 4)) ∧ eventsRaised s t [] ∧
      predicateWritten s t b s.regs.len (keptMask s a p ((s.regs.len + 3) / 4) s.regs.len) := by
  obtain ⟨t1, u, htake, hwrite, fu, hgroup, hrows⟩ := takeRows_writeGroup_ok h (moveFmt_lt s a)
    (prunedElems_distinct s a p ((s.regs.len + 3) / 4)) (fun e _ => Nat.zero_le _)
  obtain ⟨w, hw, fw, hv, hregs, hpred⟩ := writePred_ok ((vectorsOnly_cut fu).trans h.uncut) b s.regs.len
    (keptMask s a p ((s.regs.len + 3) / 4) s.regs.len)
  have hbody : pruned d a b p (s.moveFmt a) g s = .ok () (w.setRegs { w.regs with vstart := 0 }) := by
    refine (exec_bind_ok (exec_get s)).trans ((exec_bind_ok htake).trans ?_)
    rw [prunedElems_eq]
    exact (exec_bind_ok hwrite).trans ((exec_bind_ok hw).trans rfl)
  have hfull : checked [a] (fun _ => False) none none none (fun t => fromZero d (t.moveFmt a) (pruned d a b p (t.moveFmt a))) s =
      .ok () (w.setRegs { w.regs with vstart := 0 }) :=
    (checked_ok h.sources not_false).trans ((fromZero_ok h h0).trans hbody)
  obtain ⟨t, ht, hframe, -, hv', hp', hregs'⟩ := vinsn_ends (pipe := 1) (i := .vprune d a b p) h.runs h.room h.uncut hfull
    (bodyFrame_trans (bodyFrame_of_vectorsOnly fu) (bodyFrame_trans fw (bodyFrame_vstart w 0)))
  have hvt : t.cur.v = u.cur.v := hv'.trans hv
  refine ⟨t, (vprune_eq d a b p s).trans ht, hframe, start_ends hregs', groupWritten_congr hvt hgroup, rowsWritten_congr hvt hrows,
    eventsRaised_ends hregs' (eventsRaised_nil ?_), ?_⟩
  · show { w.regs with vstart := 0 } = _
    rw [hregs, fu]
    rfl
  · exact predicateWritten_congr (by rw [fu]) (by rw [fu]; rfl) hp' hpred

/-- The mask of what is kept, element by element (R119, R180). -/
theorem getLsbD_of_keptMask {t : State} {k : Nat}
    (h : predicateWritten s t b s.regs.len (keptMask s a p ((s.regs.len + 3) / 4) s.regs.len)) (hb : b ≠ 0) (hk : k < 1024) :
    (t.p b).getLsbD k = true ↔
      if k < s.regs.len then k ∈ keptOf s a p (k / 4) else s.regs.tail = 0 ∧ (s.p b).getLsbD k = true := by
  rw [h.2 hb, getLsbD_bitsTrimmed]
  by_cases hlen : k < s.regs.len
  · have hmem : (k, ((List.range ((s.regs.len + 3) / 4)).map (keptOf s a p)).flatten.contains k) ∈
        keptMask s a p ((s.regs.len + 3) / 4) s.regs.len := List.mem_map_of_mem (List.mem_range.mpr hlen)
    rw [getLsbD_bitsSet_mem hmem (bitsSet_map List.pairwise_lt_range) hk, if_pos hlen, ← mem_keptLists hlen]
    simp [hlen]
  · have hother : ∀ e ∈ keptMask s a p ((s.regs.len + 3) / 4) s.regs.len, e.1 ≠ k := fun e he heq => by
      obtain ⟨j, hj, rfl⟩ := List.mem_map.mp he
      exact hlen (heq ▸ List.mem_range.mp hj)
    rw [getLsbD_bitsSet_other hother, if_neg hlen, decide_eq_false hlen, Bool.false_or]
    simp [and_comm]

/-- Settles O25: vscan by what its fold has accumulated at each element, vprune by its pairs and its mask. -/
theorem scansAndPruning : Obligations.ScansAndPruning := by
  refine ⟨?scans, ?pruning, ?traps⟩
  case scans =>
    intro s d a b p g srcs f upTo h h0 hblock x carry sum ks
    unfold exec
    dsimp only
    cases hint : f.isInt with
    | true =>
      simp only [if_true, true_or]
      exact vscan_ints h h0 hint
    | false =>
      simp only [Bool.false_eq_true, if_false, false_or]
      exact vscan_floats h h0 hint rfl
  case pruning =>
    intro s d a b p g f quads kept h h0
    unfold exec
    dsimp only
    obtain ⟨t, ht, hframe, hstart, hgroup, hrows, hev, hpred⟩ := vprune_completes (b := b) (p := p) h h0
    refine ⟨t, ht, hframe, hstart, ?_, hrows, hev, fun hb k hk => getLsbD_of_keptMask hpred hb hk, hpred.1⟩
    exact hgroup
  case traps =>
    intro s d a b p x hr hq srcs
    unfold exec
    dsimp only
    refine ⟨fun h => ?_, fun h => ?_⟩
    · rw [vscan_eq]
      exact zero_traps_sources hr hq ((cuttable_two rfl).trans rfl) rfl h
    · rw [vprune_eq]
      exact zero_traps_sources hr hq ((cuttable_two rfl).trans rfl) rfl h

end Sys2Proof.Proofs
end

/-! ## vretag (R117, R162) -/
section
namespace Sys2Proof.Proofs

open Sys2Proof.Machine Sys2Proof.Laws

/-- A sweep that is about to be cut before element 1 of a form. -/
def sweepCut : State := { Tests.thread0 with cur := { Tests.thread0.cur with kind := .sweep, cut := some 1 } }

theorem sweepCut_runs : sweepCut.runs .threadOnly := by
  unfold State.runs
  decide +kernel

theorem sweepCut_room : sweepCut.cur.vqueue.length < 32 := by decide +kernel

/-- vretag is no elementwise form: its trap, for a source that starts no group of two, finds the cut forgotten. -/
theorem sweepCut_vretag : (Tests.nextOf (exec (.vretag 0 1 0 1) sweepCut)).cur.cut = none := by decide +kernel

/-- The same trap taken in the state itself leaves the cut. -/
theorem sweepCut_trap : (settle (.vretag 0 1 0 1) (trap 0x41 (some ((1 : Reg).setWidth 64)) ((sweepCut.tag 1).setWidth 64)) sweepCut).cur.cut =
    some 1 := by decide +kernel

/-- Refutes O16: vretag is no elementwise form, so that it has forgotten a cut that was due before it makes its checks (R162). Its
GROUP_ALIGN ends a sweep without that cut, where the statement, which takes the trap in the state before, keeps it. -/
theorem not_vectorLengthAndType : ¬ Obligations.VectorLengthAndType := by
  intro h
  obtain ⟨-, hretag⟩ := h
  obtain ⟨halign, -, -⟩ := hretag sweepCut 0 1 0 1 sweepCut_runs sweepCut_room
  have hcut := congrArg (fun o => (Tests.nextOf o).cur.cut) (halign (by decide))
  exact absurd (sweepCut_vretag.symm.trans (hcut.trans sweepCut_trap)) (by decide)

end Sys2Proof.Proofs
end


/-! ## A page walk that meets a latent error (R196, R405) -/
section
namespace Sys2Proof.Proofs

open Sys2Proof.Machine Sys2Proof.Laws

/-- A tower whose translation table of page 0 holds a latent uncorrectable error, with an error log in memory. -/
def poisonedTable : State :=
  { State.reset with
    dev := { Device.reset with towerok := 1, errbase := 0x20000 }
    latent := [{ unit := 0, cause := 0x71, val2 := 0 }] }

theorem poisonedTable_mem : poisonedTable.mem = [] := rfl

/-- The walk finds the error, and the error log's entry of it is bytes of memory. -/
theorem poisonedTable_walk : (Tests.nextOf (exec (.pageWalk 0 0 0) poisonedTable)).mem ≠ [] := by decide +kernel

/-- Refutes O50: a walk whose table entry holds a latent uncorrectable error finds it, and logs it to memory where an error log is
bound (R405). The statement has every walk leave memory alone. -/
theorem not_cachesAndTables : ¬ Obligations.CachesAndTables := by
  intro h
  obtain ⟨-, -, -, hwalk, -⟩ := h poisonedTable poisonedTable 0 0 0
  obtain ⟨t, hnext, hmem, -⟩ := hwalk 0
  have hlogged := poisonedTable_walk
  rw [hnext] at hlogged
  exact hlogged (hmem.trans poisonedTable_mem)

end Sys2Proof.Proofs
end

/-! ## The form of memory: what the later steps share (R192, R6) -/
section
namespace Sys2Proof.Proofs

open Sys2Proof.Machine Sys2Proof.Laws

variable {α β : Type} {s : State}

theorem keeps_map {f : α → β} {x : Exec α} (h : Keeps x) : Keeps (f <$> x) := keeps_bind h fun _ => keeps_pure _

/-- A guard: `x` where the condition holds, and in either case what follows. -/
theorem keeps_guard {p : Prop} [Decidable p] {x : Exec PUnit} {k : PUnit → Exec β} (hx : Keeps x) (hk : ∀ u, Keeps (k u)) :
    Keeps (if p then x >>= k else k ⟨⟩) := keeps_ite (keeps_bind hx hk) (hk _)

/-- A guard that does two things before it goes on. -/
theorem keeps_guard_then {p : Prop} [Decidable p] {x : Exec α} {y : α → Exec PUnit} {k : PUnit → Exec β} (hx : Keeps x)
    (hy : ∀ a, Keeps (y a)) (hk : ∀ u, Keeps (k u)) : Keeps (if p then x >>= fun a => y a >>= k else k ⟨⟩) :=
  keeps_ite (keeps_bind hx fun a => keeps_bind (hy a) hk) (hk _)

theorem flying_mem (s t : State) (i : Instr) (st : Nat) : (s.flying t i st).mem = t.mem := by
  unfold State.flying
  dsimp only
  split <;> rfl

theorem keeps_inFlight (i : Instr) (st : Nat) {x : Exec α} (h : Keeps x) : Keeps (inFlight i st x) :=
  keeps_bind keeps_get fun s => keeps_bind h fun _ => keeps_bind (keeps_modify_mem fun t => flying_mem s t i st) fun _ => keeps_pure _

theorem errorsFound_wf (s t : State) (hs : s.wf = true) : (s.errorsFound t).wf = true := foldl_wf _ foundError_wf _ s hs

/-- What is undone where a form traps leaves memory as it was, but for the errors found. -/
theorem keeps_unlessTraps {x : Exec α} (h : Keeps x) : Keeps (unlessTraps x) := by
  intro s hs
  unfold unlessTraps
  split
  · exact errorsFound_wf _ _ hs
  · exact h s hs

/-- An instruction that waited is executed again: the form stays where its meaning keeps it. -/
theorem rerun_wf {w : Wait} {id : Nat} {run : Instr → State → Out} (h : ∀ i t, t.wf = true → NextWf (run i t)) (hs : s.wf = true) :
    NextWf (rerun w id run s) := by
  unfold rerun
  split
  · exact nextWf_next hs
  · split
    · split
      · dsimp only
        split
        · next u hu =>
          have hw : u.wf = true := by
            refine h _ _ ?_ u hu
            exact wf_of_mem (focus_mem s id) hs
          refine nextWf_next (wf_of_mem (focus_mem _ _) ?_)
          split
          · split <;> exact hw
          · exact hw
        · refine h _ _ ?_
          exact wf_of_mem (focus_mem s id) hs
      · exact nextWf_next hs
    · exact nextWf_next hs

@[simp] theorem vareaLoad_mem (s : State) (xs : List Byte) : (s.vareaLoad xs).mem = s.mem := by
  obtain ⟨_, _, h, -⟩ := vareaLoad_eq (xs := xs) s
  rw [h]

@[simp] theorem takePort_mem (s : State) (h : Nat) (want : Option Nat) : (s.takePort h want).mem = s.mem := by
  unfold State.takePort
  dsimp only
  split
  · rfl
  · exact setHandle_mem _ _ _

/-- Each handle with elements left takes a port or joins those that wait. -/
theorem takePorts_mem (hs : List Nat) (s : State) :
    (hs.foldl (fun s h => if (s.handle h).remaining = 0 then s else s.takePort h none) s).mem = s.mem :=
  foldl_mem _ (fun s h => by
    split
    · rfl
    · exact takePort_mem s h none) hs s

theorem keeps_restoreThread (slot : Nat) : Keeps (restoreThread slot) := by
  unfold restoreThread
  apply keeps_get_bind
  intro s hs
  extract_lets base xs va s1 s2 s3
  have loaded : s3.mem = s.mem := (takePorts_mem _ s2).trans (vareaLoad_mem s va)
  refine keeps_guard_then (keeps_modify fun _ hs => findLines_wf _ _ _ hs) (fun _ => keeps_throw _) fun _ =>
    keeps_guard (keeps_throw _) fun _ => keeps_guard (keeps_throw _) fun _ => keeps_set (wf_of_mem ?_ hs)
  dsimp only
  exact loaded

/-- An atomic step taken back leaves the word with the bits it held before. -/
theorem keeps_withdrawStep (word : Nat) : Keeps (withdrawStep word) := by
  unfold withdrawStep
  refine keeps_get_bind fun s hs => ?_
  dsimp only
  split
  · exact keeps_idle
  · exact keeps_bind (keeps_need _) fun _ => keeps_bind (keeps_need _) fun _ => keeps_set (memPutNat_wf _ _ _ _ hs)

@[simp] theorem setLength_mem (d a : Reg) (t : Nat) (s : State) : (setLength d a t s).mem = s.mem := setG_mem _ _ _

@[simp] theorem closeConvoy_mem (s : State) : s.closeConvoy.mem = s.mem := rfl

@[simp] theorem replaceV_mem (s : State) (written : Bool) (n : Nat) (r : VReg) : (s.replaceV written n r).mem = s.mem :=
  setV_mem s n r

end Sys2Proof.Proofs
end

/-! ## Scalar instructions, fences and barriers keep the form of memory -/
section
namespace Sys2Proof.Proofs

open Sys2Proof.Machine Sys2Proof.Laws

variable {α β : Type} {s : State}

theorem keeps_elementwise (vd pred : Reg) (f : Fmt) (srcs : List Reg)
    (op : State → Nat → Nat × Events) : Keeps (elementwise vd pred f srcs op) :=
  keeps_bind (keeps_checkDest _ _) fun _ => keeps_bind (keeps_checkRestart _ _ _ _) fun _ => keeps_bind keeps_get fun _ =>
    keeps_writeResult _ _ _ _

theorem keeps_settleOlder : Keeps settleOlder := keeps_modCur _

theorem keeps_resync : Keeps resync := keeps_modCur _

theorem keeps_needSupervisor : Keeps needSupervisor :=
  keeps_bind keeps_get fun _ => keeps_ite (keeps_pure _) (keeps_trap _ _ _ _)

theorem keeps_needAligned (va : Word) (n st : Nat) : Keeps (needAligned va n st) :=
  keeps_ite (keeps_pure _) (keeps_trap _ _ _ _)

theorem keeps_resolvePointer (p : Word) : Keeps (resolvePointer p) := by
  unfold resolvePointer
  refine keeps_bind keeps_get fun _ => ?_
  split
  · exact keeps_pure _
  · exact keeps_ite (keeps_pure _) (keeps_bind (keeps_orTrap _ _ _) fun _ => keeps_pure _)

theorem keeps_healPointer (va p q : Word) : Keeps (healPointer va p q) :=
  keeps_bind (keeps_atomicPlace _ _ _) fun _ => keeps_bind (keeps_updatePlace _ _ _ _ _) fun _ =>
    keeps_ite (keeps_record _ _) (keeps_pure _)

theorem keeps_noteLateRead (i : Instr) (ordered : Bool) (va y cmp : Word)
    (wrote : Bool) : Keeps (noteLateRead i ordered va y cmp wrote) :=
  keeps_ite (keeps_pure _) (keeps_modCur _)

theorem keeps_takeTicket (pl : Place) (n k : Nat) : Keeps (takeTicket pl n k) :=
  keeps_ite (keeps_bind (keeps_updatePlace _ _ _ _ _) fun _ => keeps_pure _) (keeps_bind (keeps_readPlace _ _ _) fun _ =>
    keeps_bind (keeps_updatePlace _ _ _ _ _) fun _ => keeps_pure _)

theorem keeps_readAgain (r : LateRead) : Keeps (readAgain r) := by
  unfold readAgain
  extract_lets plain_ step_
  have again : ∀ d n signed, Keeps (plain_ d n signed) := fun _ _ _ => keeps_bind (keeps_loadNat _ _ _ _) fun _ => keeps_putG _ _
  have step : ∀ n x, (∀ pl, Keeps (x pl)) → Keeps (step_ n x) := fun n x hx =>
    keeps_bind keeps_get fun _ => keeps_bind (keeps_orTrap _ _ _) fun _ => keeps_bind (keeps_need _) fun _ =>
    keeps_guard (keeps_withdrawStep _) fun _ => keeps_bind (keeps_atomicPlace _ _ _) fun _ => keeps_bind (hx _) fun _ =>
    keeps_guard (keeps_record _ _) fun _ => keeps_modCur _
  have update : ∀ (pl : Place) (n : Nat) (f : Nat → Option Nat) (d : Reg) (w : Bool) (wrote : Nat → Bool), Keeps (do
      let old ← updatePlace 0 pl n n f
      putG d (atomicOld w old)
      return wrote old) := fun _ _ _ _ _ _ =>
    keeps_bind (keeps_updatePlace _ _ _ _ _) fun _ => keeps_bind (keeps_putG _ _) fun _ => keeps_pure _
  split
  · exact again _ _ _
  · exact again _ _ _
  · exact again _ _ _
  · exact again _ _ _
  · exact again _ _ _
  · exact again _ _ _
  · exact again _ _ _
  · exact keeps_bind (keeps_loadNat _ _ _ _) fun _ => keeps_bind (keeps_resolvePointer _) fun _ => keeps_putG _ _
  · exact step _ _ fun _ => keeps_bind (keeps_takeTicket _ _ _) fun _ => keeps_bind (keeps_putG _ _) fun _ => keeps_pure _
  · exact step _ _ fun pl => update pl _ _ _ _ _
  · exact step _ _ fun pl => update pl _ _ _ _ _
  · exact step _ _ fun pl => update pl _ _ _ _ _
  · exact step _ _ fun pl => update pl _ _ _ _ _
  · exact step _ _ fun pl => update pl _ _ _ _ _
  · exact step _ _ fun pl => update pl _ _ _ _ _
  · exact step _ _ fun pl => update pl _ _ _ _ _
  · exact step _ _ fun pl => update pl _ _ _ _ _
  · exact keeps_pure _

theorem keeps_storedBefore : Keeps storedBefore := by
  unfold storedBefore
  refine keeps_get_bind fun s hs => ?_
  split
  · exact keeps_pure _
  · refine keeps_bind keeps_drawBit fun _ => ?_
    split
    · refine keeps_bind (keeps_attempt (keeps_readAgain _)) fun _ => ?_
      split
      · exact keeps_pure _
      · exact keeps_modify fun _ _ => hs
    · exact keeps_pure _

theorem keeps_completeBarrier (party : Nat) : Keeps (completeBarrier party) := keeps_modCur _

theorem rr_wf (i : Instr) (d a b : Reg) (f : Word → Word → Word) (hs : s.wf = true) : NextWf (rr i d a b f s) :=
  plain_wf _ _ (fun s => setG_mem s _ _) hs

theorem rrEv_wf (i : Instr) (d a b : Reg) (f : Word → Word → Word × Events) (hs : s.wf = true) : NextWf (rrEv i d a b f s) :=
  plain_wf _ _ (fun _ => (setG_mem _ _ _).trans (raise_mem _ _)) hs

theorem ri_wf (i : Instr) (d a : Reg) (f : Word → Word) (hs : s.wf = true) : NextWf (ri i d a f s) :=
  plain_wf _ _ (fun s => setG_mem s _ _) hs

theorem execSel_wf (d a b : Reg) (hs : s.wf = true) : NextWf (execSel d a b s) := by
  refine plain_wf _ _ (fun s => ?_) hs
  split
  · exact setG_mem s _ _
  · rfl

theorem load_wf (i : Instr) (d a : Reg) (off : BitVec 13) (n : Nat) (signed : Bool)
    (hs : s.wf = true) : NextWf (load i d a off n signed s) := by
  refine insn_wf _ _ ?_ hs
  exact keeps_bind (keeps_getG _) fun _ => keeps_bind (keeps_loadNat _ _ _ _) fun _ => keeps_bind (keeps_putG _ _) fun _ =>
    keeps_bind (keeps_modify_mem fun _ => rfl) fun _ => keeps_pure _

theorem store_wf (i : Instr) (a b : Reg) (off : BitVec 13) (n : Nat) (hs : s.wf = true) : NextWf (store i a b off n s) := by
  refine insn_wf _ _ ?_ hs
  exact keeps_bind (keeps_getG _) fun _ => keeps_bind (keeps_getG _) fun _ =>
    keeps_bind (keeps_inFlight _ _ (keeps_storeNat _ _ _ _ _)) fun _ => keeps_bind (keeps_record _ _) fun _ => keeps_pure _

theorem loadPointer_wf (i : Instr) (heal : Bool) (d a : Reg) (off : BitVec 13)
    (hs : s.wf = true) : NextWf (loadPointer i heal d a off s) := by
  refine insn_wf _ _ ?_ hs
  exact keeps_bind (keeps_getG _) fun _ => keeps_bind (keeps_needAligned _ _ _) fun _ =>
    keeps_bind (keeps_loadNat _ _ _ _) fun _ => keeps_bind (keeps_resolvePointer _) fun _ =>
    keeps_guard (keeps_inFlight _ _ (keeps_healPointer _ _ _)) fun _ => keeps_bind (keeps_putG _ _) fun _ =>
    keeps_guard (keeps_modify_mem fun _ => rfl) fun _ => keeps_pure _

theorem execPeq_wf (d a b : Reg) (hs : s.wf = true) : NextWf (execPeq d a b s) := by
  refine insn_wf _ _ ?_ hs
  exact keeps_bind (keeps_getG _) fun _ => keeps_bind (keeps_getG _) fun _ => keeps_ite (keeps_bind (keeps_putG _ _) fun _ =>
    keeps_pure _) (keeps_bind (keeps_resolvePointer _) fun _ => keeps_bind (keeps_resolvePointer _) fun _ =>
    keeps_bind (keeps_putG _ _) fun _ => keeps_pure _)

theorem atomic_wf (i : Instr) (d a b : Reg) (acq rel : Bool) (scope : BitVec 2) (w : Bool)
    (hs : s.wf = true) : NextWf (atomic i d a b acq rel scope w s) := by
  refine insn_wf _ _ ?_ hs
  exact keeps_bind (keeps_getG _) fun _ => keeps_bind (keeps_needAligned _ _ _) fun _ =>
    keeps_bind (keeps_unlessTraps (keeps_bind (keeps_releaseIf _ _) fun _ => keeps_bind (keeps_atomicPlace _ _ _) fun _ =>
    keeps_bind (keeps_anchor _) fun _ => keeps_bind (keeps_getG _) fun _ => keeps_bind (keeps_getG _) fun _ =>
    keeps_bind (keeps_inFlight _ _ (keeps_updatePlace _ _ _ _ _)) fun _ => keeps_guard (keeps_record _ _) fun _ =>
    keeps_bind (keeps_acquireIf _ _ _) fun _ => keeps_bind (keeps_putG _ _) fun _ => keeps_noteLateRead _ _ _ _ _ _)) fun _ =>
    keeps_pure _

theorem execTicket_wf (d a b : Reg) (acq rel : Bool) (scope : BitVec 2) (w : Bool)
    (hs : s.wf = true) : NextWf (execTicket d a b acq rel scope w s) := by
  refine insn_wf _ _ ?_ hs
  exact keeps_bind (keeps_getG _) fun _ => keeps_bind (keeps_needAligned _ _ _) fun _ =>
    keeps_bind (keeps_unlessTraps (keeps_bind (keeps_releaseIf _ _) fun _ => keeps_bind (keeps_atomicPlace _ _ _) fun _ =>
    keeps_bind (keeps_anchor _) fun _ => keeps_bind (keeps_getG _) fun _ =>
    keeps_bind (keeps_inFlight _ _ (keeps_takeTicket _ _ _)) fun _ => keeps_guard (keeps_record _ _) fun _ =>
    keeps_bind (keeps_acquireIf _ _ _) fun _ => keeps_bind (keeps_putG _ _) fun _ => keeps_noteLateRead _ _ _ _ _ _)) fun _ =>
    keeps_pure _

theorem execWaita_wf (d a b : Reg) (acq rel : Bool) (scope : BitVec 2) (w : Bool)
    (hs : s.wf = true) : NextWf (execWaita d a b acq rel scope w s) := by
  refine insn_wf _ _ ?_ hs
  exact keeps_bind (keeps_getG _) fun _ => keeps_bind (keeps_needAligned _ _ _) fun _ =>
    keeps_bind (keeps_unlessTraps (keeps_bind (keeps_releaseIf _ _) fun _ => keeps_bind (keeps_atomicPlace _ _ _) fun _ =>
    keeps_bind (keeps_anchor _) fun _ => keeps_bind (keeps_readPlace _ _ _) fun _ => keeps_bind (keeps_getG _) fun _ =>
    keeps_guard (keeps_throw _) fun _ => keeps_bind (keeps_noteAwaited _) fun _ => keeps_bind (keeps_acquireIf _ _ _) fun _ =>
    keeps_putG _ _)) fun _ => keeps_pure _

theorem execFence_wf (mask : BitVec 5) (kind : BitVec 2) (acq rel : Bool) (scope : BitVec 2)
    (hs : s.wf = true) : NextWf (execFence mask kind acq rel scope s) := by
  refine insn_wf _ _ ?_ hs
  exact keeps_bind (keeps_fenceOrder _ _) fun _ => keeps_bind (keeps_releaseIf _ _) fun _ =>
    keeps_bind (keeps_acquireIf _ _ _) fun _ => keeps_pure _

theorem execBarrier_wf (mask : BitVec 5) (acq rel : Bool) (scope : BitVec 2)
    (hs : s.wf = true) : NextWf (execBarrier mask acq rel scope s) := by
  refine insn_wf _ _ ?_ hs
  exact keeps_bind (keeps_releaseIf _ _) fun _ => keeps_bind keeps_get fun _ =>
    keeps_ite (keeps_bind (keeps_completeBarrier _) fun _ => keeps_bind (keeps_acquireIf _ _ _) fun _ =>
    keeps_pure _) (keeps_throw _)

theorem execBarrierComplete_wf (ag : Nat) (hs : s.wf = true) : NextWf (execBarrierComplete ag s) := by
  refine rerun_wf (fun i t ht => ?_) hs
  split
  · exact execBarrier_wf _ _ _ _ ht
  · exact nextWf_next ht

end Sys2Proof.Proofs
end

/-! ## Vector arithmetic and the vector save area keep the form of memory -/
section
namespace Sys2Proof.Proofs

open Sys2Proof.Machine Sys2Proof.Laws

variable {α β : Type} {s : State}

theorem keeps_frameAddress (a : Reg) (strm : Nat) : Keeps (frameAddress a strm) :=
  keeps_bind (keeps_getG _) fun _ => keeps_guard (keeps_trap _ _ _ _) fun _ => keeps_pure _

theorem keeps_storeBytes (va : Word) (xs : List Byte) : Keeps (storeBytes va xs) :=
  keeps_bind (keeps_each _ (fun _ => keeps_checkAccess _ _ _ _ _)) fun _ => keeps_bind (keeps_each _ (fun _ =>
    keeps_storeNat _ _ _ _ _)) fun _ => keeps_record _ _

theorem keeps_loadBytes (va : Word) (n : Nat) : Keeps (loadBytes va n) :=
  keeps_bind (keeps_eachGet _ (fun _ => keeps_loadNat _ _ _ _)) fun _ => keeps_pure _

theorem keeps_frameAccess {x : Exec α} (hx : Keeps x) : Keeps (frameAccess x) := by
  unfold frameAccess
  refine keeps_bind (keeps_attempt hx) fun _ => ?_
  split
  · exact keeps_pure _
  · exact keeps_idle
  · exact keeps_bind (keeps_setVstart _) fun _ => keeps_throw _

theorem keeps_scramble (n : Nat) : Keeps (scramble n) := by
  unfold scramble
  generalize List.range 8 = ks
  exact keeps_bind (keeps_eachGet ks (fun _ => keeps_drawRow)) fun _ => keeps_bind (keeps_drawBelow _) fun _ =>
    keeps_bind (keeps_drawBelow _) fun _ => keeps_bind (keeps_drawBelow _) fun _ => keeps_modify_mem fun s => setV_mem s _ _

theorem keeps_restoreRead (va : Word) (n : Nat) (named : List Nat) : Keeps (restoreRead va n named) := by
  unfold restoreRead
  refine keeps_bind (keeps_attempt (keeps_loadBytes _ _)) fun _ => ?_
  split
  · exact keeps_pure _
  · exact keeps_idle
  · exact keeps_bind (keeps_each named @keeps_scramble) fun _ => keeps_bind (keeps_setVstart _) fun _ => keeps_throw _

theorem keeps_frameBad (va : Word) : Keeps (frameBad va : Exec α) := keeps_trap _ _ _ _

theorem keeps_restoreRest (va : Word) (head : List Byte) (size : Nat)
    (named : List Nat) : Keeps (restoreRest va head size named) :=
  keeps_bind (keeps_restoreRead _ _ _) fun _ => keeps_pure _

theorem keeps_restoreFrame (va : Word) (head : List Byte) : Keeps (restoreFrame va head) := by
  unfold restoreFrame
  refine keeps_guard (keeps_frameBad _) fun _ => keeps_bind (keeps_restoreRest _ _ _ _) fun _ => keeps_bind keeps_get fun _ =>
    keeps_bind (keeps_needRows _) fun _ => ?_
  refine keeps_bind (keeps_modify_mem fun _ => ?_) fun _ => ?_
  · exact foldl_mem _ (fun _ _ => replaceV_mem _ _ _ _) _ _
  exact keeps_bind (keeps_setVstart _) fun _ => keeps_pure _

theorem keeps_restoreArea (va : Word) (head : List Byte) : Keeps (restoreArea va head) :=
  keeps_bind (keeps_frameAccess (keeps_loadBytes _ _)) fun _ => keeps_guard (keeps_frameBad _) fun _ =>
    keeps_bind (keeps_restoreRest _ _ _ _) fun _ => keeps_bind keeps_get fun _ => keeps_bind (keeps_needRows _) fun _ =>
    keeps_bind (keeps_modify_mem fun _ => vareaLoad_mem _ _) fun _ => keeps_pure _

theorem keeps_queuedRestore (i : Instr) {body : Exec (BitVec 64)} (hbody : Keeps body) : Keeps (queuedRestore i body) :=
  keeps_bind keeps_get fun _ => keeps_bind hbody fun _ => keeps_modify_mem fun _ => rfl

theorem vint_wf (i : Instr) (readsD : Bool) (d a b p : Reg) (op : Fmt → Int → Int → Int → Int × Events)
    (hs : s.wf = true) : NextWf (vint i readsD d a b p op s) := by
  refine vinsn_wf _ _ ?_ hs
  exact keeps_bind (keeps_each _ (fun _ => keeps_checkSource _)) fun _ => keeps_bind keeps_get fun _ =>
    keeps_guard (keeps_mismatch _ _ _) fun _ => keeps_elementwise _ _ _ _ _

theorem vfp_wf (i : Instr) (srcs : List Reg) (b? d? : Option Reg) (d a p : Reg) (rm : BitVec 2)
    (op : Fmt → Rnd → Val → Val → Val → Nat × Events) (hs : s.wf = true) : NextWf (vfp i srcs b? d? d a p rm op s) := by
  refine vinsn_wf _ _ ?_ hs
  exact keeps_bind (keeps_each _ (fun _ => keeps_checkSource _)) fun _ => keeps_bind keeps_get fun _ =>
    keeps_guard (keeps_mismatch _ _ _) fun _ => keeps_elementwise _ _ _ _ _

theorem vfp1_wf (i : Instr) (d a p : Reg) (rm : BitVec 2) (op : Fmt → Rnd → Val → Nat × Events) (hs : s.wf = true) :
    NextWf (vfp1 i d a p rm op s) := vfp_wf _ _ _ _ _ _ _ _ _ hs

theorem vfp2_wf (i : Instr) (d a b p : Reg) (rm : BitVec 2) (op : Fmt → Rnd → Val → Val → Nat × Events) (hs : s.wf = true) :
    NextWf (vfp2 i d a b p rm op s) := vfp_wf _ _ _ _ _ _ _ _ _ hs

theorem vfp3_wf (i : Instr) (d a b p : Reg) (rm : BitVec 2) (op : Fmt → Rnd → Val → Val → Val → Nat × Events)
    (hs : s.wf = true) : NextWf (vfp3 i d a b p rm op s) := vfp_wf _ _ _ _ _ _ _ _ _ hs

theorem vsign_wf (i : Instr) (srcs : List Reg) (b? : Option Reg) (d a p : Reg) (rm : BitVec 2) (op : Nat → Nat → Nat → Nat)
    (hs : s.wf = true) : NextWf (vsign i srcs b? d a p rm op s) := by
  refine vinsn_wf _ _ ?_ hs
  exact keeps_bind (keeps_each _ (fun _ => keeps_checkSource _)) fun _ => keeps_bind keeps_get fun _ =>
    keeps_guard (keeps_mismatch _ _ _) fun _ => keeps_elementwise _ _ _ _ _

theorem execVfclass_wf (d a p : Reg) (rm : BitVec 2) (hs : s.wf = true) : NextWf (execVfclass d a p rm s) := by
  refine vinsn_wf _ _ ?_ hs
  exact keeps_bind (keeps_checkSource _) fun _ => keeps_bind keeps_get fun _ => keeps_guard (keeps_mismatch _ _ _) fun _ =>
    keeps_elementwise _ _ _ _ _

theorem execVsetvli_wf (d a : Reg) (fmt : BitVec 4) (grp tail : BitVec 2)
    (hs : s.wf = true) : NextWf (execVsetvli d a fmt grp tail s) :=
  plain_wf _ _ (fun _ => (closeConvoy_mem _).trans (setLength_mem _ _ _ _)) hs

theorem execVsetvl_wf (d a b : Reg) (hs : s.wf = true) : NextWf (execVsetvl d a b s) := by
  refine insn_wf _ _ ?_ hs
  exact keeps_bind (keeps_getG _) fun _ => keeps_guard (keeps_trap _ _ _ _) fun _ => keeps_bind (keeps_modify_mem fun _ =>
    (closeConvoy_mem _).trans (setLength_mem _ _ _ _)) fun _ => keeps_pure _

theorem execVretag_wf (d a : Reg) (fmt : BitVec 4) (grp : BitVec 2) (hs : s.wf = true) : NextWf (execVretag d a fmt grp s) := by
  refine vinsn_wf _ _ ?_ hs
  refine keeps_bind keeps_get fun _ => keeps_guard (keeps_trap _ _ _ _) fun _ => keeps_guard (keeps_trap _ _ _ _) fun _ =>
    keeps_bind (keeps_needRows _) fun _ => ?_
  refine keeps_bind (keeps_modify_mem fun _ => ?_) fun _ => ?_
  · exact foldl_mem _ (fun _ _ => replaceV_mem _ _ _ _) _ _
  exact keeps_setVstart _

theorem execVspill_wf (d a : Reg) (hs : s.wf = true) : NextWf (execVspill d a s) := by
  refine vinsn_wf _ _ ?_ hs
  exact keeps_bind (keeps_checkSource _) fun _ => keeps_bind (keeps_frameAddress _ _) fun _ => keeps_bind keeps_get fun _ =>
    keeps_bind keeps_settleOlder fun _ => keeps_bind (keeps_inFlight _ _ (keeps_frameAccess (keeps_storeBytes _ _))) fun _ =>
    keeps_setVstart _

theorem execVsave_wf (d a : Reg) (hs : s.wf = true) : NextWf (execVsave d a s) := by
  refine insn_wf _ _ ?_ hs
  exact keeps_bind (keeps_frameAddress _ _) fun _ => keeps_bind keeps_resync fun _ =>
    keeps_bind (keeps_queued _ _ (keeps_bind keeps_get fun _ =>
    keeps_bind (keeps_inFlight _ _ (keeps_frameAccess (keeps_storeBytes _ _))) fun _ => keeps_bind (keeps_setVstart _) fun _ =>
    keeps_putG _ _)) fun _ => keeps_pure _

theorem execVrestore_wf (d a : Reg) (hs : s.wf = true) : NextWf (execVrestore d a s) := by
  refine insn_wf _ _ ?_ hs
  exact keeps_bind (keeps_frameAddress _ _) fun _ => keeps_bind keeps_resync fun _ =>
    keeps_bind (keeps_queuedRestore _ (keeps_bind (keeps_frameAccess (keeps_loadBytes _ _)) fun _ =>
    keeps_ite (keeps_bind (keeps_restoreFrame _ _) fun _ => keeps_bind (keeps_putG _ _) fun _ =>
    keeps_pure _) (keeps_ite (keeps_bind (keeps_restoreArea _ _) fun _ => keeps_bind (keeps_putG _ _) fun _ =>
    keeps_pure _) (keeps_bind (keeps_frameBad _) fun _ => keeps_bind (keeps_putG _ _) fun _ => keeps_pure _)))) fun _ =>
    keeps_pure _

end Sys2Proof.Proofs
end

/-! ## Vector loads and stores: what they share -/
section
namespace Sys2Proof.Proofs

open Sys2Proof.Machine Sys2Proof.Laws

variable {α β : Type} {s : State}

theorem keeps_upToFault {f : Nat → Exec α} (hf : ∀ k, Keeps (f k)) : ∀ ks : List Nat, Keeps (upToFault f ks)
  | [] => keeps_pure _
  | k :: ks => by
    unfold upToFault
    refine keeps_bind (keeps_attempt (hf k)) fun _ => ?_
    split
    · exact keeps_bind (keeps_upToFault hf ks) fun _ => keeps_pure _
    · exact keeps_pure _

theorem keeps_finishWait (id : Nat) (i : Instr) {x : Exec Unit} (hx : Keeps x) : Keeps (finishWait id i x) := by
  refine keeps_modify fun s hs => wf_of_mem (focus_mem _ _) (settle_wf i hx ?_)
  exact wf_of_mem (focus_mem s id) hs

end Sys2Proof.Proofs
end

/-! ## Vector memory forms keep the form of memory -/
section
namespace Sys2Proof.Proofs

open Sys2Proof.Machine Sys2Proof.Laws

variable {α β : Type} {s : State}

theorem keeps_someOf {f : Nat → Exec α} (ks : List Nat) (hf : ∀ a, Keeps (f a)) : Keeps (someOf f ks) := by
  unfold someOf
  refine keeps_bind (keeps_eachGet _ (fun _ => keeps_bind keeps_drawBit fun _ => ?_)) fun _ => keeps_pure _
  split
  · refine keeps_bind (keeps_attempt (hf _)) fun _ => ?_
    split <;> exact keeps_pure _
  · exact keeps_pure _

theorem keeps_delivered (st : Nat) (va : Word) (serve : Nat → Bool) : Keeps (delivered st va serve) := by
  unfold delivered
  refine keeps_bind keeps_get fun _ => ?_
  split
  · exact keeps_pure _
  · split
    · dsimp only
      split
      · exact keeps_pure _
      · exact keeps_guard (keeps_throw _) fun _ => keeps_pure _

theorem keeps_reassembled (st : Nat) (va : Word) (n : Nat) (serve : Nat → Bool) : Keeps (reassembled st va n serve) :=
  keeps_bind (keeps_passBar _) fun _ => keeps_ite (keeps_pure _) (keeps_bind (keeps_delivered _ _ _) fun _ => keeps_pure _)

theorem keeps_readElem (home : Bool) (st : Nat) (f : Fmt) (va : Word) (i : Nat) (serve : Nat → Bool) :
    Keeps (readElem home st f va i serve) := by
  unfold readElem
  refine keeps_bind (keeps_reassembled _ _ _ _) fun _ => ?_
  dsimp only
  split
  · exact keeps_bind (keeps_pure _) fun _ => keeps_pure _
  · exact keeps_bind (keeps_loadNat _ _ _ _) fun _ => keeps_pure _

theorem keeps_peekByte (st : Nat) (va : Word) : Keeps (peekByte st va) := by
  unfold peekByte
  refine keeps_bind keeps_get fun _ => ?_
  refine keeps_bind (keeps_orTrap _ _ _) fun _ => ?_
  split
  · exact keeps_bind (keeps_bridgeRead _ _) fun _ => keeps_pure _
  · exact keeps_bind (keeps_seeBytes _ _ _) fun _ => keeps_pure _
  · split
    · exact keeps_bind (keeps_seeWord _ _ _ _) fun _ => keeps_pure _
    · refine keeps_bind (keeps_orTrap _ _ _) fun _ => ?_
      split
      · split
        · exact keeps_bind (keeps_seeWord _ _ _ _) fun _ => keeps_pure _
        · exact keeps_bind (keeps_seeBytes _ _ _) fun _ => keeps_pure _

theorem keeps_writeElem (home : Bool) (st : Nat) (f : Fmt) (va : Word) (i x : Nat) : Keeps (writeElem home st f va i x) := by
  unfold writeElem
  split
  · refine keeps_bind keeps_get fun _ => ?_
    exact keeps_ite (keeps_bind (keeps_map (keeps_homePiece _ _ _ _ _)) fun _ =>
      keeps_storeNat _ _ _ _ _) (keeps_bind (keeps_peekByte _ _) fun _ => keeps_storeNat _ _ _ _ _)
  · exact keeps_storeNat _ _ _ _ _

theorem keeps_laneLoc (st w i : Nat) (a : Word) : Keeps (laneLoc st w i a) :=
  keeps_bind (keeps_passBar _) fun _ => keeps_guard (keeps_trap _ _ _ _) fun _ => keeps_bind (keeps_modCur _) fun _ =>
    keeps_bind keeps_get fun _ => keeps_pure _

theorem keeps_commitLoad (vd : Reg) (f : Fmt) (g len d : Nat) (xs : List (Nat × Nat × Option (Nat × Nat))) :
    Keeps (commitLoad vd f g len d xs) :=
  keeps_bind keeps_getRegs fun _ => keeps_bind (keeps_takeRows _ _ _ _ _) fun _ =>
    keeps_bind (keeps_writeGroup _ _ _ _ _ _) fun _ => keeps_ite (keeps_bind (keeps_writeScales _ _) fun _ =>
    keeps_bind (keeps_writeScales _ _) fun _ => keeps_trimScales _ _) (keeps_pure _)

theorem keeps_deliverFrom (vd : Reg) (f : Fmt) (g d : Nat) (ff : Bool) (ks : List Nat)
    {first : Exec (List (Nat × Elem) × Option (Nat × Stop))} {rd : Nat → Exec Elem} (hfirst : Keeps first)
    (hrd : ∀ a, Keeps (rd a)) : Keeps (deliverFrom vd f g d ff ks first rd) := by
  unfold deliverFrom
  refine keeps_bind keeps_getRegs fun _ => keeps_bind hfirst fun _ => ?_
  split
  · split
    · exact keeps_bind (keeps_commitLoad _ _ _ _ _ _) fun _ => keeps_setVstart _
    · exact keeps_ite (keeps_bind keeps_getRegs fun _ => keeps_bind (keeps_takeRows _ _ _ _ _) fun _ =>
      keeps_bind (keeps_modRegs _) fun _ => keeps_bind (keeps_commitLoad _ _ _ _ _ _) fun _ =>
      keeps_setVstart _) (keeps_bind (keeps_someOf _ (fun _ => hrd _)) fun _ =>
      keeps_bind (keeps_commitLoad _ _ _ _ _ _) fun _ => keeps_bind (keeps_setVstart _) fun _ => keeps_throw _)

theorem keeps_deliver (vd : Reg) (f : Fmt) (g d : Nat) (ff : Bool) (ks : List Nat) {rd : Nat → Exec Elem}
    (hrd : ∀ a, Keeps (rd a)) : Keeps (deliver vd f g d ff ks rd) :=
  keeps_deliverFrom _ _ _ _ _ _ (keeps_upToFault (fun _ => hrd _) _) (fun _ => hrd _)

theorem keeps_refuseBlock (f : Fmt) (vb vd : Option Reg) : Keeps (refuseBlock f vb vd) :=
  keeps_ite (keeps_mismatch _ _ _) (keeps_pure _)

theorem keeps_scaleBase (f : Fmt) (gs : Reg) : Keeps (scaleBase f gs) :=
  keeps_ite (keeps_guard (keeps_trap _ _ _ _) fun _ => keeps_bind (keeps_getG _) fun _ =>
    keeps_bind (keeps_needAligned _ _ _) fun _ => keeps_pure _) (keeps_pure _)

theorem keeps_readWithScale (home : Bool) (st : Nat) (f : Fmt) (d : Nat) (ks : List Nat) (addr scaleAt : Nat → Word)
    (half : Nat) (i : Nat) : Keeps (readWithScale home st f d ks addr scaleAt half i) :=
  keeps_ite (keeps_bind (keeps_loadNat _ _ _ _) fun _ => keeps_bind (keeps_pure _) fun _ =>
    keeps_ite (keeps_bind (keeps_pure _) fun _ => keeps_pure _) (keeps_bind (keeps_readElem _ _ _ _ _ _) fun _ =>
    keeps_pure _)) (keeps_bind (keeps_pure _) fun _ => keeps_ite (keeps_bind (keeps_pure _) fun _ =>
    keeps_pure _) (keeps_bind (keeps_readElem _ _ _ _ _ _) fun _ => keeps_pure _))

theorem keeps_checkIndex (ix : Reg) (vd : Option Reg) : Keeps (checkIndex ix vd) :=
  keeps_bind keeps_get fun _ => keeps_ite (keeps_mismatch _ _ _) (keeps_pure _)

theorem keeps_gatherElem (f : Fmt) (beat : Nat) (va : Word) (serve : Nat → Bool) (ps : Packets) :
    Keeps (gatherElem f beat va serve ps) := by
  unfold gatherElem
  refine keeps_bind (keeps_reassembled _ _ _ _) fun _ => ?_
  split
  · exact keeps_pure _
  · exact keeps_bind (keeps_loadLines _ _ _ _) fun _ => keeps_pure _

theorem keeps_gatherElems (f : Fmt) (beat : Nat → Nat) (addr : Nat → Word) :
    ∀ (ks : List Nat) (ps : Packets), Keeps (gatherElems f beat addr ks ps)
  | [], _ => keeps_pure _
  | k :: ks, ps => by
    unfold gatherElems
    refine keeps_bind (keeps_attempt (keeps_gatherElem _ _ _ _ _)) fun _ => ?_
    split
    · exact keeps_bind (keeps_gatherElems f beat addr ks _) fun _ => keeps_pure _
    · exact keeps_pure _

theorem keeps_scatterElems (len : Nat) (ks : List Nat)
    {check : Nat → Exec α} {put : Nat → α → Exec Unit} {note : Nat → List (Nat × α) → Exec Unit}
    (hcheck : ∀ a, Keeps (check a)) (hput : ∀ a b, Keeps (put a b)) (hnote : ∀ a b, Keeps (note a b)) :
    Keeps (scatterElems len ks check put note) := by
  unfold scatterElems
  refine keeps_bind (keeps_upToFault (fun _ => hcheck _) _) fun _ => ?_
  split
  · refine keeps_bind (keeps_upToFault (fun _ => ?_) _) fun _ => ?_
    · split
      · exact keeps_pure _
      · exact hput _ _
    split
    · refine keeps_bind (hnote _ _) fun _ => ?_
      split
      · exact keeps_pure _
      · exact keeps_bind (keeps_setVstart _) fun _ => keeps_throw _

theorem keeps_storeWithScale (home : Bool) (st : Nat) (f : Fmt) (vd : Nat) (d len : Nat) (ks : List Nat)
    (addr scaleAt : Nat → Word) (half : Nat) {note : Nat → Exec Unit} (hnote : ∀ a, Keeps (note a)) :
    Keeps (storeWithScale home st f vd d len ks addr scaleAt half note) :=
  keeps_bind keeps_get fun _ => keeps_scatterElems _ _ (fun _ => keeps_guard (keeps_checkAccess _ _ _ _ _) fun _ =>
    keeps_ite (keeps_checkAccess _ _ _ _ _) (keeps_pure _)) (fun _ _ => keeps_guard (keeps_writeElem _ _ _ _ _ _) fun _ =>
    keeps_ite (keeps_storeNat _ _ _ _ _) (keeps_pure _)) (fun _ _ => hnote _)

theorem keeps_clearCovered (w : Nat) (beat : Nat → Nat) (xs : List (Nat × Word)) : Keeps (clearCovered w beat xs) := by
  unfold clearCovered
  refine keeps_bind keeps_get fun _ => ?_
  split
  · exact keeps_pure _
  · refine keeps_each _ (fun _ => ?_)
    split
    · dsimp only
      split
      · exact keeps_ite (keeps_bind keeps_drawBit fun _ => keeps_ite (keeps_modify_mem fun _ =>
        rfl) (keeps_pure _)) (keeps_pure _)
      · exact keeps_pure _

theorem keeps_recordSpan (st : Nat) (w : Nat) (xs : List Nat) : Keeps (recordSpan st w xs) := by
  unfold recordSpan
  split
  · exact keeps_pure _
  · exact keeps_record _ _

theorem keeps_addPlace (w i : Nat) (va : Word) : Keeps (addPlace w i va) := by
  unfold addPlace
  refine keeps_bind (keeps_passBar _) fun _ => keeps_guard (keeps_trap _ _ _ _) fun _ => keeps_bind keeps_get fun _ =>
    keeps_bind (keeps_orTrap _ _ _) fun _ => ?_
  split
  · refine keeps_bind (keeps_checkPoison _ _ _ _) fun _ => keeps_bind (keeps_anchor _) fun _ => ?_
    dsimp only
    split <;> exact keeps_pure _

theorem keeps_addElems (f : Fmt) (w : Nat) (xs : List (Place × Nat)) : Keeps (addElems f w xs) := by
  unfold addElems
  refine keeps_bind (keeps_each _ (fun _ => ?_)) fun _ => keeps_each _ (fun _ => keeps_modify_mem fun _ => rfl)
  split
  · split
    · exact keeps_bind (keeps_bridgeRead _ _) fun _ => keeps_bind keeps_getCur fun _ => keeps_bridgeWrite _ _ _ _ _
    · exact keeps_ite (keeps_pure _) (keeps_modify_mem fun _ => rfl)

theorem keeps_advanceHandle (k n : Nat) (len : Option Nat) : Keeps (advanceHandle k n len) := by
  unfold advanceHandle
  refine keeps_modify_mem fun _ => ?_
  dsimp only
  split
  · exact (releasePort_mem _ _).trans (setHandle_mem _ _ _)
  · exact setHandle_mem _ _ _

theorem keeps_stripElem (k : Nat) (h : Handle) (n : Nat) (ks : List Nat) (i : Nat) : Keeps (stripElem k h n ks i) := by
  unfold stripElem
  dsimp only
  split
  · exact keeps_bind (keeps_passBar _) fun _ => keeps_ite (keeps_bind (keeps_loadNat _ _ _ _) fun _ =>
    keeps_bind (keeps_pure _) fun _ => keeps_pure _) (keeps_bind (keeps_pure _) fun _ => keeps_pure _)
  · exact keeps_readWithScale _ _ _ _ _ _ _ _ _

theorem keeps_stripBody (d : Reg) (k : Nat) (p : Reg) (g : Nat) : Keeps (stripBody d k p g) := by
  unfold stripBody
  refine keeps_bind keeps_get fun _ => ?_
  exact keeps_bind (keeps_deliver _ _ _ _ _ _ (fun _ => keeps_stripElem _ _ _ _ _)) fun _ => keeps_advanceHandle _ _ _

theorem keeps_checkStripFmt (h : Handle) (f : Fmt) (vd : Option Reg) : Keeps (checkStripFmt h f vd) :=
  keeps_ite (keeps_pure _) (keeps_mismatch _ _ _)

theorem keeps_checkStrip (k : Nat) (f : Fmt) (vd : Option Reg) : Keeps (checkStrip k f vd) :=
  keeps_bind keeps_get fun _ => keeps_bind (keeps_need _) fun _ => keeps_bind keeps_get fun _ => keeps_checkStripFmt _ _ _

theorem keeps_noteStrip (k : Nat) : Keeps (noteStrip k) := keeps_modify_mem fun _ => setHandle_mem _ _ _

theorem keeps_backToRows (a : Agent) : Keeps (backToRows a) := by
  unfold backToRows
  refine keeps_asAgent _ (keeps_bind keeps_get fun _ => ?_)
  dsimp only
  split
  · exact keeps_pure _
  · refine keeps_bind (keeps_attempt (keeps_needRows _)) fun _ => ?_
    split
    · exact keeps_pure _
    · exact keeps_modCur _

theorem keeps_gangMember (d p : Reg) (h : BitVec 3) (ord : BitVec 2) (i : Instr) (hd : Handle) (n : Nat)
    (xs more : List (Nat × Elem)) (stop : Option (Nat × Stop)) : Keeps (gangMember d p h ord i hd n xs more stop) := by
  unfold gangMember
  refine keeps_bind keeps_get fun _ => ?_
  refine keeps_bind (keeps_eachGet _ (fun _ => keeps_bind keeps_drawBit fun _ => keeps_pure _)) fun _ =>
    keeps_bind (keeps_commitLoad _ _ _ _ _ _) fun _ => keeps_guard (keeps_writeScales _ _) fun _ => ?_
  split
  · refine keeps_bind (keeps_setVstart _) fun _ => ?_
    exact keeps_bind (keeps_modify_mem fun _ => rfl) fun _ => keeps_bind (keeps_modCur _) fun _ =>
      keeps_bind (keeps_acquireIf _ _ _) fun _ => keeps_modify_mem fun _ => retire_mem _ _ _
  · exact keeps_bind (keeps_setVstart _) fun _ => keeps_throw _

theorem vload_wf (i : Instr) (d : Reg) (st : Nat) (ord : BitVec 2)
    {none_ checks operands : Exec Unit} {body : Nat → Exec Unit} (hnone_ : Keeps none_) (hchecks : Keeps checks)
    (hoperands : Keeps operands) (hbody : ∀ a, Keeps (body a)) (hs : s.wf = true) :
    NextWf (vload i d st ord none_ checks operands body s) := by
  refine vinsn_wf _ _ ?_ hs
  exact keeps_bind keeps_getRegs fun _ => keeps_ite (keeps_bind (keeps_checkLoadDest _) fun _ =>
    keeps_bind (keeps_commitLoad _ _ _ _ _ _) fun _ => keeps_bind (keeps_setVstart _) fun _ =>
    hnone_) (keeps_bind hchecks fun _ => keeps_bind (keeps_checkLoadDest _) fun _ => keeps_bind hoperands fun _ =>
    keeps_bind (keeps_passBar _) fun _ => keeps_bind keeps_get fun _ => keeps_bind (keeps_needRows _) fun _ =>
    keeps_bind (keeps_releaseIf _ _) fun _ => keeps_bind (hbody _) fun _ => keeps_bind (keeps_modCur _) fun _ =>
    keeps_acquireIf _ _ _)

theorem execVld_wf (d a sr p : Reg) (ord : BitVec 2) (hs : s.wf = true) : NextWf (execVld d a sr p ord s) := by
  refine vload_wf _ _ _ _ (keeps_pure _) (keeps_pure _) (keeps_bind keeps_getRegs fun _ =>
    keeps_bind (keeps_scaleBase _ _) fun _ => keeps_pure _) (fun _ => keeps_bind keeps_getRegs fun _ =>
    keeps_bind (keeps_scaleBase _ _) fun _ => keeps_bind (keeps_getG _) fun _ => keeps_bind keeps_get fun _ => ?_) hs
  exact keeps_deliver _ _ _ _ _ _ (fun _ => keeps_readWithScale _ _ _ _ _ _ _ _ _)

theorem execVlds_wf (d a ix p : Reg) (ord : BitVec 2) (hs : s.wf = true) : NextWf (execVlds d a ix p ord s) := by
  refine vload_wf _ _ _ _ (keeps_pure _) (keeps_bind keeps_getRegs fun _ => keeps_refuseBlock _ _ _) (keeps_pure _) (fun _ =>
    keeps_bind keeps_getRegs fun _ => keeps_bind (keeps_getG _) fun _ => keeps_bind (keeps_getG _) fun _ =>
    keeps_bind keeps_get fun _ => ?_) hs
  exact keeps_deliver _ _ _ _ _ _ (fun _ => keeps_bind (keeps_readElem _ _ _ _ _ _) fun _ => keeps_pure _)

theorem execVldff_wf (d a p : Reg) (ord : BitVec 2) (hs : s.wf = true) : NextWf (execVldff d a p ord s) :=
  vload_wf _ _ _ _ (keeps_pure _) (keeps_bind keeps_getRegs fun _ => keeps_refuseBlock _ _ _) (keeps_pure _) (fun _ =>
    keeps_bind keeps_getRegs fun _ => keeps_bind (keeps_getG _) fun _ => keeps_bind keeps_get fun _ =>
    keeps_deliver _ _ _ _ _ _ (fun _ => keeps_bind (keeps_readElem _ _ _ _ _ _) fun _ => keeps_pure _)) hs

theorem execVldx_wf (d a ix p : Reg) (ls : Bool) (ord : BitVec 2) (hs : s.wf = true) : NextWf (execVldx d a ix p ls ord s) := by
  refine vload_wf _ _ _ _ (keeps_pure _) (keeps_bind (keeps_checkSource _) fun _ => keeps_bind (keeps_checkIndex _ _) fun _ =>
    keeps_bind keeps_getRegs fun _ => keeps_refuseBlock _ _ _) (keeps_pure _) (fun _ => keeps_bind keeps_getRegs fun _ =>
    keeps_bind (keeps_getG _) fun _ => keeps_bind keeps_get fun _ => ?_) hs
  exact keeps_ite (keeps_deliver _ _ _ _ _ _ (fun _ => keeps_bind (keeps_laneLoc _ _ _ _) fun _ =>
    keeps_bind (keeps_checkPoison _ _ _ _) fun _ => keeps_bind (keeps_seeBytes _ _ _) fun _ =>
    keeps_pure _)) (keeps_deliverFrom _ _ _ _ _ _ (keeps_gatherElems _ _ _ _ _) (fun _ =>
    keeps_bind (keeps_gatherElem _ _ _ _ _) fun _ => keeps_pure _))

theorem vstore_wf (i : Instr) (st : Nat) (ord : BitVec 2) {checks body : Exec Unit} (hchecks : Keeps checks)
    (hbody : Keeps body) (hs : s.wf = true) : NextWf (vstore i st ord checks body s) := by
  refine vinsn_wf _ _ ?_ hs
  exact keeps_bind keeps_getRegs fun _ => keeps_ite (keeps_setVstart _) (keeps_bind hchecks fun _ =>
    keeps_bind (keeps_passBar _) fun _ => keeps_bind (keeps_releaseIf _ _) fun _ => keeps_bind keeps_settleOlder fun _ =>
    keeps_bind (keeps_inFlight _ _ hbody) fun _ => keeps_bind keeps_storedBefore fun _ => keeps_bind (keeps_modCur _) fun _ =>
    keeps_bind (keeps_setVstart _) fun _ => keeps_acquireIf _ _ _)

theorem execVst_wf (d a sr p : Reg) (ord : BitVec 2) (hs : s.wf = true) : NextWf (execVst d a sr p ord s) := by
  refine vstore_wf _ _ _ (keeps_bind (keeps_checkSource _) fun _ => keeps_bind keeps_get fun _ =>
    keeps_bind (keeps_scaleBase _ _) fun _ => keeps_pure _) (keeps_bind keeps_get fun _ => ?_) hs
  refine keeps_bind (keeps_scaleBase _ _) fun _ => keeps_bind (keeps_getG _) fun _ =>
    keeps_storeWithScale _ _ _ _ _ _ _ _ _ _ (fun _ => ?_)
  exact keeps_ite (keeps_guard (keeps_record _ _) fun _ => keeps_ite (keeps_record _ _) (keeps_pure _)) (keeps_record _ _)

theorem execVsts_wf (d a ix p : Reg) (ord : BitVec 2) (hs : s.wf = true) : NextWf (execVsts d a ix p ord s) := by
  refine vstore_wf _ _ _ (keeps_bind (keeps_checkSource _) fun _ => keeps_bind keeps_get fun _ =>
    keeps_refuseBlock _ _ _) (keeps_bind keeps_get fun _ => ?_) hs
  exact keeps_bind (keeps_getG _) fun _ => keeps_bind (keeps_getG _) fun _ =>
    keeps_storeWithScale _ _ _ _ _ _ _ _ _ _ (fun _ => keeps_record _ _)

theorem execVstx_wf (d a ix p : Reg) (ls : Bool) (ord : BitVec 2) (hs : s.wf = true) : NextWf (execVstx d a ix p ls ord s) := by
  refine vstore_wf _ _ _ (keeps_bind (keeps_checkSource _) fun _ => keeps_bind (keeps_checkSource _) fun _ =>
    keeps_bind (keeps_checkIndex _ _) fun _ => keeps_bind keeps_get fun _ =>
    keeps_refuseBlock _ _ _) (keeps_bind keeps_getCur fun _ => keeps_bind (keeps_drainBank _) fun _ =>
    keeps_bind keeps_get fun _ => ?_) hs
  exact keeps_bind (keeps_getG _) fun _ => keeps_scatterElems _ _ (fun _ =>
    keeps_ite (keeps_laneLoc _ _ _ _) (keeps_bind (keeps_checkAccess _ _ _ _ _) fun _ => keeps_pure _)) (fun _ _ =>
    keeps_ite (keeps_putBytes _ _ _) (keeps_storeNat _ _ _ _ _)) (fun _ _ =>
    keeps_ite (keeps_pure _) (keeps_bind (keeps_clearCovered _ _ _) fun _ => keeps_recordSpan _ _ _))

theorem execVscadd_wf (d a ix p : Reg) (ls : Bool) (ord : BitVec 2) (hs : s.wf = true) :
    NextWf (execVscadd d a ix p ls ord s) := by
  refine vstore_wf _ _ _ (keeps_bind (keeps_checkSource _) fun _ => keeps_bind (keeps_checkSource _) fun _ =>
    keeps_bind (keeps_checkIndex _ _) fun _ => keeps_bind keeps_get fun _ =>
    keeps_ite (keeps_mismatch _ _ _) (keeps_pure _)) (keeps_bind keeps_get fun _ => ?_) hs
  exact keeps_bind (keeps_getG _) fun _ => keeps_ite (keeps_scatterElems _ _ (fun _ => keeps_laneLoc _ _ _ _) (fun _ _ =>
    keeps_bind (keeps_checkPoison _ _ _ _) fun _ => keeps_bind (keeps_updatePlace _ _ _ _ _) fun _ => keeps_pure _) (fun _ _ =>
    keeps_pure _)) (keeps_scatterElems _ _ (fun _ => keeps_addPlace _ _ _) (fun _ _ => keeps_pure _) (fun _ _ =>
    keeps_bind (keeps_addElems _ _ _) fun _ => keeps_recordSpan _ _ _))

theorem execVsld_wf (d : Reg) (h : BitVec 3) (p : Reg) (ord : BitVec 2) (hs : s.wf = true) : NextWf (execVsld d h p ord s) :=
  vload_wf _ _ _ _ (keeps_noteStrip _) (keeps_bind keeps_getRegs fun _ => keeps_checkStrip _ _ _) (keeps_pure _) (fun _ =>
    keeps_stripBody _ _ _ _) hs

theorem execVsst_wf (d : Reg) (hn : BitVec 3) (p : Reg) (ord : BitVec 2) (hs : s.wf = true) :
    NextWf (execVsst d hn p ord s) := by
  refine vstore_wf _ _ _ (keeps_bind (keeps_checkSource _) fun _ => keeps_bind keeps_get fun _ =>
    keeps_checkStrip _ _ _) (keeps_bind keeps_get fun _ => ?_) hs
  exact keeps_bind (keeps_storeWithScale _ _ _ _ _ _ _ _ _ _ (fun _ => keeps_bind (keeps_clearCovered _ _ _) fun _ =>
    keeps_ite (keeps_modify_mem fun _ => setHandle_mem _ _ _) (keeps_ite (keeps_bind (keeps_record _ _) fun _ =>
    keeps_bind (keeps_record _ _) fun _ => keeps_modify_mem fun _ =>
    setHandle_mem _ _ _) (keeps_ite (keeps_bind (keeps_record _ _) fun _ => keeps_modify_mem fun _ =>
    setHandle_mem _ _ _) (keeps_bind (keeps_each _ (fun _ => keeps_record _ _)) fun _ => keeps_modify_mem fun _ =>
    setHandle_mem _ _ _))))) fun _ => keeps_advanceHandle _ _ _

/-- A handle bound anew gives up its port, and takes one unless it is exhausted. -/
theorem rebindPort_mem (s : State) (k : Nat) (h : Handle) (c : Prop) [Decidable c] :
    (if c then (s.releasePort k).setHandle k h else ((s.releasePort k).setHandle k h).takePort k none).mem = s.mem := by
  have hbound : ((s.releasePort k).setHandle k h).mem = s.mem := (setHandle_mem _ _ _).trans (releasePort_mem _ _)
  split
  · exact hbound
  · exact (takePort_mem _ _ _).trans hbound

theorem execVstrip_wf (hn : BitVec 3) (ix : Reg) (hs : s.wf = true) : NextWf (execVstrip hn ix s) := by
  have bound : ∀ (k : Nat) (h : Handle), Keeps (modify fun s =>
      if h.remaining = 0 then (s.releasePort k).setHandle k { h with aheadLen := s.regs.len }
      else ((s.releasePort k).setHandle k { h with aheadLen := s.regs.len }).takePort k none) :=
    fun k h => keeps_modify_mem fun s => rebindPort_mem s k _ _
  refine insn_wf _ _ ?_ hs
  exact keeps_bind (keeps_getG _) fun _ => keeps_bind (keeps_needAligned _ _ _) fun _ =>
    keeps_bind (keeps_loadNat _ _ _ _) fun _ => keeps_bind (keeps_loadNat _ _ _ _) fun _ =>
    keeps_guard (keeps_trap _ _ _ _) fun _ => keeps_bind (bound _ _) fun _ => keeps_pure _

theorem execVgsld_wf (d : Reg) (h : BitVec 3) (p : Reg) (ord : BitVec 2) (hs : s.wf = true) :
    NextWf (execVgsld d h p ord s) := by
  unfold execVgsld
  split
  · exact vload_wf _ _ _ _ (keeps_noteStrip _) (keeps_bind keeps_getRegs fun _ =>
    keeps_checkStrip _ _ _) (keeps_pure _) (fun _ => keeps_stripBody _ _ _ _) hs
  · refine vinsn_wf _ _ ?_ hs
    refine keeps_bind keeps_get fun _ => ?_
    dsimp only
    split
    · exact keeps_bind (keeps_checkLoadDest _) fun _ => keeps_guard (keeps_trap _ _ _ _) fun _ =>
      keeps_bind (keeps_needRows _) fun _ => keeps_throw _
    · exact keeps_bind (keeps_need _) fun _ => keeps_bind (keeps_checkStripFmt _ _ _) fun _ =>
      keeps_bind (keeps_checkLoadDest _) fun _ => keeps_guard (keeps_trap _ _ _ _) fun _ =>
      keeps_bind (keeps_needRows _) fun _ => keeps_throw _

theorem execVgsldMeet_wf (ag : Nat) (hs : s.wf = true) : NextWf (execVgsldMeet ag s) := by
  refine event_wf ?_ hs
  refine keeps_bind keeps_get fun _ => ?_
  split
  · exact keeps_idle
  · refine keeps_bind (keeps_need _) fun _ => ?_
    dsimp only
    split
    · refine keeps_each _ (fun _ => ?_)
      split
      · exact keeps_finishWait _ _ (keeps_trap _ _ _ _)
      · exact keeps_pure _
    · refine keeps_bind (keeps_need _) fun _ => keeps_bind (keeps_each _ (fun _ => ?_)) fun _ => keeps_bind keeps_get fun _ =>
      keeps_bind (keeps_need _) fun _ => ?_
      · split
        · exact keeps_backToRows _
        · exact keeps_pure _
      split
      · refine keeps_each _ (fun _ => ?_)
        split
        · exact keeps_finishWait _ _ (keeps_trap _ _ _ _)
        · exact keeps_pure _
      · split
        · refine keeps_bind (keeps_asAgent _ (keeps_bind keeps_get fun _ => keeps_need _)) fun _ =>
          keeps_bind (keeps_each _ (fun _ => keeps_asAgent _ (keeps_bind keeps_settleOlder fun _ =>
          keeps_releaseIf _ _))) fun _ => ?_
          refine keeps_bind (keeps_asAgent _ (keeps_bind keeps_get fun _ => ?_)) fun _ => ?_
          · refine keeps_bind (keeps_upToFault (fun _ => keeps_stripElem _ _ _ _ _) _) fun found => ?_
            obtain ⟨_, stop⟩ := found
            cases stop with
            | none => exact keeps_bind (keeps_pure _) fun _ =>
                keeps_bind (keeps_ite (keeps_advanceHandle _ _ _) (keeps_noteStrip _)) fun _ => keeps_pure _
            | some _ => exact keeps_bind (keeps_someOf _ fun _ => keeps_stripElem _ _ _ _ _) fun _ => keeps_pure _
          refine keeps_each _ (fun _ => ?_)
          split
          · exact keeps_finishWait _ _ (keeps_gangMember _ _ _ _ _ _ _ _ _ _)
          · exact keeps_pure _
        · exact keeps_idle

end Sys2Proof.Proofs
end

/-! ## The matrix control core keeps the form of memory -/
section
namespace Sys2Proof.Proofs

open Sys2Proof.Machine Sys2Proof.Laws

variable {α β : Type} {s : State}

theorem keeps_readTileDesc (a : Reg) : Keeps (readTileDesc a) :=
  keeps_bind (keeps_getG _) fun _ => keeps_bind (keeps_needAligned _ _ _) fun _ => keeps_bind (keeps_loadNat _ _ _ _) fun _ =>
    keeps_pure _

theorem keeps_checkTile (va : Word) (sideB : Bool) (d : TileDesc) : Keeps (checkTile va sideB d) := by
  unfold checkTile
  dsimp only
  split
  · exact keeps_trap _ _ _ _
  · refine keeps_guard (keeps_trap _ _ _ _) fun _ => ?_
    split
    · exact keeps_trap _ _ _ _
    · exact keeps_pure _

theorem keeps_readTileRow (d : TileDesc) (r : Nat) (seen : LinesRead) : Keeps (readTileRow d r seen) :=
  keeps_bind (keeps_loadLines _ _ _ _) fun _ => keeps_ite (keeps_bind (keeps_pure _) fun _ =>
    keeps_ite (keeps_bind (keeps_loadLines _ _ _ _) fun _ => keeps_pure _) (keeps_bind (keeps_pure _) fun _ =>
    keeps_pure _)) (keeps_bind (keeps_loadLines _ _ _ _) fun _ => keeps_ite (keeps_bind (keeps_loadLines _ _ _ _) fun _ =>
    keeps_pure _) (keeps_bind (keeps_pure _) fun _ => keeps_pure _))

theorem keeps_setTile (sideB : Bool) (t : Tile) : Keeps (setTile sideB t) := keeps_bind keeps_get fun _ => keeps_modCluster _ _

theorem keeps_readTile (va : Word) (sideB ff : Bool) (d : TileDesc) : ∀ (n r : Nat)
    (acc : List (BitVec 8192 × BitVec 256 × BitVec 512)) (seen : LinesRead), Keeps (readTile va sideB ff d n r acc seen)
  | 0, _, _, _ => keeps_pure _
  | n + 1, r, acc, seen => by
    unfold readTile
    refine keeps_bind (keeps_attempt (keeps_readTileRow _ _ _)) fun _ => ?_
    split
    · refine keeps_ite (keeps_pure _) (keeps_bind (keeps_setTile _ _) fun _ => ?_)
      split
      · exact keeps_throw _
      · exact keeps_throw _
    · split
      · exact keeps_trap _ _ _ _
      · exact keeps_readTile va sideB ff d n _ _ _

theorem keeps_checkStoreTile (va : Word) (d : TileDesc) : Keeps (checkStoreTile va d) := by
  unfold checkStoreTile
  split
  · exact keeps_trap _ _ _ _
  · exact keeps_pure _

theorem keeps_accessRow (acc : BitVec 2) (b : Reg) : Keeps (accessRow acc b) :=
  keeps_bind keeps_get fun _ => keeps_guard (keeps_trap _ _ _ _) fun _ => keeps_bind (keeps_getG _) fun _ =>
    keeps_guard (keeps_trap _ _ _ _) fun _ => keeps_bind (keeps_need _) fun _ => keeps_pure _

theorem loadTile_wf (i : Instr) (sideB ff : Bool) (d a : Reg) (hs : s.wf = true) : NextWf (loadTile i sideB ff d a s) := by
  refine insn_wf _ _ ?_ hs
  exact keeps_bind (keeps_readTileDesc _) fun _ => keeps_bind (keeps_checkTile _ _ _) fun _ =>
    keeps_bind (keeps_readTile _ _ _ _ _ _ _ _) fun _ => keeps_bind (keeps_setTile _ _) fun _ =>
    keeps_bind (keeps_putG _ _) fun _ => keeps_pure _

theorem execAccRowComplete_wf (cl acc row : Nat) (hs : s.wf = true) : NextWf (execAccRowComplete cl acc row s) := by
  refine event_wf ?_ hs
  exact keeps_bind keeps_get fun _ => keeps_bind (keeps_need _) fun _ => keeps_modCluster _ _

theorem multiply_wf (i : Instr) (sparse : Bool) (acc : BitVec 2) (hs : s.wf = true) : NextWf (multiply i sparse acc s) := by
  refine insn_wf _ _ ?_ hs
  exact keeps_get_bind fun s hs => keeps_guard (keeps_trap _ _ _ _) fun _ => keeps_guard (keeps_trap _ _ _ _) fun _ =>
    keeps_guard (keeps_trap _ _ _ _) fun _ => keeps_guard (keeps_trap _ _ _ _) fun _ => keeps_bind (keeps_set hs) fun _ =>
    keeps_pure _

theorem execMzero_wf (acc : BitVec 2) (hs : s.wf = true) : NextWf (execMzero acc s) := by
  refine insn_wf _ _ ?_ hs
  exact keeps_bind keeps_get fun _ => keeps_bind (keeps_modCluster _ _) fun _ => keeps_pure _

theorem execMst_wf (acc : BitVec 2) (a : Reg) (hs : s.wf = true) : NextWf (execMst acc a s) := by
  refine insn_wf _ _ ?_ hs
  refine keeps_bind (keeps_readTileDesc _) fun _ => ?_
  split
  · refine keeps_bind (keeps_checkStoreTile _ _) fun _ => keeps_bind keeps_get fun _ => keeps_bind (keeps_need _) fun _ =>
    keeps_bind (keeps_each _ (fun _ => keeps_bind (keeps_attempt (keeps_bind (keeps_inFlight _ _ (keeps_each _ (fun _ =>
    keeps_storeNat _ _ _ _ _))) fun _ => keeps_bind (keeps_clearCovered _ _ _) fun _ => keeps_record _ _)) fun _ =>
    ?_)) fun _ => keeps_pure _
    split
    · exact keeps_pure _
    · exact keeps_throw _
    · exact keeps_throw _

theorem execVmrd_wf (d : Reg) (acc : BitVec 2) (b p : Reg) (rm : BitVec 2) (hs : s.wf = true) :
    NextWf (execVmrd d acc b p rm s) := by
  refine vinsn_wf _ _ ?_ hs
  exact keeps_bind keeps_getRegs fun _ => keeps_guard (keeps_mismatch _ _ _) fun _ => keeps_bind (keeps_checkDest _ _) fun _ =>
    keeps_bind (keeps_accessRow _ _) fun _ => keeps_bind keeps_get fun _ => keeps_writeResult _ _ _ _

theorem execVmwr_wf (d : Reg) (acc : BitVec 2) (b p : Reg) (hs : s.wf = true) : NextWf (execVmwr d acc b p s) := by
  refine vinsn_wf _ _ ?_ hs
  exact keeps_bind (keeps_checkSource _) fun _ => keeps_bind keeps_get fun _ => keeps_guard (keeps_mismatch _ _ _) fun _ =>
    keeps_bind (keeps_accessRow _ _) fun _ => keeps_bind keeps_settleOlder fun _ => keeps_bind (keeps_modCluster _ _) fun _ =>
    keeps_endStrip

end Sys2Proof.Proofs
end

/-! ## Bring-up, launches and the system keep the form of memory -/
section
namespace Sys2Proof.Proofs

open Sys2Proof.Machine Sys2Proof.Laws

variable {α β : Type} {s : State}

/-! ### Bring-up -/

theorem startDispatchers_mem (s : State) : s.startDispatchers.mem = s.mem :=
  foldl_mem _ (fun _ _ => putAgent_mem _ _) _ s

theorem bringUp_wf (p : Nat) {f : State → State} (hf : ∀ s, s.wf = true → (f s).wf = true) (hs : s.wf = true) :
    NextWf (Machine.bringUp p f s) :=
  event_wf (keeps_bind keeps_get fun _ => keeps_bind (keeps_need _) fun _ => keeps_modify hf) hs

theorem execPowerOn_wf (hs : s.wf = true) : NextWf (execPowerOn s) :=
  nextWf_next (filter_wf _ _ hs)

theorem execFirmwareVerified_wf (ok : Bool) (hs : s.wf = true) : NextWf (execFirmwareVerified ok s) := by
  refine bringUp_wf _ (fun s hs => ?_) hs
  split <;> exact hs

theorem execFabricTrained_wf (ok : Bool) (hs : s.wf = true) : NextWf (execFabricTrained ok s) := by
  refine bringUp_wf _ (fun s hs => ?_) hs
  split <;> exact hs

theorem execVerticalBusesRepaired_wf (failed : BitVec 12) (buses : List BusReport) (hs : s.wf = true) :
    NextWf (execVerticalBusesRepaired failed buses s) := by
  refine bringUp_wf _ (fun s hs => ?_) hs
  extract_lets wired lost
  have hwired : wired.mem = s.mem := foldl_mem _ (fun _ _ => setTower_mem _ _ _) _ _
  exact wf_of_mem (endPhase_mem _ _) (wf_of_mem hwired hs)

theorem execDramInitialised_wf (failed : BitVec 12) (hs : s.wf = true) : NextWf (execDramInitialised failed s) := by
  refine bringUp_wf _ (fun s hs => ?_) hs
  extract_lets cleared
  have hcleared : cleared.wf = true := filter_wf _ _ hs
  exact wf_of_mem (endPhase_mem _ _) hcleared

theorem execGranaryOnline_wf (ok : BitVec 4) (wear : List WearReport) (hs : s.wf = true) :
    NextWf (execGranaryOnline ok wear s) := by
  refine bringUp_wf _ (fun s hs => ?_) hs
  extract_lets reported
  have hreported : reported.mem = s.mem := foldl_mem _ (fun _ _ => setStack_mem _ _ _) _ _
  exact wf_of_mem (endPhase_mem _ _) (wf_of_mem hreported hs)

theorem execTimeAligned_wf (failed : BitVec 12) (skew : List Nat) (hs : s.wf = true) :
    NextWf (execTimeAligned failed skew s) := by
  refine bringUp_wf _ (fun s hs => ?_) hs
  extract_lets aligned
  have haligned : aligned.mem = s.mem := foldl_mem _ (fun _ _ => setTower_mem _ _ _) _ _
  exact wf_of_mem (endPhase_mem _ _) (wf_of_mem haligned hs)

theorem execReady_wf (hs : s.wf = true) : NextWf (execReady s) := by
  refine bringUp_wf _ (fun s hs => ?_) hs
  split
  · exact hs
  · exact wf_of_mem (startDispatchers_mem _) hs

/-! ### Launches -/

theorem acceptLaunch_wf (s : State) (l : Launch) (hs : s.wf = true) : (s.acceptLaunch l).wf = true := writeState_wf _ _ _ _ hs

theorem setAside_mem (s : State) (id : Nat) : (s.setAside id).mem = s.mem := by
  unfold State.setAside
  split
  · rfl
  · next a _ =>
    extract_lets n aside cmds
    by_cases hid : cmds.cur.id = id
    · rw [if_pos hid]
      split <;> rfl
    · rw [if_neg hid]
      split <;> rfl

theorem weightRead_mem (s : State) (l : Launch) : (s.weightRead l).mem = s.mem := by
  unfold State.weightRead
  split <;> rfl

theorem admitAt_wf (s : State) (l : Launch) (place : List Placement) (hs : s.wf = true) : (s.admitAt l place).wf = true := by
  unfold State.admitAt
  extract_lets w s1 l1 s2 s3 s4
  have h1 : s1.mem = s.mem := weightRead_mem s l
  have h3 : s3.mem = s1.mem := by
    unfold s3
    split
    · exact foldl_mem _ (fun _ _ => setCluster_mem _ _ _) _ _
    · rfl
  have h4 : s4.mem = s3.mem := foldl_mem _ (fun _ _ => (putAgent_mem _ _).trans (setAside_mem _ _)) _ _
  exact writeState_wf _ _ _ _ (wf_of_mem (h4.trans (h3.trans h1)) hs)

theorem exitThread_mem (s : State) : s.exitThread.mem = s.mem := by
  unfold State.exitThread
  dsimp only
  exact dropHandles_mem s

theorem vfRecord_wf (s : State) (fn at_ : Nat) (hs : s.wf = true) : (s.vfRecord fn at_).wf = true := by
  unfold State.vfRecord
  split
  · exact hs
  · exact memPutNat_wf _ _ _ _ (memPutNat_wf _ _ _ _ hs)

theorem keeps_dispatch : Keeps dispatch := by
  unfold dispatch
  refine @keeps_get_bind _ _ ?_
  intro s hs
  extract_lets fn base off at_ s1 w x checks done
  have hdone : ∀ (t : State) (answer : Nat), t.wf = true → (done t answer).wf = true := by
    intro t answer ht
    unfold done
    extract_lets u
    have hu : u.wf = true := wf_of_mem (publishPhys_mem _ _ _) (memPutNat_wf _ _ _ _ (memPutNat_wf _ _ _ _ ht))
    split
    · exact hu
    · exact wf_of_mem (publishPhys_mem _ _ _) hu
  have h1 : s1.wf = true := vfRecord_wf _ _ _ hs
  clear_value done s1 x checks at_ off base
  refine keeps_bind (keeps_need _) fun _ => ?_
  have accepted : ∀ l : Launch, Keeps (set (done (s1.acceptLaunch l) l.ident)) := fun l =>
    keeps_set (hdone _ _ (acceptLaunch_wf _ _ h1))
  generalize firstBad checks = bad
  cases bad with
  | some _ => exact keeps_set (hdone _ _ h1)
  | none =>
    generalize s1.freeEntry w = free
    cases free with
    | none => exact keeps_idle
    | some e => exact accepted (launchOf s1 s1.ctx x at_ (1024 * w + e) (s1.time w))

/-! ### Ways and lines -/

theorem tspRead_mem (s : State) (w : Nat) : (s.tspRead w).mem = s.mem := rfl

theorem setWays_wf (s : State) (w : Nat) (x : Word) (hs : s.wf = true) : (s.setWays w x).wf = true := filter_wf _ _ hs

theorem flushAddress_wf (s : State) (va : Word) (hs : s.wf = true) : (s.flushAddress va).wf = true := by
  unfold State.flushAddress
  split
  · exact hs
  · split
    · exact flushLine_wf _ _ _ hs
    · exact flushLine_wf _ _ _ hs
    · exact hs

theorem flushCluster_wf (s : State) (g : Nat) (hs : s.wf = true) : (s.flushCluster g).wf = true :=
  wf_of_mem rfl (foldl_wf _ (fun s l hs => writeBack_wf s g l hs) _ s hs)

/-- The instances of a FORK take their sequencers. -/
theorem bindSeats_mem (l : Launch) (seats : List (Nat × StageEntry × Nat × Nat)) (s : State) :
    (seats.foldl (fun (s : State) (n, e, q) => (s.setAside q.1).putAgent (l.instanceAt n e q)) s).mem = s.mem :=
  foldl_mem _ (fun _ _ => (putAgent_mem _ _).trans (setAside_mem _ _)) seats s

theorem execFork_wf (mask : BitVec 8) (hs : s.wf = true) : NextWf (execFork mask s) := by
  refine insn_wf _ _ ?_ hs
  refine keeps_get_bind fun s hs => ?_
  split
  · exact keeps_pure _
  · next l _ =>
    have started : ∀ (seats : List (Nat × StageEntry × Nat × Nat)) (launches : KV Launch), Keeps (do
        set { (seats.foldl (fun (s : State) (n, e, q) => (s.setAside q.1).putAgent (l.instanceAt n e q)) s) with
          launches := launches }
        return Flow.seq) := fun seats launches => by
      refine keeps_bind (keeps_set (wf_of_mem ?_ hs)) fun _ => keeps_pure _
      exact bindSeats_mem l seats s
    dsimp only
    split
    · exact keeps_bind (keeps_trap _ _ _ _) fun _ => keeps_guard (keeps_throw _) fun _ => started _ _
    · exact keeps_bind (keeps_pure _) fun _ => keeps_guard (keeps_throw _) fun _ => started _ _

theorem execExit_wf (hs : s.wf = true) : NextWf (execExit s) := by
  refine insn_wf _ _ ?_ hs
  exact keeps_bind keeps_get fun _ => keeps_bind (keeps_need _) fun _ => keeps_bind keeps_resync fun _ =>
    keeps_bind (keeps_release _) fun _ => keeps_bind (keeps_modify_mem exitThread_mem) fun _ => keeps_pure _

end Sys2Proof.Proofs
end

/-! ## Work and the system keep the form of memory -/
section
namespace Sys2Proof.Proofs

open Sys2Proof.Machine Sys2Proof.Laws

variable {α β : Type} {s : State}

theorem keeps_raise (p : Pending) : Keeps (raise p) := keeps_modCur _

theorem keeps_fetchAt (va : Word) : Keeps (fetchAt va) :=
  keeps_bind keeps_get fun _ => keeps_bind (keeps_loadPiece _ _ _ _ _) fun _ => keeps_pure _

theorem keeps_fetch : Keeps fetch := by
  unfold fetch
  refine keeps_bind keeps_get fun _ => ?_
  split
  · exact keeps_pure _
  · exact keeps_fetchAt _

theorem keeps_readBody (base : Word) (n : Nat) : Keeps (readBody base n) := by
  unfold readBody
  refine keeps_bind (keeps_eachGet _ (fun _ => keeps_fetchAt _)) fun _ => ?_
  split
  · exact keeps_trap _ _ _ _
  · exact keeps_pure _

theorem keeps_setReplay (ws : List IWord) : Keeps (setReplay ws) := keeps_modCur _

theorem keeps_checkFrame : Keeps checkFrame := keeps_bind keeps_get fun _ => keeps_each _ (fun _ => keeps_checkPoison _ _ _ _)

theorem keeps_setLoopAddr (x : Word) : Keeps (setLoopAddr x) :=
  keeps_bind keeps_getRegs fun _ => keeps_guard_then (keeps_readBody _ _) (fun _ => keeps_setReplay _) fun _ => keeps_modRegs _

theorem keeps_setLoopCtl (x : Word) : Keeps (setLoopCtl x) :=
  keeps_bind keeps_getRegs fun _ => keeps_guard_then (keeps_readBody _ _) (fun _ => keeps_setReplay _) fun _ => keeps_modRegs _

theorem keeps_setL2ways (x : Word) : Keeps (setL2ways x) := by
  unfold setL2ways
  refine keeps_get_bind fun s hs => keeps_guard (keeps_throw _) fun _ => keeps_modify fun _ hs => ?_
  refine setWays_wf _ _ _ (wf_of_mem ?_ hs)
  split
  · rfl
  · exact tspRead_mem _ _

theorem keeps_writeCreg (k : Nat) (x : Word) : Keeps (writeCreg k x) := by
  unfold writeCreg
  refine keeps_bind keeps_get fun _ => ?_
  dsimp only
  split
  · exact keeps_modRegs _
  · exact keeps_modRegs _
  · exact keeps_modRegs _
  · exact keeps_modRegs _
  · exact keeps_modRegs _
  · exact keeps_modRegs _
  · exact keeps_modRegs _
  · exact keeps_modRegs _
  · exact keeps_modRegs _
  · exact keeps_modRegs _
  · exact keeps_modRegs _
  · exact keeps_setLoopAddr _
  · exact keeps_setLoopCtl _
  · exact keeps_setL2ways _
  · exact keeps_modTower _ _
  · exact keeps_bind (keeps_modTower _ _) fun _ => keeps_modify_mem fun _ => rfl
  · exact keeps_modRegs _
  · exact keeps_modRegs _
  · exact keeps_modRegs _
  · exact keeps_modRegs _
  · exact keeps_modRegs _
  · exact keeps_modRegs _
  · exact keeps_modRegs _

theorem keeps_deliverEvent (p : Pending) : Keeps (deliverEvent p) := by
  unfold deliverEvent
  refine keeps_bind (keeps_modCur _) fun _ => keeps_bind keeps_getCur fun _ => ?_
  split
  · exact keeps_bind keeps_getCur fun _ => keeps_takeException _ _ _ _ _
  · exact keeps_bind keeps_getCur fun _ => keeps_takeException _ _ _ _ _
  · exact keeps_endInstance _ _ _

theorem execLaunch_wf (d a : Reg) (hs : s.wf = true) : NextWf (execLaunch d a s) := by
  refine insn_wf _ _ ?_ hs
  refine keeps_bind (keeps_release _) fun _ => keeps_bind (keeps_getG _) fun _ => keeps_guard (keeps_trap _ _ _ _) fun _ =>
    keeps_get_bind fun s hs => keeps_bind (keeps_orTrap _ _ _) fun _ => ?_
  split
  · refine keeps_bind (keeps_loadNat _ _ _ _) fun _ => keeps_get_bind fun s hs1 => ?_
    split
    · exact keeps_trap _ _ _ _
    · dsimp only
      split
      · exact keeps_throw _
      · exact keeps_bind (keeps_set (acceptLaunch_wf _ _ hs1)) fun _ => keeps_bind (keeps_putG _ _) fun _ => keeps_pure _

theorem execLaunchTableEntryFree_wf (ag : Nat) (hs : s.wf = true) : NextWf (execLaunchTableEntryFree ag s) := by
  refine rerun_wf (fun i t ht => ?_) hs
  split
  · exact execLaunch_wf _ _ ht
  · exact nextWf_next ht

theorem execWaitaWake_wf (ag : Nat) (hs : s.wf = true) : NextWf (execWaitaWake ag s) := by
  unfold execWaitaWake
  split
  · refine agentEvent_wf _ _ ?_ hs
    exact @keeps_dispatch
  · refine rerun_wf (fun i t ht => ?_) hs
    split
    · exact execWaita_wf _ _ _ _ _ _ _ ht
    · exact nextWf_next ht

theorem execForkBound_wf (ag : Nat) (hs : s.wf = true) : NextWf (execForkBound ag s) := by
  refine rerun_wf (fun i t ht => ?_) hs
  split
  · exact execFork_wf _ ht
  · exact nextWf_next ht

theorem execJoin_wf (mask : BitVec 8) (hs : s.wf = true) : NextWf (execJoin mask s) := by
  refine insn_wf _ _ ?_ hs
  refine keeps_get_bind fun s hs => ?_
  split
  · exact keeps_pure _
  · refine keeps_guard (keeps_throw _) fun _ => ?_
    split
    · exact keeps_bind (keeps_set hs) fun _ => keeps_trap _ _ _ _
    · exact keeps_bind (keeps_acquire _ _) fun _ => keeps_pure _

theorem execJoinComplete_wf (ag : Nat) (hs : s.wf = true) : NextWf (execJoinComplete ag s) := by
  refine rerun_wf (fun i t ht => ?_) hs
  split
  · exact execJoin_wf _ ht
  · exact nextWf_next ht

theorem execYield_wf (hs : s.wf = true) : NextWf (execYield s) := by
  refine plain_wf _ _ (fun _ => ?_) hs
  split <;> rfl

theorem execId_wf (d : Reg) (sel : BitVec 8) (hs : s.wf = true) : NextWf (execId d sel s) :=
  plain_wf _ _ (fun _ => setG_mem _ _ _) hs

theorem execGang_wf (d : Reg) (n : BitVec 8) (hs : s.wf = true) : NextWf (execGang d n s) := by
  refine insn_wf _ _ ?_ hs
  exact keeps_bind keeps_get fun _ => keeps_guard (keeps_trap _ _ _ _) fun _ => keeps_guard (keeps_trap _ _ _ _) fun _ =>
    keeps_ite (keeps_bind (keeps_putG _ _) fun _ => keeps_pure _) (keeps_guard (keeps_trap _ _ _ _) fun _ =>
    keeps_bind (keeps_modCur _) fun _ => keeps_ite (keeps_bind (keeps_modify_mem fun _ => rfl) fun _ =>
    keeps_bind (keeps_putG _ _) fun _ => keeps_pure _) (keeps_throw _))

theorem execGangComplete_wf (ag : Nat) (hs : s.wf = true) : NextWf (execGangComplete ag s) := by
  refine rerun_wf (fun i t ht => ?_) hs
  split
  · exact execGang_wf _ _ ht
  · exact nextWf_next ht

theorem execWaitt_wf (a : Reg) (hs : s.wf = true) : NextWf (execWaitt a s) := by
  refine insn_wf _ _ ?_ hs
  exact keeps_bind keeps_get fun _ => keeps_ite (keeps_pure _) (keeps_throw _)

theorem execWaittExpire_wf (ag : Nat) (hs : s.wf = true) : NextWf (execWaittExpire ag s) := by
  refine rerun_wf (fun i t ht => ?_) hs
  split
  · exact execWaitt_wf _ ht
  · exact nextWf_next ht

theorem execLaunchAdmit_wf (l : Nat) (place : List Placement) (hs : s.wf = true) : NextWf (execLaunchAdmit l place s) := by
  refine event_wf ?_ hs
  refine keeps_get_bind fun s hs => ?_
  split
  · exact keeps_idle
  · exact keeps_bind (keeps_need _) fun _ => keeps_bind (keeps_need _) fun _ =>
    keeps_bind (keeps_set (admitAt_wf _ _ _ hs)) fun _ => keeps_each _ (fun _ => keeps_asAgent _ (keeps_acquire _ _))

theorem execLaunchEnd_wf (l : Nat) (hs : s.wf = true) : NextWf (execLaunchEnd l s) := by
  refine event_wf ?_ hs
  refine keeps_get_bind fun s hs => ?_
  split
  · exact keeps_idle
  · exact keeps_bind (keeps_need _) fun _ => keeps_bind (keeps_each _ (fun _ => keeps_giveUp _)) fun _ =>
    keeps_bind (keeps_modify_mem fun _ => dropCmds_mem _ _) fun _ => keeps_bind (keeps_releaseLaunch _) fun _ =>
    keeps_modify fun _ hs => wf_of_mem (freeLaunch_mem _ _) (writeState_wf _ _ _ _ hs)

theorem execLaunchStop_wf (l cause : Nat) (hs : s.wf = true) : NextWf (execLaunchStop l cause s) := by
  refine event_wf ?_ hs
  exact keeps_get_bind fun s hs => keeps_bind (keeps_need _) fun _ => keeps_bind (keeps_modify fun _ hs =>
    logError_wf _ _ _ _ _ hs) fun _ => keeps_stopLaunch _ _

theorem execLaunchTimeout_wf (l : Nat) (hs : s.wf = true) : NextWf (execLaunchTimeout l s) := by
  refine event_wf ?_ hs
  refine keeps_bind keeps_get fun _ => ?_
  split
  · exact keeps_idle
  · exact keeps_bind (keeps_need _) fun _ => keeps_stopLaunch _ _

theorem execBudgetWarn_wf (ag : Nat) (hs : s.wf = true) : NextWf (execBudgetWarn ag s) := by
  refine event_wf ?_ hs
  refine keeps_asAgent _ (keeps_bind keeps_get fun _ => ?_)
  split
  · exact keeps_idle
  · exact keeps_bind (keeps_need _) fun _ => keeps_bind (keeps_modCur _) fun _ => keeps_raise _

theorem execWatchdog_wf (ag : Nat) (hs : s.wf = true) : NextWf (execWatchdog ag s) := by
  refine event_wf ?_ hs
  refine keeps_asAgent _ (keeps_bind keeps_get fun _ => ?_)
  dsimp only
  split
  · exact keeps_bind (keeps_need _) fun _ => keeps_bind (keeps_need _) fun _ => keeps_bind (keeps_need _) fun _ => keeps_raise _
  · exact keeps_idle

theorem branch_wf (i : Instr) (a b : Reg) (off : BitVec 16) (c : Word → Word → Bool) (hs : s.wf = true) :
    NextWf (branch i a b off c s) := by
  refine insn_wf _ _ ?_ hs
  exact keeps_bind keeps_get fun _ => keeps_pure _

theorem execJal_wf (d : Reg) (off : BitVec 21) (hs : s.wf = true) : NextWf (execJal d off s) := by
  refine insn_wf _ _ ?_ hs
  exact keeps_bind keeps_get fun _ => keeps_bind (keeps_putG _ _) fun _ => keeps_pure _

theorem execJalr_wf (a : Reg) (off : BitVec 16) (hs : s.wf = true) : NextWf (execJalr a off s) := by
  refine insn_wf _ _ ?_ hs
  exact keeps_bind keeps_get fun _ => keeps_bind (keeps_putG _ _) fun _ => keeps_pure _

theorem execJr_wf (a : Reg) (off : BitVec 16) (hs : s.wf = true) : NextWf (execJr a off s) := by
  refine insn_wf _ _ ?_ hs
  exact keeps_bind keeps_get fun _ => keeps_pure _

theorem predBranch_wf (i : Instr) (off : BitVec 16) (c : State → Bool) (hs : s.wf = true) : NextWf (predBranch i off c s) := by
  refine insn_wf _ _ ?_ hs
  exact keeps_bind keeps_resync fun _ => keeps_bind keeps_get fun _ => keeps_pure _

theorem execLoopv_wf (a : Reg) (n : BitVec 16) (hs : s.wf = true) : NextWf (execLoopv a n s) := by
  refine insn_wf _ _ ?_ hs
  exact keeps_bind keeps_get fun _ => keeps_guard (keeps_trap _ _ _ _) fun _ => keeps_bind (keeps_readBody _ _) fun _ =>
    keeps_bind (keeps_getG _) fun _ => keeps_ite (keeps_pure _) (keeps_bind (keeps_setReplay _) fun _ =>
    keeps_bind (keeps_modRegs _) fun _ => keeps_pure _)

theorem execTrap_wf (k : BitVec 12) (hs : s.wf = true) : NextWf (execTrap k s) := by
  refine insn_wf _ _ ?_ hs
  exact keeps_throw _

theorem execEret_wf (hs : s.wf = true) : NextWf (execEret s) := by
  refine insn_wf _ _ ?_ hs
  exact keeps_bind keeps_needSupervisor fun _ => keeps_bind keeps_getRegs fun _ => keeps_guard (keeps_trap _ _ _ _) fun _ =>
    keeps_bind keeps_resync fun _ => keeps_bind keeps_checkFrame fun _ => keeps_bind (keeps_modify_mem fun _ =>
    leave_mem _) fun _ => keeps_pure _

theorem execHint_wf (n : BitVec 26) (hs : s.wf = true) : NextWf (execHint n s) := plain_wf _ _ (fun _ => rfl) hs

theorem execIllegalInsn_wf (w : IWord) (hs : s.wf = true) : NextWf (execIllegalInsn w s) := by
  refine insn_wf _ _ ?_ hs
  exact keeps_trap _ _ _ _

theorem execKget_wf (d : Reg) (k : BitVec 12) (hs : s.wf = true) : NextWf (execKget d k s) := by
  refine insn_wf _ _ ?_ hs
  exact keeps_guard keeps_needSupervisor fun _ => keeps_guard keeps_resync fun _ => keeps_bind keeps_get fun _ =>
    keeps_bind (keeps_putG _ _) fun _ => keeps_pure _

theorem execKset_wf (a : Reg) (k : BitVec 12) (hs : s.wf = true) : NextWf (execKset a k s) := by
  refine insn_wf _ _ ?_ hs
  exact keeps_guard keeps_needSupervisor fun _ => keeps_bind (keeps_modCur _) fun _ => keeps_bind (keeps_getG _) fun _ =>
    keeps_bind (keeps_writeCreg _ _) fun _ => keeps_pure _

theorem execL2waysWrite_wf (ag : Nat) (hs : s.wf = true) : NextWf (execL2waysWrite ag s) := by
  refine rerun_wf (fun i t ht => ?_) hs
  split
  · exact execKset_wf _ _ ht
  · exact nextWf_next ht

theorem execTlbinv_wf (d a : Reg) (hs : s.wf = true) : NextWf (execTlbinv d a s) := by
  refine insn_wf _ _ ?_ hs
  exact keeps_bind keeps_needSupervisor fun _ => keeps_bind (keeps_getG _) fun _ => keeps_bind keeps_get fun _ =>
    keeps_bind (keeps_need _) fun _ => keeps_bind (keeps_drainWhere _) fun _ => keeps_bind (keeps_modify_mem fun _ =>
    rfl) fun _ => keeps_bind (keeps_modify_mem fun _ => rfl) fun _ => keeps_pure _

theorem execCflush_wf (d a : Reg) (hs : s.wf = true) : NextWf (execCflush d a s) := by
  refine insn_wf _ _ ?_ hs
  exact keeps_guard keeps_needSupervisor fun _ => keeps_ite (keeps_bind (keeps_passBar _) fun _ =>
    keeps_bind (keeps_getG _) fun _ => keeps_bind (keeps_modify fun _ hs => flushAddress_wf _ _ hs) fun _ =>
    keeps_pure _) (keeps_ite (keeps_bind keeps_getCur fun _ => keeps_bind (keeps_drainBank _) fun _ =>
    keeps_bind (keeps_modify fun _ hs => writeBackThread_wf _ _ _ hs) fun _ => keeps_pure _) (keeps_get_bind fun s hs =>
    keeps_bind (keeps_each _ (fun _ => keeps_drainBank _)) fun _ => keeps_bind (keeps_modify fun _ hs =>
    flushCluster_wf _ _ hs) fun _ => keeps_pure _))

theorem execWfi_wf (a : Reg) (hs : s.wf = true) : NextWf (execWfi a s) := by
  refine insn_wf _ _ ?_ hs
  exact keeps_bind keeps_needSupervisor fun _ => keeps_bind keeps_get fun _ => keeps_ite (keeps_pure _) (keeps_throw _)

theorem execWfiWake_wf (ag : Nat) (hs : s.wf = true) : NextWf (execWfiWake ag s) := by
  refine rerun_wf (fun i t ht => ?_) hs
  split
  · exact execWfi_wf _ ht
  · exact nextWf_next ht

theorem execAsyncEventDeliver_wf (ag : Nat) (hs : s.wf = true) : NextWf (execAsyncEventDeliver ag s) := by
  refine agentEvent_wf _ _ ?_ hs
  refine keeps_bind keeps_getCur fun _ => ?_
  split
  · exact keeps_idle
  · exact keeps_bind (keeps_need _) fun _ => keeps_deliverEvent _

end Sys2Proof.Proofs
end

/-! ## Engines: what their commands share -/
section
namespace Sys2Proof.Proofs

open Sys2Proof.Machine Sys2Proof.Laws

variable {α β : Type} {s : State}

/-! ### The engines -/

/-- A command runs as its issuer, or as an agent with nothing of its own: memory keeps its form where `x` keeps it. -/
theorem keeps_asIssuer (c : Cmd) {x : Exec α} (hx : Keeps x) : Keeps (asIssuer c x) := by
  intro s hs
  unfold asIssuer
  split
  · exact keeps_asAgent c.issuer hx s hs
  · have kept : Kept (x { s with cur := Agent.fresh c.place c.kind }) := hx _ (wf_of_mem (s := s) rfl hs)
    dsimp only
    split
    · next h => rw [h] at kept; exact kept
    · next h => rw [h] at kept; exact kept

theorem keeps_enginePut (c : Cmd) (mark loc : Nat) (xs : List Byte) (atomic : Bool) : Keeps (enginePut c mark loc xs atomic) := by
  refine keeps_bind keeps_get fun _ => keeps_bind keeps_getCur fun _ => keeps_bind (keeps_pickPoint _ _) fun _ =>
    keeps_bind (keeps_putWord _ _ _ _ _ _ _ _ _) fun y => keeps_modify fun s hs => ?_
  split
  · exact memPuts_wf _ _ _ hs
  · exact memPuts_wf _ _ _ hs

theorem keeps_orFail {x : Exec α} (h : Keeps x) : Keeps (orFail x) := by
  refine keeps_bind (keeps_attempt h) fun r => ?_
  split
  · exact keeps_pure _
  · exact keeps_pure _
  · exact keeps_idle

theorem keeps_runUntil {one : Nat → Exec (Nat × Nat)} (h : ∀ i, Keeps (one i)) (is : List Nat) :
    ∀ n, Keeps (runUntil one is n) := by
  induction is with
  | nil => exact fun n => keeps_pure _
  | cons i rest ih =>
    intro n
    refine keeps_bind (keeps_orFail (h i)) fun r => ?_
    split
    · exact ih _
    · exact keeps_pure _

theorem keeps_runOut {one : Nat → Exec (Nat × Nat)} (h : ∀ i, Keeps (one i)) (is : List Nat) :
    ∀ n, Keeps (runOut one is n) := by
  induction is with
  | nil => exact fun n => keeps_pure _
  | cons i rest ih =>
    intro n
    refine keeps_bind (keeps_orFail (h i)) fun r => ?_
    split
    · exact ih _
    · exact ih _

@[simp] theorem endWear_mem (s : State) (n : Nat) : (s.endWear n).mem = s.mem := by
  unfold State.endWear
  dsimp only
  split
  · split
    · rfl
    · exact retire_mem _ _ _
  · rfl

theorem findErrors_wf (s : State) (us : List Nat) (hs : s.wf = true) : (s.findErrors us).wf = true :=
  foldl_wf _ foundError_wf _ s hs

@[simp] theorem clearWhole_mem (s : State) (c : Cmd) (p : Nat × Nat × Nat) : (s.clearWhole c p).mem = s.mem := by
  unfold State.clearWhole
  split
  · split
    · exact cleanUnits_mem s _
    · rfl
  · rfl

@[simp] theorem freePort_mem (s : State) (h : Nat) : (s.freePort h).mem = s.mem := by
  unfold State.freePort
  simp

@[simp] theorem bindHandle_mem (s : State) (k : Nat) (h : Handle) (want : Option Nat) : (s.bindHandle k h want).mem = s.mem := by
  cases want with
  | none => exact (takePort_mem _ _ _).trans ((setHandle_mem _ _ _).trans (releasePort_mem _ _))
  | some p => exact (handPort_mem _ _).trans ((takePort_mem _ _ _).trans ((setHandle_mem _ _ _).trans (freePort_mem _ _)))

theorem patchArea_wf (s : State) (a : Agent) (off : Nat) (xs : List Byte) (hs : s.wf = true) : (s.patchArea a off xs).wf = true :=
  memPuts_wf _ _ _ hs

end Sys2Proof.Proofs
end

/-! ## Engines keep the form of memory -/
section
namespace Sys2Proof.Proofs

open Sys2Proof.Machine Sys2Proof.Laws

variable {α β : Type} {s : State}

theorem keeps_readRecord (va : Word) (n align : Nat) : Keeps (readRecord va n align) :=
  keeps_bind (keeps_needAligned _ _ _) fun _ => keeps_bind keeps_get fun _ => keeps_bind (keeps_eachGet _ (fun _ =>
    keeps_loadPiece _ _ _ _ _)) fun _ => keeps_bind (keeps_anchor _) fun _ => keeps_pure _

theorem keeps_checkFields (cause : Nat) (va : Word) (xs : List (Nat × Bool)) : Keeps (checkFields cause va xs) := by
  unfold checkFields
  split
  · exact keeps_trap _ _ _ _
  · exact keeps_pure _

theorem keeps_checkNamed (va : Nat) : Keeps (checkNamed va) := by
  unfold checkNamed
  split
  · refine keeps_bind keeps_get fun _ => ?_
    split
    · exact keeps_trap _ _ _ _
    · exact keeps_ite (keeps_modCur _) (keeps_pure _)
  · exact keeps_pure _

theorem keeps_checkWindow (r : Nat × Nat) : Keeps (checkWindow r) := by
  unfold checkWindow
  split
  · refine keeps_guard (keeps_trap _ _ _ _) fun _ => ?_
    split
    · refine keeps_bind keeps_get fun _ => ?_
      split
      · exact keeps_trap _ _ _ _
      · exact keeps_guard (keeps_trap _ _ _ _) fun _ => keeps_ite (keeps_modCur _) (keeps_pure _)
    · exact keeps_pure _

theorem keeps_accept (engine unit : Nat) (recAddr : Word) (acq rel : Bool) (scope : BitVec 2) (chan : Option Nat)
    (w : Work) : Keeps (accept engine unit recAddr acq rel scope chan w) :=
  keeps_get_bind fun _ hs => keeps_guard (keeps_trap _ _ _ _) fun _ => keeps_guard (keeps_throw _) fun _ => keeps_set hs

theorem keeps_engineWord (c : Cmd) (loc : Nat) : Keeps (engineWord c loc) :=
  keeps_bind keeps_get fun _ => keeps_bind (keeps_pickPoint _ _) fun _ => keeps_bind (keeps_noteShown _ _) fun _ => keeps_pure _

theorem keeps_engineCheck (va : Word) (loc : Nat) (hops : Nat) : Keeps (engineCheck va loc hops) := by
  unfold engineCheck
  refine keeps_bind (keeps_attempt (keeps_checkPoison _ _ _ _)) fun _ => ?_
  split
  · exact keeps_pure _
  · exact keeps_throw _
  · exact keeps_throw _

theorem keeps_engineReadPiece (c : Cmd) (a k : Nat) : Keeps (engineReadPiece c a k) := by
  unfold engineReadPiece
  refine keeps_bind keeps_get fun _ => keeps_bind (keeps_orTrap _ _ _) fun _ => ?_
  split
  · split
    · exact keeps_bind (keeps_engineCheck _ _ _) fun _ => keeps_bridgeRead _ _
    · exact keeps_bind (keeps_engineCheck _ _ _) fun _ => keeps_bind (keeps_readStaged _ _) fun _ =>
      keeps_bind (keeps_engineWord _ _) fun _ => keeps_pure _

theorem keeps_engineRead (c : Cmd) (va n : Nat) : Keeps (engineRead c va n) :=
  keeps_asIssuer _ (keeps_bind (keeps_eachGet _ (fun _ => keeps_engineReadPiece _ _ _)) fun _ => keeps_pure _)

theorem keeps_enginePiece (c : Cmd) (mark : Nat) (acc : Acc) (a : Nat) (xs : List Byte) :
    Keeps (enginePiece c mark acc a xs) := by
  unfold enginePiece
  refine keeps_bind keeps_get fun _ => keeps_bind (keeps_orTrap _ _ _) fun _ => ?_
  split
  · split
    · exact keeps_bind (keeps_checkSend _ _ _) fun _ => keeps_bind (keeps_bridgeWrite _ _ _ _ _) fun _ => keeps_pure _
    · exact keeps_bind (keeps_enginePut _ _ _ _ _) fun _ => keeps_pure _

theorem keeps_engineStore (c : Cmd) (mark va : Nat) (xs : List Byte) : Keeps (engineStore c mark va xs) := by
  unfold engineStore
  refine keeps_asIssuer _ (keeps_bind (keeps_eachGet _ (fun _ => keeps_enginePiece _ _ _ _ _)) fun _ => ?_)
  split
  · split
    · exact keeps_modify_mem fun _ => cleanUnits_mem _ _
    · exact keeps_pure _
  · exact keeps_pure _

theorem keeps_engineWrite (c : Cmd) (va : Nat) (xs : List Byte) : Keeps (engineWrite c va xs) := keeps_engineStore _ _ _ _

theorem keeps_engineReport (c : Cmd) (va : Nat) (xs : List Byte) : Keeps (engineReport c va xs) := by
  unfold engineReport
  exact keeps_engineStore _ _ _ _

theorem keeps_engineUpdate (c : Cmd) (va m : Nat) (f : Nat → Option Nat) : Keeps (engineUpdate c va m f) := by
  refine keeps_asIssuer c (keeps_bind keeps_get fun s => keeps_bind (keeps_orTrap _ _ _) fun r => ?_)
  dsimp only
  split
  · refine keeps_bind (keeps_engineCheck _ _ _) fun _ => keeps_bind (keeps_bridgeRead _ _) fun xs => ?_
    split
    · exact keeps_bind (keeps_pure _) fun _ => keeps_pure _
    · exact keeps_bind (keeps_bind (keeps_enginePiece _ _ _ _ _) fun _ => keeps_pure _) fun _ => keeps_pure _
  · refine keeps_bind (keeps_engineCheck _ _ _) fun _ => keeps_bind (keeps_pickPoint _ _) fun k => ?_
    split
    · exact keeps_bind (keeps_pure _) fun _ => keeps_pure _
    · exact keeps_bind (keeps_putWord _ _ _ _ _ _ _ _ _) fun z => keeps_bind (keeps_modify fun s hs => memPuts_wf _ _ _ hs)
        fun _ => keeps_pure _

theorem keeps_getCmd (n : Nat) : Keeps (getCmd n) := by
  unfold getCmd
  refine keeps_bind keeps_get fun _ => ?_
  split
  · exact keeps_idle
  · exact keeps_bind (keeps_need _) fun _ => keeps_pure _

theorem keeps_putCmd (c : Cmd) : Keeps (putCmd c) := keeps_modify_mem fun _ => rfl

theorem keeps_finishCmd (c : Cmd) (val : Nat) (f : Option Failure) : Keeps (finishCmd c val f) := by
  unfold finishCmd
  refine keeps_bind (keeps_modify_mem fun _ => handChannel_mem _ _) fun _ => keeps_bind keeps_get fun _ => ?_
  split
  · exact keeps_pure _
  · refine keeps_asAgent _ (keeps_guard (keeps_modify_mem fun _ => endWear_mem _ _) fun _ => ?_)
    split
    · exact keeps_pure _
    · exact keeps_raise _

theorem keeps_publishEnd (c : Cmd) (dest : List WRange) : Keeps (publishEnd c dest) := by
  unfold publishEnd
  refine keeps_modify_mem fun _ => ?_
  refine (foldl_mem _ (fun _ _ => publishCmd_mem _ _ _) _ _).trans ?_
  split <;> rfl

theorem keeps_closeCmd (c : Cmd) (done word : Nat) (dest : List WRange) (f : Option Failure) :
    Keeps (closeCmd c done word dest f) := by
  unfold closeCmd
  refine keeps_bind (keeps_publishEnd _ _) fun _ => ?_
  dsimp only
  split
  · exact keeps_bind (keeps_pure _) fun _ => keeps_finishCmd _ _ _
  · refine keeps_bind (keeps_orFail (keeps_engineReport _ _ _)) fun _ => ?_
    split <;> exact keeps_bind (keeps_pure _) fun _ => keeps_finishCmd _ _ _

theorem keeps_pickItems (c : Cmd) (n : Nat) (spans : Nat → List (Nat × Nat × Bool)) : Keeps (pickItems c n spans) := by
  unfold pickItems
  refine keeps_bind keeps_get fun _ => ?_
  dsimp only
  split
  · exact keeps_pure _
  · split
    · refine keeps_bind (keeps_pure _) fun _ => ?_
      split
      · refine keeps_bind (keeps_drawBelow _) fun _ => ?_
        split
        · exact keeps_idle
        · exact keeps_pure _
      · exact keeps_bind (keeps_shuffle _ _) fun _ => keeps_pure _
    · refine keeps_bind keeps_drawBit fun _ => ?_
      split
      · refine keeps_bind (keeps_drawBelow _) fun _ => ?_
        split
        · exact keeps_idle
        · exact keeps_pure _
      · exact keeps_bind (keeps_shuffle _ _) fun _ => keeps_pure _

theorem keeps_runItems (c : Cmd) {one : Nat → Exec (Nat × Nat)} (now : List Nat) (n : Nat × Nat)
    (hone : ∀ a, Keeps (one a)) : Keeps (runItems c one now n) := by
  unfold runItems
  split
  · exact keeps_pure _
  · exact keeps_runUntil (fun _ => hone _) _ _

theorem keeps_goOn (c : Cmd) (left : List Nat) (n : Nat × Nat) (f : Option Failure) {close : Exec Unit}
    (hclose : Keeps close) : Keeps (goOn c left n f close) :=
  keeps_bind keeps_get fun _ => keeps_ite (keeps_putCmd _) hclose

theorem keeps_sourceWord (c : Cmd) (key a : Nat) (more : Bool) : Keeps (sourceWord c key a more) := by
  unfold sourceWord
  refine keeps_bind keeps_get fun _ => ?_
  split
  · exact keeps_bind (keeps_modify_mem fun _ => rfl) fun _ => keeps_pure _
  · exact keeps_bind (keeps_engineRead _ _ _) fun _ => keeps_guard (keeps_modify_mem fun _ => rfl) fun _ => keeps_pure _

theorem keeps_partBytes (c : Cmd) (p : Nat × Nat × Nat) (src k : Nat) : Keeps (partBytes c p src k) :=
  keeps_ite (keeps_bind (keeps_engineRead _ _ _) fun _ => keeps_pure _) (keeps_bind (keeps_eachGet _ (fun _ =>
    keeps_sourceWord _ _ _ _)) fun _ => keeps_pure _)

theorem keeps_copyPart (c : Cmd) (ps : List CopyPart) (i : Nat) : Keeps (copyPart c ps i) := by
  unfold copyPart
  split
  · exact keeps_pure _
  · refine keeps_get_bind fun s hs => keeps_bind (keeps_orTrap _ _ _) fun _ => keeps_bind (keeps_each _ (fun _ =>
    keeps_bind (keeps_orTrap _ _ _) fun _ => keeps_pure _)) fun _ => ?_
    dsimp only
    split
    · exact keeps_bind (keeps_modify fun _ hs => findErrors_wf _ _ hs) fun _ => keeps_bind (keeps_engineWrite _ _ _) fun _ =>
      keeps_bind (keeps_modify_mem fun _ => rfl) fun _ => keeps_pure _
    · exact keeps_bind (keeps_partBytes _ _ _ _) fun _ => keeps_bind (keeps_engineWrite _ _ _) fun _ => keeps_pure _

theorem keeps_copyItems (c : Cmd) (ps : List CopyPart) (now later : List Nat) : Keeps (copyItems c ps now later) := by
  unfold copyItems
  refine keeps_bind (keeps_runItems _ _ _ (fun _ => keeps_copyPart _ _ _)) fun _ => ?_
  split
  · dsimp only
    split
    · refine keeps_bind (keeps_runOut (fun _ => keeps_copyPart _ _ _) _ _) fun _ => keeps_bind (keeps_modify_mem fun _ =>
      ?_) fun _ => keeps_pure _
      exact foldl_mem _ (fun _ _ => clearWhole_mem _ _ _) _ _
    · refine keeps_bind (keeps_pure _) fun _ => keeps_bind (keeps_modify_mem fun _ => ?_) fun _ => keeps_pure _
      exact foldl_mem _ (fun _ _ => clearWhole_mem _ _ _) _ _

theorem keeps_gatherItem (c : Cmd) (src idx dst w i : Nat) : Keeps (gatherItem c src idx dst w i) :=
  keeps_bind (keeps_engineRead _ _ _) fun _ => keeps_bind (keeps_engineRead _ _ _) fun _ =>
    keeps_bind (keeps_engineWrite _ _ _) fun _ => keeps_pure _

theorem keeps_engineTicket (c : Cmd) (va : Nat) : Keeps (engineTicket c va) :=
  keeps_bind (keeps_engineUpdate _ _ _ _) fun _ => keeps_pure _

theorem keeps_binKey (c : Cmd) (key b ctr bkt slots i : Nat) : Keeps (binKey c key b ctr bkt slots i) := by
  unfold binKey
  refine keeps_bind (keeps_engineRead _ _ _) fun _ => ?_
  split
  · exact keeps_pure _
  · refine keeps_bind (keeps_engineTicket _ _) fun _ => ?_
    split <;> exact keeps_pure _

theorem keeps_binItem (c : Cmd) (key b ctr bkt slots i : Nat) : Keeps (binItem c key b ctr bkt slots i) := by
  unfold binItem
  refine keeps_bind (keeps_binKey _ _ _ _ _ _ _) fun _ => ?_
  split
  · exact keeps_pure _
  · exact keeps_bind (keeps_engineWrite _ _ _) fun _ => keeps_pure _

theorem keeps_binSlot (c : Cmd) (i : Nat) : Keeps (binSlot c i) := by
  unfold binSlot
  split
  · exact keeps_pure _
  · exact keeps_bind (keeps_engineWrite _ _ _) fun _ => keeps_pure _

theorem keeps_closeBin (c : Cmd) (b ctr bkt slots done : Nat) (t : Nat × Nat) (f : Option Failure) :
    Keeps (closeBin c b ctr bkt slots done t f) :=
  keeps_closeCmd _ _ _ _ _

theorem keeps_binItems (c : Cmd) (key b ctr bkt slots : Nat) (now later : List Nat) :
    Keeps (binItems c key b ctr bkt slots now later) :=
  keeps_bind (keeps_runItems _ _ _ (fun _ => keeps_ite (keeps_binSlot _ _) (keeps_binItem _ _ _ _ _ _ _))) fun _ =>
    keeps_ite (keeps_bind (keeps_runOut (fun _ => keeps_binSlot _ _) _ _) fun _ =>
    keeps_pure _) (keeps_bind (keeps_pure _) fun _ => keeps_pure _)

theorem keeps_aloneItem (c : Cmd) (is : List Nat) : Keeps (aloneItem c is) := by
  unfold aloneItem
  split
  · exact keeps_ite (keeps_pure _) (keeps_bind keeps_drawBit fun _ => keeps_pure _)
  · exact keeps_pure _

theorem execXcopy_wf (d a b : Reg) (acq rel : Bool) (scope : BitVec 2) (hs : s.wf = true) :
    NextWf (execXcopy d a b acq rel scope s) := by
  refine insn_wf _ _ ?_ hs
  exact keeps_bind (keeps_getG _) fun _ => keeps_bind (keeps_readRecord _ _ _) fun _ =>
    keeps_bind (keeps_checkFields _ _ _) fun _ => keeps_bind (keeps_getG _) fun _ => keeps_bind (keeps_getG _) fun _ =>
    keeps_bind (keeps_checkNamed _) fun _ => keeps_bind (keeps_checkWindow _) fun _ => keeps_bind (keeps_checkNamed _) fun _ =>
    keeps_bind (keeps_checkWindow _) fun _ => keeps_bind (keeps_checkWindow _) fun _ => keeps_bind keeps_get fun _ =>
    keeps_bind (keeps_accept _ _ _ _ _ _ _ _) fun _ => keeps_pure _

theorem execXcopyExecute_wf (cmd : Nat) (hs : s.wf = true) : NextWf (execXcopyExecute cmd s) := by
  refine event_wf ?_ hs
  refine keeps_bind (keeps_getCmd _) fun _ => ?_
  split
  · exact keeps_bind keeps_get fun _ => keeps_bind (keeps_need _) fun _ => keeps_bind (keeps_pickItems _ _ _) fun _ =>
    keeps_bind (keeps_copyItems _ _ _ _) fun _ => keeps_bind keeps_get fun _ => keeps_goOn _ _ _ _ (keeps_closeCmd _ _ _ _ _)
  · exact keeps_idle

theorem execXstream_wf (a : Reg) (acq : Bool) (scope : BitVec 2) (hs : s.wf = true) : NextWf (execXstream a acq scope s) := by
  refine insn_wf _ _ ?_ hs
  exact keeps_bind (keeps_getG _) fun _ => keeps_bind (keeps_readRecord _ _ _) fun _ => keeps_bind keeps_getCur fun _ =>
    keeps_bind keeps_getCur fun _ => keeps_bind (keeps_checkFields _ _ _) fun _ => keeps_bind keeps_getCur fun _ =>
    keeps_bind keeps_get fun _ => keeps_guard (keeps_trap _ _ _ _) fun _ => keeps_bind (keeps_checkFields _ _ _) fun _ =>
    keeps_bind (keeps_checkNamed _) fun _ => keeps_bind (keeps_checkWindow _) fun _ => keeps_bind keeps_get fun _ =>
    keeps_bind (keeps_accept _ _ _ _ _ _ _ _) fun _ => keeps_pure _

theorem execXstreamBind_wf (cmd : Nat) (hs : s.wf = true) : NextWf (execXstreamBind cmd s) := by
  refine event_wf (keeps_bind (keeps_getCmd _) fun c => ?_) hs
  split
  · refine keeps_get_bind fun s hs => keeps_bind (keeps_need _) fun _ => ?_
    split
    · exact keeps_finishCmd _ _ _
    · extract_lets h held
      split
      · refine keeps_bind (keeps_modify fun s hs => ?_) fun _ => keeps_finishCmd _ _ _
        exact wf_of_mem (putAgent_mem _ _) (patchArea_wf _ _ _ _ hs)
      · exact keeps_bind (keeps_need _) fun _ => keeps_bind (keeps_asAgent _ (keeps_modify_mem fun s => bindHandle_mem s _ _ _))
          fun _ => keeps_finishCmd _ _ _
  · exact keeps_idle

theorem execXsbar_wf (mask : BitVec 5) (acq : Bool) (scope : BitVec 2) (hs : s.wf = true) :
    NextWf (execXsbar mask acq scope s) := by
  refine insn_wf _ _ ?_ hs
  exact keeps_bind keeps_get fun _ => keeps_ite (keeps_bind (keeps_modCur _) fun _ =>
    keeps_bind (keeps_acquireIf _ _ _) fun _ => keeps_pure _) (keeps_bind (keeps_modCur _) fun _ => keeps_pure _)

theorem execXsbarDrain_wf (ag : Nat) (hs : s.wf = true) : NextWf (execXsbarDrain ag s) := by
  refine event_wf ?_ hs
  refine keeps_asAgent _ (keeps_bind keeps_get fun _ => keeps_bind (keeps_modCur _) fun _ => keeps_each _ (fun _ =>
    keeps_bind (keeps_modCur _) fun _ => ?_))
  split
  · exact keeps_acquire _ _
  · exact keeps_pure _

theorem execXgather_wf (a : Reg) (acq rel : Bool) (scope : BitVec 2) (hs : s.wf = true) :
    NextWf (execXgather a acq rel scope s) := by
  refine insn_wf _ _ ?_ hs
  exact keeps_bind (keeps_getG _) fun _ => keeps_bind (keeps_readRecord _ _ _) fun _ =>
    keeps_bind (keeps_checkFields _ _ _) fun _ => keeps_bind (keeps_checkWindow _) fun _ =>
    keeps_bind (keeps_checkWindow _) fun _ => keeps_bind (keeps_checkWindow _) fun _ =>
    keeps_bind (keeps_checkWindow _) fun _ => keeps_bind keeps_get fun _ => keeps_bind (keeps_accept _ _ _ _ _ _ _ _) fun _ =>
    keeps_pure _

theorem execXgatherExecute_wf (cmd : Nat) (hs : s.wf = true) : NextWf (execXgatherExecute cmd s) := by
  refine event_wf ?_ hs
  refine keeps_bind (keeps_getCmd _) fun _ => ?_
  split
  · exact keeps_bind keeps_get fun _ => keeps_bind (keeps_need _) fun _ => keeps_bind (keeps_pickItems _ _ _) fun _ =>
    keeps_bind (keeps_runItems _ _ _ (fun _ => keeps_gatherItem _ _ _ _ _ _)) fun _ =>
    keeps_goOn _ _ _ _ (keeps_closeCmd _ _ _ _ _)
  · exact keeps_idle

theorem execXbin_wf (a : Reg) (acq rel : Bool) (scope : BitVec 2) (hs : s.wf = true) : NextWf (execXbin a acq rel scope s) := by
  refine insn_wf _ _ ?_ hs
  exact keeps_bind (keeps_getG _) fun _ => keeps_bind (keeps_readRecord _ _ _) fun _ =>
    keeps_bind (keeps_checkFields _ _ _) fun _ => keeps_bind (keeps_checkWindow _) fun _ =>
    keeps_bind (keeps_checkWindow _) fun _ => keeps_bind (keeps_checkWindow _) fun _ =>
    keeps_bind (keeps_checkWindow _) fun _ => keeps_bind keeps_get fun _ => keeps_bind (keeps_accept _ _ _ _ _ _ _ _) fun _ =>
    keeps_pure _

theorem execXbinExecute_wf (cmd : Nat) (hs : s.wf = true) : NextWf (execXbinExecute cmd s) := by
  refine event_wf ?_ hs
  refine keeps_bind (keeps_getCmd _) fun _ => ?_
  split
  · refine keeps_bind keeps_get fun _ => keeps_bind (keeps_need _) fun _ => keeps_bind (keeps_pickItems _ _ _) fun _ => ?_
    split
    · refine keeps_bind (keeps_aloneItem _ _) fun _ => ?_
      split
      · refine keeps_bind (keeps_orFail (keeps_binKey _ _ _ _ _ _ _)) fun _ => ?_
        split
        · exact keeps_goOn _ _ _ _ (keeps_closeBin _ _ _ _ _ _ _ _)
        · exact keeps_putCmd _
        · exact keeps_bind (keeps_runOut (fun _ => keeps_binSlot _ _) _ _) fun _ => keeps_closeBin _ _ _ _ _ _ _ _
      · exact keeps_bind (keeps_binItems _ _ _ _ _ _ _ _) fun _ => keeps_goOn _ _ _ _ (keeps_closeBin _ _ _ _ _ _ _ _)
  · exact keeps_idle

end Sys2Proof.Proofs
end

/-! ## Relocation and the Granary: what their commands share -/
section
namespace Sys2Proof.Proofs

open Sys2Proof.Machine Sys2Proof.Laws

variable {α β : Type} {s : State}

/-! ### Lines moved and reclaimed -/

/-- A line moved: its bytes at the new place, its mark and ticket at the old (R250, R291). -/
theorem moveLine_wf (s : State) (asid va src dst va' ticket : Nat) (hs : s.wf = true) :
    (s.moveLine asid va src dst va' ticket).wf = true := by
  unfold State.moveLine
  refine wf_of_mem (publish_mem _ _ _ _) ?_
  have found := foundIn_wf s (some src) hs
  unfold State.wf at found ⊢
  dsimp only
  generalize leBytes 8 va' ++ leBytes 8 ticket ++ List.replicate 48 0 = stub
  apply memPuts_wf
  apply memPuts_wf
  exact found

theorem keeps_moveLines (c : Ctx) (ls : List (Nat × Nat)) : ∀ m k t, Keeps (moveLines c ls m k t) := by
  induction ls with
  | nil => exact fun _ _ _ => keeps_pure _
  | cons l rest ih =>
    intro m k t
    refine keeps_get_bind fun s hs => ?_
    split
    · exact keeps_pure _
    · split
      · exact ih _ _ _
      · split
        · exact keeps_pure _
        · exact keeps_bind (keeps_set (moveLine_wf _ _ _ _ _ _ _ hs)) fun _ => ih _ _ _

/-- A line reclaimed: its copies written back, its bytes zeroed (R294). -/
theorem reclaimLine_wf (s : State) (line : Nat) (hs : s.wf = true) : (s.reclaimLine line).wf = true := by
  have flushed : ∀ (t : State) (e : Nat × Cluster), t.wf = true →
      ((e.2.l1.filter (fun l => l.pline == line || l.via.contains line)).foldl (fun s l => s.flushLine e.1 l.pline) t).wf = true :=
    fun t _ ht => foldl_wf _ (fun s _ hs => flushLine_wf s _ _ hs) _ t ht
  have kept := foldl_wf _ flushed s.clusters s hs
  unfold State.reclaimLine
  unfold State.wf at kept ⊢
  dsimp only
  generalize List.replicate 64 0 = zeros
  apply memPuts_wf
  exact kept

/-! ### Units gathered, blocks built -/

theorem keeps_unitSource (c : Cmd) (va : Nat) : Keeps (unitSource c va) := by
  unfold unitSource
  refine keeps_bind keeps_get fun _ => keeps_bind (keeps_each _ (fun _ => keeps_guard (keeps_trap _ _ _ _) fun _ =>
    keeps_guard (keeps_trap _ _ _ _) fun _ => ?_)) fun _ => keeps_engineRead _ _ _
  split
  · exact keeps_throw _
  · refine keeps_guard (keeps_trap _ _ _ _) fun _ => ?_
    split
    · exact keeps_trap _ _ _ _
    · refine keeps_guard (keeps_trap _ _ _ _) fun _ => ?_
      split
      · exact keeps_trap _ _ _ _
      · exact keeps_pure _

theorem keeps_gatherUnits (c : Cmd) (src dst : Nat) (os : List Nat) : ∀ blk, Keeps (gatherUnits c src dst os blk) := by
  induction os with
  | nil => exact fun _ => keeps_pure _
  | cons o rest ih =>
    intro blk
    refine keeps_bind keeps_get fun s => ?_
    split
    · exact keeps_trap _ _ _ _
    · exact keeps_ite (keeps_pure _) (keeps_bind (keeps_unitSource _ _) fun x =>
        keeps_ite (keeps_bind (keeps_pure _) fun _ => keeps_pure _) (keeps_bind (ih _) fun _ => keeps_pure _))

theorem keeps_buildBlock (stack : Nat) : ∀ tries, Keeps (buildBlock stack tries)
  | 0 => keeps_pure _
  | tries + 1 => by
    unfold buildBlock
    refine keeps_bind keeps_get fun s => ?_
    generalize (s.stack stack).spare = spare
    cases spare with
    | none => exact keeps_pure _
    | some b =>
      refine keeps_bind keeps_drawBit fun _ => ?_
      exact keeps_ite (keeps_pure _) (keeps_bind (keeps_modStack _ _) fun _ => keeps_buildBlock stack tries)

/-- The bytes of units written at their places keep memory's form. -/
theorem putUnits_wf (n : Nat) (us : List (Nat × Nat)) (m : List Host.Cell) (h : Memory.wf m = true) :
    Memory.wf (us.foldl (fun m (pa, x) => memPutNat m pa n x) m) = true := by
  induction us generalizing m with
  | nil => exact h
  | cons u us ih => exact ih _ (memPutNat_wf _ _ _ _ h)

theorem switchBlock_wf (s : State) (stack b : Nat) (us : List (Nat × Nat)) (hs : s.wf = true) :
    (s.switchBlock stack b us).wf = true := putUnits_wf 65536 us s.mem hs

/-- What is paid of XWEAR goes to a register, a save area or an exception frame (R333). -/
theorem payWear_wf (s : State) (n : Nat) (x : Word) (hs : s.wf = true) : (s.payWear n x).wf = true := by
  refine foldl_wf _ (fun t e ht => ?_) _ _ (wf_of_mem (s := s) rfl hs)
  dsimp only
  split
  · refine wf_of_mem (setG_mem _ _ _) ?_
    split
    · exact patchArea_wf _ _ _ _ ht
    · exact ht
  · exact memPutNat_wf _ _ _ _ ht

end Sys2Proof.Proofs
end

/-! ## Relocation, the Granary, compares, permutations and conversions keep the form of memory -/
section
namespace Sys2Proof.Proofs

open Sys2Proof.Machine Sys2Proof.Laws

variable {α β : Type} {s : State}

theorem keeps_closeRecord (c : Cmd) (done : Nat) (parts : List (Nat × List Byte)) (dest : WRange) (f : Option Failure) :
    Keeps (closeRecord c done parts dest f) := by
  unfold closeRecord
  refine keeps_bind (keeps_publishEnd _ _) fun _ => ?_
  dsimp only
  split
  · exact keeps_bind (keeps_pure _) fun _ => keeps_finishCmd _ _ _
  · refine keeps_bind (keeps_orFail (keeps_each _ (fun _ => keeps_engineStore _ _ _ _))) fun _ => ?_
    split <;> exact keeps_bind (keeps_pure _) fun _ => keeps_finishCmd _ _ _

theorem keeps_regionFault {α : Type} (w : Nat) {x : Exec α} (hx : Keeps x) : Keeps (regionFault w x) := by
  unfold regionFault
  refine keeps_bind (keeps_orFail hx) fun _ => ?_
  split
  · exact keeps_pure _
  · exact keeps_trap _ _ _ _

theorem keeps_healWord (c : Cmd) (lo hi w : Nat) : Keeps (healWord c lo hi w) := by
  unfold healWord
  refine keeps_bind (keeps_regionFault _ (keeps_engineRead _ _ _)) fun _ => ?_
  split
  · refine keeps_bind keeps_get fun _ => ?_
    split
    · exact keeps_trap _ _ _ _
    · exact keeps_ite (keeps_pure _) (keeps_bind (keeps_regionFault _ (keeps_engineUpdate _ _ _ _)) fun _ => keeps_pure _)
  · exact keeps_pure _

theorem keeps_readHeals (c : Cmd) (list n : Nat) : Keeps (readHeals c list n) := by
  unfold readHeals
  refine keeps_eachGet _ (fun _ => keeps_bind (keeps_orFail (keeps_bind (keeps_engineRead _ _ _) fun _ =>
    keeps_bind (keeps_engineRead _ _ _) fun _ => keeps_bind (keeps_engineRead _ _ _) fun _ =>
    keeps_bind (keeps_engineRead _ _ _) fun _ => keeps_bind (keeps_engineRead _ _ _) fun _ => keeps_pure _)) fun _ => ?_)
  split
  · exact keeps_pure _
  · exact keeps_trap _ _ _ _

theorem keeps_flashPlace (cause : Nat) (va rec_ : Word) : Keeps (flashPlace cause va rec_) := by
  unfold flashPlace
  refine keeps_bind keeps_get fun _ => keeps_guard (keeps_trap _ _ _ _) fun _ => ?_
  split
  · exact keeps_ite (keeps_trap _ _ _ _) (keeps_throw _)
  · exact keeps_guard (keeps_trap _ _ _ _) fun _ => keeps_pure _

theorem keeps_stopInstall (c : Cmd) (p : InstallPos) (status : Nat) (f : Failure) : Keeps (stopInstall c p status f) :=
  keeps_putCmd _

theorem keeps_vmove (d a p : Reg) (keep : State → Nat → Bool) (from_ : State → Nat → Option Nat) :
    Keeps (vmove d a p keep from_) :=
  keeps_bind keeps_get fun _ => keeps_bind (keeps_checkDest _ _) fun _ => keeps_bind keeps_needStartZero fun _ =>
    keeps_bind keeps_get fun _ => keeps_writeResult _ _ _ _

theorem execXmove_wf (d a b : Reg) (acq rel : Bool) (scope : BitVec 2) (hs : s.wf = true) :
    NextWf (execXmove d a b acq rel scope s) := by
  refine insn_wf _ _ ?_ hs
  exact keeps_bind (keeps_getG _) fun _ => keeps_bind (keeps_readRecord _ _ _) fun _ => keeps_bind (keeps_getG _) fun _ =>
    keeps_bind (keeps_getG _) fun _ => keeps_bind (keeps_checkFields _ _ _) fun _ => keeps_bind (keeps_checkWindow _) fun _ =>
    keeps_bind (keeps_checkWindow _) fun _ => keeps_bind (keeps_checkWindow _) fun _ => keeps_bind keeps_get fun _ =>
    keeps_bind (keeps_accept _ _ _ _ _ _ _ _) fun _ => keeps_pure _

theorem execXmoveExecute_wf (cmd : Nat) (hs : s.wf = true) : NextWf (execXmoveExecute cmd s) := by
  refine event_wf ?_ hs
  refine keeps_bind (keeps_getCmd _) fun _ => ?_
  split
  · exact keeps_bind keeps_get fun _ => keeps_bind (keeps_need _) fun _ => keeps_bind keeps_drawBit fun _ =>
    keeps_bind (keeps_moveLines _ _ _ _ _) fun _ => keeps_goOn _ _ _ _ (keeps_closeRecord _ _ _ _ _)
  · exact keeps_idle

theorem execMovedAccessRetry_wf (cl line : Nat) (hs : s.wf = true) : NextWf (execMovedAccessRetry cl line s) := by
  refine event_wf ?_ hs
  refine keeps_get_bind fun s hs => keeps_bind (keeps_need _) fun _ => ?_
  split
  · exact keeps_idle
  · exact keeps_set (writeBack_wf _ _ _ hs)

theorem execXheal_wf (a : Reg) (acq rel : Bool) (scope : BitVec 2) (hs : s.wf = true) :
    NextWf (execXheal a acq rel scope s) := by
  refine insn_wf _ _ ?_ hs
  exact keeps_bind (keeps_getG _) fun _ => keeps_bind (keeps_readRecord _ _ _) fun _ =>
    keeps_bind (keeps_checkFields _ _ _) fun _ => keeps_bind (keeps_checkWindow _) fun _ =>
    keeps_bind (keeps_checkWindow _) fun _ => keeps_bind keeps_get fun _ => keeps_bind (keeps_accept _ _ _ _ _ _ _ _) fun _ =>
    keeps_pure _

theorem execXhealExecute_wf (cmd : Nat) (hs : s.wf = true) : NextWf (execXhealExecute cmd s) := by
  refine event_wf ?_ hs
  refine keeps_bind (keeps_getCmd _) fun _ => ?_
  split
  · exact keeps_bind keeps_get fun _ => keeps_bind (keeps_need _) fun _ => keeps_bind (keeps_pickItems _ _ _) fun _ =>
    keeps_bind (keeps_runItems _ _ _ (fun _ => keeps_healWord _ _ _ _)) fun _ =>
    keeps_goOn _ _ _ _ (keeps_closeRecord _ _ _ _ _)
  · exact keeps_idle

theorem execXreclaim_wf (a : Reg) (acq rel : Bool) (scope : BitVec 2) (hs : s.wf = true) :
    NextWf (execXreclaim a acq rel scope s) := by
  refine insn_wf _ _ ?_ hs
  exact keeps_bind (keeps_getG _) fun _ => keeps_bind (keeps_readRecord _ _ _) fun _ =>
    keeps_bind (keeps_checkFields _ _ _) fun _ => keeps_bind (keeps_checkWindow _) fun _ =>
    keeps_bind (keeps_checkWindow _) fun _ => keeps_bind (keeps_checkWindow _) fun _ => keeps_bind keeps_get fun _ =>
    keeps_bind (keeps_accept _ _ _ _ _ _ _ _) fun _ => keeps_pure _

theorem execXreclaimExecute_wf (cmd : Nat) (hs : s.wf = true) : NextWf (execXreclaimExecute cmd s) := by
  refine event_wf (keeps_bind (keeps_getCmd _) fun c => ?_) hs
  split
  · refine keeps_bind (keeps_orFail (keeps_readHeals _ _ _)) fun r => ?_
    split
    · exact keeps_bind keeps_get fun _ => keeps_bind (keeps_need _) fun _ => keeps_closeCmd _ _ _ _ _
    · refine keeps_ite (keeps_closeCmd _ _ _ _ _) (keeps_bind keeps_get fun s => keeps_bind (keeps_need _) fun _ => ?_)
      split
      · exact keeps_closeCmd _ _ _ _ _
      · exact keeps_bind (keeps_need _) fun _ => keeps_bind (keeps_need _) fun _ =>
          keeps_bind (keeps_modify fun s hs => foldl_wf _ reclaimLine_wf _ s hs) fun _ => keeps_closeCmd _ _ _ _ _
  · exact keeps_idle

theorem execBlockErase_wf (stack block : Nat) (hs : s.wf = true) : NextWf (execBlockErase stack block s) := by
  refine event_wf ?_ hs
  exact keeps_bind keeps_get fun _ => keeps_bind (keeps_need _) fun _ => keeps_modify_mem fun _ => setStack_mem _ _ _

theorem execXinst_wf (d a b : Reg) (acq rel : Bool) (scope : BitVec 2) (hs : s.wf = true) :
    NextWf (execXinst d a b acq rel scope s) := by
  refine insn_wf _ _ ?_ hs
  exact keeps_bind (keeps_getG _) fun _ => keeps_bind (keeps_readRecord _ _ _) fun _ => keeps_bind (keeps_getG _) fun _ =>
    keeps_bind (keeps_getG _) fun _ => keeps_bind (keeps_checkFields _ _ _) fun _ => keeps_bind (keeps_checkWindow _) fun _ =>
    keeps_bind (keeps_checkWindow _) fun _ => keeps_bind (keeps_checkWindow _) fun _ =>
    keeps_bind (keeps_flashPlace _ _ _) fun _ => keeps_bind (keeps_accept _ _ _ _ _ _ _ _) fun _ => keeps_pure _

theorem execXinstExecute_wf (cmd : Nat) (hs : s.wf = true) : NextWf (execXinstExecute cmd s) := by
  refine event_wf ?_ hs
  refine keeps_bind (keeps_getCmd _) fun _ => ?_
  split
  · refine keeps_get_bind fun s hs => keeps_bind (keeps_need _) fun _ => ?_
    dsimp only
    split
    · refine keeps_bind (keeps_orFail (keeps_gatherUnits _ _ _ _ _)) fun _ => ?_
      split
      · exact keeps_stopInstall _ _ _ _
      · refine keeps_bind (keeps_buildBlock _ _) fun _ => ?_
        split
        · exact keeps_stopInstall _ _ _ _
        · exact keeps_stopInstall _ _ _ _
        · exact keeps_bind keeps_get fun _ => keeps_bind (keeps_modify fun _ hs => switchBlock_wf _ _ _ _ hs) fun _ =>
          keeps_putCmd _
    · exact keeps_bind (keeps_need _) fun _ => keeps_bind (keeps_modify_mem fun _ => publishCmd_mem _ _ _) fun _ =>
      keeps_bind (keeps_orFail (keeps_engineReport _ _ _)) fun _ =>
      keeps_bind (keeps_orFail (keeps_ite (keeps_engineReport _ _ _) (keeps_pure _))) fun _ => keeps_finishCmd _ _ _
  · exact keeps_idle

theorem execXpin_wf (d a b : Reg) (acq rel : Bool) (scope : BitVec 2) (hs : s.wf = true) :
    NextWf (execXpin d a b acq rel scope s) := by
  refine insn_wf _ _ ?_ hs
  exact keeps_bind (keeps_getG _) fun _ => keeps_bind (keeps_getG _) fun _ => keeps_bind (keeps_getG _) fun _ =>
    keeps_bind (keeps_checkWindow _) fun _ => keeps_bind (keeps_flashPlace _ _ _) fun _ =>
    keeps_bind (keeps_accept _ _ _ _ _ _ _ _) fun _ => keeps_pure _

theorem execXpinExecute_wf (cmd : Nat) (hs : s.wf = true) : NextWf (execXpinExecute cmd s) := by
  refine event_wf ?_ hs
  refine keeps_bind (keeps_getCmd _) fun _ => ?_
  split
  · exact keeps_get_bind fun s hs => keeps_bind (keeps_need _) fun _ =>
    keeps_bind (keeps_set (wf_of_mem (foldl_mem _ (fun _ _ => setTower_mem _ _ _) _ _) hs)) fun _ => keeps_closeCmd _ _ _ _ _
  · exact keeps_idle

theorem execXwear_wf (d a : Reg) (hs : s.wf = true) : NextWf (execXwear d a s) := by
  refine insn_wf _ _ ?_ hs
  exact keeps_bind (keeps_getG _) fun _ => keeps_bind (keeps_flashPlace _ _ _) fun _ => keeps_bind keeps_get fun _ =>
    keeps_bind (keeps_accept _ _ _ _ _ _ _ _) fun _ => keeps_ite (keeps_bind (keeps_modCur _) fun _ =>
    keeps_bind keeps_get fun _ => keeps_guard (keeps_throw _) fun _ => keeps_pure _) (keeps_pure _)

theorem execXwearExecute_wf (cmd : Nat) (hs : s.wf = true) : NextWf (execXwearExecute cmd s) := by
  refine event_wf ?_ hs
  refine keeps_bind (keeps_getCmd _) fun _ => ?_
  split
  · refine keeps_get_bind fun s hs => keeps_bind (keeps_need _) fun _ => ?_
    dsimp only
    split
    · exact keeps_finishCmd _ _ _
    · exact keeps_bind (keeps_asAgent _ (keeps_modify fun _ hs => payWear_wf _ _ _ hs)) fun _ => keeps_finishCmd _ _ _
  · exact keeps_idle

theorem vcmp_wf (i : Instr) (d a b p : Reg) (ifNan : Bool × Events) (rel : Int → Bool) (hs : s.wf = true) :
    NextWf (vcmp i d a b p ifNan rel s) := by
  refine vinsn_wf _ _ ?_ hs
  exact keeps_bind (keeps_checkSource _) fun _ => keeps_bind (keeps_checkSource _) fun _ => keeps_bind keeps_get fun _ =>
    keeps_bind (keeps_writePred _ _ _) fun _ => keeps_bind (keeps_flags _) fun _ => keeps_endStrip

theorem vpop_wf (i : Instr) (d a b p : Reg) (op : Bool → Bool → Bool) (hs : s.wf = true) : NextWf (vpop i d a b p op s) := by
  refine vinsn_wf _ _ ?_ hs
  exact keeps_bind keeps_get fun _ => keeps_bind (keeps_writePred _ _ _) fun _ => keeps_endStrip

theorem execVslideup_wf (d a b p : Reg) (hs : s.wf = true) : NextWf (execVslideup d a b p s) := by
  refine vinsn_wf _ _ ?_ hs
  exact keeps_bind (keeps_checkSource _) fun _ => keeps_vmove _ _ _ _ _

theorem execVslidedn_wf (d a b p : Reg) (hs : s.wf = true) : NextWf (execVslidedn d a b p s) := by
  refine vinsn_wf _ _ ?_ hs
  exact keeps_bind (keeps_checkSource _) fun _ => keeps_vmove _ _ _ _ _

theorem execVperm_wf (d a b p : Reg) (hs : s.wf = true) : NextWf (execVperm d a b p s) := by
  refine vinsn_wf _ _ ?_ hs
  exact keeps_bind (keeps_checkSource _) fun _ => keeps_bind (keeps_checkSource _) fun _ => keeps_bind keeps_get fun _ =>
    keeps_guard (keeps_mismatch _ _ _) fun _ => keeps_vmove _ _ _ _ _

theorem execVbcast_wf (d a p : Reg) (hs : s.wf = true) : NextWf (execVbcast d a p s) := by
  refine vinsn_wf _ _ ?_ hs
  exact keeps_bind keeps_getRegs fun _ => keeps_guard (keeps_mismatch _ _ _) fun _ => keeps_elementwise _ _ _ _ _

theorem execVcompress_wf (d a p : Reg) (hs : s.wf = true) : NextWf (execVcompress d a p s) := by
  refine vinsn_wf _ _ ?_ hs
  exact keeps_bind (keeps_checkSource _) fun _ => keeps_bind keeps_get fun _ => keeps_bind (keeps_checkDest _ _) fun _ =>
    keeps_bind keeps_needStartZero fun _ => keeps_bind keeps_get fun _ => keeps_writeResult _ _ _ _

theorem execVmvs_wf (d a b : Reg) (hs : s.wf = true) : NextWf (execVmvs d a b s) := by
  refine insn_wf _ _ ?_ hs
  exact keeps_bind (keeps_checkSource _) fun _ => keeps_bind keeps_resync fun _ => keeps_bind keeps_get fun _ =>
    keeps_bind (keeps_putG _ _) fun _ => keeps_pure _

theorem vreduce_wf (i : Instr) (d a b p : Reg) (ok : Fmt → Bool) (red : State → Fmt → List Nat → Nat × List (Nat × Events))
    (hs : s.wf = true) : NextWf (vreduce i d a b p ok red s) := by
  refine vinsn_wf _ _ ?_ hs
  exact keeps_bind (keeps_each _ (fun _ => keeps_checkSource _)) fun _ => keeps_bind keeps_get fun _ =>
    keeps_guard (keeps_mismatch _ _ _) fun _ => keeps_bind (keeps_checkDest _ _) fun _ =>
    keeps_bind keeps_needStartZero fun _ => keeps_bind keeps_get fun _ =>
    keeps_ite (keeps_writeResult _ _ _ _) (keeps_bind (keeps_writeResult _ _ _ _) fun _ => keeps_flags _)

theorem execVscan_wf (d a b p : Reg) (hs : s.wf = true) : NextWf (execVscan d a b p s) := by
  refine vinsn_wf _ _ ?_ hs
  exact keeps_bind (keeps_each _ (fun _ => keeps_checkSource _)) fun _ => keeps_bind keeps_get fun _ =>
    keeps_bind (keeps_checkDest _ _) fun _ => keeps_bind keeps_needStartZero fun _ => keeps_bind keeps_get fun _ =>
    keeps_ite (keeps_writeResult _ _ _ _) (keeps_bind (keeps_writeResult _ _ _ _) fun _ => keeps_flags _)

theorem execVprune_wf (d a b p : Reg) (hs : s.wf = true) : NextWf (execVprune d a b p s) := by
  refine vinsn_wf _ _ ?_ hs
  exact keeps_bind (keeps_checkSource _) fun _ => keeps_bind keeps_get fun _ => keeps_bind (keeps_checkDest _ _) fun _ =>
    keeps_bind keeps_needStartZero fun _ => keeps_bind keeps_get fun _ => keeps_bind (keeps_takeRows _ _ _ _ _) fun _ =>
    keeps_bind (keeps_writeGroup _ _ _ _ _ _) fun _ => keeps_bind (keeps_writePred _ _ _) fun _ => keeps_setVstart _

theorem execVcvt_wf (d a p : Reg) (rm : BitVec 2) (hs : s.wf = true) : NextWf (execVcvt d a p rm s) := by
  refine vinsn_wf _ _ ?_ hs
  exact keeps_bind (keeps_checkSource _) fun _ => keeps_bind keeps_get fun _ => keeps_guard (keeps_mismatch _ _ _) fun _ =>
    keeps_elementwise _ _ _ _ _

@[simp] theorem remap_mem (s old : State) (b : Nat) (f : Fmt) (g n : Nat) : (s.remap old b f g n).mem = s.mem :=
  foldl_mem _ (fun _ _ => setV_mem _ _ _) _ s

theorem execVcvtef_wf (d a b p : Reg) (rm : BitVec 2) (hs : s.wf = true) : NextWf (execVcvtef d a b p rm s) := by
  refine vinsn_wf _ _ ?_ hs
  exact keeps_bind (keeps_checkSource _) fun _ => keeps_get_bind fun s hs => keeps_guard (keeps_mismatch _ _ _) fun _ =>
    keeps_bind (keeps_needGroup _) fun _ => keeps_bind (keeps_needGroup _) fun _ =>
    keeps_bind (keeps_checkAlign _ _ _) fun _ => keeps_bind (keeps_checkAlign _ _ _) fun _ =>
    keeps_bind (keeps_checkRestart _ _ _ _) fun _ => keeps_bind (keeps_checkRestart _ _ _ _) fun _ =>
    keeps_bind keeps_get fun _ => keeps_bind (keeps_takeRowsTwo _ _ _ _ _ _ _ _) fun _ =>
    keeps_bind (keeps_writeGroup _ _ _ _ _ _) fun _ => keeps_bind (keeps_modify_mem fun s => (remap_mem _ _ _ _ _ _).trans (mapRows_mem s _ _ _ _ _)) fun _ =>
    keeps_bind (keeps_writeGroup _ _ _ _ _ _) fun _ => keeps_bind (keeps_flags _) fun _ => keeps_endStrip

theorem execVdqbx_wf (d a p : Reg) (hs : s.wf = true) : NextWf (execVdqbx d a p s) := by
  refine vinsn_wf _ _ ?_ hs
  exact keeps_bind (keeps_checkSource _) fun _ => keeps_bind keeps_get fun _ => keeps_guard (keeps_mismatch _ _ _) fun _ =>
    keeps_elementwise _ _ _ _ _

theorem execVnsat_wf (d a p : Reg) (hs : s.wf = true) : NextWf (execVnsat d a p s) := by
  refine vinsn_wf _ _ ?_ hs
  exact keeps_bind (keeps_checkSource _) fun _ => keeps_bind keeps_get fun _ => keeps_guard (keeps_mismatch _ _ _) fun _ =>
    keeps_elementwise _ _ _ _ _

theorem execVqbx_wf (d a : Reg) (k : BitVec 3) (rm : BitVec 2) (hs : s.wf = true) : NextWf (execVqbx d a k rm s) := by
  refine vinsn_wf _ _ ?_ hs
  exact keeps_bind (keeps_checkSource _) fun _ => keeps_bind keeps_get fun _ => keeps_guard (keeps_mismatch _ _ _) fun _ =>
    keeps_bind (keeps_checkDest _ _) fun _ => keeps_guard keeps_vstartBad fun _ => keeps_guard (keeps_modCur _) fun _ =>
    keeps_bind keeps_get fun _ => keeps_bind (keeps_takeRows _ _ _ _ _) fun _ =>
    keeps_bind (keeps_writeGroup _ _ _ _ _ _) fun _ => keeps_bind (keeps_writeScales _ _) fun _ =>
    keeps_bind (keeps_trimScales _ _) fun _ => keeps_bind (keeps_flags _) fun _ => keeps_endStrip

end Sys2Proof.Proofs
end

/-! ## Sweeps, saving and responses: what their steps share -/
section
namespace Sys2Proof.Proofs

open Sys2Proof.Machine Sys2Proof.Laws

variable {α β : Type} {s : State}

/-! ### The words of a sweep's body -/

theorem bodyExec_wf (i : Instr) (hs : s.wf = true) : NextWf (bodyExec i s) := by
  cases i with
  | add d a b => exact show NextWf (execAdd d a b s) from rr_wf _ _ _ _ _ hs
  | sub d a b => exact show NextWf (execSub d a b s) from rr_wf _ _ _ _ _ hs
  | and d a b => exact show NextWf (execAnd d a b s) from rr_wf _ _ _ _ _ hs
  | or d a b => exact show NextWf (execOr d a b s) from rr_wf _ _ _ _ _ hs
  | xor d a b => exact show NextWf (execXor d a b s) from rr_wf _ _ _ _ _ hs
  | sll d a b => exact show NextWf (execSll d a b s) from rr_wf _ _ _ _ _ hs
  | srl d a b => exact show NextWf (execSrl d a b s) from rr_wf _ _ _ _ _ hs
  | sra d a b => exact show NextWf (execSra d a b s) from rr_wf _ _ _ _ _ hs
  | slt d a b => exact show NextWf (execSlt d a b s) from rr_wf _ _ _ _ _ hs
  | sltu d a b => exact show NextWf (execSltu d a b s) from rr_wf _ _ _ _ _ hs
  | mul d a b => exact show NextWf (execMul d a b s) from rr_wf _ _ _ _ _ hs
  | mulh d a b => exact show NextWf (execMulh d a b s) from rr_wf _ _ _ _ _ hs
  | div d a b => exact show NextWf (execDiv d a b s) from rrEv_wf _ _ _ _ _ hs
  | divu d a b => exact show NextWf (execDivu d a b s) from rrEv_wf _ _ _ _ _ hs
  | rem d a b => exact show NextWf (execRem d a b s) from rrEv_wf _ _ _ _ _ hs
  | remu d a b => exact show NextWf (execRemu d a b s) from rrEv_wf _ _ _ _ _ hs
  | addi d a imm => exact show NextWf (execAddi d a imm s) from ri_wf _ _ _ _ hs
  | andi d a imm => exact show NextWf (execAndi d a imm s) from ri_wf _ _ _ _ hs
  | ori d a imm => exact show NextWf (execOri d a imm s) from ri_wf _ _ _ _ hs
  | xori d a imm => exact show NextWf (execXori d a imm s) from ri_wf _ _ _ _ hs
  | slti d a imm => exact show NextWf (execSlti d a imm s) from ri_wf _ _ _ _ hs
  | sltiu d a imm => exact show NextWf (execSltiu d a imm s) from ri_wf _ _ _ _ hs
  | lui d imm => exact show NextWf (execLui d imm s) from ri_wf _ _ _ _ hs
  | lsi d a imm => exact show NextWf (execLsi d a imm s) from ri_wf _ _ _ _ hs
  | slli d a sh => exact show NextWf (execSlli d a sh s) from ri_wf _ _ _ _ hs
  | srli d a sh => exact show NextWf (execSrli d a sh s) from ri_wf _ _ _ _ hs
  | srai d a sh => exact show NextWf (execSrai d a sh s) from ri_wf _ _ _ _ hs
  | sel d a b => exact execSel_wf _ _ _ hs
  | vadd d a b p => exact show NextWf (execVadd d a b p s) from vint_wf _ _ _ _ _ _ _ hs
  | vsub d a b p => exact show NextWf (execVsub d a b p s) from vint_wf _ _ _ _ _ _ _ hs
  | vqadd d a b p => exact show NextWf (execVqadd d a b p s) from vint_wf _ _ _ _ _ _ _ hs
  | vqsub d a b p => exact show NextWf (execVqsub d a b p s) from vint_wf _ _ _ _ _ _ _ hs
  | vmul d a b p => exact show NextWf (execVmul d a b p s) from vint_wf _ _ _ _ _ _ _ hs
  | vmulh d a b p => exact show NextWf (execVmulh d a b p s) from vint_wf _ _ _ _ _ _ _ hs
  | vmacc d a b p => exact show NextWf (execVmacc d a b p s) from vint_wf _ _ _ _ _ _ _ hs
  | vand d a b p => exact show NextWf (execVand d a b p s) from vint_wf _ _ _ _ _ _ _ hs
  | vor d a b p => exact show NextWf (execVor d a b p s) from vint_wf _ _ _ _ _ _ _ hs
  | vxor d a b p => exact show NextWf (execVxor d a b p s) from vint_wf _ _ _ _ _ _ _ hs
  | vsll d a b p => exact show NextWf (execVsll d a b p s) from vint_wf _ _ _ _ _ _ _ hs
  | vsrl d a b p => exact show NextWf (execVsrl d a b p s) from vint_wf _ _ _ _ _ _ _ hs
  | vsra d a b p => exact show NextWf (execVsra d a b p s) from vint_wf _ _ _ _ _ _ _ hs
  | vmin d a b p => exact show NextWf (execVmin d a b p s) from vint_wf _ _ _ _ _ _ _ hs
  | vmax d a b p => exact show NextWf (execVmax d a b p s) from vint_wf _ _ _ _ _ _ _ hs
  | vfadd d a b p rm => exact show NextWf (execVfadd d a b p rm s) from vfp2_wf _ _ _ _ _ _ _ hs
  | vfsub d a b p rm => exact show NextWf (execVfsub d a b p rm s) from vfp2_wf _ _ _ _ _ _ _ hs
  | vfmul d a b p rm => exact show NextWf (execVfmul d a b p rm s) from vfp2_wf _ _ _ _ _ _ _ hs
  | vfdiv d a b p rm => exact show NextWf (execVfdiv d a b p rm s) from vfp2_wf _ _ _ _ _ _ _ hs
  | vfsqrt d a p rm => exact show NextWf (execVfsqrt d a p rm s) from vfp1_wf _ _ _ _ _ _ hs
  | vfma d a b p rm => exact show NextWf (execVfma d a b p rm s) from vfp3_wf _ _ _ _ _ _ _ hs
  | vfms d a b p rm => exact show NextWf (execVfms d a b p rm s) from vfp3_wf _ _ _ _ _ _ _ hs
  | vfmin d a b p rm => exact show NextWf (execVfmin d a b p rm s) from vfp2_wf _ _ _ _ _ _ _ hs
  | vfmax d a b p rm => exact show NextWf (execVfmax d a b p rm s) from vfp2_wf _ _ _ _ _ _ _ hs
  | vfabs d a p rm => exact show NextWf (execVfabs d a p rm s) from vsign_wf _ _ _ _ _ _ _ _ hs
  | vfneg d a p rm => exact show NextWf (execVfneg d a p rm s) from vsign_wf _ _ _ _ _ _ _ _ hs
  | vfsgnj d a b p rm => exact show NextWf (execVfsgnj d a b p rm s) from vsign_wf _ _ _ _ _ _ _ _ hs
  | vfrecip d a p rm => exact show NextWf (execVfrecip d a p rm s) from vfp1_wf _ _ _ _ _ _ hs
  | vfrsqrt d a p rm => exact show NextWf (execVfrsqrt d a p rm s) from vfp1_wf _ _ _ _ _ _ hs
  | vfclass d a p rm => exact execVfclass_wf _ _ _ _ hs
  | vcmpeq d a b p => exact show NextWf (execVcmpeq d a b p s) from vcmp_wf _ _ _ _ _ _ _ hs
  | vcmpne d a b p => exact show NextWf (execVcmpne d a b p s) from vcmp_wf _ _ _ _ _ _ _ hs
  | vcmplt d a b p => exact show NextWf (execVcmplt d a b p s) from vcmp_wf _ _ _ _ _ _ _ hs
  | vcmple d a b p => exact show NextWf (execVcmple d a b p s) from vcmp_wf _ _ _ _ _ _ _ hs
  | vpand d a b p => exact show NextWf (execVpand d a b p s) from vpop_wf _ _ _ _ _ _ hs
  | vpor d a b p => exact show NextWf (execVpor d a b p s) from vpop_wf _ _ _ _ _ _ hs
  | vpxor d a b p => exact show NextWf (execVpxor d a b p s) from vpop_wf _ _ _ _ _ _ hs
  | vpandn d a b p => exact show NextWf (execVpandn d a b p s) from vpop_wf _ _ _ _ _ _ hs
  | vslideup d a b p => exact execVslideup_wf _ _ _ _ hs
  | vslidedn d a b p => exact execVslidedn_wf _ _ _ _ hs
  | vperm d a b p => exact execVperm_wf _ _ _ _ hs
  | vbcast d a p => exact execVbcast_wf _ _ _ hs
  | vcompress d a p => exact execVcompress_wf _ _ _ hs
  | vredsum d a b p => exact show NextWf (execVredsum d a b p s) from vreduce_wf _ _ _ _ _ _ _ hs
  | vfredsum d a b p rm => exact show NextWf (execVfredsum d a b p rm s) from vreduce_wf _ _ _ _ _ _ _ hs
  | vfredosum d a b p rm => exact show NextWf (execVfredosum d a b p rm s) from vreduce_wf _ _ _ _ _ _ _ hs
  | vredmax d a b p => exact show NextWf (execVredmax d a b p s) from vreduce_wf _ _ _ _ _ _ _ hs
  | vscan d a b p => exact execVscan_wf _ _ _ _ hs
  | vprune d a b p => exact execVprune_wf _ _ _ _ hs
  | vmvs d a b => exact execVmvs_wf _ _ _ hs
  | vcvt d a p rm => exact execVcvt_wf _ _ _ _ hs
  | vcvtef d a b p rm => exact execVcvtef_wf _ _ _ _ _ hs
  | vdqbx d a p => exact execVdqbx_wf _ _ _ hs
  | vnsat d a p => exact execVnsat_wf _ _ _ hs
  | vqbx d a k rm => exact execVqbx_wf _ _ _ _ hs
  | _ => exact nextWf_next hs

/-- A body runs word by word; each word keeps the form. -/
theorem runBody_wf (ws : List IWord) : ∀ s, s.wf = true → (runBody ws s).wf = true := by
  induction ws with
  | nil => exact fun _ hs => hs
  | cons w rest ih =>
    intro s hs
    unfold runBody
    split
    · exact hs
    · split
      · next t h =>
        refine ih t ?_
        split at h
        · exact bodyExec_wf _ hs t h
        · exact execIllegalInsn_wf _ hs t h
      · exact hs

/-! ### Batches -/

theorem keeps_skipBit (c : Cmd) (skip : Nat) (p : SweepPos) (g : Nat) : Keeps (skipBit c skip p g) := by
  unfold skipBit
  split
  · exact keeps_pure _
  · refine keeps_bind (keeps_orFail (keeps_engineRead _ _ _)) fun _ => ?_
    split <;> exact keeps_pure _

theorem keeps_batchLines (c : Cmd) (skip pol lines fuel : Nat) : ∀ p g, Keeps (batchLines c skip pol lines fuel p g) := by
  induction fuel with
  | zero => exact fun _ _ => keeps_pure _
  | succ fuel ih =>
    intro p g
    refine keeps_ite (keeps_pure _) (keeps_ite (keeps_bind (ih _ _) fun _ => keeps_pure _)
      (keeps_bind (keeps_skipBit _ _ _ _) fun r => ?_))
    split
    · exact keeps_pure _
    · exact keeps_pure _
    · exact keeps_bind (ih _ _) fun _ => keeps_pure _

/-- A batch step is whole, or leaves but the stamp of a stall (R116). -/
theorem batchStep_wf (core : Nat) {x : Exec Unit} (hx : Keeps x) (hs : s.wf = true) : NextWf (batchStep core x s) := by
  have kept := hx s hs
  unfold batchStep
  split
  · next h => rw [h] at kept; exact nextWf_next kept
  · refine nextWf_next (wf_of_mem ?_ hs)
    split <;> rfl

/-! ### Agents saved, resumed and renamed -/

theorem saveAway_wf (s : State) (id : Nat) (hs : s.wf = true) : (s.saveAway id).wf = true := by
  unfold State.saveAway
  split
  · exact hs
  · exact wf_of_mem (focus_mem _ _) (settle_wf _ (keeps_saveThread _) (wf_of_mem (focus_mem s id) hs))

@[simp] theorem rereadWeight_mem (s : State) (l : Nat) : (s.rereadWeight l).mem = s.mem := by
  unfold State.rereadWeight
  split
  · rfl
  · exact weightRead_mem _ _

/-- A step that happens whole or not at all keeps the form, whichever it does. -/
theorem wholeOrStop_wf (id : Nat) {x : Exec Unit} (hx : Keeps x) (hs : s.wf = true) : (wholeOrStop id x s).wf = true := by
  have kept := hx (s.focus id) (wf_of_mem (focus_mem s id) hs)
  unfold wholeOrStop
  dsimp only
  split
  · next h => rw [h] at kept; exact wf_of_mem (focus_mem _ _) kept
  · next h => rw [h] at kept; exact wf_of_mem (focus_mem _ _) (keeps_eventStep (keeps_stopLaunch _ _) kept)
  · exact hs

@[simp] theorem rename_mem (s : State) (old new : Nat) : (s.rename old new).mem = s.mem := by
  unfold State.rename
  split
  · rfl
  · dsimp only
    split
    · exact (focus_mem _ _).trans (setAside_mem s new)
    · exact setAside_mem s new

/-! ### The vector pipes -/

@[simp] theorem setToken_mem (s : State) (ag slot : Nat) (f : VToken → VToken) : (s.setToken ag slot f).mem = s.mem := by
  unfold State.setToken
  split
  · rfl
  · exact putAgent_mem _ _

@[simp] theorem grantPipe_mem (s : State) (core pipe : Nat) : (s.grantPipe core pipe).mem = s.mem := by
  have noted : ∀ (hs : List Head) (t : State), (hs.foldl (fun (s : State) h =>
      s.setToken (queueAgent core h.q) h.slot (fun t => { t with since := some h.since })) t).mem = t.mem :=
    fun hs t => foldl_mem _ (fun s h => setToken_mem s _ _ _) hs t
  unfold State.grantPipe
  dsimp only
  split
  · exact noted _ s
  · split
    · exact noted _ s
    · exact (setToken_mem _ _ _ _).trans (noted _ s)

/-! ### Responses -/

theorem keeps_latePart (st : Nat) (old : List Byte) (a k : Nat) (seen : LinesRead) : Keeps (latePart st old a k seen) := by
  unfold latePart
  refine keeps_bind keeps_get fun _ => ?_
  split
  · exact keeps_pure _
  · refine keeps_bind (keeps_attempt (keeps_ite (keeps_linePiece _ _ _ _) (keeps_bind (keeps_loadNat _ _ _ _) fun _ =>
    keeps_pure _))) fun _ => ?_
    split <;> exact keeps_pure _

theorem keeps_lateParts (st : Nat) (only : Nat → Bool) (ps : List (Nat × Nat)) :
    ∀ old seen, Keeps (lateParts st only ps old seen) := by
  induction ps with
  | nil => exact fun _ _ => keeps_pure _
  | cons p rest ih =>
    intro old seen
    exact keeps_ite (keeps_bind (keeps_latePart _ _ _ _ _) fun r => keeps_bind (ih _ _) fun _ => keeps_pure _)
      (keeps_bind (keeps_pure _) fun r => keeps_bind (ih _ _) fun _ => keeps_pure _)

theorem keeps_lateItems (st : Nat) (l : LateLoad) (beat : Nat → Nat) (only : Nat → Bool) (is : List (Nat × Word × Nat)) :
    ∀ ps, Keeps (lateItems st l beat only is ps) := by
  induction is with
  | nil => exact fun _ => keeps_pure _
  | cons i rest ih =>
    intro ps
    exact keeps_bind keeps_get fun _ => keeps_bind (keeps_lateParts _ _ _ _ _) fun _ => keeps_bind (ih _) fun _ => keeps_pure _

@[simp] theorem addLatent_mem (s : State) (e : Latent) : (s.addLatent e).mem = s.mem := by
  unfold State.addLatent
  split <;> rfl

theorem spoilL1_wf (s : State) (g off : Nat) (l : L1Line) (hs : s.wf = true) : (s.spoilL1 g off l).wf = true := by
  unfold State.spoilL1
  dsimp only
  split
  · exact hs
  · exact logError_wf _ _ _ _ _ (wf_of_mem (s := s) rfl hs)

@[simp] theorem ackOf_mem (s : State) (ag : Nat) (c : Option Ctx) (r : Response) : (s.ackOf ag c r).mem = s.mem := by
  unfold State.ackOf
  split
  · rfl
  · exact dropSent_mem _ _

end Sys2Proof.Proofs
end

/-! ## Sweeps and what goes on beside the programs keep the form of memory -/
section
namespace Sys2Proof.Proofs

open Sys2Proof.Machine Sys2Proof.Laws

variable {α β : Type} {s : State}

theorem keeps_publishSweep (c : Cmd) (hdr : Nat) : Keeps (publishSweep c hdr) := by
  unfold publishSweep
  split
  · exact keeps_publishEnd _ _
  · exact keeps_pure _

theorem keeps_failSweep (c : Cmd) (hdr core : Nat) (f : Failure) (e0 : Option Nat) : Keeps (failSweep c hdr core f e0) := by
  unfold failSweep
  dsimp only
  split
  · exact keeps_bind (keeps_modify_mem fun _ => rfl) fun _ => keeps_finishCmd _ _ _
  · exact keeps_bind (keeps_publishSweep _ _) fun _ => keeps_bind (keeps_orFail (keeps_engineReport _ _ _)) fun _ =>
    keeps_bind (keeps_modify_mem fun _ => rfl) fun _ => keeps_finishCmd _ _ _

theorem keeps_startSweep (c : Cmd) (hdr core : Nat) : Keeps (startSweep c hdr core) := by
  unfold startSweep
  refine keeps_bind (keeps_orFail (keeps_bind (keeps_engineRead _ _ _) fun _ => keeps_bind (keeps_engineWrite _ _ _) fun _ =>
    keeps_pure _)) fun _ => ?_
  split
  · exact keeps_failSweep _ _ _ _ _
  · exact keeps_bind (keeps_modify_mem fun _ => (putAgent_mem _ _).trans (setCore_mem _ _ _)) fun _ => keeps_putCmd _

theorem keeps_endSweep (c : Cmd) (hdr n : Nat) (f : Fmt) (count core : Nat) : Keeps (endSweep c hdr n f count core) := by
  unfold endSweep
  refine keeps_bind keeps_get fun _ => keeps_bind (keeps_need _) fun _ => keeps_bind (keeps_publishEnd _ _) fun _ =>
    keeps_bind (keeps_orFail (keeps_bind (keeps_engineRead _ _ _) fun _ => keeps_guard (keeps_engineWrite _ _ _) fun _ =>
    keeps_engineReport _ _ _)) fun _ => ?_
  split
  · exact keeps_failSweep _ _ _ _ _
  · exact keeps_ite (keeps_bind (keeps_modify_mem fun _ => rfl) fun _ => keeps_finishCmd _ _ _) (keeps_putCmd _)

theorem keeps_fetchBatch (c : Cmd) (hdr n : Nat) (f : Fmt) (e0 vl : Nat) : Keeps (fetchBatch c hdr n f e0 vl) :=
  keeps_bind (keeps_eachGet _ (fun _ => keeps_engineRead _ _ _)) fun _ => keeps_bind (keeps_eachGet _ (fun _ =>
    keeps_engineRead _ _ _)) fun _ => keeps_bind (keeps_engineRead _ _ _) fun _ => keeps_pure _

theorem keeps_setGroup (vd : Nat) (f : Fmt) (g vl : Nat) (xs : List Nat) : Keeps (setGroup vd f g vl xs) :=
  keeps_bind (keeps_takeRows _ _ _ _ _) fun _ => keeps_writeGroup _ _ _ _ _ _

theorem keeps_loadBatch (f : Fmt) (args : Vector Word 8) (bodyAt : Word) (e0 vl sweeps : Nat) (b : Batch) :
    Keeps (loadBatch f args bodyAt e0 vl sweeps b) :=
  keeps_bind (keeps_modCur _) fun _ => keeps_bind (keeps_setGroup _ _ _ _ _) fun _ =>
    keeps_bind (keeps_setGroup _ _ _ _ _) fun _ => keeps_bind (keeps_setGroup _ _ _ _ _) fun _ => keeps_writePred _ _ _

theorem keeps_writeSkip (c : Cmd) (hdr n : Nat) (f : Fmt) (skip g : Nat) : Keeps (writeSkip c hdr n f skip g) :=
  keeps_bind (keeps_eachGet _ (fun _ => keeps_engineRead _ _ _)) fun _ => keeps_bind (keeps_engineUpdate _ _ _ _) fun _ =>
    keeps_pure _

theorem keeps_checkBatch (c : Cmd) (hdr : Nat) (f : Fmt) (skip pol e0 g k : Nat) (awake : List Nat) :
    Keeps (checkBatch c hdr f skip pol e0 g k awake) :=
  keeps_bind keeps_get fun _ => keeps_bind (keeps_each _ (fun _ => keeps_bind (keeps_bind (keeps_orTrap _ _ _) fun _ =>
    keeps_pure _) fun _ => keeps_bind (keeps_orTrap _ _ _) fun _ => keeps_pure _)) fun _ => keeps_ite (keeps_each _ (fun _ =>
    keeps_bind (keeps_orTrap _ _ _) fun _ => keeps_engineCheck _ _ _)) (keeps_pure _)

theorem keeps_storeBatch (c : Cmd) (hdr n : Nat) (f : Fmt) (skip pol e0 g k : Nat) (awake : List Nat)
    (out : List (Nat × Nat)) : Keeps (storeBatch c hdr n f skip pol e0 g k awake out) :=
  keeps_bind (keeps_checkBatch _ _ _ _ _ _ _ _ _) fun _ => keeps_bind (keeps_each _ (fun _ =>
    keeps_bind (keeps_engineWrite _ _ _) fun _ => keeps_engineWrite _ _ _)) fun _ => keeps_ite (keeps_each _ (fun _ =>
    keeps_writeSkip _ _ _ _ _ _)) (keeps_pure _)

theorem keeps_oneBatch (c : Cmd) (hdr n : Nat) (f : Fmt) (skip : Nat) (body : List IWord) (args : Vector Word 8)
    (bodyAt : Word) (pol core g k : Nat) (p : SweepPos) : Keeps (oneBatch c hdr n f skip body args bodyAt pol core g k p) := by
  unfold oneBatch
  refine keeps_bind (keeps_orFail (keeps_fetchBatch _ _ _ _ _ _)) fun _ => ?_
  split
  · exact keeps_failSweep _ _ _ _ _
  · refine keeps_bind (keeps_orFail (keeps_engineRead _ _ _)) fun _ => ?_
    split
    · exact keeps_bind (keeps_publishSweep _ _) fun _ => keeps_failSweep _ _ _ _ _
    · refine keeps_bind (keeps_asAgent _ (keeps_bind (keeps_loadBatch _ _ _ _ _ _ _) fun _ => keeps_modify fun _ hs =>
      runBody_wf _ _ hs)) fun _ => keeps_bind keeps_get fun _ => ?_
      split
      · exact keeps_idle
      · split
        · exact keeps_failSweep _ _ _ _ _
        · refine keeps_bind (keeps_need _) fun _ => keeps_bind (keeps_asAgent _ (keeps_bind keeps_get fun _ =>
          keeps_bind (keeps_modCur _) fun _ => keeps_pure _)) fun _ =>
          keeps_bind (keeps_orFail (keeps_storeBatch _ _ _ _ _ _ _ _ _ _ _)) fun _ => ?_
          split
          · exact keeps_failSweep _ _ _ _ _
          · exact keeps_putCmd _
        · exact keeps_idle

theorem keeps_headerOffFlash (cause : Nat) (va : Word) : Keeps (headerOffFlash cause va) := by
  unfold headerOffFlash
  refine keeps_bind keeps_get fun _ => keeps_bind keeps_get fun _ => ?_
  split
  · exact keeps_ite (keeps_trap _ _ _ _) (keeps_pure _)
  · exact keeps_pure _

theorem keeps_wakeElement (hdr : Nat) (f : Fmt) (e skip : Nat) (key : Word) : Keeps (wakeElement hdr f e skip key) :=
  keeps_bind (keeps_atomicPlace _ _ _) fun _ => keeps_bind (keeps_anchor _) fun _ =>
    keeps_bind (keeps_updateAt _ _ _ _ _ _) fun _ => keeps_ite (keeps_bind (keeps_record _ _) fun _ =>
    keeps_bind (keeps_atomicPlace _ _ _) fun _ => keeps_bind (keeps_anchor _) fun _ =>
    keeps_bind (keeps_updateAt _ _ _ _ _ _) fun _ => keeps_record _ _) (keeps_pure _)

theorem keeps_preempt (id : Nat) : Keeps (preempt id) := by
  unfold preempt
  refine keeps_get_bind fun s hs => keeps_bind (keeps_drawBelow _) fun _ => ?_
  split
  · exact keeps_asAgent _ (keeps_modCur _)
  · exact keeps_set (saveAway_wf _ _ hs)

theorem keeps_resumeThread (old : Nat) : Keeps (resumeThread old) :=
  keeps_bind (keeps_restoreThread _) fun _ => keeps_bind (keeps_modify_mem fun _ => rfl) fun _ => keeps_modify_mem fun _ =>
    rereadWeight_mem _ _

theorem keeps_restoreSweep (core : Nat) : Keeps (restoreSweep core) := by
  unfold restoreSweep
  refine keeps_get_bind fun s hs => keeps_bind (keeps_need _) fun _ => ?_
  split
  · exact keeps_ite (keeps_ite (keeps_bind (keeps_modify fun _ hs => findLines_wf _ _ _ hs) fun _ =>
    keeps_stopLaunch _ _) keeps_idle) (keeps_asAgent _ (keeps_bind keeps_get fun _ => keeps_bind (keeps_need _) fun _ =>
    keeps_bind (keeps_modify_mem fun _ => vareaLoad_mem _ _) fun _ => keeps_bind (keeps_modCur _) fun _ =>
    keeps_bind (keeps_modify_mem fun _ => rfl) fun _ => keeps_modCore _ _))
  · exact keeps_idle

theorem keeps_denyFault (slot cause : Nat) : Keeps (denyFault slot cause) := keeps_bind keeps_get fun _ => keeps_trap _ _ _ _

theorem keeps_undoLoad (i : Nat) (c : Checkpoint) (k : Nat) (t : Trap) : Keeps (undoLoad i c k t) :=
  keeps_bind (keeps_modCur _) fun _ => keeps_throw _

theorem keeps_lateInQueue (i : Nat) (t : VToken) (r : Response) (cause : Nat) : Keeps (lateInQueue i t r cause) := by
  unfold lateInQueue
  refine keeps_get_bind fun s hs => ?_
  split
  · refine keeps_bind (keeps_need _) fun _ => keeps_bind (keeps_need _) fun _ =>
    keeps_bind (keeps_set (foundError_wf _ _ hs)) fun _ => ?_
    split
    · exact keeps_undoLoad _ _ _ _
    · exact keeps_idle
  · exact keeps_idle

theorem keeps_readLate (i : Nat) (t : VToken) (r : Response) : Keeps (readLate i t r) := by
  unfold readLate
  refine keeps_bind keeps_get fun _ => ?_
  split
  · exact keeps_bind keeps_drawBit fun _ => keeps_ite (keeps_bind (keeps_lateItems _ _ _ _ _ _) fun _ =>
    keeps_bind (keeps_modify_mem fun _ => rfl) fun _ => keeps_each _ (fun _ =>
    keeps_bind (keeps_lateItems _ _ _ _ _ _) fun _ => keeps_modify_mem fun _ => rfl)) (keeps_pure _)
  · exact keeps_pure _

theorem keeps_responseData (va : Word) (pl : Place) : Keeps (responseData va pl) := by
  unfold responseData
  refine keeps_get_bind fun s hs => keeps_bind (keeps_noteShown _ _) fun _ => ?_
  extract_lets read
  have kept : ∀ r, Keeps (read r) := by
    intro r
    dsimp only [read]
    split
    · exact keeps_bind (keeps_bridgeRead _ _) fun _ => keeps_pure _
    · exact keeps_guard (keeps_readStaged _ _) fun _ => keeps_pure _
  split
  · exact keeps_bind (keeps_set (foundError_wf _ _ hs)) fun _ => keeps_bind (keeps_pure _) kept
  · exact keeps_bind (keeps_pure _) kept

theorem keeps_arriveAhead (r : Response) (pl : Place) : Keeps (arriveAhead r pl) := by
  unfold arriveAhead
  refine keeps_bind keeps_get fun _ => ?_
  dsimp only
  split
  · exact keeps_idle
  · split
    · exact keeps_idle
    · exact keeps_bind (keeps_need _) fun _ => keeps_bind (keeps_need _) fun _ => keeps_bind (keeps_passBar _) fun _ =>
      keeps_bind (keeps_need _) fun _ => keeps_bind (keeps_need _) fun _ => keeps_bind (keeps_need _) fun _ =>
      keeps_bind (keeps_need _) fun _ => keeps_bind (keeps_need _) fun _ => keeps_bind (keeps_responseData _ _) fun _ =>
      keeps_ite (keeps_bind (keeps_l1Load _ _ _ _ _ _ _ _) fun _ => keeps_modCur _) (keeps_modCur _)

theorem keeps_arrive (r : Response) : Keeps (arrive r) := by
  unfold arrive
  refine keeps_get_bind fun s hs => ?_
  dsimp only
  split
  · refine keeps_bind (keeps_need _) fun _ => ?_
    split
    · exact keeps_bind (keeps_need _) fun _ => keeps_set (wf_of_mem (addLatent_mem _ _) hs)
    · split
      · split
        · exact keeps_lateInQueue _ _ _ _
        · exact keeps_idle
      · split
        · exact keeps_idle
        · split
          · split
            · exact keeps_idle
            · exact keeps_set (spoilL1_wf _ _ _ _ hs)
          · exact keeps_bind (keeps_need _) fun _ => keeps_set (wf_of_mem (addLatent_mem _ _) hs)
  · split
    · exact keeps_set (wf_of_mem (dropSent_mem _ _) hs)
    · split
      · split
        · exact keeps_bind (keeps_readLate _ _ _) fun _ => keeps_modCur _
        · exact keeps_modCur _
      · split
        · exact keeps_set (wf_of_mem (dropSent_mem _ _) hs)
        · split
          · exact keeps_idle
          · exact keeps_arriveAhead _ _

theorem keeps_countCorrected (tower : Nat) : Keeps (countCorrected tower) := keeps_ite (keeps_modTower _ _) (keeps_pure _)

theorem keeps_putTlb (cap : Nat) (e : TlbEntry) (ts : List TlbEntry) : Keeps (putTlb cap e ts) :=
  keeps_ite (keeps_pure _) (keeps_ite (keeps_pure _) (keeps_bind (keeps_drawBelow _) fun _ => keeps_pure _))

theorem keeps_dropTlb (asid va : Nat) (ts : List TlbEntry) : Keeps (dropTlb asid va ts) :=
  keeps_ite (keeps_bind keeps_drawBit fun _ => keeps_ite (keeps_pure _) (keeps_pure _)) (keeps_pure _)

theorem execXsweep_wf (a : Reg) (acq rel : Bool) (scope : BitVec 2) (hs : s.wf = true) :
    NextWf (execXsweep a acq rel scope s) := by
  refine insn_wf _ _ ?_ hs
  refine keeps_bind (keeps_getG _) fun va => keeps_bind (keeps_readRecord _ _ _) fun x => ?_
  extract_lets hdr body blen host hosted
  refine keeps_bind keeps_getCur fun _ => keeps_bind keeps_getCur fun _ => ?_
  extract_lets isThread
  refine keeps_bind (keeps_needAligned _ _ _) fun _ => keeps_bind (keeps_checkFields _ _ _) fun _ =>
    keeps_bind keeps_get fun _ => ?_
  have kept : ∀ core, Keeps (hosted core) := by
    intro core
    refine keeps_bind (keeps_checkFields _ _ _) fun _ => keeps_bind (keeps_readRecord _ _ _) fun h =>
      keeps_bind (keeps_checkFields _ _ _) fun _ => keeps_bind (keeps_readRecord _ _ _) fun ws => ?_
    extract_lets words send
    have sent : ∀ u, Keeps (send u) := fun u =>
      keeps_bind keeps_get fun _ => keeps_bind (keeps_checkWindow _) fun _ => keeps_bind (keeps_checkWindow _) fun _ =>
        keeps_bind (keeps_accept _ _ _ _ _ _ _ _) fun _ => keeps_pure _
    split
    · exact keeps_bind (keeps_trap _ _ _ _) sent
    · exact sent ()
  split
  · exact keeps_bind (keeps_trap _ _ _ _) kept
  · exact keeps_bind (keeps_pure _) kept

theorem execXsweepExecute_wf (cmd : Nat) (hs : s.wf = true) : NextWf (execXsweepExecute cmd s) := by
  refine event_wf ?_ hs
  refine keeps_bind (keeps_getCmd _) fun _ => ?_
  split
  · refine keeps_bind keeps_get fun _ => ?_
    split
    · split
      · exact keeps_failSweep _ _ _ _ _
      · exact keeps_bind (keeps_need _) fun _ => keeps_endSweep _ _ _ _ _ _
    · exact keeps_bind (keeps_need _) fun _ => keeps_startSweep _ _ _
  · exact keeps_idle

theorem execSweepBatch_wf (cmd : Nat) (hs : s.wf = true) : NextWf (execSweepBatch cmd s) := by
  refine batchStep_wf _ (keeps_bind (keeps_getCmd _) fun _ => ?_) hs
  split
  · refine keeps_bind keeps_get fun _ => keeps_bind (keeps_need _) fun _ =>
    keeps_bind (keeps_ite (keeps_pure _) (keeps_skipBit _ _ _ _)) fun _ => ?_
    split
    · exact keeps_failSweep _ _ _ _ _
    · exact keeps_putCmd _
    · exact keeps_bind (keeps_batchLines _ _ _ _ _ _ _) fun _ => keeps_oneBatch _ _ _ _ _ _ _ _ _ _ _ _ _
  · exact keeps_idle

theorem execCwake_wf (d a b : Reg) (acq rel : Bool) (scope : BitVec 2) (hs : s.wf = true) :
    NextWf (execCwake d a b acq rel scope s) := by
  refine insn_wf _ _ ?_ hs
  exact keeps_bind (keeps_getG _) fun _ => keeps_bind (keeps_needAligned _ _ _) fun _ =>
    keeps_bind (keeps_headerOffFlash _ _) fun _ => keeps_bind (keeps_unlessTraps (keeps_bind (keeps_releaseIf _ _) fun _ =>
    keeps_bind (keeps_homePlace _ _ _ _) fun _ => keeps_bind (keeps_loadNat _ _ _ _) fun _ =>
    keeps_bind (keeps_getG _) fun _ => keeps_guard_then (keeps_getG _) (fun _ =>
    keeps_inFlight _ _ (keeps_wakeElement _ _ _ _ _)) fun _ => keeps_acquireIf _ _ _)) fun _ => keeps_pure _

theorem execCwait_wf (d a b : Reg) (acq rel : Bool) (scope : BitVec 2) (hs : s.wf = true) :
    NextWf (execCwait d a b acq rel scope s) := by
  refine insn_wf _ _ ?_ hs
  exact keeps_bind (keeps_getG _) fun _ => keeps_bind (keeps_needAligned _ _ _) fun _ =>
    keeps_bind (keeps_headerOffFlash _ _) fun _ => keeps_bind (keeps_unlessTraps (keeps_bind (keeps_releaseIf _ _) fun _ =>
    keeps_bind (keeps_homePlace _ _ _ _) fun _ => keeps_bind (keeps_anchor _) fun _ =>
    keeps_bind (keeps_readPlace _ _ _) fun _ => keeps_bind (keeps_getG _) fun _ => keeps_guard (keeps_throw _) fun _ =>
    keeps_bind (keeps_homePlace _ _ _ _) fun _ => keeps_bind (keeps_readPlace _ _ _) fun _ =>
    keeps_bind (keeps_noteAwaited _) fun _ => keeps_bind (keeps_acquireIf _ _ _) fun _ => keeps_putG _ _)) fun _ => keeps_pure _

theorem execCwaitWake_wf (ag : Nat) (hs : s.wf = true) : NextWf (execCwaitWake ag s) := by
  refine rerun_wf (fun i t ht => ?_) hs
  split
  · exact execCwait_wf _ _ _ _ _ _ ht
  · exact nextWf_next ht

theorem execEngineQueueRoom_wf (ag : Nat) (hs : s.wf = true) : NextWf (execEngineQueueRoom ag s) := by
  refine rerun_wf (fun i t ht => ?_) hs
  split
  · exact execXcopy_wf _ _ _ _ _ _ ht
  · exact execXgather_wf _ _ _ _ ht
  · exact execXbin_wf _ _ _ _ ht
  · exact execXmove_wf _ _ _ _ _ _ ht
  · exact execXheal_wf _ _ _ _ ht
  · exact execXreclaim_wf _ _ _ _ ht
  · exact execXinst_wf _ _ _ _ _ _ ht
  · exact execXpin_wf _ _ _ _ _ _ ht
  · exact execXwear_wf _ _ ht
  · exact execXsweep_wf _ _ _ _ ht
  · exact nextWf_next ht

theorem execArbiterGrant_wf (core : Nat) (hs : s.wf = true) : NextWf (execArbiterGrant core s) := by
  refine event_wf ?_ hs
  refine keeps_modify_mem fun _ => ?_
  exact foldl_mem _ (fun _ _ => grantPipe_mem _ _ _) _ _

theorem execBeatWrite_wf (ag : Nat) (hs : s.wf = true) : NextWf (execBeatWrite ag s) := by
  refine event_wf ?_ hs
  refine keeps_asAgent _ (keeps_bind keeps_getCur fun _ => keeps_bind (keeps_drawBelow _) fun _ => ?_)
  split
  · exact keeps_idle
  · exact keeps_modCur _

theorem execVectorCommit_wf (ag : Nat) (hs : s.wf = true) : NextWf (execVectorCommit ag s) := by
  refine event_wf ?_ hs
  refine keeps_asAgent _ (keeps_bind keeps_getCur fun _ => ?_)
  split
  · exact keeps_idle
  · exact keeps_bind (keeps_need _) fun _ => keeps_modCur _

theorem execVqueueRoom_wf (ag : Nat) (hs : s.wf = true) : NextWf (execVqueueRoom ag s) := by
  refine event_wf ?_ hs
  refine keeps_asAgent _ (keeps_bind keeps_getCur fun _ => ?_)
  split
  · exact keeps_modCur _
  · exact keeps_idle

theorem execRowStallPreempt_wf (core : Nat) (hs : s.wf = true) : NextWf (execRowStallPreempt core s) := by
  refine event_wf ?_ hs
  refine keeps_get_bind fun s hs => ?_
  split
  · exact keeps_idle
  · refine keeps_bind (keeps_set (wf_of_mem (putAgent_mem _ _) hs)) fun _ => ?_
    split
    · exact keeps_pure _
    · exact keeps_preempt _

theorem execPreempt_wf (ag : Nat) (hs : s.wf = true) : NextWf (execPreempt ag s) := by
  refine event_wf ?_ hs
  refine keeps_bind keeps_get fun _ => ?_
  split
  · exact keeps_idle
  · exact keeps_bind (keeps_need _) fun _ => keeps_preempt _

theorem execContextRestore_wf (ag slot : Nat) (hs : s.wf = true) : NextWf (execContextRestore ag slot s) := by
  unfold execContextRestore
  split
  · refine event_wf ?_ hs
    exact keeps_restoreSweep _
  · split
    · exact nextWf_next hs
    · split
      · split
        · exact nextWf_next hs
        · refine nextWf_next ?_
          split
          · exact hs
          · exact wholeOrStop_wf _ (keeps_resumeThread _) (wf_of_mem (rename_mem _ _ _) hs)
      · exact nextWf_next hs

theorem execSweepContextSave_wf (core : Nat) (hs : s.wf = true) : NextWf (execSweepContextSave core s) := by
  refine event_wf (keeps_bind keeps_get fun s => keeps_bind (keeps_need _) fun _ => ?_) hs
  split
  · exact keeps_idle
  · refine keeps_ite (keeps_ite (keeps_bind (keeps_modify fun s hs => findLines_wf s _ _ hs) fun _ => keeps_stopLaunch _ _)
      keeps_idle) (keeps_asAgent _ ?_)
    refine keeps_get_bind fun t ht => keeps_bind (keeps_set ?_) fun _ => keeps_modCore _ _
    unfold State.wf at ht ⊢
    dsimp only
    generalize State.sweepArea t _ = area
    exact memPuts_wf area _ _ ht

theorem execPagerAnswer_wf (slot : Nat) (hs : s.wf = true) : NextWf (execPagerAnswer slot s) := by
  unfold execPagerAnswer
  split
  · exact nextWf_next hs
  · split
    · extract_lets answer back whole
      have kept : Keeps back := keeps_ite (keeps_resumeThread _) (keeps_modCur _)
      have resumed : whole.wf = true := wholeOrStop_wf _ kept hs
      split
      · exact nextWf_next hs
      · split
        · exact nextWf_next resumed
        · split
          · split
            · exact agentEvent_wf _ _ (keeps_denyFault _ _) resumed
            · exact nextWf_next resumed
          · exact nextWf_next (wholeOrStop_wf _ (keeps_throw _) hs)
    · exact nextWf_next hs

theorem execMemoryResponseArrival_wf (ag : Nat) (r : Response) (hs : s.wf = true) :
    NextWf (execMemoryResponseArrival ag r s) := by
  unfold execMemoryResponseArrival
  split
  · exact nextWf_next (wf_of_mem (ackOf_mem _ _ _ _) hs)
  · split
    · exact nextWf_next (wf_of_mem (ackOf_mem _ _ _ _) hs)
    · refine agentEvent_wf _ _ ?_ hs
      exact keeps_arrive _

theorem execHomeAccessPerform_wf (idx : Nat) (hs : s.wf = true) : NextWf (execHomeAccessPerform idx s) := by
  have performed : ∀ (s : State) u, s.wf = true → ({ s.performAdd u with bank := s.bank.eraseIdx idx } : State).wf = true :=
    fun s u hs => performAdd_wf s u hs
  refine event_wf (keeps_get_bind fun s hs => ?_) hs
  split
  · exact keeps_countCorrected _
  · exact keeps_bind (keeps_need _) fun _ => keeps_set (performed s _ hs)

theorem execL1Fill_wf (cl asid va : Nat) (hs : s.wf = true) : NextWf (execL1Fill cl asid va s) := by
  unfold execL1Fill
  extract_lets c x
  have dropped : ∀ held : Option L1Line, Keeps (modify fun s => match held with
      | none => s
      | some l => if l.dirty = 0 then s.l1Drop cl l.pline else s.l1Set cl { l with valid := l.dirty }) := by
    intro held
    refine keeps_modify_mem fun s => ?_
    split
    · rfl
    · split <;> rfl
  have kept : Keeps x :=
    keeps_bind keeps_get fun _ => keeps_bind (keeps_need _) fun _ => keeps_bind (keeps_orTrap _ _ _) fun _ =>
      keeps_bind (keeps_need _) fun _ => keeps_guard_then (dropped _) (fun _ => keeps_countCorrected _) fun _ =>
      keeps_bind (keeps_orTrap _ _ _) fun _ => keeps_bind (keeps_l1Load _ _ _ _ _ _ _ _) fun _ => keeps_pure _
  have left := kept s hs
  split
  · next h => rw [h] at left; exact nextWf_next left
  · exact nextWf_next (errorsFound_wf _ _ hs)

theorem execWritebackApply_wf (cl line : Nat) (hs : s.wf = true) : NextWf (execWritebackApply cl line s) := by
  refine event_wf ?_ hs
  refine keeps_get_bind fun s hs => ?_
  split
  · exact keeps_idle
  · exact keeps_bind (keeps_need _) fun _ => keeps_set (writeBack_wf _ _ _ hs)

theorem execPageWalk_wf (tower asid va : Nat) (hs : s.wf = true) : NextWf (execPageWalk tower asid va s) := by
  refine event_wf ?_ hs
  refine keeps_bind keeps_get fun s => keeps_bind (keeps_need _) fun _ => keeps_bind (keeps_dropTlb _ _ _) fun held =>
    keeps_bind (keeps_modTower _ _) fun _ => keeps_bind keeps_get fun s => ?_
  extract_lets retain
  have retained : ∀ e, Keeps (retain e) := by
    intro e
    cases e with
    | none => exact keeps_pure _
    | some e =>
      exact keeps_bind (keeps_putTlb _ _ _) fun _ => keeps_bind (keeps_modTower _ _) fun _ =>
        keeps_bind (keeps_drawBelow _) fun _ => keeps_ite (keeps_bind keeps_get fun _ =>
        keeps_bind (keeps_dropTlb _ _ _) fun _ => keeps_bind (keeps_putTlb _ _ _) fun _ =>
        keeps_bind (keeps_modCluster _ _) fun _ => keeps_bind (keeps_drawBelow _) fun _ =>
        keeps_ite (keeps_bind keeps_get fun _ => keeps_bind (keeps_dropTlb _ _ _) fun _ =>
        keeps_bind (keeps_putTlb _ _ _) fun _ => keeps_modCore _ _) (keeps_pure _)) (keeps_pure _)
  split
  · exact keeps_bind (keeps_pure _) retained
  · split
    · exact keeps_bind (keeps_modify fun s hs => foundIn_wf s _ hs) fun _ => keeps_bind (keeps_pure _) retained
    · exact keeps_bind (keeps_pure _) retained

theorem execHandleRunaheadRead_wf (ag h : Nat) (hs : s.wf = true) : NextWf (execHandleRunaheadRead ag h s) := by
  unfold execHandleRunaheadRead
  extract_lets x
  have kept : Keeps x :=
    keeps_asAgent _ (keeps_bind keeps_get fun _ => keeps_bind (keeps_need _) fun _ => keeps_bind (keeps_need _) fun _ =>
      keeps_bind (keeps_need _) fun _ => keeps_bind (keeps_loadNat _ _ _ _) fun _ => keeps_modify_mem fun s => setHandle_mem s _ _)
  have left := kept s hs
  split
  · next h => rw [h] at left; exact nextWf_next left
  · exact nextWf_next (errorsFound_wf _ _ hs)

theorem execPortHandoff_wf (cl : Nat) (hs : s.wf = true) : NextWf (execPortHandoff cl s) := by
  refine event_wf ?_ hs
  exact keeps_modify_mem fun _ => handPort_mem _ _

theorem execStagingFill_wf (tower unit : Nat) (hs : s.wf = true) : NextWf (execStagingFill tower unit s) := by
  refine event_wf ?_ hs
  exact keeps_bind keeps_get fun _ => keeps_bind (keeps_need _) fun _ => keeps_modTower _ _

theorem execOldtktUpdate_wf (tower : Nat) (hs : s.wf = true) : NextWf (execOldtktUpdate tower s) := by
  refine event_wf ?_ hs
  exact keeps_bind keeps_get fun _ => keeps_bind (keeps_need _) fun _ => keeps_modTower _ _

end Sys2Proof.Proofs
end

/-! ## Fabric, host and sparse forms: what their steps share -/
section
namespace Sys2Proof.Proofs

open Sys2Proof.Machine Sys2Proof.Laws

variable {α β : Type} {s : State}

/-! ### Flits and links -/

@[simp] theorem countFlit_mem (s : State) (src lo : Nat) : (s.countFlit src lo).mem = s.mem := by
  unfold State.countFlit
  dsimp only
  split
  · exact setTower_mem _ _ _
  · rfl

@[simp] theorem inject_mem (s : State) (plane : Nat) (r : FlitReq) (pos : Nat) : (s.inject plane r pos).mem = s.mem := by
  unfold State.inject
  dsimp only
  refine (countFlit_mem _ _ _).trans ?_
  split
  · exact setTower_mem _ _ _
  · rfl

/-- Moved flits counted one after another. -/
theorem countFlits_mem (es : List (Flit × Bool)) (s : State) :
    (es.foldl (fun (s : State) e => if e.2 && !e.1.stale then s.countFlit e.1.src 0 else s) s).mem = s.mem :=
  foldl_mem _ (fun s e => by
    split
    · exact countFlit_mem s _ _
    · rfl) es s

theorem endLoad_wf (s : State) (id link : Nat) (x : Nat × Checkpoint × Awaited) (hs : s.wf = true) :
    (s.endLoad id link x).wf = true := by
  unfold State.endLoad
  dsimp only
  split
  · exact wf_of_mem (focus_mem _ _) (settle_wf _ (keeps_undoLoad _ _ _ _) (wf_of_mem (focus_mem s id) hs))
  · exact hs

theorem endStore_wf (s : State) (id link : Nat) (x : Nat × Unacked) (hs : s.wf = true) : (s.endStore id link x).wf = true := by
  have focused : (s.focus id).wf = true := wf_of_mem (focus_mem s id) hs
  unfold State.endStore
  extract_lets t u back major vec start
  have kept : ∀ k, (back k).wf = true := fun _ => focused
  clear_value back
  split
  split
  · exact wf_of_mem (focus_mem _ _) (settle_wf _ (keeps_throw _) (kept _))
  · exact hs

theorem endOver_wf (s : State) (id link : Nat) (hs : s.wf = true) : (s.endOver id link).wf = true := by
  unfold State.endOver
  split
  · exact hs
  · split
    · exact hs
    · exact endLoad_wf _ _ _ _ hs
    · exact endStore_wf _ _ _ _ hs
    · split
      · exact endLoad_wf _ _ _ _ hs
      · exact endStore_wf _ _ _ _ hs

@[simp] theorem hitCmds_mem (s : State) (link : Nat) : (s.hitCmds link).mem = s.mem := rfl

@[simp] theorem endAccess_mem (s : State) (h : LinkHit) (link : Nat) : (s.endAccess h link).mem = s.mem := by
  unfold State.endAccess
  split
  · rfl
  · split
    · exact putAgent_mem _ _
    · rfl

/-! ### The host -/

/-- Bytes written where a test lets them keep memory's form. -/
theorem putBytesWhere_wf (ok : Nat → Bool) (pa : Nat) (xs : List (Byte × Nat)) (m : List Host.Cell) (h : Memory.wf m = true) :
    Memory.wf (xs.foldl (fun m (x, i) => if ok (pa + i) then memPut m (pa + i) x else m) m) = true := by
  induction xs generalizing m with
  | nil => exact h
  | cons x xs ih =>
    refine ih _ ?_
    dsimp only
    split
    · exact memPut_wf _ _ _ h
    · exact h

theorem writeInbound_wf (s : State) (pa : Nat) (data : List Byte) (hs : s.wf = true) : (s.writeInbound pa data).wf = true := by
  have written := putBytesWhere_wf s.inboundOk pa data.zipIdx s.mem hs
  exact wf_of_mem (publish_mem _ _ _ _) written

@[simp] theorem forwardInbound_mem (s : State) (pa : Nat) (data : List Byte) : (s.forwardInbound pa data).mem = s.mem := rfl

theorem sliceError_wf (s : State) (fn off : Nat) (hs : s.wf = true) : (s.sliceError fn off).wf = true := logError_wf _ _ _ _ _ hs

/-! ### A tower lost -/

@[simp] theorem endHost_mem (s : State) (core : Nat) : (s.endHost core).mem = s.mem := rfl

@[simp] theorem endHosts_mem (s : State) (k : Nat) : (s.endHosts k).mem = s.mem := by
  unfold State.endHosts
  exact foldl_mem _ (fun s _ => endHost_mem s _) _ s

/-! ### Sparse reads -/

theorem keeps_bitmapWalk (from_ lim : Nat) (base : Nat → Word) (lv : Nat) :
    ∀ idx node acc, Keeps (bitmapWalk from_ lim base lv idx node acc) := by
  induction lv with
  | zero => exact fun _ _ _ => keeps_pure _
  | succ lv ih =>
    intro idx node acc
    unfold bitmapWalk
    generalize List.range 64 = bs
    refine keeps_eachFold _ (fun _ _ => ?_) _
    exact keeps_ite (keeps_pure _) (keeps_bind (keeps_loadNat _ _ _ _) fun _ => ih _ _ _)

theorem keeps_readOnce (parts : List (Nat × Nat)) (ws : List (Nat × Nat)) : Keeps (readOnce parts ws) := by
  unfold readOnce
  refine keeps_eachFold _ (fun _ _ => ?_) _
  split
  · split
    · dsimp only
      split
      · exact keeps_pure _
      · exact keeps_bind (keeps_checkAccess _ _ _ _ _) fun _ => keeps_bind (keeps_loadNat _ _ _ _) fun _ => keeps_pure _

theorem keeps_readValues (f : Fmt) (vb : Word) (cs : List Nat) : ∀ ws, Keeps (readValues f vb cs ws) := by
  induction cs with
  | nil => exact fun _ => keeps_pure _
  | cons c rest ih =>
    intro ws
    exact keeps_bind (keeps_readOnce _ _) fun _ => keeps_bind (ih _) fun _ => keeps_pure _

end Sys2Proof.Proofs
end

/-! ## Fabric, host, hardware, scalar floats and sparse forms keep the form of memory -/
section
namespace Sys2Proof.Proofs

open Sys2Proof.Machine Sys2Proof.Laws

variable {α β : Type} {s : State}

theorem keeps_stopSlot (slot cause : Nat) : Keeps (stopSlot slot cause) := by
  unfold stopSlot
  refine keeps_bind keeps_get fun _ => ?_
  split
  · exact keeps_pure _
  · exact keeps_ite (keeps_stopLaunch _ _) (keeps_pure _)

theorem keeps_stopAll (cause : Nat) : Keeps (stopAll cause) :=
  keeps_bind keeps_get fun _ => keeps_each _ (fun _ => keeps_bind keeps_get fun _ =>
    keeps_ite (keeps_stopLaunch _ _) (keeps_pure _))

theorem keeps_pastBound (f : Flit) : Keeps (pastBound f) :=
  keeps_bind (keeps_modify fun _ hs => logError_wf _ _ _ _ _ hs) fun _ => keeps_stopSlot _ _

theorem keeps_setBus (k n : Nat) (b : Bus) : Keeps (setBus k n b) := keeps_modTower _ _

theorem keeps_stopTower (k cause : Nat) : Keeps (stopTower k cause) :=
  keeps_bind keeps_get fun _ => keeps_each _ (fun _ => keeps_bind keeps_get fun _ =>
    keeps_ite (keeps_stopLaunch _ _) (keeps_pure _))

theorem keeps_loseCommands (p : Cmd → Bool) : Keeps (loseCommands p) :=
  keeps_bind keeps_get fun _ => keeps_each _ (fun _ => keeps_finishCmd _ _ _)

theorem keeps_loseTower (k : Nat) : Keeps (loseTower k) :=
  keeps_bind keeps_get fun _ => keeps_bind (keeps_stopTower _ _) fun _ => keeps_bind (keeps_modDev _) fun _ =>
    keeps_bind (keeps_loseCommands _) fun _ => keeps_bind (keeps_modify fun _ hs =>
    logError_wf _ _ _ _ _ (wf_of_mem (endHosts_mem _ _) hs)) fun _ => keeps_ite (keeps_modify_mem fun _ =>
    startDispatchers_mem _) (keeps_pure _)

theorem keeps_checkSparse (k : BitVec 3) (cap : Nat) : Keeps (checkSparse k cap) := by
  unfold checkSparse
  refine keeps_bind keeps_get fun _ => ?_
  split
  · exact keeps_pure _
  · exact keeps_trap _ _ _ _

theorem keeps_checkSparseRegs (k : BitVec 3) : Keeps (checkSparseRegs k) :=
  keeps_bind (keeps_checkSource _) fun _ => keeps_checkSource _

theorem keeps_sparseFmt (ks : List (BitVec 3)) : Keeps (sparseFmt ks) := by
  unfold sparseFmt
  refine keeps_bind keeps_get fun _ => ?_
  dsimp only
  split
  · split <;> exact keeps_mismatch _ _ _
  · exact keeps_pure _

theorem keeps_writeSparse (k : BitVec 3) (f : Fmt) (pairs : List (Nat × Nat)) (next : Option Nat) :
    Keeps (writeSparse k f pairs next) :=
  keeps_bind (keeps_takeRowsTwo _ _ _ _ _ _ _ _) fun _ => keeps_bind (keeps_writeGroup _ _ _ _ _ _) fun _ =>
    keeps_bind (keeps_writeGroup _ _ _ _ _ _) fun _ => keeps_bind (keeps_modRegs _) fun _ => keeps_setVstart _

theorem keeps_sparseSources (a b : BitVec 3) : Keeps (sparseSources a b) :=
  keeps_bind (keeps_checkSparseRegs _) fun _ => keeps_bind (keeps_checkSparseRegs _) fun _ =>
    keeps_bind (keeps_sparseFmt _) fun _ => keeps_bind (keeps_checkSparse _ _) fun _ =>
    keeps_bind (keeps_checkSparse _ _) fun _ => keeps_pure _

theorem execFlitRoute_wf (plane : Nat) (inj : List FlitReq) (hs : s.wf = true) : NextWf (execFlitRoute plane inj s) := by
  refine event_wf ?_ hs
  refine keeps_get_bind fun _ hs => keeps_bind (keeps_need _) fun _ => keeps_bind (keeps_set hs) fun _ =>
    keeps_bind (keeps_modify_mem fun s => countFlits_mem _ s) fun _ =>
    keeps_bind (keeps_each _ (fun _ => keeps_modify_mem fun s => ?_)) fun _ => keeps_each _ (fun _ => keeps_pastBound _)
  dsimp only
  split
  · rfl
  · split
    · rfl
    · exact inject_mem _ _ _ _

theorem execFlitAgeStep_wf (hs : s.wf = true) : NextWf (execFlitAgeStep s) := by
  refine event_wf ?_ hs
  exact keeps_modify_mem fun _ => rfl

theorem execInjrateWindow_wf (hs : s.wf = true) : NextWf (execInjrateWindow s) := by
  refine event_wf ?_ hs
  exact keeps_bind keeps_get fun _ => keeps_bind (keeps_need _) fun _ => keeps_modify_mem fun _ => rfl

theorem execRequestResend_wf (req : FlitReq) (hs : s.wf = true) : NextWf (execRequestResend req s) := by
  refine event_wf ?_ hs
  refine keeps_get_bind fun s hs => ?_
  split
  · exact keeps_idle
  · exact keeps_set (logError_wf _ _ _ _ _ hs)

theorem execPlaneFail_wf (plane : Nat) (hs : s.wf = true) : NextWf (execPlaneFail plane s) := by
  refine event_wf ?_ hs
  exact keeps_get_bind fun s hs => keeps_bind (keeps_need _) fun _ => keeps_bind (keeps_modify fun _ hs =>
    logError_wf _ _ _ _ _ hs) fun _ => keeps_ite (keeps_bind (keeps_modify fun _ hs => logError_wf _ _ _ _ _ hs) fun _ =>
    keeps_stopAll _) (keeps_pure _)

theorem execLinkDown_wf (link : Nat) (hit : List LinkHit) (hs : s.wf = true) : NextWf (execLinkDown link hit s) := by
  refine event_wf ?_ hs
  refine keeps_get_bind fun _ _ => keeps_bind (keeps_need _) fun _ => keeps_bind (keeps_modify fun _ hs => ?_) fun _ =>
    keeps_bind (keeps_modify_mem fun _ => dropSent_mem _ _) fun _ => keeps_bind (keeps_modify_mem fun _ => ?_) fun _ =>
    keeps_modify fun _ hs => logError_wf _ _ _ _ _ hs
  · exact wf_of_mem (hitCmds_mem _ _) (foldl_wf _ (fun _ _ hs => endOver_wf _ _ _ hs) _ _ hs)
  · exact foldl_mem _ (fun _ _ => endAccess_mem _ _ _) _ _

theorem execLinkUp_wf (link : Nat) (hs : s.wf = true) : NextWf (execLinkUp link s) := by
  refine event_wf ?_ hs
  exact keeps_bind (keeps_need _) fun _ => keeps_modDev _

theorem execInboundWrite_wf (src pa : Nat) (data : List Byte) (hs : s.wf = true) : NextWf (execInboundWrite src pa data s) := by
  refine event_wf ?_ hs
  refine keeps_modify fun _ hs => ?_
  split
  · split
    · exact wf_of_mem (forwardInbound_mem _ _ _) (writeInbound_wf _ _ _ hs)
    · exact hs
  · split
    · exact wf_of_mem (forwardInbound_mem _ _ _) (writeInbound_wf _ _ _ hs)
    · split
      · exact hs
      · exact sliceError_wf _ _ _ hs

theorem execHostRead_wf (fn off len : Nat) (hs : s.wf = true) : NextWf (execHostRead fn off len s) := by
  refine event_wf ?_ hs
  refine keeps_modify fun _ hs => ?_
  split
  · split
    · exact sliceError_wf _ _ _ hs
    · exact hs
  · split
    · exact hs
    · exact findLines_wf _ _ _ hs

theorem execRegisterWrite_wf (off : Nat) (v : Word) (hs : s.wf = true) : NextWf (execRegisterWrite off v s) := by
  refine event_wf ?_ hs
  exact keeps_modDev _

theorem execAper_wf (n : Nat) (v : BitVec 128) (hs : s.wf = true) : NextWf (execAper n v s) := by
  refine event_wf ?_ hs
  exact keeps_bind keeps_get fun _ => keeps_bind (keeps_need _) fun _ => keeps_modDev _

theorem execVfcfg_wf (fn : Nat) (v : Word) (hs : s.wf = true) : NextWf (execVfcfg fn v s) := by
  refine event_wf ?_ hs
  refine keeps_bind keeps_get fun _ => keeps_bind (keeps_need _) fun _ => keeps_bind (keeps_modDev _) fun _ =>
    keeps_modify_mem fun _ => ?_
  split
  · rfl
  · split
    · split
      · rfl
      · exact putAgent_mem _ _
    · rfl

theorem execKill_wf (v : Word) (hs : s.wf = true) : NextWf (execKill v s) := by
  refine event_wf ?_ hs
  exact keeps_bind keeps_get fun _ => keeps_bind (keeps_need _) fun _ => keeps_stopLaunch _ _

theorem execAttctl_wf (v : Word) (hs : s.wf = true) : NextWf (execAttctl v s) := by
  refine event_wf ?_ hs
  exact keeps_modDev _

theorem execAttestationReportReady_wf (hs : s.wf = true) : NextWf (execAttestationReportReady s) := by
  refine event_wf ?_ hs
  exact keeps_bind keeps_get fun _ => keeps_bind (keeps_need _) fun _ => keeps_modDev _

theorem execHostTimeout_wf (ag va : Nat) (kind : HostError) (hs : s.wf = true) : NextWf (execHostTimeout ag va kind s) := by
  refine event_wf ?_ hs
  refine keeps_get_bind fun s hs => ?_
  split
  · exact keeps_idle
  · split
    · exact keeps_bind (keeps_need _) fun _ =>
      keeps_set (wf_of_mem (focus_mem _ _) (settle_wf _ (keeps_trap _ _ _ _) (wf_of_mem (focus_mem _ _) hs)))
    · split
      · exact keeps_bind (keeps_need _) fun _ => keeps_set (wf_of_mem (addLatent_mem _ _) hs)
      · exact keeps_idle

theorem execBusRetrain_wf (tower bus : Nat) (hs : s.wf = true) : NextWf (execBusRetrain tower bus s) := by
  refine event_wf ?_ hs
  exact keeps_bind keeps_get fun _ => keeps_bind (keeps_need _) fun _ => keeps_setBus _ _ _

theorem execTowerLost_wf (tower : Nat) (hs : s.wf = true) : NextWf (execTowerLost tower s) := by
  refine event_wf ?_ hs
  exact keeps_bind keeps_get fun _ => keeps_bind (keeps_need _) fun _ => keeps_loseTower _

theorem execBusRetrainDone_wf (tower bus wires : Nat) (hs : s.wf = true) : NextWf (execBusRetrainDone tower bus wires s) := by
  refine event_wf ?_ hs
  exact keeps_get_bind fun s hs => keeps_bind (keeps_need _) fun _ => keeps_bind (keeps_setBus _ _ _) fun _ =>
    keeps_bind (keeps_modify fun _ hs => logError_wf _ _ _ _ _ hs) fun _ => keeps_bind keeps_get fun _ =>
    keeps_ite (keeps_ite (keeps_loseTower _) (keeps_modDev _)) (keeps_pure _)

theorem execBusTest_wf (tower bus : Nat) (pass : Bool) (hs : s.wf = true) : NextWf (execBusTest tower bus pass s) := by
  unfold execBusTest
  split
  · exact nextWf_next hs
  · exact execBusRetrain_wf _ _ hs

theorem execPatrolScrub_wf (line : Nat) (found : ScrubFound) (hs : s.wf = true) : NextWf (execPatrolScrub line found s) := by
  refine event_wf ?_ hs
  split
  · exact keeps_idle
  · split
    · exact keeps_pure _
    · exact keeps_countCorrected _
    · exact keeps_modify fun _ hs => logError_wf _ _ _ _ _ hs

theorem execMcheck_wf (tower : Nat) (hs : s.wf = true) : NextWf (execMcheck tower s) := by
  refine event_wf ?_ hs
  exact keeps_bind (keeps_need _) fun _ => keeps_bind (keeps_modify fun _ hs => logError_wf _ _ _ _ _ hs) fun _ =>
    keeps_stopTower _ _

theorem execGranaryStackFailed_wf (stack : Nat) (hs : s.wf = true) : NextWf (execGranaryStackFailed stack s) := by
  refine event_wf ?_ hs
  exact keeps_bind keeps_get fun _ => keeps_bind (keeps_need _) fun _ => keeps_bind (keeps_modDev _) fun _ =>
    keeps_loseCommands _

theorem fop_wf (i : Instr) (d a b : Reg) (fmt rm : BitVec 2) (f : Fmt → Rnd → Val → Val → Val → Nat × Events)
    (hs : s.wf = true) : NextWf (fop i d a b fmt rm f s) :=
  plain_wf _ _ (fun _ => (setG_mem _ _ _).trans (raise_mem _ _)) hs

theorem execFcvt_wf (d a : Reg) (dir : Bool) (fsrc : BitVec 4) (fmt rm : BitVec 2) (hs : s.wf = true) :
    NextWf (execFcvt d a dir fsrc fmt rm s) := by
  refine plain_wf _ _ (fun _ => ?_) hs
  dsimp only
  exact (setG_mem _ _ _).trans (raise_mem _ _)

theorem sparseOp_wf (i : Instr) (mul : Bool) (d a b : BitVec 3) (rm : BitVec 2) (hs : s.wf = true) :
    NextWf (sparseOp i mul d a b rm s) := by
  refine vinsn_wf _ _ ?_ hs
  exact keeps_bind (keeps_sparseSources _ _) fun _ => keeps_bind keeps_get fun _ =>
    keeps_bind (keeps_writeSparse _ _ _ _) fun _ => keeps_flags _

theorem execVsdot_wf (d : Reg) (a b : BitVec 3) (rm : BitVec 2) (hs : s.wf = true) : NextWf (execVsdot d a b rm s) := by
  refine vinsn_wf _ _ ?_ hs
  exact keeps_bind (keeps_sparseSources _ _) fun _ => keeps_bind keeps_get fun _ =>
    keeps_bind (keeps_takeRows _ _ _ _ _) fun _ => keeps_bind (keeps_writeGroup _ _ _ _ _ _) fun _ =>
    keeps_bind (keeps_flags _) fun _ => keeps_setVstart _

theorem execVspld_wf (d : BitVec 3) (a b : Reg) (hs : s.wf = true) : NextWf (execVspld d a b s) := by
  refine vinsn_wf _ _ ?_ hs
  refine keeps_bind keeps_getRegs fun _ => keeps_guard (keeps_mismatch _ _ _) fun _ => keeps_bind (keeps_getG _) fun _ =>
    keeps_bind (keeps_needAligned _ _ _) fun _ => keeps_bind (keeps_frameAccess (keeps_loadNat _ _ _ _)) fun _ => ?_
  dsimp only
  split
  · exact keeps_trap _ _ _ _
  · exact keeps_bind (keeps_getG _) fun _ =>
    keeps_bind (keeps_frameAccess (keeps_bind (keeps_bitmapWalk _ _ _ _ _ _ _) fun _ =>
    keeps_bind (keeps_readValues _ _ _ _) fun _ => keeps_pure _)) fun _ => keeps_writeSparse _ _ _ _

theorem execVspst_wf (d : Reg) (a : BitVec 3) (b : Reg) (hs : s.wf = true) : NextWf (execVspst d a b s) := by
  refine vinsn_wf _ _ ?_ hs
  exact keeps_bind (keeps_checkSparseRegs _) fun _ => keeps_bind (keeps_sparseFmt _) fun _ =>
    keeps_bind (keeps_checkSparse _ _) fun _ => keeps_bind (keeps_getG _) fun _ =>
    keeps_bind (keeps_needAligned _ _ _) fun _ => keeps_bind keeps_get fun _ =>
    keeps_ite (keeps_setVstart _) (keeps_bind keeps_settleOlder fun _ => keeps_bind (keeps_drainBank _) fun _ =>
    keeps_bind (keeps_unlessTraps (keeps_inFlight _ _ (keeps_bind (keeps_atomicPlace _ _ _) fun _ =>
    keeps_bind (keeps_anchor _) fun _ => keeps_bind (keeps_updateAt _ _ _ _ _ _) fun _ =>
    keeps_guard (keeps_trap _ _ _ _) fun _ => keeps_bind (keeps_record _ _) fun _ => keeps_bind (keeps_getG _) fun _ =>
    keeps_bind (keeps_each _ (fun _ => keeps_checkAccess _ _ _ _ _)) fun _ => keeps_bind (keeps_each _ (fun _ =>
    keeps_storeNat _ _ _ _ _)) fun _ => keeps_bind (keeps_record _ _) fun _ => keeps_setVstart _))) fun _ => keeps_storedBefore)

end Sys2Proof.Proofs
end

/-! ## Every step keeps the form of memory (R192, R6) -/
section
namespace Sys2Proof.Proofs

open Sys2Proof.Machine Sys2Proof.Laws

variable {α β : Type} {s : State}

/-- Every instruction and every occurrence keeps the form of memory. -/
theorem exec_wf (i : Instr) (hs : s.wf = true) : NextWf (exec i s) := by
  cases i with
  | add d a b => exact show NextWf (execAdd d a b s) from rr_wf _ _ _ _ _ hs
  | sub d a b => exact show NextWf (execSub d a b s) from rr_wf _ _ _ _ _ hs
  | and d a b => exact show NextWf (execAnd d a b s) from rr_wf _ _ _ _ _ hs
  | or d a b => exact show NextWf (execOr d a b s) from rr_wf _ _ _ _ _ hs
  | xor d a b => exact show NextWf (execXor d a b s) from rr_wf _ _ _ _ _ hs
  | sll d a b => exact show NextWf (execSll d a b s) from rr_wf _ _ _ _ _ hs
  | srl d a b => exact show NextWf (execSrl d a b s) from rr_wf _ _ _ _ _ hs
  | sra d a b => exact show NextWf (execSra d a b s) from rr_wf _ _ _ _ _ hs
  | slt d a b => exact show NextWf (execSlt d a b s) from rr_wf _ _ _ _ _ hs
  | sltu d a b => exact show NextWf (execSltu d a b s) from rr_wf _ _ _ _ _ hs
  | mul d a b => exact show NextWf (execMul d a b s) from rr_wf _ _ _ _ _ hs
  | mulh d a b => exact show NextWf (execMulh d a b s) from rr_wf _ _ _ _ _ hs
  | div d a b => exact show NextWf (execDiv d a b s) from rrEv_wf _ _ _ _ _ hs
  | divu d a b => exact show NextWf (execDivu d a b s) from rrEv_wf _ _ _ _ _ hs
  | rem d a b => exact show NextWf (execRem d a b s) from rrEv_wf _ _ _ _ _ hs
  | remu d a b => exact show NextWf (execRemu d a b s) from rrEv_wf _ _ _ _ _ hs
  | addi d a imm => exact show NextWf (execAddi d a imm s) from ri_wf _ _ _ _ hs
  | andi d a imm => exact show NextWf (execAndi d a imm s) from ri_wf _ _ _ _ hs
  | ori d a imm => exact show NextWf (execOri d a imm s) from ri_wf _ _ _ _ hs
  | xori d a imm => exact show NextWf (execXori d a imm s) from ri_wf _ _ _ _ hs
  | slti d a imm => exact show NextWf (execSlti d a imm s) from ri_wf _ _ _ _ hs
  | sltiu d a imm => exact show NextWf (execSltiu d a imm s) from ri_wf _ _ _ _ hs
  | lui d imm => exact show NextWf (execLui d imm s) from ri_wf _ _ _ _ hs
  | lsi d a imm => exact show NextWf (execLsi d a imm s) from ri_wf _ _ _ _ hs
  | slli d a sh => exact show NextWf (execSlli d a sh s) from ri_wf _ _ _ _ hs
  | srli d a sh => exact show NextWf (execSrli d a sh s) from ri_wf _ _ _ _ hs
  | srai d a sh => exact show NextWf (execSrai d a sh s) from ri_wf _ _ _ _ hs
  | sel d a b => exact execSel_wf _ _ _ hs
  | fadd d a b fmt rm => exact show NextWf (execFadd d a b fmt rm s) from fop_wf _ _ _ _ _ _ _ hs
  | fsub d a b fmt rm => exact show NextWf (execFsub d a b fmt rm s) from fop_wf _ _ _ _ _ _ _ hs
  | fmul d a b fmt rm => exact show NextWf (execFmul d a b fmt rm s) from fop_wf _ _ _ _ _ _ _ hs
  | fmadd d a b fmt rm => exact show NextWf (execFmadd d a b fmt rm s) from fop_wf _ _ _ _ _ _ _ hs
  | flt d a b fmt => exact show NextWf (execFlt d a b fmt s) from fop_wf _ _ _ _ _ _ _ hs
  | fcvt d a dir fsrc fmt rm => exact execFcvt_wf _ _ _ _ _ _ hs
  | beq a b off => exact show NextWf (execBeq a b off s) from branch_wf _ _ _ _ _ hs
  | bne a b off => exact show NextWf (execBne a b off s) from branch_wf _ _ _ _ _ hs
  | blt a b off => exact show NextWf (execBlt a b off s) from branch_wf _ _ _ _ _ hs
  | bge a b off => exact show NextWf (execBge a b off s) from branch_wf _ _ _ _ _ hs
  | jal d off => exact execJal_wf _ _ hs
  | jalr a off => exact execJalr_wf _ _ hs
  | jr a off => exact execJr_wf _ _ hs
  | bpany a off => exact show NextWf (execBpany a off s) from predBranch_wf _ _ _ hs
  | bpall a off => exact show NextWf (execBpall a off s) from predBranch_wf _ _ _ hs
  | loopv a n => exact execLoopv_wf _ _ hs
  | ldb d a off => exact show NextWf (execLdb d a off s) from load_wf _ _ _ _ _ _ hs
  | ldh d a off => exact show NextWf (execLdh d a off s) from load_wf _ _ _ _ _ _ hs
  | ldw d a off => exact show NextWf (execLdw d a off s) from load_wf _ _ _ _ _ _ hs
  | ldd d a off => exact show NextWf (execLdd d a off s) from load_wf _ _ _ _ _ _ hs
  | ldbs d a off => exact show NextWf (execLdbs d a off s) from load_wf _ _ _ _ _ _ hs
  | ldhs d a off => exact show NextWf (execLdhs d a off s) from load_wf _ _ _ _ _ _ hs
  | ldws d a off => exact show NextWf (execLdws d a off s) from load_wf _ _ _ _ _ _ hs
  | stb a b off => exact show NextWf (execStb a b off s) from store_wf _ _ _ _ _ hs
  | sth a b off => exact show NextWf (execSth a b off s) from store_wf _ _ _ _ _ hs
  | stw a b off => exact show NextWf (execStw a b off s) from store_wf _ _ _ _ _ hs
  | std a b off => exact show NextWf (execStd a b off s) from store_wf _ _ _ _ _ hs
  | ldp d a off => exact show NextWf (execLdp d a off s) from loadPointer_wf _ _ _ _ _ hs
  | ldpHeal d a off => exact show NextWf (execLdpHeal d a off s) from loadPointer_wf _ _ _ _ _ hs
  | peq d a b => exact execPeq_wf _ _ _ hs
  | amoswap d a b acq rel scope w => exact show NextWf (execAmoswap d a b acq rel scope w s) from atomic_wf _ _ _ _ _ _ _ _ hs
  | amoadd d a b acq rel scope w => exact show NextWf (execAmoadd d a b acq rel scope w s) from atomic_wf _ _ _ _ _ _ _ _ hs
  | amoand d a b acq rel scope w => exact show NextWf (execAmoand d a b acq rel scope w s) from atomic_wf _ _ _ _ _ _ _ _ hs
  | amoor d a b acq rel scope w => exact show NextWf (execAmoor d a b acq rel scope w s) from atomic_wf _ _ _ _ _ _ _ _ hs
  | amoxor d a b acq rel scope w => exact show NextWf (execAmoxor d a b acq rel scope w s) from atomic_wf _ _ _ _ _ _ _ _ hs
  | amomin d a b acq rel scope w => exact show NextWf (execAmomin d a b acq rel scope w s) from atomic_wf _ _ _ _ _ _ _ _ hs
  | amomax d a b acq rel scope w => exact show NextWf (execAmomax d a b acq rel scope w s) from atomic_wf _ _ _ _ _ _ _ _ hs
  | amocas d a b acq rel scope w => exact show NextWf (execAmocas d a b acq rel scope w s) from atomic_wf _ _ _ _ _ _ _ _ hs
  | ticket d a b acq rel scope w => exact execTicket_wf _ _ _ _ _ _ _ hs
  | waita d a b acq rel scope w => exact execWaita_wf _ _ _ _ _ _ _ hs
  | waitaWake ag => exact execWaitaWake_wf _ hs
  | fence mask kind acq rel scope => exact execFence_wf _ _ _ _ _ hs
  | barrier mask acq rel scope => exact execBarrier_wf _ _ _ _ hs
  | barrierComplete ag => exact execBarrierComplete_wf _ hs
  | vsetvli d a fmt grp tail => exact execVsetvli_wf _ _ _ _ _ hs
  | vsetvl d a b => exact execVsetvl_wf _ _ _ hs
  | vretag d a fmt grp => exact execVretag_wf _ _ _ _ hs
  | vsave d a => exact execVsave_wf _ _ hs
  | vrestore d a => exact execVrestore_wf _ _ hs
  | vspill d a => exact execVspill_wf _ _ hs
  | vadd d a b p => exact show NextWf (execVadd d a b p s) from vint_wf _ _ _ _ _ _ _ hs
  | vsub d a b p => exact show NextWf (execVsub d a b p s) from vint_wf _ _ _ _ _ _ _ hs
  | vqadd d a b p => exact show NextWf (execVqadd d a b p s) from vint_wf _ _ _ _ _ _ _ hs
  | vqsub d a b p => exact show NextWf (execVqsub d a b p s) from vint_wf _ _ _ _ _ _ _ hs
  | vmul d a b p => exact show NextWf (execVmul d a b p s) from vint_wf _ _ _ _ _ _ _ hs
  | vmulh d a b p => exact show NextWf (execVmulh d a b p s) from vint_wf _ _ _ _ _ _ _ hs
  | vmacc d a b p => exact show NextWf (execVmacc d a b p s) from vint_wf _ _ _ _ _ _ _ hs
  | vand d a b p => exact show NextWf (execVand d a b p s) from vint_wf _ _ _ _ _ _ _ hs
  | vor d a b p => exact show NextWf (execVor d a b p s) from vint_wf _ _ _ _ _ _ _ hs
  | vxor d a b p => exact show NextWf (execVxor d a b p s) from vint_wf _ _ _ _ _ _ _ hs
  | vsll d a b p => exact show NextWf (execVsll d a b p s) from vint_wf _ _ _ _ _ _ _ hs
  | vsrl d a b p => exact show NextWf (execVsrl d a b p s) from vint_wf _ _ _ _ _ _ _ hs
  | vsra d a b p => exact show NextWf (execVsra d a b p s) from vint_wf _ _ _ _ _ _ _ hs
  | vmin d a b p => exact show NextWf (execVmin d a b p s) from vint_wf _ _ _ _ _ _ _ hs
  | vmax d a b p => exact show NextWf (execVmax d a b p s) from vint_wf _ _ _ _ _ _ _ hs
  | vfadd d a b p rm => exact show NextWf (execVfadd d a b p rm s) from vfp2_wf _ _ _ _ _ _ _ hs
  | vfsub d a b p rm => exact show NextWf (execVfsub d a b p rm s) from vfp2_wf _ _ _ _ _ _ _ hs
  | vfmul d a b p rm => exact show NextWf (execVfmul d a b p rm s) from vfp2_wf _ _ _ _ _ _ _ hs
  | vfdiv d a b p rm => exact show NextWf (execVfdiv d a b p rm s) from vfp2_wf _ _ _ _ _ _ _ hs
  | vfsqrt d a p rm => exact show NextWf (execVfsqrt d a p rm s) from vfp1_wf _ _ _ _ _ _ hs
  | vfma d a b p rm => exact show NextWf (execVfma d a b p rm s) from vfp3_wf _ _ _ _ _ _ _ hs
  | vfms d a b p rm => exact show NextWf (execVfms d a b p rm s) from vfp3_wf _ _ _ _ _ _ _ hs
  | vfmin d a b p rm => exact show NextWf (execVfmin d a b p rm s) from vfp2_wf _ _ _ _ _ _ _ hs
  | vfmax d a b p rm => exact show NextWf (execVfmax d a b p rm s) from vfp2_wf _ _ _ _ _ _ _ hs
  | vfabs d a p rm => exact show NextWf (execVfabs d a p rm s) from vsign_wf _ _ _ _ _ _ _ _ hs
  | vfneg d a p rm => exact show NextWf (execVfneg d a p rm s) from vsign_wf _ _ _ _ _ _ _ _ hs
  | vfsgnj d a b p rm => exact show NextWf (execVfsgnj d a b p rm s) from vsign_wf _ _ _ _ _ _ _ _ hs
  | vfrecip d a p rm => exact show NextWf (execVfrecip d a p rm s) from vfp1_wf _ _ _ _ _ _ hs
  | vfrsqrt d a p rm => exact show NextWf (execVfrsqrt d a p rm s) from vfp1_wf _ _ _ _ _ _ hs
  | vfclass d a p rm => exact execVfclass_wf _ _ _ _ hs
  | vcmpeq d a b p => exact show NextWf (execVcmpeq d a b p s) from vcmp_wf _ _ _ _ _ _ _ hs
  | vcmpne d a b p => exact show NextWf (execVcmpne d a b p s) from vcmp_wf _ _ _ _ _ _ _ hs
  | vcmplt d a b p => exact show NextWf (execVcmplt d a b p s) from vcmp_wf _ _ _ _ _ _ _ hs
  | vcmple d a b p => exact show NextWf (execVcmple d a b p s) from vcmp_wf _ _ _ _ _ _ _ hs
  | vpand d a b p => exact show NextWf (execVpand d a b p s) from vpop_wf _ _ _ _ _ _ hs
  | vpor d a b p => exact show NextWf (execVpor d a b p s) from vpop_wf _ _ _ _ _ _ hs
  | vpxor d a b p => exact show NextWf (execVpxor d a b p s) from vpop_wf _ _ _ _ _ _ hs
  | vpandn d a b p => exact show NextWf (execVpandn d a b p s) from vpop_wf _ _ _ _ _ _ hs
  | vslideup d a b p => exact execVslideup_wf _ _ _ _ hs
  | vslidedn d a b p => exact execVslidedn_wf _ _ _ _ hs
  | vperm d a b p => exact execVperm_wf _ _ _ _ hs
  | vbcast d a p => exact execVbcast_wf _ _ _ hs
  | vcompress d a p => exact execVcompress_wf _ _ _ hs
  | vredsum d a b p => exact show NextWf (execVredsum d a b p s) from vreduce_wf _ _ _ _ _ _ _ hs
  | vfredsum d a b p rm => exact show NextWf (execVfredsum d a b p rm s) from vreduce_wf _ _ _ _ _ _ _ hs
  | vfredosum d a b p rm => exact show NextWf (execVfredosum d a b p rm s) from vreduce_wf _ _ _ _ _ _ _ hs
  | vredmax d a b p => exact show NextWf (execVredmax d a b p s) from vreduce_wf _ _ _ _ _ _ _ hs
  | vscan d a b p => exact execVscan_wf _ _ _ _ hs
  | vprune d a b p => exact execVprune_wf _ _ _ _ hs
  | vmvs d a b => exact execVmvs_wf _ _ _ hs
  | vcvt d a p rm => exact execVcvt_wf _ _ _ _ hs
  | vcvtef d a b p rm => exact execVcvtef_wf _ _ _ _ _ hs
  | vdqbx d a p => exact execVdqbx_wf _ _ _ hs
  | vnsat d a p => exact execVnsat_wf _ _ _ hs
  | vqbx d a k rm => exact execVqbx_wf _ _ _ _ hs
  | vld d a sr p ord => exact execVld_wf _ _ _ _ _ hs
  | vlds d a ix p ord => exact execVlds_wf _ _ _ _ _ hs
  | vldff d a p ord => exact execVldff_wf _ _ _ _ hs
  | vldx d a ix p ls ord => exact execVldx_wf _ _ _ _ _ _ hs
  | vst d a sr p ord => exact execVst_wf _ _ _ _ _ hs
  | vsts d a ix p ord => exact execVsts_wf _ _ _ _ _ hs
  | vstx d a ix p ls ord => exact execVstx_wf _ _ _ _ _ _ hs
  | vscadd d a ix p ls ord => exact execVscadd_wf _ _ _ _ _ _ hs
  | vsld d h p ord => exact execVsld_wf _ _ _ _ hs
  | vsst d h p ord => exact execVsst_wf _ _ _ _ hs
  | vgsld d h p ord => exact execVgsld_wf _ _ _ _ hs
  | vgsldMeet ag => exact execVgsldMeet_wf _ hs
  | vstrip h ix => exact execVstrip_wf _ _ hs
  | vsadd d a b rm => exact show NextWf (execVsadd d a b rm s) from sparseOp_wf _ _ _ _ _ _ hs
  | vsmul d a b rm => exact show NextWf (execVsmul d a b rm s) from sparseOp_wf _ _ _ _ _ _ hs
  | vsdot d a b rm => exact execVsdot_wf _ _ _ _ hs
  | vspld d a b => exact execVspld_wf _ _ _ hs
  | vspst d a b => exact execVspst_wf _ _ _ hs
  | mldtA d a => exact show NextWf (execMldtA d a s) from loadTile_wf _ _ _ _ _ hs
  | mldtB d a => exact show NextWf (execMldtB d a s) from loadTile_wf _ _ _ _ _ hs
  | mldtffA d a => exact show NextWf (execMldtffA d a s) from loadTile_wf _ _ _ _ _ hs
  | mldtffB d a => exact show NextWf (execMldtffB d a s) from loadTile_wf _ _ _ _ _ hs
  | mst acc a => exact execMst_wf _ _ hs
  | mma acc => exact show NextWf (execMma acc s) from multiply_wf _ _ _ hs
  | mmas acc => exact show NextWf (execMmas acc s) from multiply_wf _ _ _ hs
  | mzero acc => exact execMzero_wf _ hs
  | accRowComplete cl acc row => exact execAccRowComplete_wf _ _ _ hs
  | vmrd d acc b p rm => exact execVmrd_wf _ _ _ _ _ hs
  | vmwr d acc b p => exact execVmwr_wf _ _ _ _ hs
  | xcopy d a b acq rel scope => exact execXcopy_wf _ _ _ _ _ _ hs
  | xcopyExecute cmd => exact execXcopyExecute_wf _ hs
  | xstream a acq scope => exact execXstream_wf _ _ _ hs
  | xstreamBind cmd => exact execXstreamBind_wf _ hs
  | xsbar mask acq scope => exact execXsbar_wf _ _ _ hs
  | xsbarDrain ag => exact execXsbarDrain_wf _ hs
  | xgather a acq rel scope => exact execXgather_wf _ _ _ _ hs
  | xgatherExecute cmd => exact execXgatherExecute_wf _ hs
  | xbin a acq rel scope => exact execXbin_wf _ _ _ _ hs
  | xbinExecute cmd => exact execXbinExecute_wf _ hs
  | xmove d a b acq rel scope => exact execXmove_wf _ _ _ _ _ _ hs
  | xmoveExecute cmd => exact execXmoveExecute_wf _ hs
  | movedAccessRetry cl line => exact execMovedAccessRetry_wf _ _ hs
  | xheal a acq rel scope => exact execXheal_wf _ _ _ _ hs
  | xhealExecute cmd => exact execXhealExecute_wf _ hs
  | xreclaim a acq rel scope => exact execXreclaim_wf _ _ _ _ hs
  | xreclaimExecute cmd => exact execXreclaimExecute_wf _ hs
  | xinst d a b acq rel scope => exact execXinst_wf _ _ _ _ _ _ hs
  | xinstExecute cmd => exact execXinstExecute_wf _ hs
  | blockErase stack block => exact execBlockErase_wf _ _ hs
  | xpin d a b acq rel scope => exact execXpin_wf _ _ _ _ _ _ hs
  | xpinExecute cmd => exact execXpinExecute_wf _ hs
  | xwear d a => exact execXwear_wf _ _ hs
  | xwearExecute cmd => exact execXwearExecute_wf _ hs
  | xsweep a acq rel scope => exact execXsweep_wf _ _ _ _ hs
  | xsweepExecute cmd => exact execXsweepExecute_wf _ hs
  | sweepBatch cmd => exact execSweepBatch_wf _ hs
  | cwait d a b acq rel scope => exact execCwait_wf _ _ _ _ _ _ hs
  | cwaitWake ag => exact execCwaitWake_wf _ hs
  | cwake d a b acq rel scope => exact execCwake_wf _ _ _ _ _ _ hs
  | launch d a => exact execLaunch_wf _ _ hs
  | launchTableEntryFree ag => exact execLaunchTableEntryFree_wf _ hs
  | fork mask => exact execFork_wf _ hs
  | forkBound ag => exact execForkBound_wf _ hs
  | join mask => exact execJoin_wf _ hs
  | joinComplete ag => exact execJoinComplete_wf _ hs
  | yield => exact execYield_wf hs
  | exit => exact execExit_wf hs
  | id d sel => exact execId_wf _ _ hs
  | gang d n => exact execGang_wf _ _ hs
  | gangComplete ag => exact execGangComplete_wf _ hs
  | waitt a => exact execWaitt_wf _ hs
  | waittExpire ag => exact execWaittExpire_wf _ hs
  | trap k => exact execTrap_wf _ hs
  | eret => exact execEret_wf hs
  | kget d k => exact execKget_wf _ _ hs
  | kset a k => exact execKset_wf _ _ hs
  | l2waysWrite ag => exact execL2waysWrite_wf _ hs
  | tlbinv d a => exact execTlbinv_wf _ _ hs
  | cflush d a => exact execCflush_wf _ _ hs
  | wfi a => exact execWfi_wf _ hs
  | wfiWake ag => exact execWfiWake_wf _ hs
  | hint n => exact execHint_wf _ hs
  | asyncEventDeliver ag => exact execAsyncEventDeliver_wf _ hs
  | illegalInsn w => exact execIllegalInsn_wf _ hs
  | powerOn => exact execPowerOn_wf hs
  | firmwareVerified ok => exact execFirmwareVerified_wf _ hs
  | fabricTrained ok => exact execFabricTrained_wf _ hs
  | verticalBusesRepaired failed buses => exact execVerticalBusesRepaired_wf _ _ hs
  | dramInitialised failed => exact execDramInitialised_wf _ hs
  | granaryOnline ok wear => exact execGranaryOnline_wf _ _ hs
  | timeAligned failed skew => exact execTimeAligned_wf _ _ hs
  | ready => exact execReady_wf hs
  | arbiterGrant core => exact execArbiterGrant_wf _ hs
  | beatWrite ag => exact execBeatWrite_wf _ hs
  | rowStallPreempt core => exact execRowStallPreempt_wf _ hs
  | vqueueRoom ag => exact execVqueueRoom_wf _ hs
  | vectorCommit ag => exact execVectorCommit_wf _ hs
  | memoryResponseArrival ag r => exact execMemoryResponseArrival_wf _ _ hs
  | homeAccessPerform idx => exact execHomeAccessPerform_wf _ hs
  | l1Fill cl asid va => exact execL1Fill_wf _ _ _ hs
  | writebackApply cl line => exact execWritebackApply_wf _ _ hs
  | pageWalk tower asid va => exact execPageWalk_wf _ _ _ hs
  | pagerAnswer slot => exact execPagerAnswer_wf _ hs
  | handleRunaheadRead ag h => exact execHandleRunaheadRead_wf _ _ hs
  | portHandoff cl => exact execPortHandoff_wf _ hs
  | stagingFill tower unit => exact execStagingFill_wf _ _ hs
  | oldtktUpdate tower => exact execOldtktUpdate_wf _ hs
  | engineQueueRoom ag => exact execEngineQueueRoom_wf _ hs
  | launchAdmit l place => exact execLaunchAdmit_wf _ _ hs
  | launchEnd l => exact execLaunchEnd_wf _ hs
  | launchStop l cause => exact execLaunchStop_wf _ _ hs
  | launchTimeout l => exact execLaunchTimeout_wf _ hs
  | budgetWarn ag => exact execBudgetWarn_wf _ hs
  | watchdog ag => exact execWatchdog_wf _ hs
  | preempt ag => exact execPreempt_wf _ hs
  | contextRestore ag slot => exact execContextRestore_wf _ _ hs
  | sweepContextSave core => exact execSweepContextSave_wf _ hs
  | flitRoute plane inj => exact execFlitRoute_wf _ _ hs
  | flitAgeStep => exact execFlitAgeStep_wf hs
  | injrateWindow => exact execInjrateWindow_wf hs
  | requestResend req => exact execRequestResend_wf _ hs
  | planeFail plane => exact execPlaneFail_wf _ hs
  | linkDown link hit => exact execLinkDown_wf _ _ hs
  | linkUp link => exact execLinkUp_wf _ hs
  | inboundWrite src pa data => exact execInboundWrite_wf _ _ _ hs
  | hostRead fn off len => exact execHostRead_wf _ _ _ hs
  | hostTimeout ag va kind => exact execHostTimeout_wf _ _ _ hs
  | kill v => exact execKill_wf _ hs
  | attctl v => exact execAttctl_wf _ hs
  | attestationReportReady => exact execAttestationReportReady_wf hs
  | aper n v => exact execAper_wf _ _ hs
  | vfcfg fn v => exact execVfcfg_wf _ _ hs
  | registerWrite off v => exact execRegisterWrite_wf _ _ hs
  | busRetrain tower bus => exact execBusRetrain_wf _ _ hs
  | busRetrainDone tower bus wires => exact execBusRetrainDone_wf _ _ _ hs
  | busTest tower bus pass => exact execBusTest_wf _ _ _ hs
  | patrolScrub line found => exact execPatrolScrub_wf _ _ hs
  | mcheck tower => exact execMcheck_wf _ hs
  | towerLost tower => exact execTowerLost_wf _ hs
  | granaryStackFailed stack => exact execGranaryStackFailed_wf _ hs

/-- The current agent's next instruction: fetched, or a fault of its fetch settled. -/
theorem stepInstr_wf (hs : s.wf = true) : NextWf (stepInstr s) := by
  have fetched := keeps_fetch s hs
  unfold stepInstr
  split
  · next e t h =>
    rw [h] at fetched
    exact nextWf_next (settle_wf _ (keeps_throw _) fetched)
  · next w t h =>
    rw [h] at fetched
    split
    · exact nextWf_next hs
    · exact @exec_wf _ _ (wf_of_mem (noteLate_mem t w) fetched)

theorem stepAgent_wf (hs : s.wf = true) : NextWf (stepAgent s) := by
  unfold stepAgent
  split
  · exact @exec_wf _ _ hs
  · split
    · exact @exec_wf _ _ hs
    · split
      · exact stepInstr_wf hs
      · exact @exec_wf _ _ hs
      · exact nextWf_next hs
      · exact nextWf_next hs
      · exact nextWf_next hs
      · exact nextWf_next hs

theorem nextWf_fault (f : Fault) : NextWf (.fault f) := fun _ h => nomatch h

theorem nextWf_refused (r : Refusal) : NextWf (.refused r) := fun _ h => nomatch h

/-- The clock moves on and memory stays. -/
theorem tick_wf {o : Out} (h : NextWf o) : NextWf (tick o) := by
  unfold tick
  split
  · next t => exact nextWf_next (wf_of_mem (s := t) rfl (h t rfl))
  · exact nextWf_fault _
  · exact nextWf_refused _

theorem step_wf (hs : s.wf = true) : NextWf (step s) := by
  unfold step
  split
  · exact nextWf_fault _
  · split
    · exact tick_wf (@exec_wf _ _ (wf_of_mem (s := s) rfl hs))
    · exact nextWf_next (wf_of_mem (focus_mem _ _) (wf_of_mem (s := s) rfl hs))
    · exact nextWf_next (wf_of_mem (s := s) rfl hs)
    · exact tick_wf (stepAgent_wf hs)

/-- Settles O60: every step is an occurrence, an instruction or the end of a wait, and each keeps the form. -/
theorem stepKeepsMemoryForm : Obligations.StepKeepsMemoryForm := fun _ t hs h => step_wf hs t h

end Sys2Proof.Proofs
end

/-! # Accesses through the cluster L1 and at homes (spec/09_memory_hierarchy.md) -/
section
namespace Sys2Proof.Proofs

open Sys2Proof.Machine Sys2Proof.Laws

variable {α β : Type} {s t u : State}

/-! ### Bytes of words and lines -/

/-- An access inside one aligned 8-byte word is one piece. -/
theorem pieces_word {a n : Nat} (hn : 0 < n) (h : a % 8 + n ≤ 8) : pieces a n n = [(a, n)] := by
  cases n with
  | zero => omega
  | succ m =>
    have hk : min (m + 1) (8 - a % 8) = m + 1 := by omega
    rw [pieces]
    · rw [hk, Nat.sub_self]
      cases m <;> rfl
    · omega

theorem getLsbD_putByte {n : Nat} (x : BitVec n) (i : Nat) (b : Byte) {m : Nat} (hm : m < n) :
    (putByte x i b).getLsbD m = if 8 * i ≤ m ∧ m < 8 * i + 8 then b.getLsbD (m - 8 * i) else x.getLsbD m := by
  have hff (k : Nat) : (0xFF#n).getLsbD k = (decide (k < n) && decide (k < 8)) := by
    rw [BitVec.getLsbD_ofNat, show 0xFF = 2 ^ 8 - 1 from rfl, Nat.testBit_two_pow_sub_one]
  simp only [putByte, BitVec.getLsbD_or, BitVec.getLsbD_and, BitVec.getLsbD_not, BitVec.getLsbD_shiftLeft, BitVec.getLsbD_setWidth,
    hff, hm, decide_true, Bool.true_and]
  have hk : m - 8 * i < n := by omega
  by_cases hlo : m < 8 * i
  · have hout : ¬ 8 * i ≤ m := by omega
    simp [hlo, hout]
  · have hle : 8 * i ≤ m := by omega
    by_cases hhi : m < 8 * i + 8
    · have h8 : m - 8 * i < 8 := by omega
      simp [hlo, hle, hhi, hk, h8]
    · have h8 : ¬ m - 8 * i < 8 := by omega
      simp [hlo, hhi, h8, BitVec.getLsbD_of_ge b (m - 8 * i) (by omega)]

theorem byteOf_putByte_same {n : Nat} (x : BitVec n) {i : Nat} (b : Byte) (h : 8 * i + 8 ≤ n) : byteOf (putByte x i b) i = b := by
  refine BitVec.eq_of_getLsbD_eq fun j hj => ?_
  have hin : 8 * i ≤ 8 * i + j ∧ 8 * i + j < 8 * i + 8 := by omega
  rw [getLsbD_byteOf, getLsbD_putByte x i b (by omega), if_pos hin, Nat.add_sub_cancel_left]
  simp [hj]

theorem byteOf_putByte_other {n : Nat} (x : BitVec n) {i k : Nat} (b : Byte) (h : 8 * k + 8 ≤ n) (hik : k ≠ i) :
    byteOf (putByte x i b) k = byteOf x k := by
  refine BitVec.eq_of_getLsbD_eq fun j hj => ?_
  have hout : ¬(8 * i ≤ 8 * k + j ∧ 8 * k + j < 8 * i + 8) := by omega
  rw [getLsbD_byteOf, getLsbD_byteOf, getLsbD_putByte x i b (by omega), if_neg hout]

/-- Bytes of a line put in from `off + m` on: the others stay. -/
theorem byteOf_putBytes_other {off k : Nat} (hk : k < 64) (xs : List Byte) :
    ∀ (m : Nat) (d : BitVec 512), ¬(off + m ≤ k ∧ k < off + m + xs.length) →
      byteOf ((xs.zipIdx m).foldl (fun d (b, i) => putByte d (off + i) b) d) k = byteOf d k := by
  induction xs with
  | nil => exact fun _ _ _ => rfl
  | cons x xs ih =>
    intro m d h
    rw [List.length_cons] at h
    rw [List.zipIdx_cons, List.foldl_cons, ih (m + 1) _ (by omega)]
    exact byteOf_putByte_other d x (by omega) (by omega)

/-- Bytes of a line put in from `off + m` on are found there. -/
theorem byteOf_putBytes {off : Nat} (xs : List Byte) :
    ∀ (m : Nat) (d : BitVec 512), off + m + xs.length ≤ 64 → ∀ (k : Nat) (hk : k < xs.length),
      byteOf ((xs.zipIdx m).foldl (fun d (b, i) => putByte d (off + i) b) d) (off + m + k) = xs[k] := by
  induction xs with
  | nil => exact fun _ _ _ k hk => absurd hk (Nat.not_lt_zero k)
  | cons x xs ih =>
    intro m d h k hk
    rw [List.length_cons] at h hk
    rw [List.zipIdx_cons, List.foldl_cons]
    cases k with
    | zero =>
      rw [byteOf_putBytes_other (by omega) xs (m + 1) _ (by omega)]
      exact byteOf_putByte_same d x (by omega)
    | succ k =>
      rw [show off + m + (k + 1) = off + (m + 1) + k by omega]
      exact ih (m + 1) _ (by omega) k (by omega)

/-- The bits of `n` bytes of a mask from byte `off` on. -/
theorem getLsbD_byteMask {w : Nat} (off n : Nat) {k : Nat} (hk : k < w) :
    (BitVec.ofNat w ((2 ^ n - 1) <<< off)).getLsbD k = decide (off ≤ k ∧ k < off + n) := by
  rw [BitVec.getLsbD_ofNat, Nat.testBit_shiftLeft, Nat.testBit_two_pow_sub_one]
  by_cases hlo : off ≤ k
  · have : k - off < n ↔ k < off + n := by omega
    simp [hk, hlo, this]
  · simp [hlo]

theorem testBit_leNat (xs : List Byte) : ∀ (i j : Nat) (hi : i < xs.length), j < 8 →
    (leNat xs).testBit (8 * i + j) = xs[i].getLsbD j := by
  induction xs with
  | nil => exact fun i _ hi _ => absurd hi (Nat.not_lt_zero i)
  | cons x xs ih =>
    intro i j hi hj
    rw [leNat, Nat.add_comm x.toNat, show 256 = 2 ^ 8 from rfl, Nat.testBit_two_pow_mul_add _ x.isLt]
    cases i with
    | zero =>
      rw [if_pos (by omega), BitVec.testBit_toNat]
      simp
    | succ i =>
      rw [if_neg (by omega), show 8 * (i + 1) + j - 8 = 8 * i + j by omega]
      exact ih i j (by simpa using hi) hj

theorem leNat_lt (xs : List Byte) : leNat xs < 2 ^ (8 * xs.length) := by
  induction xs with
  | nil => exact Nat.one_pos
  | cons x xs ih =>
    have hx := x.isLt
    rw [leNat, List.length_cons, Nat.mul_succ, Nat.pow_add]
    omega

/-- A word with bytes put in from byte `o` on holds them there. -/
theorem wordBytes_mix (now : BitVec 64) {o : Nat} (xs : List Byte) (h : o + xs.length ≤ 8) :
    wordBytes (mix now (bytesWord o xs) (byteBits o xs.length)) o xs.length = xs := by
  refine List.ext_getElem (by simp [wordBytes]) fun i hi hi' => ?_
  refine BitVec.eq_of_getLsbD_eq fun j hj => ?_
  have hpos : 8 * (o + i) + j < 64 := by omega
  have hsub : 8 * (o + i) + j - 8 * o = 8 * i + j := by omega
  have hle : 8 * o ≤ 8 * (o + i) + j := by omega
  have hmask : (byteBits o xs.length).getLsbD (8 * (o + i) + j) = true := by
    rw [byteBits, getLsbD_byteMask _ _ hpos, decide_eq_true_eq]
    omega
  have hnew : (bytesWord o xs).getLsbD (8 * (o + i) + j) = xs[i].getLsbD j := by
    rw [bytesWord, BitVec.getLsbD_ofNat, Nat.testBit_shiftLeft, hsub, testBit_leNat xs i j hi' hj]
    simp [hpos, hle]
  simp only [wordBytes, List.getElem_map, List.getElem_range, getLsbD_byteOf, mix, BitVec.getLsbD_or, BitVec.getLsbD_and,
    BitVec.getLsbD_not, hmask, hnew, hj, hpos]
  simp

/-! ### What has been shown of other agents' stores (R252) -/

/-- A mark of what has been read of an agent's stores is no part of it without such marks. -/
theorem unshown_marked (a : Agent) (p : Loose → Bool) :
    Agent.unshown { a with loose := a.loose.map (fun e => if p e then { e with shown := true } else e) } = a.unshown := by
  unfold Agent.unshown
  rw [List.map_map]
  refine congrArg (fun ls => { a with loose := ls }) (List.map_congr_left fun e _ => ?_)
  dsimp only [Function.comp_apply]
  split <;> rfl

theorem noteShown_kept (inL1 : Bool) (p : Loose → Bool) (s : State) :
    ∃ os, noteShown inL1 p s = .ok ⟨⟩ { s with others := os } ∧ os.map Agent.unshown = s.others.map Agent.unshown := by
  unfold noteShown
  rw [exec_modify]
  split
  · exact ⟨s.others, rfl, rfl⟩
  · refine ⟨_, rfl, ?_⟩
    rw [List.map_map]
    refine List.map_congr_left fun a _ => ?_
    dsimp only [Function.comp_apply]
    split
    · rfl
    · exact unshown_marked a p

/-- With no store listed a stream sees what stands there, and the other agents are kept (R204). -/
theorem seeWord_kept (st word : Nat) (inL1 : Bool) (now : BitVec 64) (h : s.cur.loose = []) :
    ∃ os, seeWord st inL1 word now s = .ok now { s with others := os } ∧ os.map Agent.unshown = s.others.map Agent.unshown := by
  have hpick : pickPoint (Loose.sure st) [] s = .ok 0 s := rfl
  have hseen : noteSeen (fun e => e.at inL1 word) st 0 s = .ok ⟨⟩ s := rfl
  obtain ⟨os, hshown, hos⟩ := noteShown_kept inL1 (fun e => e.at inL1 word) s
  refine ⟨os, (exec_bind_ok (exec_getCur s)).trans ?_, hos⟩
  rw [h]
  exact (exec_bind_ok hpick).trans ((exec_bind_ok hseen).trans (exec_bind_ok hshown))

/-! ### A load that hits (R190, R206) -/

theorem nw_toNat (va : Word) : nw va.toNat = va := by simp [nw]

theorem passes_of_noHolds (st : Nat) (h : s.cur.holds = []) : s.passes st := by
  unfold State.passes
  rw [h]
  rfl

theorem anchor_ok {va : Word} (h : isWindow va = false) (s : State) : anchor va s = .ok () s := by
  unfold anchor
  rw [h]
  rfl

/-- No bit of `n` from `off` on of a line's poison is set. -/
theorem bytesClean {bad : BitVec 64} {off n : Nat} (h : ∀ k < n, bad.getLsbD (off + k) = false) :
    (bad >>> off) &&& BitVec.ofNat 64 (2 ^ n - 1) = 0 := by
  refine BitVec.eq_of_getLsbD_eq fun k hk => ?_
  rw [BitVec.getLsbD_and, BitVec.getLsbD_ushiftRight, BitVec.getLsbD_ofNat, Nat.testBit_two_pow_sub_one]
  by_cases hkn : k < n
  · simp [h k hkn]
  · simp [hkn]

/-- One piece read where the L1 holds its bytes, none of them poisoned. -/
theorem loadPiece_hit {c : Ctx} {acc : Acc} {st n : Nat} {va : Word} {pl : Place} {l : L1Line} (hin : va.toNat % 64 % 8 + n ≤ 8)
    (ht : translate s c acc va = .ok pl) (hc : pl.cls = .dram ∨ pl.cls = .flash)
    (hl : s.l1? (placeCluster s.dev.towerok c.id) (pl.loc / 64) = some l)
    (hv : ∀ k < n, l.valid.getLsbD (va.toNat % 64 + k) = true) (hb : ∀ k < n, l.bad.getLsbD (va.toNat % 64 + k) = false)
    (hn : s.cur.loose = []) :
    ∃ cs os, loadPiece c acc st va.toNat n s =
        .ok ((List.range n).map (fun k => byteOf l.data (va.toNat % 64 + k))) { s with clusters := cs, others := os } ∧
      os.map Agent.unshown = s.others.map Agent.unshown := by
  have hp : l.pline = pl.loc / 64 := pline_of_l1? hl
  let l' : L1Line := { l with used := s.stamp (placeCluster s.dev.towerok c.id) }
  let u := s.l1Set (placeCluster s.dev.towerok c.id) l'
  have hl' : u.l1? (placeCluster s.dev.towerok c.id) (pl.loc / 64) = some l' := l1?_l1Set hl hp
  obtain ⟨os, hsee, hos⟩ :=
    seeWord_kept (s := u) st (8 * (pl.loc / 64) + va.toNat % 64 / 8) true (l'.word (va.toNat % 64)) hn
  refine ⟨u.clusters, os, ?_, hos⟩
  rw [← wordBytes_word l hin]
  have hw : wbits va 5 0 = va.toNat % 64 := wbits_low_six va
  refine (exec_bind_ok (exec_get s)).trans ?_
  dsimp only
  rw [nw_toNat]
  refine (exec_bind_ok (orTrap_ok _ _ ht s)).trans ?_
  rw [hw]
  rcases hc with hc | hc
  all_goals
    rw [hc]
    refine (exec_bind_ok (l1Load_held hl hv)).trans ((exec_bind_ok (touchLine_held hl)).trans ?_)
    refine (exec_bind_ok (exec_get u)).trans ?_
    rw [hl']
    dsimp only
    rw [if_neg (not_not_intro (bytesClean hb))]
    exact exec_bind_ok hsee

theorem eachGet_one {f : α → Exec β} {x : α} {y : β} (h : f x s = .ok y t) : eachGet [x] f s = .ok [y] t :=
  (exec_bind_ok h).trans (exec_bind_ok (exec_pure [] t))

theorem each_one {f : α → Exec Unit} {x : α} (h : f x s = .ok () t) : each [x] f s = .ok () t := exec_bind_ok h

theorem streamCtx_zero (s : State) : s.streamCtx 0 = s.ctx := rfl

theorem loadNat_hit {va : Word} {n : Nat} {pl : Place} {l : L1Line} (hn : s.cur.loose = []) (hh : s.cur.holds = [])
    (h0 : 0 < n) (hin : va.toNat % 8 + n ≤ 8) (hw : isWindow va = false) (ht : translate s s.ctx .load va = .ok pl)
    (hc : pl.cls = .dram ∨ pl.cls = .flash) (hl : s.l1? s.myCluster (pl.loc / 64) = some l)
    (hv : ∀ k < n, l.valid.getLsbD (va.toNat % 64 + k) = true) (hb : ∀ k < n, l.bad.getLsbD (va.toNat % 64 + k) = false) :
    ∃ cs os, loadNat false 0 va n s =
        .ok (leNat ((List.range n).map (fun k => byteOf l.data (va.toNat % 64 + k)))) { s with clusters := cs, others := os } ∧
      os.map Agent.unshown = s.others.map Agent.unshown := by
  obtain ⟨cs, os, hread, hos⟩ := loadPiece_hit (st := 0) (by omega) ht hc hl hv hb hn
  refine ⟨cs, os, ?_, hos⟩
  refine (exec_bind_ok (passBar_ok (passes_of_noHolds 0 hh))).trans ((exec_bind_ok (exec_get s)).trans ?_)
  rw [streamCtx_zero, pieces_word h0 hin]
  refine (exec_bind_ok (eachGet_one hread)).trans ((exec_bind_ok (anchor_ok hw _)).trans ?_)
  simp

/-! ### A store that hits (R190, R207) -/

theorem l1?_l1Set_other {g k : Nat} {l : L1Line} (hk : k ≠ l.pline) (s : State) : (s.l1Set g l).l1? g k = s.l1? g k := by
  have hm : ∀ xs : List L1Line, (xs.map (fun x => if x.pline = l.pline then l else x)).find? (fun x => x.pline == k) =
      xs.find? (fun x => x.pline == k) := by
    intro xs
    induction xs with
    | nil => rfl
    | cons x xs ih =>
      by_cases hx : x.pline = l.pline
      · simp [hx, Ne.symm hk, ih]
      · simp [List.find?_cons, hx, ih]
  simp [State.l1?, State.l1Set, hm]

/-- A store to a line that the L1 holds is not resolved (R200). -/
theorem l1Holds_held {c : Ctx} {pl : Place} {l : L1Line} (hc : pl.cls = .dram)
    (hl : s.l1? (placeCluster s.dev.towerok c.id) (pl.loc / 64) = some l) : s.l1Holds c pl = true := by
  simp [State.l1Holds, hc, hl]

theorem checkAccess_hit {acc : Acc} {va : Word} {n : Nat} {pl : Place} {l : L1Line} (hh : s.cur.holds = []) (h0 : 0 < n)
    (hin : va.toNat % 8 + n ≤ 8) (ht : translate s s.ctx acc va = .ok pl) (hc : pl.cls = .dram)
    (hl : s.l1? s.myCluster (pl.loc / 64) = some l) : checkAccess false acc 0 va n s = .ok () s := by
  refine (exec_bind_ok (passBar_ok (passes_of_noHolds 0 hh))).trans ((exec_bind_ok (exec_get s)).trans ?_)
  rw [streamCtx_zero, pieces_word h0 hin]
  refine each_one ?_
  dsimp only
  rw [nw_toNat]
  refine (exec_bind_ok (orTrap_ok _ _ ht s)).trans ?_
  rw [l1Holds_held hc hl]
  rfl

theorem l1Store_held {c : Ctx} {g st : Nat} {va : Word} {pl : Place} {l : L1Line} (hl : s.l1? g (pl.loc / 64) = some l) :
    l1Store c g st va pl s = .ok (pl.loc / 64) s := by
  refine (exec_bind_ok (exec_get s)).trans ?_
  simp only [hl, Option.isSome_some, if_true]
  rfl

/-- A thread that has dirtied the line does not come to a line more (R190). -/
theorem limitDirty_written {g id k : Nat} {l : L1Line} (hl : s.l1? g k = some l) (hid : l.threads.contains id = true) :
    s.limitDirty g id k = s := by
  have hmem : l ∈ s.dirtyLines g id := List.mem_filter.mpr ⟨List.mem_of_find?_eq_some hl, hid⟩
  have hany : (s.dirtyLines g id).any (fun l => l.pline == k) = true :=
    List.any_eq_true.mpr ⟨l, hmem, by simp [pline_of_l1? hl]⟩
  unfold State.limitDirty
  rw [if_pos hany]

/-- The entry of a store to a word to which no other is listed (R204). -/
def onlyStore (st : Nat) (inL1 : Bool) (word : Nat) (mask new now : BitVec 64) : Loose :=
  { stream := st, inL1 := inL1, home := !inL1, word := word, mask := mask, old := now &&& mask, was := now &&& mask,
    new := new &&& mask, seen := streamBit st, atomic := false, rel := none }

/-- With no store listed a store becomes the only one, and the word holds it. -/
theorem storeWord_noLoose (st : Nat) (inL1 : Bool) (word : Nat) (mask new now : BitVec 64) (h : s.cur.loose = []) :
    storeWord st inL1 word mask new now s =
      .ok (mix now new mask) { s with cur := { s.cur with loose := [onlyStore st inL1 word mask new now] } } := by
  have hpick : pickPoint (fun e => e.sure st || e.atomic) [] s = .ok 0 s := rfl
  refine (exec_bind_ok (exec_getCur s)).trans ?_
  rw [h]
  refine (exec_bind_ok hpick).trans ((exec_bind_ok (exec_getCur s)).trans ?_)
  rw [h]
  rfl

/-- The line after a store of bytes by a thread that has written it before. -/
def lineStored (l : L1Line) (off : Nat) (xs : List Byte) (used : Nat) : L1Line :=
  let mask : BitVec 64 := BitVec.ofNat 64 ((2 ^ xs.length - 1) <<< off)
  { l.put off xs mask with dirty := l.dirty ||| mask, used := used }

theorem lineStored_bytes (l : L1Line) {off : Nat} (xs : List Byte) (used : Nat) (h : off + xs.length ≤ 64) (k : Nat)
    (hk : k < xs.length) :
    byteOf (lineStored l off xs used).data (off + k) = xs[k] ∧ (lineStored l off xs used).valid.getLsbD (off + k) = true ∧
      (lineStored l off xs used).dirty.getLsbD (off + k) = true := by
  have hmask : (BitVec.ofNat 64 ((2 ^ xs.length - 1) <<< off)).getLsbD (off + k) = true := by
    rw [getLsbD_byteMask _ _ (by omega), decide_eq_true_eq]
    omega
  refine ⟨byteOf_putBytes xs 0 l.data h k hk, ?_, ?_⟩
  · exact (BitVec.getLsbD_or).trans (by rw [hmask, Bool.or_true])
  · exact (BitVec.getLsbD_or).trans (by rw [hmask, Bool.or_true])

theorem lineStored_others (l : L1Line) {off : Nat} (xs : List Byte) (used : Nat) {k : Nat} (hk : k < 64)
    (h : ¬(off ≤ k ∧ k < off + xs.length)) :
    byteOf (lineStored l off xs used).data k = byteOf l.data k ∧
      (lineStored l off xs used).valid.getLsbD k = l.valid.getLsbD k ∧
      (lineStored l off xs used).dirty.getLsbD k = l.dirty.getLsbD k := by
  have hmask : (BitVec.ofNat 64 ((2 ^ xs.length - 1) <<< off)).getLsbD k = false := by
    rw [getLsbD_byteMask _ _ hk, decide_eq_false_iff_not]
    exact h
  refine ⟨byteOf_putBytes_other hk xs 0 l.data h, ?_, ?_⟩
  · exact (BitVec.getLsbD_or).trans (by rw [hmask, Bool.or_false])
  · exact (BitVec.getLsbD_or).trans (by rw [hmask, Bool.or_false])

/-- One piece stored where the L1 holds the line and the thread has written it before. -/
theorem storePiece_hit {c : Ctx} {st : Nat} {va : Word} {xs : List Byte} {pl : Place} {l : L1Line}
    (hin : va.toNat % 64 % 8 + xs.length ≤ 8) (ht : translate s c .store va = .ok pl) (hc : pl.cls = .dram)
    (hl : s.l1? (placeCluster s.dev.towerok c.id) (pl.loc / 64) = some l) (hid : l.threads.contains c.id = true)
    (hn : s.cur.loose = []) :
    ∃ ls used, storePiece c st va.toNat xs s = .ok () (State.l1Set { s with cur := { s.cur with loose := ls } }
      (placeCluster s.dev.towerok c.id) (lineStored l (va.toNat % 64) xs used)) := by
  have hw : wbits va 5 0 = va.toNat % 64 := wbits_low_six va
  have hpick : pickPoint (fun e => e.sure st || e.atomic) [] s = .ok 0 s := rfl
  let off := va.toNat % 64
  let new := bytesWord (off % 8) xs
  let e := onlyStore st true (8 * (pl.loc / 64) + off / 8) (byteBits (off % 8) xs.length) new (s.wordBehind c va l off new)
  have hstore := storeWord_noLoose st true (8 * (pl.loc / 64) + off / 8) (byteBits (off % 8) xs.length) new
    (s.wordBehind c va l off new) hn
  refine ⟨[e], s.stamp (placeCluster s.dev.towerok c.id), ?_⟩
  refine (exec_bind_ok (exec_get s)).trans ?_
  dsimp only
  rw [nw_toNat]
  refine (exec_bind_ok (orTrap_ok _ _ ht s)).trans ?_
  rw [hc, hw]
  refine (exec_bind_ok (l1Store_held hl)).trans ((exec_bind_ok (exec_modify _ s)).trans ?_)
  rw [limitDirty_written hl hid]
  refine (exec_bind_ok (exec_get s)).trans ?_
  rw [hl]
  dsimp only
  rw [hn]
  refine (exec_bind_ok hpick).trans ?_
  rw [if_neg (by simp)]
  refine (exec_bind_ok hstore).trans ?_
  rw [exec_modify, wordBytes_mix _ xs hin, hid]
  rfl

theorem storeNat_hit {va : Word} {n x : Nat} {pl : Place} {l : L1Line} (hn : s.cur.loose = []) (hh : s.cur.holds = [])
    (h0 : 0 < n) (hin : va.toNat % 8 + n ≤ 8) (hw : isWindow va = false) (ht : translate s s.ctx .store va = .ok pl)
    (hc : pl.cls = .dram) (hl : s.l1? s.myCluster (pl.loc / 64) = some l) (hid : l.threads.contains s.cur.id = true) :
    ∃ ls used, storeNat false 0 va n x s = .ok () (State.l1Set { s with cur := { s.cur with loose := ls } } s.myCluster
      (lineStored l (va.toNat % 64) (leBytes n x) used)) := by
  have hpieces : storePieces va.toNat n x = [(va.toNat, leBytes n x)] := by
    rw [storePieces, pieces_word h0 hin]
    simp
  obtain ⟨ls, used, hstore⟩ := storePiece_hit (st := 0) (xs := leBytes n x) (by rw [leBytes_length]; omega) ht hc hl hid hn
  refine ⟨ls, used, ?_⟩
  refine (exec_bind_ok (checkAccess_hit hh h0 hin ht hc hl)).trans ((exec_bind_ok (exec_get s)).trans ?_)
  rw [streamCtx_zero, hpieces]
  exact (exec_bind_ok (each_one hstore)).trans (anchor_ok hw _)

/-! ### Loads at homes and windows (R233, R405) -/

/-- Nothing is different in memory, in the L1s and in the errors still to be found. -/
def homeKept (s t : State) : Prop := t.mem = s.mem ∧ t.clusters = s.clusters ∧ t.latent = s.latent

/-- An answer leaves memory and the L1s alone; a stop leaves the L1s alone, and memory too unless it has found an error (R405). -/
def readLeaves (s : State) : EStateM.Result Stop State α → Prop
  | .ok _ t => homeKept s t
  | .error _ t => t.clusters = s.clusters ∧ (t.latent = s.latent → t.mem = s.mem)

/-- A computation that does no more than a read at a home may. -/
def ReadsOnly (x : Exec α) : Prop := ∀ s, readLeaves s (x s)

theorem readsOnly_pure (a : α) : ReadsOnly (pure a : Exec α) := fun _ => ⟨rfl, rfl, rfl⟩
theorem readsOnly_throw (e : Stop) : ReadsOnly (throw e : Exec α) := fun _ => ⟨rfl, fun _ => rfl⟩
theorem readsOnly_get : ReadsOnly (get : Exec State) := fun _ => ⟨rfl, rfl, rfl⟩
theorem readsOnly_getCur : ReadsOnly getCur := fun _ => ⟨rfl, rfl, rfl⟩
theorem readsOnly_modify {f : State → State} (h : ∀ s, homeKept s (f s)) : ReadsOnly (modify f : Exec PUnit) := h
theorem readsOnly_modCur (f : Agent → Agent) : ReadsOnly (modCur f) := fun _ => ⟨rfl, rfl, rfl⟩

theorem readsOnly_bind {x : Exec α} {f : α → Exec β} (hx : ReadsOnly x) (hf : ∀ a, ReadsOnly (f a)) : ReadsOnly (x >>= f) := by
  intro s
  have first := hx s
  cases hxs : x s with
  | error e t =>
    rw [hxs] at first
    rw [exec_bind_error hxs]
    exact first
  | ok a t =>
    rw [hxs] at first
    obtain ⟨hmem, hclusters, hlatent⟩ := first
    have rest := hf a t
    rw [exec_bind_ok hxs]
    cases hft : f a t with
    | ok b u =>
      rw [hft] at rest
      obtain ⟨hmem', hclusters', hlatent'⟩ := rest
      exact ⟨hmem'.trans hmem, hclusters'.trans hclusters, hlatent'.trans hlatent⟩
    | error e u =>
      rw [hft] at rest
      obtain ⟨hclusters', hmem'⟩ := rest
      exact ⟨hclusters'.trans hclusters, fun h => (hmem' (h.trans hlatent.symm)).trans hmem⟩

theorem readsOnly_need (b : Bool) : ReadsOnly (need b) := by
  cases b
  · exact readsOnly_throw _
  · exact readsOnly_pure _

theorem readsOnly_passBar (st : Nat) : ReadsOnly (passBar st) := readsOnly_bind readsOnly_getCur fun _ => readsOnly_need _

theorem readsOnly_drawBelow (n : Nat) : ReadsOnly (drawBelow n) := by
  unfold drawBelow
  split
  · exact readsOnly_pure _
  · exact fun _ => ⟨rfl, rfl, rfl⟩

theorem readsOnly_pickPoint (sure : Loose → Bool) (es : List Loose) : ReadsOnly (pickPoint sure es) :=
  readsOnly_bind (readsOnly_drawBelow _) fun _ => readsOnly_pure _

theorem readsOnly_noteShown (inL1 : Bool) (p : Loose → Bool) : ReadsOnly (noteShown inL1 p) := by
  refine readsOnly_modify fun s => ?_
  split <;> exact ⟨rfl, rfl, rfl⟩

theorem readsOnly_seeWord (st : Nat) (inL1 : Bool) (word : Nat) (now : BitVec 64) : ReadsOnly (seeWord st inL1 word now) :=
  readsOnly_bind readsOnly_getCur fun _ => readsOnly_bind (readsOnly_pickPoint _ _) fun _ =>
    readsOnly_bind (readsOnly_modCur _) fun _ => readsOnly_bind (readsOnly_noteShown _ _) fun _ => readsOnly_pure _

theorem readsOnly_seeBytes (st loc n : Nat) : ReadsOnly (seeBytes st loc n) :=
  readsOnly_bind readsOnly_get fun _ => readsOnly_bind (readsOnly_seeWord _ _ _ _) fun _ => readsOnly_pure _

theorem readsOnly_bridgeRead (addr n : Nat) : ReadsOnly (bridgeRead addr n) := fun _ => ⟨rfl, rfl, rfl⟩

theorem readsOnly_readStaged (c : Ctx) (pl : Place) : ReadsOnly (readStaged c pl) := by
  refine readsOnly_bind readsOnly_get fun s => ?_
  dsimp only
  split
  · exact fun _ => ⟨rfl, rfl, rfl⟩
  · exact readsOnly_pure _

/-- An error found stands no more among those to be found. -/
theorem foundError_lists (s : State) (e : Latent) :
    (s.foundError e).clusters = s.clusters ∧ (s.foundError e).latent = s.latent.erase e := by
  unfold State.foundError
  dsimp only
  split
  · obtain ⟨m, n, h⟩ := logError_frame { s with
      latent := s.latent.erase e, poison := e.units.filter (fun u => !s.poison.contains u) ++ s.poison } e.cause
      (homeUnit (unitLoc e.unit)) (nw (unitLoc e.unit / 64 * 64)) 0
    rw [h]
    exact ⟨rfl, rfl⟩
  · exact ⟨rfl, rfl⟩

theorem foundError_leaves {e : Latent} (he : e ∈ s.latent) :
    (s.foundError e).clusters = s.clusters ∧ ((s.foundError e).latent = s.latent → (s.foundError e).mem = s.mem) := by
  obtain ⟨hclusters, hlatent⟩ := foundError_lists s e
  refine ⟨hclusters, fun h => ?_⟩
  have hlen := List.length_erase_of_mem he
  have hpos := List.length_pos_of_mem he
  rw [hlatent] at h
  rw [h] at hlen
  omega

theorem foundIn_leaves (s : State) (u : Option Nat) :
    (s.foundIn u).clusters = s.clusters ∧ ((s.foundIn u).latent = s.latent → (s.foundIn u).mem = s.mem) := by
  unfold State.foundIn
  split
  · exact ⟨rfl, fun _ => rfl⟩
  · next e he =>
    obtain ⟨v, -, hv⟩ := Option.bind_eq_some_iff.mp he
    exact foundError_leaves (List.mem_of_find?_eq_some hv)

theorem readsOnly_orTrap (va : Word) (st : Nat) (x : Except AFault α) : ReadsOnly (orTrap va st x) := by
  cases x with
  | ok a => exact readsOnly_pure a
  | error f => exact fun s => foundIn_leaves s f.found

theorem readsOnly_checkPoison (st : Nat) (va : Word) (loc hops : Nat) : ReadsOnly (checkPoison st va loc hops) := by
  intro s
  unfold checkPoison
  rw [exec_bind_ok (exec_get s)]
  cases he : s.latent.find? (fun e => e.unit == errorUnit loc) with
  | some e => exact foundError_leaves (List.mem_of_find?_eq_some he)
  | none =>
    split
    · exact readsOnly_throw _ s
    · exact readsOnly_pure _ s

theorem readsOnly_homePiece (c : Ctx) (acc : Acc) (st a k : Nat) : ReadsOnly (homePiece c acc st a k) := by
  refine readsOnly_bind readsOnly_get fun s => readsOnly_bind (readsOnly_orTrap _ _ _) fun pl => ?_
  split
  · exact readsOnly_bind (readsOnly_checkPoison _ _ _ _) fun _ => readsOnly_bridgeRead _ _
  · exact readsOnly_bind (readsOnly_checkPoison _ _ _ _) fun _ => readsOnly_seeBytes _ _ _
  · exact readsOnly_bind (readsOnly_orTrap _ _ _) fun r => readsOnly_bind (readsOnly_checkPoison _ _ _ _) fun _ =>
      readsOnly_bind (readsOnly_readStaged _ _) fun _ => readsOnly_seeBytes _ _ _

theorem readsOnly_eachGet (xs : List α) {f : α → Exec β} (h : ∀ a, ReadsOnly (f a)) : ReadsOnly (eachGet xs f) := by
  induction xs with
  | nil => exact readsOnly_pure _
  | cons x xs ih => exact readsOnly_bind (h x) fun _ => readsOnly_bind ih fun _ => readsOnly_pure _

theorem readsOnly_anchor (va : Word) : ReadsOnly (anchor va) := by
  unfold anchor
  split
  · split <;> exact readsOnly_modCur _
  · exact readsOnly_pure _

theorem readsOnly_loadNat_home (st : Nat) (va : Word) (n : Nat) : ReadsOnly (loadNat true st va n) :=
  readsOnly_bind (readsOnly_passBar _) fun _ => readsOnly_bind readsOnly_get fun _ =>
    readsOnly_bind (readsOnly_eachGet _ fun _ => readsOnly_homePiece _ _ _ _ _) fun _ =>
    readsOnly_bind (readsOnly_anchor _) fun _ => readsOnly_pure _

/-! ### The length of what is read at a home -/

theorem wordBytes_length (x : BitVec 64) (o n : Nat) : (wordBytes x o n).length = n := by simp [wordBytes]

theorem seeBytes_length {st loc n : Nat} {xs : List Byte} (h : seeBytes st loc n s = .ok xs t) : xs.length = n := by
  obtain ⟨_, _, -, h⟩ := exec_bind_eq_ok h
  obtain ⟨_, _, -, h⟩ := exec_bind_eq_ok h
  cases h
  exact wordBytes_length _ _ _

theorem bridgeRead_length {addr n : Nat} {xs : List Byte} (h : bridgeRead addr n s = .ok xs t) : xs.length = n := by
  cases h
  simp

theorem homePiece_length {c : Ctx} {acc : Acc} {st a k : Nat} {xs : List Byte} (h : homePiece c acc st a k s = .ok xs t) :
    xs.length = k := by
  obtain ⟨_, _, -, h⟩ := exec_bind_eq_ok h
  obtain ⟨⟨loc, cls⟩, _, -, h⟩ := exec_bind_eq_ok h
  cases cls with
  | bridge t addr =>
    obtain ⟨_, _, -, h⟩ := exec_bind_eq_ok h
    exact bridgeRead_length h
  | window =>
    obtain ⟨_, _, -, h⟩ := exec_bind_eq_ok h
    exact seeBytes_length h
  | dram | flash =>
    obtain ⟨_, _, -, h⟩ := exec_bind_eq_ok h
    obtain ⟨_, _, -, h⟩ := exec_bind_eq_ok h
    obtain ⟨_, _, -, h⟩ := exec_bind_eq_ok h
    exact seeBytes_length h

/-- What is read of pieces has their lengths together. -/
theorem eachGet_flatten_length {f : α → Exec (List Byte)} {len : α → Nat}
    (hf : ∀ a s t xs, f a s = .ok xs t → xs.length = len a) (as : List α) :
    ∀ {s t : State} {ys : List (List Byte)}, eachGet as f s = .ok ys t → ys.flatten.length = (as.map len).sum := by
  induction as with
  | nil =>
    intro s t ys h
    cases h
    rfl
  | cons a as ih =>
    intro s t ys h
    obtain ⟨x, u, hx, h⟩ := exec_bind_eq_ok h
    obtain ⟨zs, v, hz, h⟩ := exec_bind_eq_ok h
    cases h
    rw [List.flatten_cons, List.length_append, List.map_cons, List.sum_cons, hf a _ _ _ hx, ih hz]

/-- The pieces of an access are its bytes. -/
theorem pieces_sum (fuel : Nat) : ∀ a n, n ≤ fuel → ((pieces a fuel n).map (fun p => p.2)).sum = n := by
  induction fuel with
  | zero =>
    intro a n hn
    rw [Nat.le_zero.mp hn]
    rfl
  | succ fuel ih =>
    intro a n hn
    cases n with
    | zero => rfl
    | succ n =>
      rw [pieces]
      · rw [List.map_cons, List.sum_cons, ih _ _ (by omega)]
        omega
      · omega

theorem loadNat_home_lt {st : Nat} {va : Word} {n x : Nat} (h : loadNat true st va n s = .ok x t) : x < 2 ^ (8 * n) := by
  obtain ⟨_, _, -, h⟩ := exec_bind_eq_ok h
  obtain ⟨_, _, -, h⟩ := exec_bind_eq_ok h
  obtain ⟨parts, _, hparts, h⟩ := exec_bind_eq_ok h
  obtain ⟨_, _, -, h⟩ := exec_bind_eq_ok h
  cases h
  have hlen := eachGet_flatten_length (len := fun p : Nat × Nat => p.2) (fun _ _ _ _ hp => homePiece_length hp) _ hparts
  rw [pieces_sum n _ n (Nat.le_refl n)] at hlen
  exact hlen ▸ leNat_lt parts.flatten

/-- Settles O11: hits by `loadNat_hit` and `storeNat_hit`, home loads by `readsOnly_loadNat_home`. -/
theorem accessesThroughL1 : Obligations.AccessesThroughL1 := by
  unfold Obligations.AccessesThroughL1
  refine ⟨fun s va n pl l hn hh h0 hin hw ht hc hl hv => ?_, fun s va n x pl l hn hh h0 hin hw ht hc _ hl hid => ?_,
    fun s st va n => ⟨fun x t h => ?_, fun e t h => ?_⟩⟩
  · obtain ⟨cs, os, hload, hos⟩ := loadNat_hit hn hh h0 hin hw ht hc hl (fun k hk => (hv k hk).1) (fun k hk => (hv k hk).2)
    exact ⟨_, hload, rfl, rfl, rfl, hos⟩
  · obtain ⟨ls, used, hstore⟩ := storeNat_hit (x := x) hn hh h0 hin hw ht hc hl hid
    have hp : l.pline = pl.loc / 64 := pline_of_l1? hl
    have hlen : (leBytes n x).length = n := leBytes_length n x
    refine ⟨_, _, hstore, l1?_l1Set hl hp, fun k hk => ?_, fun k hk hout => ?_, rfl, ⟨rfl, rfl, rfl, rfl, rfl, rfl, rfl, rfl⟩,
      fun k hk => l1?_l1Set_other (hp ▸ hk) _⟩
    · rw [← getElem_leBytes n x k (hlen.symm ▸ hk)]
      exact lineStored_bytes l _ used (by omega) k (hlen.symm ▸ hk)
    · exact lineStored_others l _ used hk (by rwa [hlen])
  · have left := readsOnly_loadNat_home st va n s
    rw [h] at left
    obtain ⟨hmem, hclusters, -⟩ := left
    exact ⟨hmem, hclusters, loadNat_home_lt h⟩
  · have left := readsOnly_loadNat_home st va n s
    rw [h] at left
    exact left

end Sys2Proof.Proofs
end
